-- ==== Sys2Proof/Word.lean ====
section
/-!
DEFINITION. The words the machine holds: bytes, registers, lanes, frames, cards and shape records.
-/
namespace Sys2Proof

/-- One byte of memory (R2). -/
abbrev Byte := BitVec 8

/-- A root-core register or instruction word (R156, R234). -/
abbrev Word := BitVec 64

/-- One lane of a token (R105). -/
abbrev Lane := BitVec 32

/-- A configuration frame (R162). -/
abbrev Frame := BitVec 256

/-- A job card (R80). -/
abbrev Card := BitVec 512

/-- A shape record, one line (R83). -/
abbrev Shape := BitVec 1024

/-- A register field of a root-core word (R158). -/
abbrev Reg := BitVec 5

/-- The stage flag word: NX, UF, OF, DZ, NV from bit 4 down to bit 0 (R132). -/
abbrev Flags := BitVec 5

end Sys2Proof
end

