-- ==== Sys2Proof/Config.lean ====
section
/-!
DEFINITION. What the package fixes (constants the spec names) and the free values: what the spec leaves open.
-/
namespace Sys2Proof.Config

/-- LEASE_SPAN (R25). -/
def leaseSpan : Nat := 256

/-- The largest timestamp, 24 bits (R25, R68). -/
def maxClock : Nat := 0xFFFFFF

/-- A clock or lease end at this value requests a turn advance (R29). -/
def turnLimit : Nat := 0xFFF000

/-- Root cores of a package (R9). -/
def cores : Nat := 192

/-- Management cores of the bark cluster (R11). -/
def mgmtCores : Nat := 8

/-- Clusters of a package (R8). -/
def clusters : Nat := 3072

/-- A deadlock count that fails its launch (R111). -/
def deadlockLimit : Nat := 2 ^ 20

/-- FREE VALUE. Picks among alternatives the spec leaves open: a version of a line (R67), a translation-cache victim
(R44), whether a register keeps its value at a task start (R234). Log 5. -/
opaque pick : Nat → Nat

/-- FREE VALUE. The set of the L2 TLB of a translation, by its size and page number (R44). Log 5. -/
opaque l2Set : Nat → Nat → Nat

/-- FREE VALUE. Cycles a step takes beyond the first; the spec gives results no dependence on it (R1, R12). Log 6. -/
opaque extraCycles : Nat → Nat

/-- FREE VALUE. Microseconds that pass during a step, by step number (R316, R317). Log 6. -/
opaque elapsed : Nat → Nat

/-- FREE VALUE. Lines that the context of a pre-emption takes in its area, by context number (R321, R346). Log 5. -/
opaque contextLines : Nat → Nat

/-- FREE VALUE. Byte i of a context in its area (R346), by context number. Log 5. -/
opaque contextByte : Nat → Nat → Byte

/-- FREE VALUE. Byte i of the internal arrangement of a stage-state save (R335), by save number. Log 5. -/
opaque stageByte : Nat → Nat → Byte

/-- FREE VALUE. The check value of a stage-state save (R335), by save number. Log 5. -/
opaque stageCheck : Nat → Word

/-- FREE VALUE. Byte i of the signature of an attestation report (R383, R384), by request number. Log 5. -/
opaque attestByte : Nat → Nat → Byte

/-- FREE VALUE. Byte i of the SHA-512 hash of the sapwood image that a bring-up started (R382, R384), by bring-up number. Log 5. -/
opaque imageHash : Nat → Nat → Byte

/-- FREE VALUE. Byte i of the fused key hash, 0 to 63, and of the heartwood version, 64 to 71 (R383, R384): the device's own,
the same in every report. Log 5. -/
opaque identity : Nat → Byte

/-- FREE VALUE. Flits that a graft port has resent since RETRIES was last read (R367), by access number. Log 5. -/
opaque retries : Nat → Nat

/-- FREE VALUE. The array and cell activity of a layer that the power manager sees (R385), by sample number. Log 5. -/
opaque activity : Nat → Nat → Nat

/-- FREE VALUE. The failed lanes that the repair scan of a warm reset finds (R63, R382), by bring-up number. Log 5. -/
opaque warmScan : Nat → List (Nat × Nat)

/-- FREE VALUE. What a read over PCIe returns (R379), by access number. Log 5. -/
opaque hostByte : Nat → Nat → Byte

/-- FREE VALUE. Whether an exact sum of zeros of mixed sign is −0, by whether the mode is RDN (R130). Log 8. -/
opaque mixedZeroNeg : Bool → Bool

end Sys2Proof.Config
end

