-- ==== Sys2Proof/Syntax.lean ====
section
/-!
DEFINITION. The instructions: one constructor of Instr for each row of spec/opcode_table.json. Root-core words carry
their decoded fields (R156, R157, R263), cell operations the fields of a compute-slot frame (R164), address-generator
operations the fields of their frame (R209). Steps without an encoding of their own name the objects they act on.
-/
namespace Sys2Proof

/-- Signedness, FN 0 .N and 1 .S (R157). -/
inductive Sign where
  | n | s
  deriving DecidableEq, Repr

/-- Access size, C 0 to 3 (R157). -/
inductive Size where
  | b | h | w | d
  deriving DecidableEq, Repr

/-- Width of SEXT and ZEXT, C 0 to 2 (R157). -/
inductive Width where
  | b | h | w
  deriving DecidableEq, Repr

/-- AMO combine functions, FN 0 to 9 (R160). -/
inductive AmoFn where
  | add | and | or | xor | minS | maxS | minN | maxN | swap | fadd
  deriving DecidableEq, Repr

/-- The copy engines of a branch: xylem and phloem (R80). -/
inductive Eng where
  | x | p
  deriving DecidableEq, Repr

/-- Source port sN or sink port kN (R265). -/
inductive PortKind where
  | src | sink
  deriving DecidableEq, Repr

/-- Direction of a buffer notice: .F counts READY slots, .E counts FREE slots (R280). -/
inductive BufDir where
  | f | e
  deriving DecidableEq, Repr

/-- Levels of CANCEL (R285). -/
inductive CancelLevel where
  | launch | graph | phase | job
  deriving DecidableEq, Repr

/-- Scopes of TLBINV (R292). -/
inductive TlbScope where
  | all | asid | page
  deriving DecidableEq, Repr

/-- System registers (R159). -/
inductive SysReg where
  | status | cause | epc | eval | vbase | asid | tbase | job | clock | cycle | chpri | waypart | turnstall
  deriving DecidableEq, Repr

/-- Where an undelivered message waits: at the head of a core's outgoing queue, or among the messages that other
sources hold (R236, R278). -/
inductive MsgSource where
  | core (n : Nat)
  | held (i : Nat)
  deriving DecidableEq, Repr

/-- Parity of a token on a link: good, mismatched once and resent, mismatched twice (R105). -/
inductive ParityEvent where
  | good | resent | failed
  deriving DecidableEq, Repr

/-- Who writes FRESUME: a root core, or a management core (R342). -/
inductive Writer where
  | root (n : Nat)
  | mgmt (n : Nat)
  deriving DecidableEq, Repr

/-- A host access through BAR 2 (R376, R380). -/
inductive HostAccess where
  | read (n : Nat)
  | write (data : List Byte)
  deriving DecidableEq, Repr

/-- What bring-up finds (R382): the step that fails, if any, the package number of the board descriptor, and the failed lanes
of the vertical buses by group, 32·bank + g (R63). -/
structure BringUp where
  calibrated : Bool
  pkg : Nat
  memoryOk : Bool
  signatureOk : Bool
  lanes : List (Nat × Nat)
  deriving DecidableEq, Repr

/-- Fields of a compute-slot frame but OP, which names the operation (R164). -/
structure SlotCfg where
  col : BitVec 4
  unit : BitVec 2
  sub : BitVec 4
  src3 : BitVec 4
  src2 : BitVec 4
  src1 : BitVec 4
  src0 : BitVec 4
  dst : BitVec 16
  emp3 : BitVec 2
  emp2 : BitVec 2
  emp1 : BitVec 2
  emp0 : BitVec 2
  len : BitVec 2
  cst : Lane
  fmt : BitVec 4
  rnd : BitVec 4
  sat : Bool
  ftz : Bool
  trapinv : Bool
  seed : Lane
  qselD : BitVec 2
  qselC : BitVec 2
  qselB : BitVec 2
  qselA : BitVec 2
  agsel : BitVec 2
  dos : BitVec 4
  deriving DecidableEq, Repr

/-- Fields of an address-generator frame but MODE, which names the operation (R209). -/
structure AgCfg where
  col : BitVec 4
  unit : BitVec 2
  ctype : BitVec 2
  tgt : BitVec 2
  shsel : BitVec 3
  bufn : BitVec 2
  out : BitVec 4
  oq : BitVec 2
  isrc : BitVec 3
  vsrc : BitVec 3
  afn : BitVec 4
  fmt : BitVec 4
  rnd : BitVec 3
  ftz : Bool
  waitf : Bool
  lbase : BitVec 16
  lwords : BitVec 17
  rpr : BitVec 8
  kw : Bool
  deriving DecidableEq, Repr

/-- The instructions: one constructor for each row of spec/opcode_table.json. -/
inductive Instr where
  /-- ADD (R244) -/
  | add (d a b : Reg)
  /-- SUB (R244) -/
  | sub (d a b : Reg)
  /-- MUL (R244) -/
  | mul (d a b : Reg)
  /-- MULH (R244) -/
  | mulh (sg : Sign) (d a b : Reg)
  /-- DIV (R245) -/
  | div (sg : Sign) (d a b : Reg)
  /-- REM (R245) -/
  | rem (sg : Sign) (d a b : Reg)
  /-- AND (R244) -/
  | and (d a b : Reg)
  /-- OR (R244) -/
  | or (d a b : Reg)
  /-- XOR (R244) -/
  | xor (d a b : Reg)
  /-- ANDN (R244) -/
  | andn (d a b : Reg)
  /-- SHL (R244) -/
  | shl (d a b : Reg)
  /-- SHR (R244) -/
  | shr (sg : Sign) (d a b : Reg)
  /-- ROL (R244) -/
  | rol (d a b : Reg)
  /-- SLT (R244) -/
  | slt (sg : Sign) (d a b : Reg)
  /-- MIN (R244) -/
  | min (sg : Sign) (d a b : Reg)
  /-- MAX (R244) -/
  | max (sg : Sign) (d a b : Reg)
  /-- CLZ (R244) -/
  | clz (d a : Reg)
  /-- CTZ (R244) -/
  | ctz (d a : Reg)
  /-- POPC (R244) -/
  | popc (d a : Reg)
  /-- SEXT (R244) -/
  | sext (wd : Width) (d a : Reg)
  /-- ZEXT (R244) -/
  | zext (wd : Width) (d a : Reg)
  /-- ADDI (R246) -/
  | addi (d a : Reg) (imm : BitVec 32)
  /-- ANDI (R246) -/
  | andi (d a : Reg) (imm : BitVec 32)
  /-- ORI (R246) -/
  | ori (d a : Reg) (imm : BitVec 32)
  /-- XORI (R246) -/
  | xori (d a : Reg) (imm : BitVec 32)
  /-- SHLI (R246) -/
  | shli (d a : Reg) (n : BitVec 6)
  /-- SHRI (R246) -/
  | shri (sg : Sign) (d a : Reg) (n : BitVec 6)
  /-- SLTI (R246) -/
  | slti (sg : Sign) (d a : Reg) (imm : BitVec 32)
  /-- LI (R246) -/
  | li (d : Reg) (imm : BitVec 32)
  /-- LIH (R246) -/
  | lih (d : Reg) (imm : BitVec 32)
  /-- LEA (R246) -/
  | lea (d a b : Reg) (n : BitVec 5) (imm : BitVec 32)
  /-- BEQ (R247) -/
  | beq (a b : Reg) (off : BitVec 32)
  /-- BNE (R247) -/
  | bne (a b : Reg) (off : BitVec 32)
  /-- BLT (R247) -/
  | blt (sg : Sign) (a b : Reg) (off : BitVec 32)
  /-- BGE (R247) -/
  | bge (sg : Sign) (a b : Reg) (off : BitVec 32)
  /-- JMP (R247) -/
  | jmp (off : BitVec 32)
  /-- JAL (R247) -/
  | jal (off : BitVec 32)
  /-- JR (R247) -/
  | jr (a : Reg)
  /-- LD (R250) -/
  | ld (sz : Size) (sext : Bool) (d a : Reg) (imm : BitVec 32)
  /-- ST (R250) -/
  | st (sz : Size) (a b : Reg) (imm : BitVec 32)
  /-- LDL (R252) -/
  | ldl (sz : Size) (d a : Reg) (imm : BitVec 32)
  /-- PREF (R254) -/
  | pref (a b : Reg) (imm : BitVec 32)
  /-- DISCARD (R255) -/
  | discard (a b : Reg) (imm : BitVec 32)
  /-- CRWB (R256) -/
  | crwb (a b : Reg) (imm : BitVec 32)
  /-- LLD (R257) -/
  | lld (sz : Size) (d a : Reg) (imm : BitVec 32)
  /-- LST (R257) -/
  | lst (sz : Size) (a b : Reg) (imm : BitVec 32)
  /-- AMO (R258) -/
  | amo (fn : AmoFn) (dbl : Bool) (d a b : Reg) (imm : BitVec 32)
  /-- CAS (R259) -/
  | cas (dbl : Bool) (d a b c : Reg) (imm : BitVec 32)
  /-- FENCE_LEAF (R260) -/
  | fenceLeaf
  /-- LFENCE (R260) -/
  | lfence
  /-- SIN (R266) -/
  | sin (d a : Reg) (n : BitVec 6)
  /-- SOUT (R266) -/
  | sout (d a : Reg) (n : BitVec 6)
  /-- SCONST (R266) -/
  | sconst (d a : Reg) (n : BitVec 6)
  /-- SEOS (R267) -/
  | seos (d : Reg) (n : BitVec 6)
  /-- SMARK (R267) -/
  | smark (d : Reg) (n : BitVec 6)
  /-- PSTAT (R268) -/
  | pstat (k : PortKind) (d : Reg) (n : BitVec 6)
  /-- BINIT (R269) -/
  | binit (d a : Reg) (n : BitVec 6)
  /-- BWAITF (R270) -/
  | bwaitf (d : Reg) (h : BitVec 6) (n : BitVec 5)
  /-- BWAITE (R270) -/
  | bwaite (d : Reg) (h : BitVec 6) (n : BitVec 5)
  /-- BADVP (R271) -/
  | badvp (d : Reg) (h : BitVec 6) (n : BitVec 5)
  /-- BADVC (R271) -/
  | badvc (d : Reg) (h : BitVec 6) (n : BitVec 5)
  /-- BNOTE (R280) -/
  | bnote (dir : BufDir) (d : Reg) (h c : BitVec 6) (n : BitVec 5)
  /-- TSTAT (R272) -/
  | tstat (hi : Bool) (d : Reg) (t : BitVec 6) (q : BitVec 4)
  /-- TSET (R272) -/
  | tset (d a b : Reg) (t : BitVec 6) (q : BitVec 4)
  /-- ACLR (R273) -/
  | aclr (acc : BitVec 5)
  /-- AREAD (R273) -/
  | aread (rt : Bool) (d a : Reg) (acc : BitVec 5)
  /-- ASTAT (R273) -/
  | astat (pass : Bool) (d : Reg) (acc : BitVec 5)
  /-- XJOB (R274) -/
  | xjob (d a : Reg)
  /-- PJOB (R274) -/
  | pjob (d a : Reg)
  /-- JSTAT (R275) -/
  | jstat (e : Eng) (d : Reg) (n : BitVec 6)
  /-- JWAIT (R275) -/
  | jwait (e : Eng) (all : Bool) (d : Reg) (n : BitVec 6)
  /-- LPATCH (R284) -/
  | lpatch (d a b : Reg) (w : BitVec 4)
  /-- LARM (R284) -/
  | larm (res : Bool) (d a : Reg)
  /-- CANCEL (R285) -/
  | cancel (lv : CancelLevel) (d a : Reg)
  /-- CNTRD (R283) -/
  | cntrd (d a : Reg)
  /-- CNTWAIT (R283) -/
  | cntwait (d a b : Reg)
  /-- CNTADD (R283) -/
  | cntadd (d a b : Reg)
  /-- CNTNOTE (R281) -/
  | cntnote (d a b : Reg) (c : BitVec 6)
  /-- TEND (R276) -/
  | tend
  /-- HOLD (R276) -/
  | hold (d : Reg)
  /-- CBIND (R277) -/
  | cbind (c : BitVec 6) (a : Reg)
  /-- CSEND (R278) -/
  | csend (d a b : Reg) (c : BitVec 6)
  /-- CPRI (R277) -/
  | cpri (c : BitVec 6) (p : BitVec 3)
  /-- CMASK (R277) -/
  | cmask (c : BitVec 6) (m : Bool)
  /-- TIMER (R279) -/
  | timer (c : BitVec 6) (a : Reg)
  /-- CFGLOAD (R287) -/
  | cfgload (d a b : Reg) (row : BitVec 6)
  /-- BAND (R286) -/
  | band (d a : Reg)
  /-- SCROLLST (R288) -/
  | scrollst (d a : Reg) (row : BitVec 6)
  /-- RELATCH (R289) -/
  | relatch (d : Reg)
  /-- TRAP (R290) -/
  | trap (code : BitVec 32)
  /-- BRK (R290) -/
  | brk (code : BitVec 32)
  /-- ERET (R239) -/
  | eret
  /-- SYSRD (R291) -/
  | sysrd (d : Reg) (r : SysReg)
  /-- SYSWR (R291) -/
  | syswr (r : SysReg) (a : Reg)
  /-- TLBINV (R292) -/
  | tlbinv (a : Reg) (scope : TlbScope)
  /-- NOP (R293) -/
  | nop
  /-- CLOCK (R293) -/
  | clock (d a : Reg)
  /-- FORFEIT (R33) -/
  | forfeit (d a : Reg)
  /-- WAYPART_SELECT (R57) -/
  | waypartSelect (a : Reg)
  /-- WAYPART_REPARTITION (R57) -/
  | waypartRepartition (a : Reg)
  /-- REPARTITION_COMPLETE (R57) -/
  | repartitionComplete (bank : Nat)
  /-- SYS_CLOCK_WRITE (R240) -/
  | sysClockWrite (a : Reg)
  /-- SYS_CYCLE_WRITE (R240) -/
  | sysCycleWrite (a : Reg)
  /-- TASK_START (R237) -/
  | taskStart (core : Nat)
  /-- TASK_RESUME (R238) -/
  | taskResume (core : Nat)
  /-- CHANNEL_MESSAGE_ARRIVAL (R236) -/
  | channelMessageArrival (src : MsgSource)
  /-- TIMER_EXPIRY (R279) -/
  | timerExpiry (core chan : Nat)
  /-- FAULT_RECORD_WRITE (R341) -/
  | faultRecordWrite (job : Nat)
  /-- IADD (R173) -/
  | iadd (c : SlotCfg)
  /-- ISUB (R173) -/
  | isub (c : SlotCfg)
  /-- IADDS (R173) -/
  | iadds (c : SlotCfg)
  /-- IMUL (R173) -/
  | imul (c : SlotCfg)
  /-- IMULH (R173) -/
  | imulh (c : SlotCfg)
  /-- IMAD (R173) -/
  | imad (c : SlotCfg)
  /-- INEG (R173) -/
  | ineg (c : SlotCfg)
  /-- IABS (R173) -/
  | iabs (c : SlotCfg)
  /-- IMIN (R173) -/
  | imin (c : SlotCfg)
  /-- IMAX (R173) -/
  | imax (c : SlotCfg)
  /-- ISHL (R173) -/
  | ishl (c : SlotCfg)
  /-- ISHR (R173) -/
  | ishr (c : SlotCfg)
  /-- IROL (R173) -/
  | irol (c : SlotCfg)
  /-- CELL_AND (R173) -/
  | cellAnd (c : SlotCfg)
  /-- CELL_OR (R173) -/
  | cellOr (c : SlotCfg)
  /-- CELL_XOR (R173) -/
  | cellXor (c : SlotCfg)
  /-- CELL_ANDN (R173) -/
  | cellAndn (c : SlotCfg)
  /-- CELL_POPC (R173) -/
  | cellPopc (c : SlotCfg)
  /-- CELL_CLZ (R173) -/
  | cellClz (c : SlotCfg)
  /-- CELL_CTZ (R173) -/
  | cellCtz (c : SlotCfg)
  /-- BREV (R173) -/
  | brev (c : SlotCfg)
  /-- BFX (R174) -/
  | bfx (c : SlotCfg)
  /-- BFI (R174) -/
  | bfi (c : SlotCfg)
  /-- ICMP (R174) -/
  | icmp (c : SlotCfg)
  /-- PADD (R175) -/
  | padd (c : SlotCfg)
  /-- PSUB (R175) -/
  | psub (c : SlotCfg)
  /-- PMIN (R175) -/
  | pmin (c : SlotCfg)
  /-- PMAX (R175) -/
  | pmax (c : SlotCfg)
  /-- PMUL_H (R175) -/
  | pmulH (c : SlotCfg)
  /-- PDOT4 (R175) -/
  | pdot4 (c : SlotCfg)
  /-- PDOT2 (R175) -/
  | pdot2 (c : SlotCfg)
  /-- FADD (R176) -/
  | fadd (c : SlotCfg)
  /-- FSUB (R176) -/
  | fsub (c : SlotCfg)
  /-- FMUL (R176) -/
  | fmul (c : SlotCfg)
  /-- FFMA (R176) -/
  | ffma (c : SlotCfg)
  /-- FFMS (R176) -/
  | ffms (c : SlotCfg)
  /-- FNMA (R176) -/
  | fnma (c : SlotCfg)
  /-- FTRIAD (R176) -/
  | ftriad (c : SlotCfg)
  /-- FMIN (R177) -/
  | fmin (c : SlotCfg)
  /-- FMAX (R177) -/
  | fmax (c : SlotCfg)
  /-- FMINP (R177) -/
  | fminp (c : SlotCfg)
  /-- FMAXP (R177) -/
  | fmaxp (c : SlotCfg)
  /-- FABS (R177) -/
  | fabs (c : SlotCfg)
  /-- FNEG (R177) -/
  | fneg (c : SlotCfg)
  /-- FSGN (R177) -/
  | fsgn (c : SlotCfg)
  /-- FCMP (R178) -/
  | fcmp (c : SlotCfg)
  /-- FCLASS (R179) -/
  | fclass (c : SlotCfg)
  /-- FRCP (R180) -/
  | frcp (c : SlotCfg)
  /-- FRSQ (R180) -/
  | frsq (c : SlotCfg)
  /-- FSQRT (R180) -/
  | fsqrt (c : SlotCfg)
  /-- FEXP2 (R180) -/
  | fexp2 (c : SlotCfg)
  /-- FLOG2 (R180) -/
  | flog2 (c : SlotCfg)
  /-- FTANH (R180) -/
  | ftanh (c : SlotCfg)
  /-- FSIGM (R180) -/
  | fsigm (c : SlotCfg)
  /-- FSINPI (R180) -/
  | fsinpi (c : SlotCfg)
  /-- FCOSPI (R180) -/
  | fcospi (c : SlotCfg)
  /-- BFMA2 (R181) -/
  | bfma2 (c : SlotCfg)
  /-- HFMA2 (R181) -/
  | hfma2 (c : SlotCfg)
  /-- FDOT2B (R181) -/
  | fdot2b (c : SlotCfg)
  /-- CVT (R183) -/
  | cvt (c : SlotCfg)
  /-- CVTSR (R183) -/
  | cvtsr (c : SlotCfg)
  /-- CVTI (R183) -/
  | cvti (c : SlotCfg)
  /-- CVTF (R183) -/
  | cvtf (c : SlotCfg)
  /-- PACK (R184) -/
  | pack (c : SlotCfg)
  /-- UNPACK (R184) -/
  | unpack (c : SlotCfg)
  /-- RTENC (R185) -/
  | rtenc (c : SlotCfg)
  /-- RTDEC (R185) -/
  | rtdec (c : SlotCfg)
  /-- LPERM (R192) -/
  | lperm (c : SlotCfg)
  /-- LROT (R192) -/
  | lrot (c : SlotCfg)
  /-- LBCAST (R192) -/
  | lbcast (c : SlotCfg)
  /-- LSCAN (R193) -/
  | lscan (c : SlotCfg)
  /-- LRED (R193) -/
  | lred (c : SlotCfg)
  /-- LPACK (R194) -/
  | lpack (c : SlotCfg)
  /-- LEXPAND (R194) -/
  | lexpand (c : SlotCfg)
  /-- LIDX (R192) -/
  | lidx (c : SlotCfg)
  /-- LSORT (R195) -/
  | lsort (c : SlotCfg)
  /-- LMATCH (R196) -/
  | lmatch (c : SlotCfg)
  /-- PASS (R197) -/
  | pass (c : SlotCfg)
  /-- CONST (R197) -/
  | const (c : SlotCfg)
  /-- SEL (R197) -/
  | sel (c : SlotCfg)
  /-- STEER (R198) -/
  | steer (c : SlotCfg)
  /-- MERGE (R199) -/
  | merge (c : SlotCfg)
  /-- GATE (R197) -/
  | gate (c : SlotCfg)
  /-- LOOP (R200) -/
  | loop (c : SlotCfg)
  /-- ACCRUN (R201) -/
  | accrun (c : SlotCfg)
  /-- RMAXS (R202) -/
  | rmaxs (c : SlotCfg)
  /-- COUNT (R203) -/
  | count (c : SlotCfg)
  /-- DELAY (R197) -/
  | delay (c : SlotCfg)
  /-- DROP (R197) -/
  | drop (c : SlotCfg)
  /-- ONMARK (R203) -/
  | onmark (c : SlotCfg)
  /-- END_TOKEN_ALIGN (R188) -/
  | endTokenAlign (cl unit : Nat)
  /-- END_TOKEN_AT_UNIT (R308) -/
  | endTokenAtUnit (cl unit : Nat)
  /-- SWITCH_APPLY (R119) -/
  | switchApply (cl slot : Nat)
  /-- CONFIG_FRAME (R116) -/
  | configFrame (f : Frame)
  /-- IMAGE_END (R116) -/
  | imageEnd
  /-- ROUTER_TOKEN_HOP (R112) -/
  | routerTokenHop (cl key : Nat) (parity : ParityEvent)
  /-- SW_REPL_TOKEN (R113) -/
  | swReplToken (cl : Nat)
  /-- LINK_SPILL (R62) -/
  | linkSpill (cl pair : Nat) (back : Bool)
  /-- SKIP_PARK (R332) -/
  | skipPark (cl : Nat)
  /-- PARKED_TOKEN_RELEASE (R332) -/
  | parkedTokenRelease (job lid : Nat)
  /-- RELATCH_TOKEN (R47) -/
  | relatchToken (job lid row : Nat)
  /-- AG_READ (R212) -/
  | agRead (c : AgCfg)
  /-- AG_WRITE (R212) -/
  | agWrite (c : AgCfg)
  /-- AG_GATHER (R213) -/
  | agGather (c : AgCfg)
  /-- AG_SCATTER (R213) -/
  | agScatter (c : AgCfg)
  /-- AG_SCATADD (R99) -/
  | agScatadd (c : AgCfg)
  /-- AG_BIN (R101) -/
  | agBin (c : AgCfg)
  /-- AG_ATOM (R214) -/
  | agAtom (c : AgCfg)
  /-- AG_CONV (R216) -/
  | agConv (c : AgCfg)
  /-- MU_SOURCE_RECORD (R219) -/
  | muSourceRecord (cl : Nat)
  /-- MU_SINK_RECORD (R219) -/
  | muSinkRecord (cl : Nat)
  /-- SW_VERT_TILE (R227) -/
  | swVertTile (cl : Nat)
  /-- SLOT_FILL_COMPLETE (R96) -/
  | slotFillComplete (cl buf : Nat)
  /-- SLOT_DRAIN_COMPLETE (R96) -/
  | slotDrainComplete (cl buf : Nat)
  /-- PLANE_LOAD (R230) -/
  | planeLoad (cl : Nat)
  /-- PLANE_SWAP (R148) -/
  | planeSwap (cl : Nat)
  /-- ARRAY_PASS (R143) -/
  | arrayPass (cl : Nat)
  /-- ARRAY_RESCALE (R232) -/
  | arrayRescale (cl : Nat)
  /-- ACCUMULATOR_DRAIN (R149) -/
  | accumulatorDrain (cl : Nat)
  /-- COLUMN_REPAIR (R155) -/
  | columnRepair (cl col : Nat)
  /-- COPY_JOB_START (R75) -/
  | copyJobStart (eng slot : Nat)
  /-- COPY_JOB_TILE (R87) -/
  | copyJobTile (eng slot : Nat)
  /-- DRAIN_TILE (R89) -/
  | drainTile (eng slot : Nat)
  /-- COPY_JOB_COMPLETE (R90) -/
  | copyJobComplete (eng slot : Nat)
  /-- OWNER_FORWARD (R25) -/
  | ownerForward (line tower pts : Nat) (store : Bool)
  /-- WRITE_BACK (R25) -/
  | writeBack (line : Nat)
  /-- EVICTION_NOTICE (R25) -/
  | evictionNotice (line : Nat)
  /-- LEASE_RENEWAL (R27) -/
  | leaseRenewal (line wts pts : Nat)
  /-- TREE_BANK_EVICTION (R51) -/
  | treeBankEviction (line : Nat)
  /-- WARM_PREFETCH (R52) -/
  | warmPrefetch (job lid line : Nat)
  /-- SCRUB_VISIT (R28) -/
  | scrubVisit (line : Nat)
  /-- TURN_ADVANCE (R29) -/
  | turnAdvance
  /-- QUIESCENCE_REPORT (R118) -/
  | quiescenceReport (job lid row : Nat)
  /-- DEADLOCK_DETECTED (R111) -/
  | deadlockDetected (job lid : Nat)
  /-- LAUNCH_ELIGIBLE (R316) -/
  | launchEligible (job lid : Nat)
  /-- LAUNCH_DISPATCH (R318) -/
  | launchDispatch (job lid : Nat)
  /-- STARVATION_RESERVE (R317) -/
  | starvationReserve (job lid : Nat)
  /-- LAUNCH_COMPLETE (R319) -/
  | launchComplete (job lid : Nat)
  /-- BARRIER_COMPLETE (R320) -/
  | barrierComplete (job lid : Nat)
  /-- ROW_LOAD_START (R327) -/
  | rowLoadStart (job lid row : Nat)
  /-- ROW_LOAD_COMPLETE (R327) -/
  | rowLoadComplete (job lid row : Nat)
  /-- ROW_DRAINED (R327) -/
  | rowDrained (job lid row : Nat)
  /-- ROW_SAVE_START (R327) -/
  | rowSaveStart (job lid row : Nat)
  /-- ROW_SAVE_COMPLETE (R327) -/
  | rowSaveComplete (job lid row : Nat)
  /-- ROW_EOS_RETIRE (R327) -/
  | rowEosRetire (job lid row : Nat)
  /-- FRESUME_RETRY (R343) -/
  | fresumeRetry (w : Writer) (index id : Nat)
  /-- FRESUME_SKIP (R343) -/
  | fresumeSkip (w : Writer) (index id : Nat)
  /-- PREEMPT_JOB (R346) -/
  | preemptJob (job : Nat)
  /-- DRAIN_WINDOW_EXPIRY (R346) -/
  | drainWindowExpiry (job lid : Nat)
  /-- RESUME_JOB (R347) -/
  | resumeJob (job : Nat)
  /-- LAUNCH_RESUME_PLACE (R347) -/
  | launchResumePlace (job lid : Nat)
  /-- HALT_CORE (R345) -/
  | haltCore (core : Nat)
  /-- RELEASE_CORE (R345) -/
  | releaseCore (core : Nat)
  /-- FREEZE_LAUNCH (R349) -/
  | freezeLaunch (job lid : Nat)
  /-- THAW_LAUNCH (R349) -/
  | thawLaunch (job lid : Nat)
  /-- START_CORE (R242) -/
  | startCore (core : Nat)
  /-- SCAN_WRITE (R350) -/
  | scanWrite (tower off : Nat) (v : Word)
  /-- JOB_ADMIT (R322) -/
  | jobAdmit (job : Nat)
  /-- JOB_RETIRE (R322) -/
  | jobRetire (job : Nat)
  /-- PACKAGE_FENCE (R368) -/
  | packageFence (pkg : Nat)
  /-- PACKAGE_UNFENCE (R370) -/
  | packageUnfence (pkg : Nat)
  /-- FENCE_MESSAGE (R369) -/
  | fenceMessage (pkg : Nat)
  /-- GRAFT_PORT_DOWN (R367) -/
  | graftPortDown (port : Nat)
  /-- TOWER_LINK_BYPASS (R366) -/
  | towerLinkBypass (t u : Nat)
  /-- BANK_OFFLINE (R63) -/
  | bankOffline (bank : Nat)
  /-- HOST_ARM (R377) -/
  | hostArm (vf : Nat) (v : Word)
  /-- DONE_POP (R377) -/
  | donePop (vf : Nat)
  /-- HOST_BAR2_ACCESS (R376) -/
  | hostBar2Access (f x : Nat) (acc : HostAccess)
  /-- NVME_DMA_WRITE (R376) -/
  | nvmeDmaWrite (port addr : Nat) (data : List Byte)
  /-- CELOG_POP (R381) -/
  | celogPop
  /-- ATTESTATION_REQUEST (R384) -/
  | attestationRequest
  /-- ATTESTATION_COMPLETE (R383) -/
  | attestationComplete
  /-- POWER_SAMPLE (R385) -/
  | powerSample (watts layer : Nat)
  /-- THERMAL_CLOCK_STEP (R12) -/
  | thermalClockStep (layer : Nat)
  /-- DEVICE_REGISTER_WRITE (R19) -/
  | deviceRegisterWrite (tower off : Nat) (v : Word)
  /-- FUNCTION_LEVEL_RESET (R353) -/
  | functionLevelReset (vf : Nat)
  /-- POWER_ON (R382) -/
  | powerOn (b : BringUp)
  /-- COLD_RESET (R352) -/
  | coldReset
  /-- WARM_RESET (R352) -/
  | warmReset (crownOk : Bool)
  /-- SCRATCH_WRITE_ARRIVAL (R60) -/
  | scratchWriteArrival (i : Nat)
  /-- TWIG_SWITCH_WRITE (R77) -/
  | twigSwitchWrite (i : Nat)
  /-- GRAFT_PORT_UP (R367) -/
  | graftPortUp (port peer lanes : Nat)
  /-- LINK_LANE_REPAIR (R366) -/
  | linkLaneRepair (t u lane : Nat)
  deriving DecidableEq, Repr

end Sys2Proof
end

