-- ==== Sys2Proof/Decode.lean ====
section
/-!
DEFINITION. The decoder of root-core words (R156 to R161) and of configuration frames (R162 to R169, R209, R218 to
R233), and the encoder. Total on any bits; what is refused is refused by name.
-/
namespace Sys2Proof

/-- Field hi:lo of a bit pattern, as a number (R2). -/
def bits {n : Nat} (x : BitVec n) (hi lo : Nat) : Nat :=
  (x.toNat >>> lo) % 2 ^ (hi + 1 - lo)

/-- Bit i of a pattern. -/
def bitAt {n : Nat} (x : BitVec n) (i : Nat) : Bool := x.toNat.testBit i

/-- The two's-complement value of the low w bits of n. -/
def sextNat (w n : Nat) : Int :=
  let m := n % 2 ^ w
  if m < 2 ^ (w - 1) then (m : Int) else (m : Int) - (2 ^ w : Nat)

/-- Bytes in the order of memory, the lowest address first, as one number (R2). -/
def leNat : List Byte → Nat
  | [] => 0
  | b :: bs => b.toNat + 256 * leNat bs

/-- The n low bytes of a number, the lowest address first (R2). -/
def leBytes : Nat → Nat → List Byte
  | 0, _ => []
  | n + 1, x => BitVec.ofNat 8 x :: leBytes n (x / 256)

/-! ## The root-core word -/

/-- The seven fields of a root-core word (R156). -/
structure Fields where
  opc : BitVec 8
  d : Reg
  a : Reg
  b : Reg
  c : BitVec 5
  fn : BitVec 4
  imm : BitVec 32
  deriving DecidableEq, Repr

def fieldsOf (w : Word) : Fields where
  opc := w.extractLsb' 56 8
  d := w.extractLsb' 51 5
  a := w.extractLsb' 46 5
  b := w.extractLsb' 41 5
  c := w.extractLsb' 36 5
  fn := w.extractLsb' 32 4
  imm := w.extractLsb' 0 32

def wordOf (f : Fields) : Word :=
  f.opc ++ (f.d ++ (f.a ++ (f.b ++ (f.c ++ (f.fn ++ f.imm)))))

/-- What the decoder makes of a word: an instruction; ILLEGAL_INSTRUCTION (R161 steps 2 and 3); or a nonzero reserved
field (step 5), with whether the instruction needs privilege, which step 4 checks first. -/
inductive Dec where
  | instr (i : Instr)
  | illegal
  | reserved (needsPriv : Bool)
  deriving DecidableEq, Repr

def signOf (x : BitVec 4) : Option Sign :=
  match x.toNat with
  | 0 => some .n
  | 1 => some .s
  | _ => none

def signFn : Sign → BitVec 4
  | .n => 0
  | .s => 1

def sizeOf? (x : BitVec 5) : Option Size :=
  match x.toNat with
  | 0 => some .b
  | 1 => some .h
  | 2 => some .w
  | 3 => some .d
  | _ => none

def sizeCode : Size → BitVec 5
  | .b => 0
  | .h => 1
  | .w => 2
  | .d => 3

def widthOf (x : BitVec 5) : Option Width :=
  match x.toNat with
  | 0 => some .b
  | 1 => some .h
  | 2 => some .w
  | _ => none

def widthCode : Width → BitVec 5
  | .b => 0
  | .h => 1
  | .w => 2

def amoFnOf (x : BitVec 4) : Option AmoFn :=
  match x.toNat with
  | 0 => some .add
  | 1 => some .and
  | 2 => some .or
  | 3 => some .xor
  | 4 => some .minS
  | 5 => some .maxS
  | 6 => some .minN
  | 7 => some .maxN
  | 8 => some .swap
  | 9 => some .fadd
  | _ => none

def amoFnCode : AmoFn → BitVec 4
  | .add => 0
  | .and => 1
  | .or => 2
  | .xor => 3
  | .minS => 4
  | .maxS => 5
  | .minN => 6
  | .maxN => 7
  | .swap => 8
  | .fadd => 9

/-- The sizes of an atomic: code 2 is .W, 3 is .D, the others are undefined (R258, R259). -/
def dblOf (x : Nat) : Option Bool :=
  match x with
  | 2 => some false
  | 3 => some true
  | _ => none

def sysRegOf (x : BitVec 32) : Option SysReg :=
  match x.toNat with
  | 0x00 => some .status
  | 0x01 => some .cause
  | 0x02 => some .epc
  | 0x03 => some .eval
  | 0x04 => some .vbase
  | 0x10 => some .asid
  | 0x11 => some .tbase
  | 0x12 => some .job
  | 0x20 => some .clock
  | 0x21 => some .cycle
  | 0x22 => some .chpri
  | 0x30 => some .waypart
  | 0x31 => some .turnstall
  | _ => none

def sysRegCode : SysReg → BitVec 32
  | .status => 0x00
  | .cause => 0x01
  | .epc => 0x02
  | .eval => 0x03
  | .vbase => 0x04
  | .asid => 0x10
  | .tbase => 0x11
  | .job => 0x12
  | .clock => 0x20
  | .cycle => 0x21
  | .chpri => 0x22
  | .waypart => 0x30
  | .turnstall => 0x31

/-- Registers whose read needs privilege (R159). -/
def SysReg.privRead : SysReg → Bool
  | .status | .cause | .epc | .eval | .vbase | .asid | .tbase | .waypart => true
  | .job | .clock | .cycle | .chpri | .turnstall => false

/-- Registers whose write needs privilege (R159). -/
def SysReg.privWrite : SysReg → Bool
  | .chpri => false
  | .status | .cause | .epc | .eval | .vbase | .asid | .tbase | .waypart | .job | .clock | .cycle | .turnstall => true

/-- The instruction, when its reserved fields are zero (R161 step 5). -/
def Dec.when (ok : Bool) (i : Instr) : Dec := if ok then .instr i else .reserved false

/-- The same for an instruction that needs privilege (R161 steps 4 and 5). -/
def Dec.whenP (p ok : Bool) (i : Instr) : Dec := if ok then .instr i else .reserved p

/-- An undefined value of a coded field is ILLEGAL_INSTRUCTION (R161 step 3). -/
def Dec.defined {α : Type} (o : Option α) (k : α → Dec) : Dec :=
  match o with
  | none => .illegal
  | some x => k x

namespace Fields

def c0 (f : Fields) : Bool := f.c == 0
def fn0 (f : Fields) : Bool := f.fn == 0
def imm0 (f : Fields) : Bool := f.imm == 0
def d0 (f : Fields) : Bool := f.d == 0
def a0 (f : Fields) : Bool := f.a == 0
def b0 (f : Fields) : Bool := f.b == 0

/-- IMM[5:0], the fabric-side name (R158). -/
def name (f : Fields) : BitVec 6 := f.imm.extractLsb' 0 6

/-- IMM[31:k] is zero. -/
def immAbove (f : Fields) (k : Nat) : Bool := f.imm.toNat / 2 ^ k == 0

/-- A three-register form without coded fields (R157). -/
def rrr (f : Fields) (i : Instr) : Dec := .when (f.c0 && f.fn0 && f.imm0) i

/-- A three-register form with signedness in FN. -/
def rrrS (f : Fields) (k : Sign → Instr) : Dec :=
  .defined (signOf f.fn) fun sg => .when (f.c0 && f.imm0) (k sg)

/-- A one-source form. -/
def rr (f : Fields) (i : Instr) : Dec := .when (f.b0 && f.c0 && f.fn0 && f.imm0) i

end Fields

/-- OPC 0x01 to 0x15 (R160, R243). -/
def decodeAlu (f : Fields) : Dec :=
  match f.opc.toNat with
  | 0x01 => f.rrr (.add f.d f.a f.b)
  | 0x02 => f.rrr (.sub f.d f.a f.b)
  | 0x03 => f.rrr (.mul f.d f.a f.b)
  | 0x04 => f.rrrS (.mulh · f.d f.a f.b)
  | 0x05 => f.rrrS (.div · f.d f.a f.b)
  | 0x06 => f.rrrS (.rem · f.d f.a f.b)
  | 0x07 => f.rrr (.and f.d f.a f.b)
  | 0x08 => f.rrr (.or f.d f.a f.b)
  | 0x09 => f.rrr (.xor f.d f.a f.b)
  | 0x0A => f.rrr (.andn f.d f.a f.b)
  | 0x0B => f.rrr (.shl f.d f.a f.b)
  | 0x0C => f.rrrS (.shr · f.d f.a f.b)
  | 0x0D => f.rrr (.rol f.d f.a f.b)
  | 0x0E => f.rrrS (.slt · f.d f.a f.b)
  | 0x0F => f.rrrS (.min · f.d f.a f.b)
  | 0x10 => f.rrrS (.max · f.d f.a f.b)
  | 0x11 => f.rr (.clz f.d f.a)
  | 0x12 => f.rr (.ctz f.d f.a)
  | 0x13 => f.rr (.popc f.d f.a)
  | 0x14 => .defined (widthOf f.c) fun w => .when (f.b0 && f.fn0 && f.imm0) (.sext w f.d f.a)
  | 0x15 => .defined (widthOf f.c) fun w => .when (f.b0 && f.fn0 && f.imm0) (.zext w f.d f.a)
  | _ => .illegal

/-- OPC 0x20 to 0x29 (R160, R246). -/
def decodeImm (f : Fields) : Dec :=
  let bcf := f.b0 && f.c0 && f.fn0
  match f.opc.toNat with
  | 0x20 => .when bcf (.addi f.d f.a f.imm)
  | 0x21 => .when bcf (.andi f.d f.a f.imm)
  | 0x22 => .when bcf (.ori f.d f.a f.imm)
  | 0x23 => .when bcf (.xori f.d f.a f.imm)
  | 0x24 => .when (bcf && f.immAbove 6) (.shli f.d f.a f.name)
  | 0x25 => .defined (signOf f.fn) fun sg => .when (f.b0 && f.c0 && f.immAbove 6) (.shri sg f.d f.a f.name)
  | 0x26 => .defined (signOf f.fn) fun sg => .when (f.b0 && f.c0) (.slti sg f.d f.a f.imm)
  | 0x27 => .when (bcf && f.a0) (.li f.d f.imm)
  | 0x28 => .when (bcf && f.a0) (.lih f.d f.imm)
  | 0x29 => .when f.fn0 (.lea f.d f.a f.b f.c f.imm)
  | _ => .illegal

/-- OPC 0x40 to 0x46 (R160, R247). -/
def decodeBr (f : Fields) : Dec :=
  match f.opc.toNat with
  | 0x40 => .when (f.d0 && f.c0 && f.fn0) (.beq f.a f.b f.imm)
  | 0x41 => .when (f.d0 && f.c0 && f.fn0) (.bne f.a f.b f.imm)
  | 0x42 => .defined (signOf f.fn) fun sg => .when (f.d0 && f.c0) (.blt sg f.a f.b f.imm)
  | 0x43 => .defined (signOf f.fn) fun sg => .when (f.d0 && f.c0) (.bge sg f.a f.b f.imm)
  | 0x44 => .when (f.d0 && f.a0 && f.b0 && f.c0 && f.fn0) (.jmp f.imm)
  | 0x45 => .when (f.d0 && f.a0 && f.b0 && f.c0 && f.fn0) (.jal f.imm)
  | 0x46 => .when (f.d0 && f.b0 && f.c0 && f.fn0 && f.imm0) (.jr f.a)
  | _ => .illegal

/-- FN of LD: 0 zero-extends, 1 sign-extends except at .D (R157, R250). -/
def ldExt (sz : Size) (fn : BitVec 4) : Option Bool :=
  match fn.toNat, sz with
  | 0, _ => some false
  | 1, .d => none
  | 1, _ => some true
  | _, _ => none

/-- OPC 0x50 to 0x63 (R160, R248 to R260). -/
def decodeMem (f : Fields) : Dec :=
  match f.opc.toNat with
  | 0x50 => .defined (sizeOf? f.c) fun sz => .defined (ldExt sz f.fn) fun x =>
      .when f.b0 (.ld sz x f.d f.a f.imm)
  | 0x51 => .defined (sizeOf? f.c) fun sz => .when (f.d0 && f.fn0) (.st sz f.a f.b f.imm)
  | 0x52 => .defined (sizeOf? f.c) fun sz => .when (f.b0 && f.fn0) (.ldl sz f.d f.a f.imm)
  | 0x53 => .when (f.d0 && f.c0 && f.fn0) (.pref f.a f.b f.imm)
  | 0x54 => .when (f.d0 && f.c0 && f.fn0) (.discard f.a f.b f.imm)
  | 0x55 => .defined (sizeOf? f.c) fun sz => .when (f.b0 && f.fn0) (.lld sz f.d f.a f.imm)
  | 0x56 => .defined (sizeOf? f.c) fun sz => .when (f.d0 && f.fn0) (.lst sz f.a f.b f.imm)
  | 0x57 => .when (f.d0 && f.c0 && f.fn0) (.crwb f.a f.b f.imm)
  | 0x60 => .defined (dblOf f.c.toNat) fun dbl => .defined (amoFnOf f.fn) fun fn =>
      if fn = .fadd && dbl then .illegal else .instr (.amo fn dbl f.d f.a f.b f.imm)
  | 0x61 => .defined (dblOf f.fn.toNat) fun dbl => .instr (.cas dbl f.d f.a f.b f.c f.imm)
  | 0x62 => .when (f.d0 && f.a0 && f.b0 && f.c0 && f.fn0 && f.imm0) .fenceLeaf
  | 0x63 => .when (f.d0 && f.a0 && f.b0 && f.c0 && f.fn0 && f.imm0) .lfence
  | _ => .illegal

/-- A flag coded in FN as 0 or 1, other values undefined (R263). -/
def flagOf (x : BitVec 4) : Option Bool :=
  match x.toNat with
  | 0 => some false
  | 1 => some true
  | _ => none

/-- A slot count in IMM bits 10:6, 0 to 16 (R263). -/
def countOf (imm : BitVec 32) : Option (BitVec 5) :=
  let n : BitVec 5 := imm.extractLsb' 6 5
  if n.toNat ≤ 16 then some n else none

/-- An accumulator name in IMM[5:0], 0 to 31 (R158). -/
def accOf (imm : BitVec 32) : Option (BitVec 5) :=
  if imm.toNat % 64 < 32 then some (imm.extractLsb' 0 5) else none

def cancelLevelOf (x : BitVec 4) : Option CancelLevel :=
  match x.toNat with
  | 0 => some .launch
  | 1 => some .graph
  | 2 => some .phase
  | 3 => some .job
  | _ => none

def cancelLevelFn : CancelLevel → BitVec 4
  | .launch => 0
  | .graph => 1
  | .phase => 2
  | .job => 3

/-- JWAIT: FN bit 0 is the engine, bit 1 is .ALL (R263). -/
def jwaitFn (x : BitVec 4) : Option (Eng × Bool) :=
  match x.toNat with
  | 0 => some (.x, false)
  | 1 => some (.p, false)
  | 2 => some (.x, true)
  | 3 => some (.p, true)
  | _ => none

def engOf (b : Bool) : Eng := if b then .p else .x

def engBit : Eng → Bool
  | .x => false
  | .p => true

/-- OPC 0x70 to 0x8A: ports, buffers, tiles, accumulators (R263). -/
def decodeStr (f : Fields) : Dec :=
  let q : BitVec 4 := f.imm.extractLsb' 6 4
  let bcf := f.b0 && f.c0 && f.fn0
  match f.opc.toNat with
  | 0x70 => .when (bcf && f.immAbove 6) (.sin f.d f.a f.name)
  | 0x71 => .when (bcf && f.immAbove 6) (.sout f.d f.a f.name)
  | 0x72 => .when (bcf && f.immAbove 6) (.sconst f.d f.a f.name)
  | 0x73 => .when (bcf && f.a0 && f.immAbove 6) (.seos f.d f.name)
  | 0x74 => .when (bcf && f.a0 && f.immAbove 6) (.smark f.d f.name)
  | 0x75 => .when (bcf && f.a0 && f.immAbove 7)
      (.pstat (if f.imm.getLsbD 6 then .sink else .src) f.d f.name)
  | 0x78 => .when (bcf && f.immAbove 6) (.binit f.d f.a f.name)
  | 0x79 => .defined (countOf f.imm) fun n => .when (bcf && f.a0 && f.immAbove 11) (.bwaitf f.d f.name n)
  | 0x7A => .defined (countOf f.imm) fun n => .when (bcf && f.a0 && f.immAbove 11) (.bwaite f.d f.name n)
  | 0x7B => .defined (countOf f.imm) fun n => .when (bcf && f.a0 && f.immAbove 11) (.badvp f.d f.name n)
  | 0x7C => .defined (countOf f.imm) fun n => .when (bcf && f.a0 && f.immAbove 11) (.badvc f.d f.name n)
  | 0x7D => .defined (flagOf f.fn) fun e => .defined (countOf f.imm) fun n =>
      .when (f.a0 && f.b0 && f.c0 && f.immAbove 17)
        (.bnote (if e then .e else .f) f.d f.name (f.imm.extractLsb' 11 6) n)
  | 0x80 => .defined (flagOf f.fn) fun hi =>
      .when (f.a0 && f.b0 && f.c0 && f.immAbove 10) (.tstat hi f.d f.name q)
  | 0x81 => .when (f.c0 && f.fn0 && f.immAbove 10) (.tset f.d f.a f.b f.name q)
  | 0x88 => .defined (accOf f.imm) fun n => .when (f.d0 && f.a0 && bcf && f.immAbove 6) (.aclr n)
  | 0x89 => .defined (flagOf f.fn) fun rt => .defined (accOf f.imm) fun n =>
      .when (f.b0 && f.c0 && f.immAbove 6) (.aread rt f.d f.a n)
  | 0x8A => .defined (flagOf f.fn) fun p => .defined (accOf f.imm) fun n =>
      .when (f.a0 && f.b0 && f.c0 && f.immAbove 6) (.astat p f.d n)
  | _ => .illegal

/-- OPC 0x90 to 0xB3: jobs, launches, tasks, configuration (R263). -/
def decodeTask (f : Fields) : Dec :=
  let bcf := f.b0 && f.c0 && f.fn0
  let cf := f.c0 && f.fn0
  match f.opc.toNat with
  | 0x90 => .when (bcf && f.imm0) (.xjob f.d f.a)
  | 0x91 => .when (bcf && f.imm0) (.pjob f.d f.a)
  | 0x92 => .defined (flagOf f.fn) fun p =>
      .when (f.a0 && f.b0 && f.c0 && f.immAbove 6) (.jstat (engOf p) f.d f.name)
  | 0x93 => .defined (jwaitFn f.fn) fun x =>
      .when (f.a0 && f.b0 && f.c0 && f.immAbove 6 && (!x.2 || f.imm0)) (.jwait x.1 x.2 f.d f.name)
  | 0x98 => .when (cf && f.name == 0 && f.immAbove 10) (.lpatch f.d f.a f.b (f.imm.extractLsb' 6 4))
  | 0x99 => .defined (flagOf f.fn) fun r => .when (f.b0 && f.c0 && f.imm0) (.larm r f.d f.a)
  | 0x9A => .defined (cancelLevelOf f.fn) fun lv =>
      .when (f.b0 && f.c0 && f.imm0 && (lv = .launch || lv = .graph || f.a0)) (.cancel lv f.d f.a)
  | 0x9B => .when (bcf && f.imm0) (.cntrd f.d f.a)
  | 0x9C => .when (cf && f.imm0) (.cntwait f.d f.a f.b)
  | 0x9D => .when (cf && f.imm0) (.cntadd f.d f.a f.b)
  | 0x9E => .when (cf && f.immAbove 6) (.cntnote f.d f.a f.b f.name)
  | 0xA0 => .when (f.d0 && f.a0 && bcf && f.imm0) .tend
  | 0xA1 => .when (f.a0 && bcf && f.imm0) (.hold f.d)
  | 0xA2 => .when (f.d0 && bcf && f.immAbove 6) (.cbind f.name f.a)
  | 0xA3 => .when (cf && f.immAbove 6) (.csend f.d f.a f.b f.name)
  | 0xA4 => .when (f.d0 && f.a0 && bcf && f.immAbove 9) (.cpri f.name (f.imm.extractLsb' 6 3))
  | 0xA5 => .when (f.d0 && f.a0 && bcf && f.immAbove 7) (.cmask f.name (f.imm.getLsbD 6))
  | 0xA6 => .when (f.d0 && bcf && f.immAbove 6) (.timer f.name f.a)
  | 0xB0 => .when (cf && f.name == 0 && f.immAbove 12) (.cfgload f.d f.a f.b (f.imm.extractLsb' 6 6))
  | 0xB1 => .when (bcf && f.imm0) (.band f.d f.a)
  | 0xB2 => .when (bcf && f.name == 0 && f.immAbove 12) (.scrollst f.d f.a (f.imm.extractLsb' 6 6))
  | 0xB3 => .when (f.a0 && bcf && f.imm0) (.relatch f.d)
  | _ => .illegal

def tlbScopeOf (x : BitVec 32) : Option TlbScope :=
  match x.toNat with
  | 0 => some .all
  | 1 => some .asid
  | 2 => some .page
  | _ => none

def tlbScopeCode : TlbScope → BitVec 32
  | .all => 0
  | .asid => 1
  | .page => 2

/-- SYSWR words: writes of SYS_CLOCK and SYS_CYCLE are rows of their own (R240, R291). -/
def sysWrite (r : SysReg) (a : Reg) : Instr :=
  match r with
  | .clock => .sysClockWrite a
  | .cycle => .sysCycleWrite a
  | r => .syswr r a

/-- OPC 0xF0 to 0xF8 (R160, R263, R33, R239). -/
def decodeSys (f : Fields) : Dec :=
  let bcf := f.b0 && f.c0 && f.fn0
  match f.opc.toNat with
  | 0xF0 => .when (f.d0 && f.a0 && bcf) (.trap f.imm)
  | 0xF1 => .whenP true (f.d0 && f.a0 && bcf && f.imm0) .eret
  | 0xF2 => .defined (sysRegOf f.imm) fun r => .whenP r.privRead (f.a0 && bcf) (.sysrd f.d r)
  | 0xF3 => .defined (sysRegOf f.imm) fun r => .whenP r.privWrite (f.d0 && bcf) (sysWrite r f.a)
  | 0xF4 => .defined (tlbScopeOf f.imm) fun s => .whenP true (f.d0 && bcf) (.tlbinv f.a s)
  | 0xF5 => .when (f.d0 && f.a0 && bcf) (.brk f.imm)
  | 0xF6 => .when (f.d0 && f.a0 && bcf && f.imm0) .nop
  | 0xF7 => .whenP true (bcf && f.imm0) (.forfeit f.d f.a)
  | 0xF8 => .when (bcf && f.imm0) (.clock f.d f.a)
  | _ => .illegal

/-- Decoding of the fields, by groups of OPC (R160). -/
def decodeFields (f : Fields) : Dec :=
  if f.opc.toNat < 0x20 then decodeAlu f
  else if f.opc.toNat < 0x40 then decodeImm f
  else if f.opc.toNat < 0x50 then decodeBr f
  else if f.opc.toNat < 0x70 then decodeMem f
  else if f.opc.toNat < 0x90 then decodeStr f
  else if f.opc.toNat < 0xC0 then decodeTask f
  else decodeSys f

/-- Decoding of a root-core word (R161 steps 2, 3 and 5). -/
def decodeWord (w : Word) : Dec := decodeFields (fieldsOf w)

/-- Decoding of the 8 bytes of a word, little-endian (R156). -/
def decodeWordBytes (bs : List Byte) : Dec := decodeWord (BitVec.ofNat 64 (leNat (bs.take 8)))

/-! ## The encoder of root-core words -/

/-- The fields every form leaves unused are ZERO (R156). -/
def fields0 (opc : BitVec 8) : Fields := ⟨opc, 0, 0, 0, 0, 0, 0⟩

def imm6 (n : BitVec 6) : BitVec 32 := n.setWidth 32

def immAt (k : Nat) {n : Nat} (x : BitVec n) (low : BitVec 32) : BitVec 32 := low ||| (x.setWidth 32 <<< k)

/-- The fields of the root-core words (R156, R160, R263); none for the steps that have no word of their own. -/
def encodeFields : Instr → Option Fields
  | .add d a b => some ⟨0x01, d, a, b, 0, 0, 0⟩
  | .sub d a b => some ⟨0x02, d, a, b, 0, 0, 0⟩
  | .mul d a b => some ⟨0x03, d, a, b, 0, 0, 0⟩
  | .mulh s d a b => some ⟨0x04, d, a, b, 0, signFn s, 0⟩
  | .div s d a b => some ⟨0x05, d, a, b, 0, signFn s, 0⟩
  | .rem s d a b => some ⟨0x06, d, a, b, 0, signFn s, 0⟩
  | .and d a b => some ⟨0x07, d, a, b, 0, 0, 0⟩
  | .or d a b => some ⟨0x08, d, a, b, 0, 0, 0⟩
  | .xor d a b => some ⟨0x09, d, a, b, 0, 0, 0⟩
  | .andn d a b => some ⟨0x0A, d, a, b, 0, 0, 0⟩
  | .shl d a b => some ⟨0x0B, d, a, b, 0, 0, 0⟩
  | .shr s d a b => some ⟨0x0C, d, a, b, 0, signFn s, 0⟩
  | .rol d a b => some ⟨0x0D, d, a, b, 0, 0, 0⟩
  | .slt s d a b => some ⟨0x0E, d, a, b, 0, signFn s, 0⟩
  | .min s d a b => some ⟨0x0F, d, a, b, 0, signFn s, 0⟩
  | .max s d a b => some ⟨0x10, d, a, b, 0, signFn s, 0⟩
  | .clz d a => some ⟨0x11, d, a, 0, 0, 0, 0⟩
  | .ctz d a => some ⟨0x12, d, a, 0, 0, 0, 0⟩
  | .popc d a => some ⟨0x13, d, a, 0, 0, 0, 0⟩
  | .sext w d a => some ⟨0x14, d, a, 0, widthCode w, 0, 0⟩
  | .zext w d a => some ⟨0x15, d, a, 0, widthCode w, 0, 0⟩
  | .addi d a i => some ⟨0x20, d, a, 0, 0, 0, i⟩
  | .andi d a i => some ⟨0x21, d, a, 0, 0, 0, i⟩
  | .ori d a i => some ⟨0x22, d, a, 0, 0, 0, i⟩
  | .xori d a i => some ⟨0x23, d, a, 0, 0, 0, i⟩
  | .shli d a n => some ⟨0x24, d, a, 0, 0, 0, imm6 n⟩
  | .shri s d a n => some ⟨0x25, d, a, 0, 0, signFn s, imm6 n⟩
  | .slti s d a i => some ⟨0x26, d, a, 0, 0, signFn s, i⟩
  | .li d i => some ⟨0x27, d, 0, 0, 0, 0, i⟩
  | .lih d i => some ⟨0x28, d, 0, 0, 0, 0, i⟩
  | .lea d a b n i => some ⟨0x29, d, a, b, n, 0, i⟩
  | .beq a b o => some ⟨0x40, 0, a, b, 0, 0, o⟩
  | .bne a b o => some ⟨0x41, 0, a, b, 0, 0, o⟩
  | .blt s a b o => some ⟨0x42, 0, a, b, 0, signFn s, o⟩
  | .bge s a b o => some ⟨0x43, 0, a, b, 0, signFn s, o⟩
  | .jmp o => some ⟨0x44, 0, 0, 0, 0, 0, o⟩
  | .jal o => some ⟨0x45, 0, 0, 0, 0, 0, o⟩
  | .jr a => some ⟨0x46, 0, a, 0, 0, 0, 0⟩
  | .ld sz x d a i => some ⟨0x50, d, a, 0, sizeCode sz, if x then 1 else 0, i⟩
  | .st sz a b i => some ⟨0x51, 0, a, b, sizeCode sz, 0, i⟩
  | .ldl sz d a i => some ⟨0x52, d, a, 0, sizeCode sz, 0, i⟩
  | .pref a b i => some ⟨0x53, 0, a, b, 0, 0, i⟩
  | .discard a b i => some ⟨0x54, 0, a, b, 0, 0, i⟩
  | .lld sz d a i => some ⟨0x55, d, a, 0, sizeCode sz, 0, i⟩
  | .lst sz a b i => some ⟨0x56, 0, a, b, sizeCode sz, 0, i⟩
  | .crwb a b i => some ⟨0x57, 0, a, b, 0, 0, i⟩
  | .amo fn dbl d a b i => some ⟨0x60, d, a, b, if dbl then 3 else 2, amoFnCode fn, i⟩
  | .cas dbl d a b c i => some ⟨0x61, d, a, b, c, if dbl then 3 else 2, i⟩
  | .fenceLeaf => some (fields0 0x62)
  | .lfence => some (fields0 0x63)
  | .sin d a n => some ⟨0x70, d, a, 0, 0, 0, imm6 n⟩
  | .sout d a n => some ⟨0x71, d, a, 0, 0, 0, imm6 n⟩
  | .sconst d a n => some ⟨0x72, d, a, 0, 0, 0, imm6 n⟩
  | .seos d n => some ⟨0x73, d, 0, 0, 0, 0, imm6 n⟩
  | .smark d n => some ⟨0x74, d, 0, 0, 0, 0, imm6 n⟩
  | .pstat k d n => some ⟨0x75, d, 0, 0, 0, 0, immAt 6 (BitVec.ofBool (k = .sink)) (imm6 n)⟩
  | .binit d a n => some ⟨0x78, d, a, 0, 0, 0, imm6 n⟩
  | .bwaitf d h n => some ⟨0x79, d, 0, 0, 0, 0, immAt 6 n (imm6 h)⟩
  | .bwaite d h n => some ⟨0x7A, d, 0, 0, 0, 0, immAt 6 n (imm6 h)⟩
  | .badvp d h n => some ⟨0x7B, d, 0, 0, 0, 0, immAt 6 n (imm6 h)⟩
  | .badvc d h n => some ⟨0x7C, d, 0, 0, 0, 0, immAt 6 n (imm6 h)⟩
  | .bnote dir d h c n =>
      some ⟨0x7D, d, 0, 0, 0, if dir = .e then 1 else 0, immAt 11 c (immAt 6 n (imm6 h))⟩
  | .tstat hi d t q => some ⟨0x80, d, 0, 0, 0, if hi then 1 else 0, immAt 6 q (imm6 t)⟩
  | .tset d a b t q => some ⟨0x81, d, a, b, 0, 0, immAt 6 q (imm6 t)⟩
  | .aclr n => some ⟨0x88, 0, 0, 0, 0, 0, n.setWidth 32⟩
  | .aread rt d a n => some ⟨0x89, d, a, 0, 0, if rt then 1 else 0, n.setWidth 32⟩
  | .astat p d n => some ⟨0x8A, d, 0, 0, 0, if p then 1 else 0, n.setWidth 32⟩
  | .xjob d a => some ⟨0x90, d, a, 0, 0, 0, 0⟩
  | .pjob d a => some ⟨0x91, d, a, 0, 0, 0, 0⟩
  | .jstat e d n => some ⟨0x92, d, 0, 0, 0, if engBit e then 1 else 0, imm6 n⟩
  | .jwait e all d n =>
      some ⟨0x93, d, 0, 0, 0, (if engBit e then 1 else 0) ||| (if all then 2 else 0), imm6 n⟩
  | .lpatch d a b w => some ⟨0x98, d, a, b, 0, 0, immAt 6 w 0⟩
  | .larm r d a => some ⟨0x99, d, a, 0, 0, if r then 1 else 0, 0⟩
  | .cancel lv d a => some ⟨0x9A, d, a, 0, 0, cancelLevelFn lv, 0⟩
  | .cntrd d a => some ⟨0x9B, d, a, 0, 0, 0, 0⟩
  | .cntwait d a b => some ⟨0x9C, d, a, b, 0, 0, 0⟩
  | .cntadd d a b => some ⟨0x9D, d, a, b, 0, 0, 0⟩
  | .cntnote d a b c => some ⟨0x9E, d, a, b, 0, 0, imm6 c⟩
  | .tend => some (fields0 0xA0)
  | .hold d => some ⟨0xA1, d, 0, 0, 0, 0, 0⟩
  | .cbind c a => some ⟨0xA2, 0, a, 0, 0, 0, imm6 c⟩
  | .csend d a b c => some ⟨0xA3, d, a, b, 0, 0, imm6 c⟩
  | .cpri c p => some ⟨0xA4, 0, 0, 0, 0, 0, immAt 6 p (imm6 c)⟩
  | .cmask c m => some ⟨0xA5, 0, 0, 0, 0, 0, immAt 6 (BitVec.ofBool m) (imm6 c)⟩
  | .timer c a => some ⟨0xA6, 0, a, 0, 0, 0, imm6 c⟩
  | .cfgload d a b row => some ⟨0xB0, d, a, b, 0, 0, immAt 6 row 0⟩
  | .band d a => some ⟨0xB1, d, a, 0, 0, 0, 0⟩
  | .scrollst d a row => some ⟨0xB2, d, a, 0, 0, 0, immAt 6 row 0⟩
  | .relatch d => some ⟨0xB3, d, 0, 0, 0, 0, 0⟩
  | .trap code => some ⟨0xF0, 0, 0, 0, 0, 0, code⟩
  | .eret => some (fields0 0xF1)
  | .sysrd d r => some ⟨0xF2, d, 0, 0, 0, 0, sysRegCode r⟩
  | .syswr r a => some ⟨0xF3, 0, a, 0, 0, 0, sysRegCode r⟩
  | .sysClockWrite a => some ⟨0xF3, 0, a, 0, 0, 0, 0x20⟩
  | .sysCycleWrite a => some ⟨0xF3, 0, a, 0, 0, 0, 0x21⟩
  | .tlbinv a s => some ⟨0xF4, 0, a, 0, 0, 0, tlbScopeCode s⟩
  | .brk code => some ⟨0xF5, 0, 0, 0, 0, 0, code⟩
  | .nop => some (fields0 0xF6)
  | .forfeit d a => some ⟨0xF7, d, a, 0, 0, 0, 0⟩
  | .clock d a => some ⟨0xF8, d, a, 0, 0, 0, 0⟩
  | _ => none

/-- The word of a root-core instruction (R156). -/
def encodeWord (i : Instr) : Option Word := (encodeFields i).map wordOf

/-! ## Configuration frames -/

/-- What the decoder makes of a frame: the operation or step it names, or the fault code that blocks its element
(CONFIG_ILLEGAL 32, FORMAT_FAULT 33; R117, R147, R168). -/
inductive FDec where
  | instr (i : Instr)
  | blocked (code : Nat)
  deriving DecidableEq, Repr

def Frame.layout (f : Frame) : Nat := bits f 255 253
def Frame.col (f : Frame) : Nat := bits f 252 249
def Frame.unit (f : Frame) : Nat := bits f 248 244
def Frame.seq (f : Frame) : Nat := bits f 243 240

/-- The compute-slot payload (R164). -/
def slotCfgOf (f : Frame) : SlotCfg where
  col := f.extractLsb' 249 4
  unit := f.extractLsb' 244 2
  sub := f.extractLsb' 228 4
  src3 := f.extractLsb' 224 4
  src2 := f.extractLsb' 220 4
  src1 := f.extractLsb' 216 4
  src0 := f.extractLsb' 212 4
  dst := f.extractLsb' 196 16
  emp3 := f.extractLsb' 194 2
  emp2 := f.extractLsb' 192 2
  emp1 := f.extractLsb' 190 2
  emp0 := f.extractLsb' 188 2
  len := f.extractLsb' 184 2
  cst := f.extractLsb' 152 32
  fmt := f.extractLsb' 148 4
  rnd := f.extractLsb' 144 4
  sat := f.getLsbD 142
  ftz := f.getLsbD 141
  trapinv := f.getLsbD 140
  seed := f.extractLsb' 108 32
  qselD := f.extractLsb' 106 2
  qselC := f.extractLsb' 104 2
  qselB := f.extractLsb' 102 2
  qselA := f.extractLsb' 100 2
  agsel := f.extractLsb' 98 2
  dos := f.extractLsb' 94 4

/-- The frame of a slot operation, from its fields (R162, R164). -/
def slotFrame (op : BitVec 8) (c : SlotCfg) : Frame :=
  let top : BitVec 60 :=
    (0 : BitVec 3) ++ (c.col ++ ((0 : BitVec 3) ++ (c.unit ++ ((0 : BitVec 4) ++ (op ++ (c.sub ++
      (c.src3 ++ (c.src2 ++ (c.src1 ++ (c.src0 ++ c.dst))))))))))
  let mid : BitVec 56 :=
    c.emp3 ++ (c.emp2 ++ (c.emp1 ++ (c.emp0 ++ ((0 : BitVec 2) ++ (c.len ++ (c.cst ++ (c.fmt ++
      (c.rnd ++ (0 : BitVec 4)))))))))
  let flags : BitVec 4 := ((0 : BitVec 1) ++ (BitVec.ofBool c.sat ++ (BitVec.ofBool c.ftz ++ BitVec.ofBool c.trapinv)))
  let low : BitVec 46 :=
    c.seed ++ (c.qselD ++ (c.qselC ++ (c.qselB ++ (c.qselA ++ (c.agsel ++ c.dos)))))
  (top ++ ((mid.extractLsb' 4 52) ++ (flags ++ (low ++ (0 : BitVec 94)))) : BitVec (60 + (52 + (4 + (46 + 94)))))

/-- Element width in bits of a format code (R121); 0 for the reserved codes. -/
def fmtWidth (f : Nat) : Nat :=
  match f with
  | 0 | 8 | 9 | 10 => 32
  | 1 | 2 | 11 | 12 => 16
  | 3 | 4 | 6 | 13 => 8
  | 5 | 7 => 4
  | _ => 0

namespace SlotCfg

/-- SRC_i, EMPTY_i and DOS_i by selector number (R164). -/
def src (c : SlotCfg) (i : Nat) : Nat :=
  match i with
  | 0 => c.src0.toNat
  | 1 => c.src1.toNat
  | 2 => c.src2.toNat
  | _ => c.src3.toNat

def emp (c : SlotCfg) (i : Nat) : Nat :=
  match i with
  | 0 => c.emp0.toNat
  | 1 => c.emp1.toNat
  | 2 => c.emp2.toNat
  | _ => c.emp3.toNat

def qsel (c : SlotCfg) (k : Nat) : Nat :=
  match k with
  | 0 => c.qselA.toNat
  | 1 => c.qselB.toNat
  | 2 => c.qselC.toNat
  | _ => c.qselD.toNat

end SlotCfg

/-- In the range lo to hi, both included. -/
def within (lo hi x : Nat) : Bool := lo ≤ x && x ≤ hi

/-- Operation codes of R167. -/
def opKnown (op : Nat) : Bool :=
  within 0x00 0x17 op || within 0x20 0x26 op || within 0x30 0x4B op || within 0x50 0x57 op ||
    within 0x60 0x69 op || within 0x70 0x7C op

/-- The slots that accept an operation, SLOT_A to SLOT_D as 0 to 3 (R102, R190). -/
def opInSlot (op k : Nat) : Bool :=
  if within 0x00 0x17 op then k ≤ 1 || !(op == 0x03 || op == 0x04 || op == 0x05)
  else if within 0x20 0x26 op then k ≤ 1
  else if within 0x30 0x3F op then k ≤ 1 || op == 0x30 || op == 0x31 || 0x37 ≤ op
  else if within 0x40 0x48 op then k == 1
  else if within 0x49 0x4B op then k ≤ 1
  else if within 0x50 0x57 op then true
  else if op == 0x60 || op == 0x68 then 2 ≤ k
  else if within 0x60 0x69 op then true
  else k == 3

/-- Operand counts (R164, R173 to R190); CVT, CVTSR, CVTI and CVTF by R182, PACK by R184. -/
def opOperands (op sub fmt : Nat) : Nat :=
  if op == 0x05 || op == 0x16 || op == 0x25 || op == 0x26 || within 0x33 0x35 op || within 0x49 0x4B op ||
      op == 0x72 || op == 0x76 || (op == 0x60 && sub == 1) then 3
  else if op == 0x36 then 4
  else if within 0x50 0x53 op then max 1 (fmtWidth sub / max 1 (fmtWidth fmt))
  else if op == 0x54 then 32 / max 1 (fmtWidth fmt)
  else if op == 0x06 || op == 0x07 || within 0x11 0x14 op || op == 0x3B || op == 0x3C || op == 0x3F ||
      within 0x40 0x48 op || within 0x55 0x57 op || within 0x61 0x65 op || op == 0x67 || op == 0x69 ||
      op == 0x70 || op == 0x71 || within 0x77 0x7C op then 1
  else 2

def isIntFmt (f : Nat) : Bool := within 6 9 f || within 11 13 f

/-- FMT and SUB values an operation accepts (R171 to R190). -/
def opFmtSubOk (op sub fmt : Nat) : Bool :=
  let ws := fmtWidth sub
  let wt := fmtWidth fmt
  if op == 0x17 then sub ≤ 5 && (fmt == 8 || fmt == 9)
  else if op == 0x07 then sub == 0 && fmt == 8
  else if op == 0x00 || op == 0x01 || op == 0x03 || op == 0x05 || op == 0x06 then sub == 0 && within 8 10 fmt
  else if within 0x00 0x17 op then sub == 0 && (fmt == 8 || fmt == 9)
  else if within 0x20 0x23 op then sub == 0 && (fmt == 6 || within 11 13 fmt)
  else if op == 0x24 then sub ≤ 1 && (fmt == 11 || fmt == 12)
  else if op == 0x25 then sub == 0 && (fmt == 6 || fmt == 13)
  else if op == 0x26 then sub == 0 && (fmt == 11 || fmt == 12)
  else if op == 0x3E then sub ≤ 7 && fmt == 0
  else if within 0x30 0x48 op then sub == 0 && fmt == 0
  else if op == 0x49 then sub == 0 && fmt == 1
  else if op == 0x4A then sub == 0 && fmt == 2
  else if op == 0x4B then sub == 0 && fmt == 0
  else if op == 0x50 then sub ≤ 5 && fmt ≤ 5 && opOperands op sub fmt ≤ 4
  else if op == 0x51 then sub ≤ 2 && within 1 5 fmt && wt < ws && opOperands op sub fmt ≤ 4
  else if op == 0x52 then (sub ≤ 9 || within 11 13 sub) && isIntFmt fmt && opOperands op sub fmt ≤ 4
  else if op == 0x53 then isIntFmt sub && fmt ≤ 5 && opOperands op sub fmt ≤ 4
  else if op == 0x54 then sub == 0 && (wt == 16 || wt == 8)
  else if op == 0x55 then (wt == 16 || wt == 8 || wt == 4) && sub < 32 / max 1 wt
  else if op == 0x56 then sub == 0 && fmt == 10
  else if op == 0x57 then sub == 0 && fmt == 8
  else if op == 0x63 || op == 0x64 then
    (sub ≤ 2 && (fmt == 0 || fmt == 8 || fmt == 9)) || (within 3 5 sub && (fmt == 8 || fmt == 9))
  else if op == 0x68 then sub ≤ 3 && (fmt == 0 || fmt == 8 || fmt == 9)
  else if op == 0x77 then sub % 4 ≤ 2 && sub / 4 ≤ 2 && (fmt == 0 || fmt == 8 || fmt == 9)
  else if op == 0x60 || op == 0x67 || op == 0x71 || op == 0x74 || op == 0x79 || op == 0x7A || op == 0x7B ||
      op == 0x7C then sub ≤ 1 && fmt == 0
  else sub == 0 && fmt == 0

/-- Operations that round under RND 0 to 4 (R171, R190). -/
def opRounds (op sub fmt : Nat) : Bool :=
  within 0x30 0x36 op || within 0x49 0x4B op || op == 0x50 || op == 0x52 || op == 0x53 ||
    ((op == 0x63 || op == 0x64) && fmt == 0 && sub == 0) || (op == 0x77 && fmt == 0) || op == 0x78

/-- Operations that read SAT (R171, R190). -/
def opSat (op sub fmt : Nat) : Bool :=
  op == 0x20 || op == 0x21 || op == 0x25 || op == 0x26 || within 0x30 0x36 op || within 0x40 0x4B op ||
    op == 0x50 || op == 0x51 || op == 0x53 || ((op == 0x63 || op == 0x64) && fmt == 0 && sub == 0) ||
    (op == 0x77 && fmt == 0)

/-- Operations that read FTZ (R171, R190). -/
def opFtz (op sub fmt : Nat) : Bool :=
  within 0x30 0x3E op || within 0x40 0x4B op || within 0x50 0x53 op ||
    ((op == 0x63 || op == 0x64) && fmt == 0 && sub ≤ 2) || (op == 0x77 && fmt == 0) || op == 0x78

/-- CST restrictions of the stream operations (R190). -/
def opCstOk (op sub : Nat) (cst : Lane) : Bool :=
  if op == 0x73 || op == 0x78 then cst.toNat < 2 ^ 16
  else if op == 0x74 then (sub == 0 && cst.toNat < 2 ^ 16) || cst == 0
  else if op == 0x76 then bits cst 15 8 == 0 && bits cst 7 0 ≠ 0
  else if op == 0x7A then within 1 32 cst.toNat
  else true

/-- The mask a slot operation routes by beside DST (R189): STEER's else mask, LOOP's exit mask, RMAXS's copy mask. -/
def opExtraMask (op : Nat) (cst : Lane) : Nat :=
  if op == 0x73 || op == 0x78 then bits cst 15 0
  else if op == 0x76 then bits cst 31 16
  else 0

/-- The checks of a compute-slot frame that need the frame alone (R164, R165, R168, R171, R190). -/
def slotLegal (op : Nat) (c : SlotCfg) : Bool :=
  let sub := c.sub.toNat
  let fmt := c.fmt.toNat
  let n := opOperands op sub fmt
  let mask := c.dst.toNat ||| opExtraMask op c.cst
  let srcOk (i : Nat) : Bool := if i < n then c.src i ≤ 4 else c.src i == 15
  let empOk (i : Nat) : Bool := c.emp i ≤ 2 && (c.src i < 4 || (c.emp i == 0 && !c.dos.getLsbD i))
  let qselOk (k : Nat) : Bool := mask.testBit k || c.qsel k == 0
  opKnown op && opInSlot op c.unit.toNat && opFmtSubOk op sub fmt && n ≤ 4 &&
  srcOk 0 && srcOk 1 && srcOk 2 && srcOk 3 &&
  (c.src 0 < 4 || (2 ≤ n && c.src 1 < 4) || (3 ≤ n && c.src 2 < 4) || (4 ≤ n && c.src 3 < 4)) &&
  empOk 0 && empOk 1 && empOk 2 && empOk 3 &&
  (!(op == 0x54 || op == 0x55 || op == 0x65) || (c.emp 0 == 0 && c.emp 1 == 0 && c.emp 2 == 0 && c.emp 3 == 0)) &&
  c.len.toNat ≤ 2 && (!(op == 0x74 || op == 0x76) || c.len.toNat == 0) && (!(op == 0x73) || c.len.toNat ≤ 1) &&
  (if op == 0x51 then c.rnd.toNat == 5 else if opRounds op sub fmt then c.rnd.toNat ≤ 4 else c.rnd.toNat == 0) &&
  (!c.sat || opSat op sub fmt) && (!c.ftz || opFtz op sub fmt) && (op == 0x51 || c.seed == 0) &&
  opCstOk op sub c.cst &&
  !mask.testBit 4 && !mask.testBit 5 && qselOk 0 && qselOk 1 && qselOk 2 && qselOk 3 &&
  (mask.testBit 6 || c.agsel == 0)

/-- The operation that an OP code names (R167). -/
def cellInstr (op : Nat) (c : SlotCfg) : Option Instr :=
  match op with
  | 0x00 => some (.iadd c)
  | 0x01 => some (.isub c)
  | 0x02 => some (.iadds c)
  | 0x03 => some (.imul c)
  | 0x04 => some (.imulh c)
  | 0x05 => some (.imad c)
  | 0x06 => some (.ineg c)
  | 0x07 => some (.iabs c)
  | 0x08 => some (.imin c)
  | 0x09 => some (.imax c)
  | 0x0A => some (.ishl c)
  | 0x0B => some (.ishr c)
  | 0x0C => some (.irol c)
  | 0x0D => some (.cellAnd c)
  | 0x0E => some (.cellOr c)
  | 0x0F => some (.cellXor c)
  | 0x10 => some (.cellAndn c)
  | 0x11 => some (.cellPopc c)
  | 0x12 => some (.cellClz c)
  | 0x13 => some (.cellCtz c)
  | 0x14 => some (.brev c)
  | 0x15 => some (.bfx c)
  | 0x16 => some (.bfi c)
  | 0x17 => some (.icmp c)
  | 0x20 => some (.padd c)
  | 0x21 => some (.psub c)
  | 0x22 => some (.pmin c)
  | 0x23 => some (.pmax c)
  | 0x24 => some (.pmulH c)
  | 0x25 => some (.pdot4 c)
  | 0x26 => some (.pdot2 c)
  | 0x30 => some (.fadd c)
  | 0x31 => some (.fsub c)
  | 0x32 => some (.fmul c)
  | 0x33 => some (.ffma c)
  | 0x34 => some (.ffms c)
  | 0x35 => some (.fnma c)
  | 0x36 => some (.ftriad c)
  | 0x37 => some (.fmin c)
  | 0x38 => some (.fmax c)
  | 0x39 => some (.fminp c)
  | 0x3A => some (.fmaxp c)
  | 0x3B => some (.fabs c)
  | 0x3C => some (.fneg c)
  | 0x3D => some (.fsgn c)
  | 0x3E => some (.fcmp c)
  | 0x3F => some (.fclass c)
  | 0x40 => some (.frcp c)
  | 0x41 => some (.frsq c)
  | 0x42 => some (.fsqrt c)
  | 0x43 => some (.fexp2 c)
  | 0x44 => some (.flog2 c)
  | 0x45 => some (.ftanh c)
  | 0x46 => some (.fsigm c)
  | 0x47 => some (.fsinpi c)
  | 0x48 => some (.fcospi c)
  | 0x49 => some (.bfma2 c)
  | 0x4A => some (.hfma2 c)
  | 0x4B => some (.fdot2b c)
  | 0x50 => some (.cvt c)
  | 0x51 => some (.cvtsr c)
  | 0x52 => some (.cvti c)
  | 0x53 => some (.cvtf c)
  | 0x54 => some (.pack c)
  | 0x55 => some (.unpack c)
  | 0x56 => some (.rtenc c)
  | 0x57 => some (.rtdec c)
  | 0x60 => some (.lperm c)
  | 0x61 => some (.lrot c)
  | 0x62 => some (.lbcast c)
  | 0x63 => some (.lscan c)
  | 0x64 => some (.lred c)
  | 0x65 => some (.lpack c)
  | 0x66 => some (.lexpand c)
  | 0x67 => some (.lidx c)
  | 0x68 => some (.lsort c)
  | 0x69 => some (.lmatch c)
  | 0x70 => some (.pass c)
  | 0x71 => some (.const c)
  | 0x72 => some (.sel c)
  | 0x73 => some (.steer c)
  | 0x74 => some (.merge c)
  | 0x75 => some (.gate c)
  | 0x76 => some (.loop c)
  | 0x77 => some (.accrun c)
  | 0x78 => some (.rmaxs c)
  | 0x79 => some (.count c)
  | 0x7A => some (.delay c)
  | 0x7B => some (.drop c)
  | 0x7C => some (.onmark c)
  | _ => none

/-- The address-generator payload (R209). -/
def agCfgOf (f : Frame) : AgCfg where
  col := f.extractLsb' 249 4
  unit := f.extractLsb' 244 2
  ctype := f.extractLsb' 234 2
  tgt := f.extractLsb' 232 2
  shsel := f.extractLsb' 229 3
  bufn := f.extractLsb' 227 2
  out := f.extractLsb' 223 4
  oq := f.extractLsb' 221 2
  isrc := f.extractLsb' 218 3
  vsrc := f.extractLsb' 215 3
  afn := f.extractLsb' 211 4
  fmt := f.extractLsb' 207 4
  rnd := f.extractLsb' 204 3
  ftz := f.getLsbD 203
  waitf := f.getLsbD 202
  lbase := f.extractLsb' 186 16
  lwords := f.extractLsb' 169 17
  rpr := f.extractLsb' 161 8
  kw := f.getLsbD 160

/-- The frame of an address-generator operation (R162, R209). -/
def agFrame (mode : BitVec 4) (c : AgCfg) : Frame :=
  let top : BitVec 20 :=
    (3 : BitVec 3) ++ (c.col ++ ((0 : BitVec 3) ++ (c.unit ++ ((0 : BitVec 4) ++ mode))))
  let mid : BitVec 33 :=
    c.ctype ++ (c.tgt ++ (c.shsel ++ (c.bufn ++ (c.out ++ (c.oq ++ (c.isrc ++ (c.vsrc ++ (c.afn ++
      (c.fmt ++ (c.rnd ++ BitVec.ofBool c.ftz))))))))))
  let low : BitVec 43 := BitVec.ofBool c.waitf ++ (c.lbase ++ (c.lwords ++ (c.rpr ++ BitVec.ofBool c.kw)))
  (top ++ (mid ++ (low ++ (0 : BitVec 160))) : BitVec (20 + (33 + (43 + 160))))

/-- A legal source code of IQ or VQ (R209). -/
def agSrcOk (required : Bool) (x : Nat) : Bool := if required then x ≤ 4 else x == 7

/-- The checks of an address-generator frame that need the frame alone (R115, R209, R212, R215). -/
def agLegal (mode : Nat) (c : AgCfg) : Bool :=
  let ct := c.ctype.toNat
  let tgt := c.tgt.toNat
  let out := c.out.toNat
  let needI := mode == 2 || mode == 3 || mode == 4 || mode == 5 || mode == 6
  let needV := mode == 1 || mode == 3 || mode == 4 || mode == 5 || mode == 6
  let sources := mode == 0 || mode == 2 || mode == 7
  let tgtOk :=
    if mode ≤ 1 then tgt ≤ 2
    else if mode ≤ 3 then tgt == 0 || tgt == 2
    else tgt == 0
  let outOk := if sources then out ≤ 7 else if mode == 6 then out ≤ 8 else out == 0
  let leaf := tgt == 2 && mode ≤ 3
  let typeOk :=
    if ct == 0 then mode ≤ 1 && tgt == 1
    else if ct == 1 then !(mode == 4 || mode == 5)
    else mode == 4 || mode == 5 || (mode ≤ 1 && (tgt == 1 || tgt == 2))
  mode ≤ 7 && ct ≤ 2 && tgtOk && outOk && typeOk &&
  (out ≤ 3 || c.oq == 0) && (sources || mode == 6 || c.oq == 0) &&
  (if mode == 4 || mode == 5 || (mode ≤ 1 && tgt == 1) then c.shsel == 0 else true) &&
  ((mode ≤ 1 && tgt == 1) || c.bufn == 0) &&
  agSrcOk needI c.isrc.toNat && agSrcOk needV c.vsrc.toNat &&
  (!(needI && needV) || c.isrc.toNat == 4 || c.isrc ≠ c.vsrc) &&
  (if mode == 6 then c.afn.toNat ≤ 9 && (c.afn.toNat ≠ 9 || c.fmt == 0) else c.afn == 0) &&
  (if mode == 4 then c.fmt == 0 || within 8 10 c.fmt.toNat
   else if mode == 6 then c.fmt == 0 || c.fmt == 8 || c.fmt == 9 else c.fmt == 0) &&
  (if mode == 4 && c.fmt == 0 then c.rnd.toNat ≤ 4 else c.rnd == 0) &&
  (!c.ftz || ((mode == 4 || mode == 6) && c.fmt == 0)) &&
  (!c.waitf || (leaf && (mode == 0 || mode == 2))) &&
  (if mode == 4 then within 1 65536 c.lwords.toNat && c.lbase.toNat + c.lwords.toNat ≤ 65536
   else c.lbase == 0 && c.lwords == 0) &&
  (if mode == 7 then within 1 64 c.rpr.toNat else c.rpr == 0 && !c.kw)

/-- The operation that a MODE names (R209). -/
def agInstr (mode : Nat) (c : AgCfg) : Option Instr :=
  match mode with
  | 0 => some (.agRead c)
  | 1 => some (.agWrite c)
  | 2 => some (.agGather c)
  | 3 => some (.agScatter c)
  | 4 => some (.agScatadd c)
  | 5 => some (.agBin c)
  | 6 => some (.agAtom c)
  | 7 => some (.agConv c)
  | _ => none

/-! ### Memory-unit, switch and array entries (R218 to R233) -/

/-- MU.BUF payload (R218). -/
structure MuBuf where
  ctype : Nat
  prod : Nat
  cons : Nat
  muout : Nat
  muoq : Nat
  swz : Bool
  fmt : Nat
  slots : Nat
  first : Nat
  nrec : Nat
  deriving DecidableEq, Repr

def muBufOf (f : Frame) : MuBuf :=
  ⟨bits f 239 238, bits f 237 236, bits f 235 233, bits f 232 229, bits f 228 227, bitAt f 226, bits f 225 222,
    bits f 221 217, bits f 216 211, bits f 210 195⟩

def muBufLegal (f : Frame) : Bool :=
  let b := muBufOf f
  Frame.seq f ≤ 3 && b.ctype ≤ 2 && b.cons ≤ 4 && bits f 194 0 == 0 && b.slots ≤ 16 && b.first + b.slots ≤ 64 &&
  b.fmt ≤ 13 && (if b.cons == 1 then b.muout ≤ 6 else b.muout == 0 && b.muoq == 0) &&
  (b.muout ≤ 3 || b.muoq == 0)

/-- MU.TILE group g (R220). -/
structure MuTile where
  en : Bool
  tidx : Nat
  ord : Bool
  swz : Bool
  fmt : Nat
  tbytes : Nat
  rlines : Nat
  lcount : Nat
  base : Nat
  deriving DecidableEq, Repr

def muTileOf (f : Frame) (g : Nat) : MuTile :=
  let o := 160 - 80 * g
  ⟨bitAt f (o + 79), bits f (o + 78) (o + 73), bitAt f (o + 59), bitAt f (o + 58), bits f (o + 57) (o + 54),
    bits f (o + 53) (o + 35), bits f (o + 34) (o + 23), bits f (o + 22) (o + 11), bits f (o + 10) o⟩

def muTileGroupLegal (f : Frame) (g : Nat) : Bool :=
  let t := muTileOf f g
  let o := 160 - 80 * g
  if t.en then
    bits f (o + 72) (o + 60) == 0 && t.fmt ≤ 13
  else bits f (o + 78) o == 0

def muTileLegal (f : Frame) : Bool :=
  let t := muTileOf f
  muTileGroupLegal f 0 && muTileGroupLegal f 1 && muTileGroupLegal f 2 &&
  !((t 0).en && (t 1).en && (t 0).tidx == (t 1).tidx) && !((t 0).en && (t 2).en && (t 0).tidx == (t 2).tidx) &&
  !((t 1).en && (t 2).en && (t 1).tidx == (t 2).tidx)

/-- MU.SPILL group g: EN, PORT, VC, DEPTH (R221). -/
structure MuSpill where
  en : Bool
  port : Nat
  vc : Nat
  depth : Nat
  deriving DecidableEq, Repr

def muSpillOf (f : Frame) (g : Nat) : MuSpill :=
  let o := 208 - 32 * g
  ⟨bitAt f (o + 31), bits f (o + 30) (o + 28), bits f (o + 27) (o + 27), bits f (o + 15) o⟩

def muSpillGroupLegal (f : Frame) (g : Nat) : Bool :=
  let m := muSpillOf f g
  let o := 208 - 32 * g
  if m.en then m.port ≤ 5 && bits f (o + 26) (o + 16) == 0 && m.depth ≠ 0 else bits f (o + 30) o == 0

def muSpillLegal (f : Frame) : Bool :=
  Frame.seq f ≤ 2 && bits f 111 0 == 0 && muSpillGroupLegal f 0 && muSpillGroupLegal f 1 &&
  muSpillGroupLegal f 2 && muSpillGroupLegal f 3

/-- MU.BINTAB payload (R222). -/
structure MuBintab where
  ctype : Nat
  tbase : Nat
  bincount : Nat
  w : Nat
  ovbase : Nat
  ovlen : Nat
  deriving DecidableEq, Repr

def muBintabOf (f : Frame) : MuBintab :=
  ⟨bits f 239 238, bits f 237 222, bits f 221 209, bits f 208 205 + 1, bits f 199 143, bits f 142 111⟩

def muBintabLegal (f : Frame) : Bool :=
  let m := muBintabOf f
  Frame.seq f == 0 && m.ctype == 2 && m.tbase % 2 == 0 && within 1 4096 m.bincount && bits f 204 200 == 0 &&
  m.ovbase % 4 == 0 && bits f 110 0 == 0 && m.tbase + 2 * m.bincount ≤ 65536

/-- MU.STATE payload: SBASE and SLEN (R223). -/
structure MuState where
  sbase : Nat
  slen : Nat
  deriving DecidableEq, Repr

def muStateOf (f : Frame) : MuState := ⟨bits f 239 183, bits f 182 151⟩

def muStateLegal (f : Frame) : Bool :=
  Frame.seq f == 0 && (muStateOf f).sbase % 0x4000 == 0 && bits f 150 0 == 0 && Frame.col f == 0

/-- SW.ROUTE pair p (R224). -/
structure RoutePair where
  en : Bool
  inp : Nat
  ivc : Nat
  out : Nat
  ovc : Nat
  lq : Nat
  spill : Bool
  hi : Nat
  lo : Nat
  deriving DecidableEq, Repr

def routePairOf (f : Frame) (p : Nat) : RoutePair :=
  let o := 180 - 60 * p
  ⟨bitAt f (o + 59), bits f (o + 58) (o + 55), bits f (o + 54) (o + 54), bits f (o + 53) (o + 50),
    bits f (o + 49) (o + 49), bits f (o + 48) (o + 47), bitAt f (o + 46), bits f (o + 45) (o + 30),
    bits f (o + 29) (o + 14)⟩

/-- A queue of a local output: slots have four, address generators and the array two, the sink one (R207). -/
def localQueueOk (out lq : Nat) : Bool :=
  if within 6 9 out then true else if within 10 13 out || out == 15 then lq ≤ 1 else lq == 0

def routePairLegal (f : Frame) (p : Nat) : Bool :=
  let r := routePairOf f p
  let o := 180 - 60 * p
  if r.en then
    bits f (o + 13) o == 0 && (r.inp ≤ 5 || r.ivc == 0) && (r.out ≤ 5 || r.ovc == 0) &&
    (r.out ≥ 6 || r.lq == 0) && localQueueOk r.out r.lq &&
    !(r.inp ≥ 6 && r.out ≥ 6) && !(r.inp ≤ 5 && r.inp == r.out) &&
    (if r.spill then r.out ≤ 5 && 0 < r.lo && r.lo < r.hi else r.hi == 0 && r.lo == 0)
  else bits f (o + 58) o == 0

def swRouteLegal (f : Frame) : Bool :=
  Frame.seq f ≤ 3 && routePairLegal f 0 && routePairLegal f 1 && routePairLegal f 2 && routePairLegal f 3

/-- SW.REPL payload (R226): the input and its branches (OUT, OVC, LQ). -/
structure SwRepl where
  inp : Nat
  ivc : Nat
  nbr : Nat
  br : List (Nat × Nat × Nat)
  deriving DecidableEq, Repr

def swReplOf (f : Frame) : SwRepl :=
  let br (n : Nat) : Nat × Nat × Nat :=
    let o := 224 - 8 * n
    (bits f (o + 7) (o + 4), bits f (o + 3) (o + 3), bits f (o + 2) (o + 1))
  let nbr := bits f 234 232
  ⟨bits f 239 236, bits f 235 235, nbr, ([0, 1, 2, 3].map br).take nbr⟩

def swReplLegal (f : Frame) : Bool :=
  let r := swReplOf f
  Frame.seq f == 0 && within 2 4 r.nbr && bits f 199 0 == 0 && (r.inp ≤ 5 || r.ivc == 0) &&
  r.br.all (fun b => (b.1 ≥ 6 || b.2.2 == 0) && (b.1 ≤ 5 || b.2.1 == 0) && localQueueOk b.1 b.2.2 &&
    !(r.inp ≤ 5 && r.inp == b.1)) &&
  [0, 1, 2, 3].all (fun n => bitAt f (224 - 8 * n) == false && (n < r.nbr || bits f (231 - 8 * n) (224 - 8 * n) == 0))

/-- SW.VERT payload (R227). -/
structure SwVert where
  down : Bool
  bufn : Nat
  coff : Nat
  tcount : Nat
  tstride : Nat
  deriving DecidableEq, Repr

def swVertOf (f : Frame) : SwVert := ⟨bitAt f 239, bits f 238 237, bits f 236 207, bits f 206 191, bits f 190 167⟩

def swVertLegal (f : Frame) : Bool :=
  let v := swVertOf f
  Frame.seq f == 0 && v.coff % 128 == 0 && v.tcount ≠ 0 && v.tstride % 128 == 0 && bits f 166 0 == 0

/-- SW.PARK payload (R228). -/
structure SwPark where
  port : Nat
  vc : Nat
  skip : Nat
  pdepth : Nat
  deriving DecidableEq, Repr

def swParkOf (f : Frame) : SwPark := ⟨bits f 239 237, bits f 236 236, bits f 235 230, bits f 229 214⟩

def swParkLegal (f : Frame) : Bool :=
  let p := swParkOf f
  Frame.seq f == 0 && p.port ≤ 5 && within 1 47 p.skip && p.pdepth ≠ 0 && bits f 213 0 == 0

/-- CT.CFG payload (R229). -/
structure CtCfg where
  role : Nat
  qmode : Nat
  survive : Nat
  swap : Nat
  pfmt : Nat
  qfmt : Nat
  sfmt : Nat
  sat : Bool
  ftz : Bool
  trapinv : Bool
  deriving DecidableEq, Repr

def ctCfgOf (f : Frame) : CtCfg :=
  ⟨bits f 237 236, bits f 235 233, bits f 232 231, bits f 230 229, bits f 228 225, bits f 224 221, bits f 220 217,
    bitAt f 216, bitAt f 215, bitAt f 214⟩

/-- The pairings of R147: stationary format, stream formats. -/
def pairOk (sfmt pfmt : Nat) (qfmt : Option Nat) : Bool :=
  let cls (x : Nat) : Bool :=
    match sfmt with
    | 1 | 2 => x == 1 || x == 2
    | 5 | 7 => x == 1
    | 3 | 4 => x == 3 || x == 4
    | 6 | 10 => x == 6 || x == 10
    | _ => false
  cls pfmt && (match qfmt with | none => true | some q => cls q)

def streamFmtOk (x : Nat) : Bool := within 1 4 x || x == 6 || x == 10

/-- CT.CFG: 32 CONFIG_ILLEGAL, 33 FORMAT_FAULT, 0 accepted (R142, R147, R229). -/
def ctCfgCode (f : Frame) : Nat :=
  let c := ctCfgOf f
  let hasQ := c.qmode == 1 || c.qmode == 2
  if Frame.seq f == 0 && bits f 213 0 == 0 && c.role ≤ 1 && c.qmode ≤ 4 && c.swap ≤ 2 &&
      !(c.role == 1 && c.qmode ≠ 0) && streamFmtOk c.pfmt && (if hasQ then streamFmtOk c.qfmt else c.qfmt == 0) &&
      (within 1 7 c.sfmt || c.sfmt == 10) then
    (if pairOk c.sfmt c.pfmt (if hasQ then some c.qfmt else none) then 0 else 33)
  else 32

/-- CT.LOAD payload (R230). -/
structure CtLoad where
  srcb : Nat
  lfmt : Nat
  sparse : Bool
  krows : Nat
  jcols : Nat
  hdr : Bool
  deriving DecidableEq, Repr

def ctLoadOf (f : Frame) : CtLoad :=
  ⟨bits f 237 236, bits f 235 232, bitAt f 231, bits f 230 225, bits f 224 218, bitAt f 217⟩

/-- KROWS, JCOLS and format of a plane (R146, R147). -/
def planeShapeOk (lfmt : Nat) (sparse : Bool) (krows jcols : Nat) : Bool :=
  (within 1 7 lfmt || lfmt == 10) && within 1 (if sparse then 32 else 16) krows && within 1 64 jcols

def ctLoadLegal (f : Frame) : Bool :=
  let c := ctLoadOf f
  Frame.seq f == 0 && bits f 216 0 == 0 &&
  (if c.hdr then c.lfmt == 0 && !c.sparse && c.krows == 0 && c.jcols == 0
   else planeShapeOk c.lfmt c.sparse c.krows c.jcols)

/-- CT.CHAIN payload: POS and LEN (R233). -/
structure CtChain where
  pos : Nat
  len : Nat
  deriving DecidableEq, Repr

def ctChainOf (f : Frame) : CtChain := ⟨bits f 237 236, bits f 235 234⟩

def ctChainLegal (f : Frame) : Bool :=
  let c := ctChainOf f
  Frame.seq f == 0 && bits f 233 0 == 0 && c.len ≠ 0 && c.pos ≤ c.len

/-- CT.ACC payload (R231). -/
structure CtAcc where
  row0 : Nat
  bank : Nat
  drain : Bool
  dout : Nat
  doq : Nat
  prows : Nat
  rsc : Nat
  deriving DecidableEq, Repr

def ctAccOf (f : Frame) : CtAcc :=
  ⟨bits f 239 234, bits f 233 233, bitAt f 232, bits f 231 228, bits f 227 226, bits f 225 219, bits f 218 217⟩

def ctAccLegal (f : Frame) : Bool :=
  let c := ctAccOf f
  Frame.seq f == 0 && bits f 216 0 == 0 && c.prows ≤ 64 && c.rsc ≤ 1 &&
  (c.dout ≤ 3 || c.dout == 6 || c.dout == 7 || c.dout == 8) && (c.dout ≤ 3 || c.doq == 0) &&
  (c.drain || c.dout == 8)

/-- The name of an entry: LAYOUT, UNIT and, for the array unit, the selector (R163). -/
def entryName (f : Frame) : Nat × Nat × Nat :=
  (Frame.layout f, Frame.unit f, if Frame.layout f == 0 && Frame.unit f == 4 then bits f 239 238 else 0)

/-- The code that blocks a frame, judged by the frame alone; 0 when it is accepted (R163, R168). -/
def frameCode (f : Frame) : Nat :=
  let ill (b : Bool) : Nat := if b then 0 else 32
  let u := Frame.unit f
  match Frame.layout f with
  | 0 =>
    if u ≤ 3 then
      ill (Frame.seq f == 0 && bits f 187 186 == 0 && bits f 143 143 == 0 && bits f 93 0 == 0 &&
        slotLegal (bits f 239 232) (slotCfgOf f))
    else if u == 4 then
      match bits f 239 238 with
      | 0 => ctCfgCode f
      | 1 => ill (ctLoadLegal f)
      | 2 => ill (ctChainLegal f)
      | _ => 32
    else if u == 5 then ill (ctAccLegal f)
    else 32
  | 1 =>
    match u with
    | 0 => ill (muBufLegal f)
    | 1 => ill (muTileLegal f)
    | 2 => ill (muSpillLegal f)
    | 3 => ill (muBintabLegal f)
    | 4 => ill (muStateLegal f)
    | _ => 32
  | 2 =>
    match u with
    | 0 => ill (swRouteLegal f)
    | 1 => ill (swReplLegal f)
    | 2 => ill (swVertLegal f)
    | 3 => ill (swParkLegal f)
    | _ => 32
  | 3 =>
    ill (u ≤ 3 && Frame.seq f == 0 && bits f 159 0 == 0 && agLegal (bits f 239 236) (agCfgOf f))
  | 7 => ill (bits f 252 0 == 0)
  | _ => 32

/-- Decoding of a frame: a slot frame names its cell operation, a LAYOUT 3 frame its address-generator operation, a
LAYOUT 7 frame the image end; any other accepted frame is an entry of the configuration wave (R116, R163). -/
def decodeFrame (f : Frame) : FDec :=
  let code := frameCode f
  if code ≠ 0 then .blocked code
  else
    match Frame.layout f with
    | 0 =>
      if Frame.unit f ≤ 3 then
        match cellInstr (bits f 239 232) (slotCfgOf f) with
        | some i => .instr i
        | none => .blocked 32
      else .instr (.configFrame f)
    | 3 =>
      match agInstr (bits f 239 236) (agCfgOf f) with
      | some i => .instr i
      | none => .blocked 32
    | 7 => .instr .imageEnd
    | _ => .instr (.configFrame f)

/-- OP codes and configurations of the cell operations (R167). -/
def cellOp : Instr → Option (BitVec 8 × SlotCfg)
  | .iadd c => some (0x00, c)
  | .isub c => some (0x01, c)
  | .iadds c => some (0x02, c)
  | .imul c => some (0x03, c)
  | .imulh c => some (0x04, c)
  | .imad c => some (0x05, c)
  | .ineg c => some (0x06, c)
  | .iabs c => some (0x07, c)
  | .imin c => some (0x08, c)
  | .imax c => some (0x09, c)
  | .ishl c => some (0x0A, c)
  | .ishr c => some (0x0B, c)
  | .irol c => some (0x0C, c)
  | .cellAnd c => some (0x0D, c)
  | .cellOr c => some (0x0E, c)
  | .cellXor c => some (0x0F, c)
  | .cellAndn c => some (0x10, c)
  | .cellPopc c => some (0x11, c)
  | .cellClz c => some (0x12, c)
  | .cellCtz c => some (0x13, c)
  | .brev c => some (0x14, c)
  | .bfx c => some (0x15, c)
  | .bfi c => some (0x16, c)
  | .icmp c => some (0x17, c)
  | .padd c => some (0x20, c)
  | .psub c => some (0x21, c)
  | .pmin c => some (0x22, c)
  | .pmax c => some (0x23, c)
  | .pmulH c => some (0x24, c)
  | .pdot4 c => some (0x25, c)
  | .pdot2 c => some (0x26, c)
  | .fadd c => some (0x30, c)
  | .fsub c => some (0x31, c)
  | .fmul c => some (0x32, c)
  | .ffma c => some (0x33, c)
  | .ffms c => some (0x34, c)
  | .fnma c => some (0x35, c)
  | .ftriad c => some (0x36, c)
  | .fmin c => some (0x37, c)
  | .fmax c => some (0x38, c)
  | .fminp c => some (0x39, c)
  | .fmaxp c => some (0x3A, c)
  | .fabs c => some (0x3B, c)
  | .fneg c => some (0x3C, c)
  | .fsgn c => some (0x3D, c)
  | .fcmp c => some (0x3E, c)
  | .fclass c => some (0x3F, c)
  | .frcp c => some (0x40, c)
  | .frsq c => some (0x41, c)
  | .fsqrt c => some (0x42, c)
  | .fexp2 c => some (0x43, c)
  | .flog2 c => some (0x44, c)
  | .ftanh c => some (0x45, c)
  | .fsigm c => some (0x46, c)
  | .fsinpi c => some (0x47, c)
  | .fcospi c => some (0x48, c)
  | .bfma2 c => some (0x49, c)
  | .hfma2 c => some (0x4A, c)
  | .fdot2b c => some (0x4B, c)
  | .cvt c => some (0x50, c)
  | .cvtsr c => some (0x51, c)
  | .cvti c => some (0x52, c)
  | .cvtf c => some (0x53, c)
  | .pack c => some (0x54, c)
  | .unpack c => some (0x55, c)
  | .rtenc c => some (0x56, c)
  | .rtdec c => some (0x57, c)
  | .lperm c => some (0x60, c)
  | .lrot c => some (0x61, c)
  | .lbcast c => some (0x62, c)
  | .lscan c => some (0x63, c)
  | .lred c => some (0x64, c)
  | .lpack c => some (0x65, c)
  | .lexpand c => some (0x66, c)
  | .lidx c => some (0x67, c)
  | .lsort c => some (0x68, c)
  | .lmatch c => some (0x69, c)
  | .pass c => some (0x70, c)
  | .const c => some (0x71, c)
  | .sel c => some (0x72, c)
  | .steer c => some (0x73, c)
  | .merge c => some (0x74, c)
  | .gate c => some (0x75, c)
  | .loop c => some (0x76, c)
  | .accrun c => some (0x77, c)
  | .rmaxs c => some (0x78, c)
  | .count c => some (0x79, c)
  | .delay c => some (0x7A, c)
  | .drop c => some (0x7B, c)
  | .onmark c => some (0x7C, c)
  | _ => none

/-- MODE codes and configurations of the address-generator operations (R209). -/
def agOp : Instr → Option (BitVec 4 × AgCfg)
  | .agRead c => some (0, c)
  | .agWrite c => some (1, c)
  | .agGather c => some (2, c)
  | .agScatter c => some (3, c)
  | .agScatadd c => some (4, c)
  | .agBin c => some (5, c)
  | .agAtom c => some (6, c)
  | .agConv c => some (7, c)
  | _ => none

/-- The frame of an instruction that has one (R162). -/
def encodeFrame (i : Instr) : Option Frame :=
  match cellOp i with
  | some (op, c) => some (slotFrame op c)
  | none =>
    match agOp i with
    | some (m, c) => some (agFrame m c)
    | none =>
      match i with
      | .imageEnd => some ((7 : BitVec 3) ++ (0 : BitVec 253) : BitVec (3 + 253))
      | .configFrame f => some f
      | _ => none

/-- The bytes of a well-formed instruction that has an encoding in the spec, the lowest address first (R2, R156, R162);
none for a step without an encoding. -/
def encode (i : Instr) : List Byte :=
  match encodeWord i with
  | some w => leBytes 8 w.toNat
  | none =>
    match encodeFrame i with
    | some f => leBytes 32 f.toNat
    | none => []

/-- The instruction the decoder reads from nbits bits: a word of up to 64 bits is a root-core word, a longer one a
frame. -/
def decodeTableWord (nbits w : Nat) : Option Instr :=
  if nbits ≤ 64 then
    match decodeWord (BitVec.ofNat 64 w) with
    | .instr i => some i
    | _ => none
  else
    match decodeFrame (BitVec.ofNat 256 w) with
    | .instr i => some i
    | .blocked _ => none

end Sys2Proof
end

