-- ==== Sys2Proof/Machine/Memory.lean ====
section
/-!
DEFINITION. Bytes by address, in one canonical form: addresses rising, no zero byte listed. An address that is not
listed reads as zero: memory initialisation and the resets write zeros (R30, R57, R352).
-/
namespace Sys2Proof.Machine

/-- Bytes by address; an unlisted address holds 0 (R30). -/
abbrev Memory := List Host.Cell

namespace Memory

/-- The byte at an address. -/
def read : Memory → Nat → Byte
  | [], _ => 0
  | (b, x) :: r, a => if a = b then x else read r a

/-- The list with a byte put in its place, addresses rising. -/
def insert : Memory → Nat → Byte → Memory
  | [], a, v => [(a, v)]
  | (b, x) :: r, a, v =>
    if a < b then (a, v) :: (b, x) :: r
    else if a = b then (a, v) :: r
    else (b, x) :: insert r a v

/-- The list without an address. -/
def erase (m : Memory) (a : Nat) : Memory := m.filter fun c => c.1 ≠ a

/-- One byte written; a zero byte is not listed. -/
def write (m : Memory) (a : Nat) (v : Byte) : Memory :=
  if v = 0 then m.erase a else m.insert a v

/-- n bytes from an address up (R2). -/
def readN (m : Memory) (a : Nat) : Nat → List Byte
  | 0 => []
  | n + 1 => m.read a :: readN m (a + 1) n

/-- Bytes written from an address up (R2). -/
def writeN (m : Memory) (a : Nat) : List Byte → Memory
  | [] => m
  | b :: bs => writeN (m.write a b) (a + 1) bs

/-- n bytes as one little-endian number (R2). -/
def readLe (m : Memory) (a n : Nat) : Nat := leNat (m.readN a n)

/-- The n low bytes of a number written little-endian (R2). -/
def writeLe (m : Memory) (a n x : Nat) : Memory := m.writeN a (leBytes n x)

/-- The listed bytes of the range [a, a + n). -/
def slice (m : Memory) (a n : Nat) : Memory := m.filter fun c => a ≤ c.1 ∧ c.1 < a + n

/-- The range [a, a + n) as zeros. -/
def clear (m : Memory) (a n : Nat) : Memory := m.filter fun c => ¬ (a ≤ c.1 ∧ c.1 < a + n)

/-- m with the range [a, a + n) taken from src. -/
def copyFrom (m src : Memory) (a n : Nat) : Memory := m.writeN a (src.readN a n)

/-- The canonical form. -/
def wf (m : Memory) : Bool :=
  match m with
  | [] => true
  | (a, x) :: r => x ≠ 0 && (match r with | [] => true | (b, _) :: _ => a < b) && wf r

end Memory

end Sys2Proof.Machine
end

