-- ==== Sys2Proof/Machine/Table.lean ====
section
/-!
DEFINITION. Sparse data by key: a list of key and value pairs, keys rising. What an unlisted key holds is named where
the table is read.
-/
namespace Sys2Proof.Machine

/-- Values by key. -/
abbrev Table (α : Type) := List (Nat × α)

namespace Table

variable {α : Type}

/-- The value listed for a key. -/
def get : Table α → Nat → Option α
  | [], _ => none
  | (a, x) :: r, k => if k = a then some x else get r k

/-- The value of a key, d when it is not listed. -/
def getD (t : Table α) (k : Nat) (d : α) : α := (t.get k).getD d

/-- The table with a key's value replaced or added. -/
def set : Table α → Nat → α → Table α
  | [], k, v => [(k, v)]
  | (a, x) :: r, k, v =>
    if k < a then (k, v) :: (a, x) :: r
    else if k = a then (k, v) :: r
    else (a, x) :: set r k v

/-- The table without a key. -/
def del (t : Table α) (k : Nat) : Table α := t.filter fun p => p.1 ≠ k

/-- Every listed value changed by f. -/
def mapVals {β : Type} (t : Table α) (f : α → β) : Table β := t.map fun p => (p.1, f p.2)

/-- The listed values, keys rising. -/
def vals (t : Table α) : List α := t.map (·.2)

/-- The listed keys. -/
def keys (t : Table α) : List Nat := t.map (·.1)

end Table

/-- The element of a list at an index, d beyond its end. -/
def nth {α : Type} (l : List α) (i : Nat) (d : α) : α := (l[i]?).getD d

/-- The numbers from a on, n of them. -/
def upFrom (a n : Nat) : List Nat := (List.range n).map (a + ·)

end Sys2Proof.Machine
end

