-- ==== Sys2Proof/Machine/State.lean ====
section
/-!
DEFINITION. The state of the package, as plain data: every piece of state the spec names, and the model's own fields
(what moves next, a counter for free values).
-/
namespace Sys2Proof.Machine

/-- The fault codes that are raised (R339). -/
inductive Code where
  | illegalInstruction | reservedField | misaligned | pageNotPresent | permission | reservedPteBit | privileged
  | break | uncorrectable | ownerFenced | crownScratchUnbacked | coordRange | coordOverflow
  | configIllegal | formatFault | streamLengthMismatch | unbalancedSwitch | deadlock | binOverflow | arrayNoSpare
  | saveAreaExhausted | fpInvalid
  deriving DecidableEq, Repr

/-! ## Root cores -/

/-- A channel message: a word with a clock (R73, R236). -/
structure Msg where
  word : Word
  clock : Nat
  deriving DecidableEq, Repr

/-- The condition a deferred task waits for (R238). -/
inductive Wait where
  /-- HOLD: a message on the task's channel (R276). -/
  | message
  /-- BWAITF: n READY slots of handle h (R270). -/
  | full (h n : Nat)
  /-- BWAITE: n FREE slots of handle h (R270). -/
  | free (h n : Nat)
  /-- CNTWAIT: the counter at a virtual address reaches a target (R283). -/
  | counter (pa : Nat) (target : Word)
  /-- JWAIT (R275). -/
  | job (e : Eng) (n : Nat)
  /-- JWAIT.ALL (R275). -/
  | jobs (e : Eng)
  /-- LLD on an empty leaf line: position in the branch and line (R257). -/
  | leaf (pos line : Nat)
  /-- CFGLOAD: the row it holds of a launch of the core's job reports quiescence, or the launch is placed no more (R287). -/
  | quiet (lid row : Nat)
  deriving DecidableEq, Repr

/-- A deferred task: its PC and g1 to g15, what it waits for, whether it is resumable (R238), and whether its notice came while
the core was halted (R345), and the words behind it that have been performed already (R78). -/
structure Deferred where
  pc : Word
  regs : List Word
  wait : Wait
  ready : Bool
  told : Bool
  ahead : List Word
  deriving DecidableEq, Repr

/-- A channel (R236), with its timer: the core's cycle count at which it expires (R279). -/
structure Channel where
  entry : Option Word
  pri : Nat
  mask : Bool
  queue : List Msg
  deferred : Option Deferred
  timer : Option Nat
  deriving DecidableEq, Repr

/-- What a core runs: nothing, a start task, or a task of a channel (R237, R242). -/
inductive Task where
  | none
  | start
  | chan (c : Nat)
  deriving DecidableEq, Repr

/-- A cached leaf translation (R44): ASID or every ASID, the page's first virtual and physical address, its size as
the number of offset bits (12, 16, 21 or 30), the leaf's level, its permission bits, MTYPE, and whether DIRTY was
set. -/
structure Xlate where
  asid : Nat
  glob : Bool
  va : Nat
  pa : Nat
  size : Nat
  level : Nat
  wr : Bool
  rd : Bool
  ex : Bool
  user : Bool
  mtype : Nat
  dirty : Bool
  deriving DecidableEq, Repr

/-- A walk-cache entry: a non-leaf entry of a level, with the table it points to (R44). -/
structure WalkEntry where
  asid : Nat
  level : Nat
  tag : Nat
  table : Nat
  deriving DecidableEq, Repr

/-- A watch of CNTNOTE (R281): the job whose watch it is, the counter's line bytes, the target, the channel it
notifies. -/
structure Watch where
  job : Nat
  pa : Nat
  target : Word
  chan : Nat
  deriving DecidableEq, Repr

/-- What a message comes from: a root core, a buffer of a cluster, the home tower of a counter, a copy engine, a timer, or the
scheduler (R73, R236). -/
inductive Sender where
  | core (n : Nat)
  | buffer (cl b : Nat)
  | home (tower : Nat)
  | engine (e : Nat)
  | timer (core chan : Nat)
  | scheduler
  deriving DecidableEq, Repr

/-- An undelivered message: its source, and the core and channel it is for (R236). -/
structure Mail where
  src : Sender
  core : Nat
  chan : Nat
  msg : Msg
  deriving DecidableEq, Repr

/-- An instruction between two of its steps (R66): a SIN or SOUT with the lines still to be accessed, the bytes read and the slot
it has bound (R266), a CFGLOAD with the bytes read and the clock of its loads (R287), or a CANCEL with its count in data (R285). -/
structure Burst where
  instr : Instr
  lines : List (Nat × Xlate)
  data : List Byte
  slot : Nat
  clk : Nat
  deriving DecidableEq, Repr

/-- A root core (R234 to R242); relatch holds the bands a RELATCH in progress went into (R289), burst an instruction between two
of its steps, ahead the addresses of words behind the PC that have been performed already (R78), and eahead those behind the word
in SYS_EPC, while a trap is handled. -/
structure Core where
  g : Vector Word 32
  pc : Word
  priv : Bool
  ppriv : Bool
  task : Task
  code : Nat
  level : Nat
  epc : Word
  eval : Word
  vbase : Word
  asid : Nat
  tbase : Nat
  job : Nat
  pts : Nat
  cycle : Nat
  chans : Table Channel
  lastAt : Table Nat
  out : List Mail
  watches : List Watch
  halted : Bool
  wayTower : Nat
  wayBank : Nat
  wayErr : Bool
  frStat : Nat
  relatch : Option Nat
  burst : Option Burst
  ahead : List Word
  eahead : List Word
  tlb : List Xlate
  deriving DecidableEq, Repr

/-- A channel after cold reset: unbound, unmasked, priority 0, empty (R240). -/
def Channel.reset : Channel := ⟨none, 0, false, [], none, none⟩

/-- A core after cold reset (R234, R239, R240, R241); registers the spec gives no reset value hold 0 (log 2). -/
def Core.reset : Core where
  g := Vector.replicate 32 0
  pc := 0
  priv := true
  ppriv := true
  task := .none
  code := 0
  level := 0
  epc := 0
  eval := 0
  vbase := 0
  asid := 0
  tbase := 0
  job := 0xFFFF
  pts := 0
  cycle := 0
  chans := []
  lastAt := []
  out := []
  watches := []
  halted := false
  wayTower := 0
  wayBank := 0
  wayErr := false
  frStat := 0
  relatch := none
  burst := none
  ahead := []
  eahead := []
  tlb := []

/-! ## Lines, banks, translation caches -/

/-- States of a line (R21). -/
inductive LineSt where
  | i | s | e | o | m
  deriving DecidableEq, Repr

/-- An older version of a line that a leased copy may still hold, and whether a walk may still read it: none reads a
version older than the last invalidation (R45, R64, R67). -/
structure Version where
  cells : Memory
  wts : Nat
  rts : Nat
  walks : Bool
  deriving DecidableEq, Repr

/-- Where the home tower or a remote-data cache holds a copy (R23, R50, R58): a tree bank by its number, home
ways, or nothing. -/
inductive Place where
  | none
  | tree (bank : Nat)
  | home
  deriving DecidableEq, Repr

/-- The owner's copy of a line: held; lost in a reset (R352); or of a package that was fenced and has rejoined, which a forward
asks whether it still holds it (R370). -/
inductive Copy where
  | held | lost | asked
  deriving DecidableEq, Repr

/-- What the home keeps of a line beside its data: the metadata word (R21), the timestamps of the latest version, the
older versions still listed, symbol errors (R20, R31), where the home keeps a copy, the home way of a copy in its crown
bank, the remote way of the owner's copy in another tower's crown bank (R55), and whether the owner still has its copy. -/
structure LineInfo where
  st : LineSt
  owner : Nat
  recWts : Nat
  recRts : Nat
  recTurn : Bool
  wts : Nat
  rts : Nat
  old : List Version
  sym : Bool
  bad : Bool
  place : Place
  way : Nat
  rway : Nat
  copy : Copy
  deriving DecidableEq, Repr

/-- A line after memory initialisation (R30). -/
def LineInfo.reset : LineInfo := ⟨.i, 0x3FF, 0, 0, false, 0, 0, [], false, false, .none, 0, 0, .held⟩

/-- A crown bank: its partition, a repartition in progress with its new partition, whether it is off line, and the
spill and parking tokens reserved in it (R55 to R63). -/
structure Bank where
  home : Nat
  remote : Nat
  spill : Nat
  scratch : Nat
  next : Option (Nat × Nat × Nat × Nat)
  offline : Bool
  reserved : Nat
  deriving DecidableEq, Repr

/-- A crown bank after cold reset (R56). -/
def Bank.reset : Bank := ⟨16, 0, 0, 0, none, false, 0⟩

/-- A region of a tree bank's table: launch (job and id), first line, lines, and whether its stream is warm (R49). -/
structure Region where
  job : Nat
  lid : Nat
  line : Nat
  len : Nat
  warm : Bool
  deriving DecidableEq, Repr

/-- A crown-scratch write that has not arrived in its bank's write buffer: the agent that made it, its bytes (R60). -/
structure Posted where
  agent : Nat
  pa : Nat
  data : List Byte
  deriving DecidableEq, Repr

/-- A corrected event (R380, CELOG). -/
structure CeEntry where
  tower : Nat
  layer : Nat
  x : Nat
  y : Nat
  kind : Nat
  detail : Nat
  deriving DecidableEq, Repr

/-! ## Leaf stores and clusters -/

/-- A token: kind, record tag, valid lanes, lane data (R105, R106). The parity bits follow from these. -/
structure Token where
  kind : Nat
  seq : Nat
  valid : BitVec 16
  lanes : BitVec 512
  deriving DecidableEq, Repr

/-- What each leaf line carries beside its data (R91). -/
structure LeafLine where
  full : Bool
  clk : Nat
  swz : Bool
  deriving DecidableEq, Repr

/-- States of a slot (R94). -/
inductive TileSt where
  | empty | filling | ready | draining
  deriving DecidableEq, Repr

/-- A tile table entry (R94), and whether a fill job still has writes of its tile to make (R96). -/
structure Tile where
  st : TileSt
  tclk : Nat
  ord : Bool
  swz : Bool
  fmt : Nat
  tbytes : Nat
  rlines : Nat
  lcount : Nat
  base : Nat
  due : Bool
  deriving DecidableEq, Repr

/-- A tile entry after cold reset; the fields without a reset value hold 0 (log 2). -/
def Tile.reset : Tile := ⟨.empty, 0, false, false, 0, 0, 0, 0, 0, false⟩

/-- An armed notice of BNOTE: the core, the job whose watch it is, the channel, and the count (R280). -/
structure Note where
  core : Nat
  chan : Nat
  count : Nat
  deriving DecidableEq, Repr

/-- A buffer descriptor (R95), the fill job that claims its producer index (R88), the free slots and freed-slot notices a
claiming job has not used (R89), the notices armed on it, and whether a slot has changed state since they were last tested (R280). -/
structure Buf where
  pidx : Nat
  cidx : Nat
  swz : Bool
  fmt : Nat
  slots : Nat
  first : Nat
  claim : Option Nat
  credit : Nat
  noteF : Option Note
  noteE : Option Note
  moved : Bool
  deriving DecidableEq, Repr

/-- A buffer after cold reset: absent (R95); FMT and FIRST, which have no reset value, hold 0 (log 2). -/
def Buf.reset : Buf := ⟨0, 0, false, 0, 0, 0, none, 0, none, none, false⟩

/-- A leaf write held in the twig switch: the agent that made it, the target cluster, the byte offset, the data, the half of the
byte that a 4-bit cell takes (true the upper one), and its clock (R77). -/
structure TwigWrite where
  agent : Nat
  cl : Nat
  off : Nat
  data : List Byte
  half : Option Bool
  pts : Nat
  deriving DecidableEq, Repr

/-! ## Units of the fabric -/

/-- Stage state of a slot's stream operation (R204): counters, a lane register with its valid lanes, a flag, and a delay line. Each operation names what it keeps there. -/
structure SlotSt where
  n : Nat
  m : Nat
  flag : Bool
  acc : BitVec 512
  accValid : BitVec 16
  fifo : List Token
  deriving DecidableEq, Repr

def SlotSt.reset : SlotSt := ⟨0, 0, false, 0, 0, []⟩

/-- A compute slot: its frame, whether it is blocked (R117), whether a SWITCH applied the frame (R204), stage state,
generator states (R134), stall record (R110), a fault it waits on with a SKIP to carry out (R343), and the inputs that LEN
TRUNCATE discards up to their next token that is not valued (R188). -/
structure Slot where
  frame : Option Frame
  blocked : Bool
  switched : Bool
  st : SlotSt
  gen : List Lane
  cause : Nat
  dest : Nat
  inWait : Nat
  outWait : Nat
  stall : Bool
  skip : Bool
  cut : List Nat
  deriving DecidableEq, Repr

def Slot.reset : Slot := ⟨none, false, false, .reset, [], 0, 0, 0, 0, false, false, []⟩

/-- An address generator (R209 to R217): frame, shape record, clock, latched bases, traversal (tile, lane, element), the
lines and values of the tile in hand, tokens waiting to be sent, lines to be written as 4-bit cells, the count of tokens of
the record in hand, collected tokens, the pages still to be latched (R46), whether the rest of a record is being dropped, and
end and fault marks. -/
structure Ag where
  frame : Option Frame
  blocked : Bool
  shape : Option Shape
  pts : Nat
  bases : List Xlate
  tile : Nat
  lane : Nat
  elem : Nat
  seq : Nat
  sinceMark : Nat
  lines : Table (List Byte)
  vals : List (Option Nat)
  outq : List Token
  wlines : List (Nat × Table Nat)
  wtok : Nat
  held : List Token
  pend : List Nat
  drop : Bool
  ended : Bool
  eos : Bool
  stall : Bool
  skip : Bool
  deriving DecidableEq, Repr

def Ag.reset : Ag :=
  ⟨none, false, none, 0, [], 0, 0, 0, 0, 0, [], [], [], [], 0, [], [], false, false, false, false, false⟩

/-- The memory unit: source position and records since the last MARK, tokens waiting to be sent, sink progress, SW.VERT
index, end and fault marks, its own for SW.VERT (R211, R219, R227), the cuts SMARK and SEOS asked for: the number of slots
before the cut, and whether it ends the stream (R267), and the overflow fill pointer of MU.BINTAB, in words (R101, R222). -/
structure Mu where
  seq : Nat
  slots : Nat
  sinceMark : Nat
  outq : List Token
  reading : Bool
  ended : Bool
  wtok : Nat
  eos : Bool
  vert : Nat
  cuts : List (Nat × Bool)
  stall : Bool
  skip : Bool
  blocked : Bool
  vstall : Bool
  ovfill : Nat
  deriving DecidableEq, Repr

def Mu.reset : Mu := ⟨0, 0, 0, [], false, false, 0, false, 0, [], false, false, false, false, 0⟩

/-- The port counts of a buffer: slots made READY or emptied by the core since binding, and SEOS done (R267, R268). -/
structure Port where
  recs : Nat
  seos : Bool
  deriving DecidableEq, Repr

/-- A stationary plane (R146): format, sparsity, KROWS, JCOLS, the codes of S by row and column, scales, 2:4 metadata,
and a latched Q of GRID or BCAST. -/
structure Plane where
  fmt : Nat
  sparse : Bool
  krows : Nat
  jcols : Nat
  s : List Nat
  scales : List Nat
  nibbles : List Nat
  q : List Nat
  deriving DecidableEq, Repr

/-- A drain in progress: its bank and the tokens still to be sent (R149). -/
structure Drain where
  bank : Nat
  toks : List Token
  deriving DecidableEq, Repr

/-- The contraction array (R140 to R155): planes, tokens of a plane being loaded, the accumulator file (address
4096·bank + 64·row + column, unlisted +0) with TOUCHED bits, the pass counter, the pass within the token at arr.p and the
token at arr.q, the current bank, the drain, the end token that waits behind it, whether a swap is due, the retired column,
an EOS held as a sink, the SEQ of the record, and fault marks, one for a plane load. -/
structure Arr where
  active : Option Plane
  shadow : Option Plane
  load : List Token
  acc : Table Nat
  touched : Table Nat
  n : Nat
  pIdx : Nat
  qIdx : Nat
  bank : Nat
  drain : Option Drain
  endTok : Option Token
  swapDue : Bool
  retired : Option Nat
  eos : Bool
  seq : Nat
  stall : Bool
  skip : Bool
  loadSkip : Bool
  blocked : Bool
  deriving DecidableEq, Repr

def Arr.reset : Arr :=
  ⟨none, none, [], [], [], 0, 0, 0, 0, none, none, true, none, false, 0, false, false, false, false⟩

/-- The spill FIFO of a router pair and whether it accepts tokens (R62). -/
structure Spill where
  toks : List Token
  accepting : Bool
  deriving DecidableEq, Repr

/-- A cluster. Queues of units are numbered 4·slot + queue, 16 + 2·generator (IQ), 17 + 2·generator (VQ), 24 (memory-unit
sink), 25 and 26 (arr.p and arr.q); router queues 2·port + VC with ports 0 to 5 as R207 and 6 local, each token with the
number of the pair that a local one takes. closed holds the sources that have sent the CLOSE of a pre-emption (R346). cfg holds the configured frames of the other entries, by 64·LAYOUT·UNIT code
(R205); marked and ended hold the inputs and sources (32 + generator, 36 the memory unit) that have taken or sent a MARK or an
EOS since the stage entered (R325, R327), and the outputs of circuits that only cross the router (64 + pair, 80 for SW.REPL)
that have let one pass; scan holds what the scan window has written to entries that hold no token (1024 bits by entry:
8·queue, 256 + 8·router queue). -/
structure Cluster where
  leaf : Memory
  lines : Table LeafLine
  tiles : Table Tile
  bufs : Table Buf
  ports : Table Port
  ctype : Nat
  cfg : Table Frame
  slots : Table Slot
  ags : Table Ag
  mu : Mu
  arr : Arr
  q : Table (List Token)
  rq : Table (List (Nat × Token))
  spill : Table Spill
  rblocked : Bool
  flags : Flags
  marked : List Nat
  ended : List Nat
  closed : List Nat
  kept : List Frame
  scan : Table Nat
  done : Bool
  launch : Option (Nat × Nat)
  deriving DecidableEq, Repr

/-- A cluster after cold reset (R91, R94, R95, R352). -/
def Cluster.reset : Cluster where
  leaf := []
  lines := []
  tiles := []
  bufs := []
  ports := []
  ctype := 0
  cfg := []
  slots := []
  ags := []
  mu := .reset
  arr := .reset
  q := []
  rq := []
  spill := []
  rblocked := false
  flags := 0
  marked := []
  ended := []
  closed := []
  kept := []
  scan := []
  done := false
  launch := none

/-! ## Copy engines -/

/-- States of a queue slot (R275). -/
inductive JobSt where
  | free | waiting | running | stopped
  deriving DecidableEq, Repr

/-- A queue slot of a copy engine: the card and its physical address, the state, PROGRESS, the index after its last tile,
the job's clock, the issuing core and its job, address space and table root, the jobs it waits for (64·engine + slot),
whether a tile is in hand, the shape records, the lines of the tile still to be read, those
read, and those to be written as 4-bit cells by address in the line, the tile entries that each tile started and not yet
delivered has in the job's buffers (R96), the buffers still to be written with the tile in hand and the next line of each
(R77), whether it waits on a fault, whether its job was admitted at its issue (R241), whether it stops after the tile in hand
(R346), whether a stopped job has been asked to resume (R347), the code and record of a failure, and the completion record: final clock and status (R75, R80, R275). -/
structure CopyJob where
  card : Card
  cardPa : Nat
  st : JobSt
  progress : Nat
  limit : Nat
  pts : Nat
  core : Nat
  job : Nat
  asid : Nat
  tbase : Nat
  edges : List Nat
  started : Bool
  sshape : Shape
  dshape : Shape
  pend : List Nat
  lines : Table (List Byte)
  wlines : List (Nat × Table Nat)
  taken : List (List Nat)
  fills : List (Nat × Nat)
  stall : Bool
  admitted : Bool
  halt : Bool
  going : Bool
  fail : Nat
  record : List Word
  final : Nat
  status : Nat
  deriving DecidableEq, Repr

def CopyJob.reset : CopyJob where
  card := 0
  cardPa := 0
  st := .free
  progress := 0
  limit := 0
  pts := 0
  core := 0
  job := 0xFFFF
  asid := 0
  tbase := 0
  edges := []
  started := false
  sshape := 0
  dshape := 0
  pend := []
  lines := []
  wlines := []
  taken := []
  fills := []
  stall := false
  admitted := false
  halt := false
  going := false
  fail := 0
  record := []
  final := 0
  status := 0

/-- A copy engine: its slots, its TLB (R44), and what a JWAIT.ALL will collect (R275). Engine 2·branch + e, e 0 xylem and
1 phloem. -/
structure Engine where
  slots : Table CopyJob
  tlb : List Xlate
  maxFinal : Nat
  failures : Nat
  deriving DecidableEq, Repr

def Engine.reset : Engine := ⟨[], [], 0, 0⟩

/-! ## Jobs, launches, bands -/

/-- A job as its descriptor describes it (R321), with the scheduler's copies of the templates, the launch-id counter,
the fault counter, and what the last completed barrier left (R285, R320, R341). -/
structure Job where
  asid : Nat
  vf : Nat
  ceiling : Nat
  drainwin : Nat
  tbase : Nat
  tmplBase : Nat
  tcount : Nat
  pooln : Nat
  reserve : Nat
  pqbase : Nat
  pqcap : Nat
  fqbase : Nat
  ctlcore : Nat
  fqn : Nat
  ended : Nat
  ctxbase : Nat
  ctxper : Nat
  templates : List (List Word)
  nextId : Nat
  faults : Nat
  barrier : Nat
  deriving DecidableEq, Repr

/-- States of a snapshot (R312). -/
inductive LaunchSt where
  | waiting | eligible | running | ended
  deriving DecidableEq, Repr

/-- States of a row (R288, R327). -/
inductive RowSt where
  | empty | loading | resident | drained | saving
  deriving DecidableEq, Repr

/-- A row of a band: its state, its position or, while it is EMPTY, the one it takes next (R324), the code of the fault its
save or restore waits on or 0 (R337, R343), whether the save has been written, whether the MU.STATE frame is to be read
again, whether a pre-emption found the position RESIDENT (R356, R357), and the frames that have entered the row, in image
order (R116). -/
structure Row where
  st : RowSt
  p : Nat
  stall : Nat
  wrote : Bool
  reread : Bool
  resumed : Bool
  image : List Frame
  deriving DecidableEq, Repr

/-- A token parked on a skip link: its target position, its column, and the token (R332). -/
structure Parked where
  pos : Nat
  col : Nat
  skip : Nat
  tok : Token
  deriving DecidableEq, Repr

/-- A saved stage (R335): the clusters of its row, the wave, the bytes written to its area, and whether a restore checks
them (R357). -/
structure SavedStage where
  stage : Nat
  wave : Nat
  row : List Cluster
  image : List Byte
  check : Bool
  deriving DecidableEq, Repr

/-- A row held by a CFGLOAD: its core, whether the row has reported quiescence, and whether its frames have been sent
(R118, R287). -/
structure Hold where
  row : Nat
  core : Nat
  quiet : Bool
  sent : Bool
  deriving DecidableEq, Repr

/-- A declared spill or parking depth: the bank, the tokens, and the link's cluster and stage (R61). -/
structure Demand where
  bank : Nat
  tokens : Nat
  cl : Nat
  stage : Nat
  deriving DecidableEq, Repr

/-- The band of a launch (R318, R323 to R338): place, size, mode, stage images, rows, the EOS wave when known, parked tokens,
saved stages, the deadlock count (R111), frozen (R349), draining for a pre-emption, past its drain window and being scanned out,
suspended with the clusters of its rows, and asked to be placed again (R346, R347), the row a RELATCH token is at (R47), the rows
held by CFGLOAD (R287), the reservations it holds (R61), the number and the lines of its context in its area, and how many of
them have been written or read (R346, R347). -/
structure Band where
  tower : Nat
  layer : Nat
  x : Nat
  y : Nat
  width : Nat
  height : Nat
  scroll : Bool
  images : List (List Frame)
  rows : List Row
  eosWave : Option Nat
  parked : List Parked
  saved : List SavedStage
  deadlock : Nat
  frozen : Bool
  closing : Bool
  leaving : Bool
  context : Option (List (List Cluster))
  resume : Bool
  relatch : Option Nat
  holds : List Hold
  asked : List Demand
  ctxNo : Nat
  ctxLines : Nat
  ctxDone : Nat
  deriving DecidableEq, Repr

/-- How far the checks of a snapshot that has become ELIGIBLE are: its STATE still to be written in the pending queue; the frames
of the stage image it reads; or made (R312, R313). -/
inductive Check where
  | due
  | reading (cur : List Frame)
  | made
  deriving DecidableEq, Repr

/-- How a launch ends (R319). -/
inductive Ending where
  | completed | failed | cancelled
  deriving DecidableEq, Repr

/-- What the scheduler does next for a launch that ends, in the order of R319: the streams whose lines are still to be discarded,
as launch id and stream, behind k lines from `line` on; the increment of SIGNAL_COUNTER; the message; the increment of ENDED; the
rest of step 4; the snapshots that the freed pool entry admits (R314). -/
inductive EndStep where
  | discard (streams : List (Nat × Nat)) (line k : Nat)
  | signal | tell | count | close | refill
  deriving DecidableEq, Repr

/-- A launch: id, job, the 16 words of its snapshot, STATE, the arming core or none for the host, whether armed with
.RES, its pool entry or none while pending, its slot of the pending queue, how far its checks are, its stage images as they are
read, start clock, arming order, the time it became ELIGIBLE, its band, the completion clock, the status byte, whether it was
cancelled, how it ends and the next step of that, the physical address of its WAIT_COUNTER's watch, the clock of the version that
met it, and the covering ranges of its declared streams, formed at placement: stream, first line of the range, lines (R312 to
R320). -/
structure Launch where
  id : Nat
  job : Nat
  words : List Word
  st : LaunchSt
  core : Option Nat
  res : Bool
  entry : Option Nat
  pq : Option Nat
  check : Check
  images : List (List Frame)
  start : Nat
  order : Nat
  eligible : Nat
  band : Option Band
  clock : Nat
  status : Nat
  cancelled : Bool
  ending : Option (Ending × EndStep)
  watch : Option Nat
  reached : Option Nat
  ranges : List (Nat × Nat × Nat)
  deriving DecidableEq, Repr

/-- An element that can wait on a fault (R340). -/
inductive UnitRef where
  | slot (cl k : Nat)
  | array (cl : Nat)
  | plane (cl : Nat)
  | ag (cl u : Nat)
  | mu (cl : Nat)
  | switch (cl : Nat)
  | copy (eng slot : Nat)
  | save (job lid row : Nat)
  | none
  deriving DecidableEq, Repr

/-- A fault of a job: the entry number n once its record is written, the record's 8 words, the unit that waits, the
controlling core (none: the record alone), and the least clock its notice carries (R80, R340, R341). -/
structure FaultItem where
  job : Nat
  n : Option Nat
  words : List Word
  unit : UnitRef
  core : Nat
  clock : Nat
  deriving DecidableEq, Repr

/-! ## Device registers -/

/-- A fence or unfence message that a package this one reaches has not acknowledged: where it goes, the package it is about,
whether it fences, and whether FENCECTL waits for it (R368, R370). -/
structure FenceMsg where
  dest : Nat
  pkg : Nat
  fence : Bool
  own : Bool
  deriving DecidableEq, Repr

/-- Registers of the device windows and of the functions (R322, R342, R344, R351, R367, R368, R377 to R385), with the descriptor of
a job that is being admitted, the fence messages on their way, the lanes that scans found failed, and the number of the bring-up
whose image runs. -/
structure DevRegs where
  mgmtStat : Table Nat
  preempt : Word
  preempting : Option Nat
  rststat : Word
  jobdesc : Word
  jobctl : Word
  admitting : Option Job
  gport : Table Word
  route : Table Nat
  fencectl : Word
  fences : List FenceMsg
  oaper : Table Word
  iaper : Table Word
  hstatus : Word
  pwrcap : Nat
  layclk : List Nat
  thermal : List Nat
  attctl : Word
  attnonce : Table Word
  attcopy : List Word
  attrep : Table Word
  armres : Table Word
  donq : Table (List Word)
  msix : Table Bool
  repairLanes : Table Nat
  repairLog : Table Nat
  failedLanes : List (Nat × Nat)
  bypass : List (Nat × Nat)
  linkLanes : Table Nat
  columns : Table Nat
  boot : Nat
  deriving DecidableEq, Repr

def DevRegs.reset : DevRegs where
  mgmtStat := []
  preempt := 0
  preempting := none
  rststat := 0
  jobdesc := 0
  jobctl := 0
  admitting := none
  gport := []
  route := []
  fencectl := 0
  fences := []
  oaper := []
  iaper := []
  hstatus := 0
  pwrcap := 2400
  layclk := List.replicate 12 19
  thermal := List.replicate 12 19
  attctl := 0
  attnonce := []
  attcopy := []
  attrep := []
  armres := []
  donq := []
  msix := []
  repairLanes := []
  repairLog := []
  failedLanes := []
  bypass := []
  linkLanes := []
  columns := []
  boot := 0

/-! ## The package -/

/-- What has come in over PCIe and waits for its turn among the requests of its function or drive: a piece of a posted write or of a
read, within one line, at an offset in BAR 2 or in the drive's window, or a write to ARM (R376, R377, R380). -/
inductive HostReq where
  | write (off : Nat) (data : List Byte)
  | read (off n : Nat)
  | arm (v : Word)
  deriving DecidableEq, Repr

/-- What moves next: a root core, an access of a root core that follows the word at its PC by k words (R78), a unit of a cluster,
or a step that names its objects itself (R66, log 1). -/
inductive Move where
  | core (n : Nat)
  | ahead (n k : Nat)
  | unit (cl u : Nat)
  | event (i : Instr)
  deriving DecidableEq, Repr

/-- The state of the package. -/
structure State where
  sched : List Move
  actor : Nat
  site : Nat × Nat
  fresh : Nat
  time : Nat
  ticks : Nat
  pkg : Nat
  cores : Table Core
  mail : List Mail
  mem : Memory
  hbm : Memory
  lines : Table LineInfo
  turn : Bool
  turnReq : Bool
  scrub : Table Nat
  stalls : Table Nat
  clocks : Table Nat
  fenced : List Nat
  banks : Table Bank
  scratch : Memory
  posted : List Posted
  regions : Table (List Region)
  l2 : Table (List Xlate)
  walks : Table (List WalkEntry)
  celog : List CeEntry
  clusters : Table Cluster
  twig : List TwigWrite
  engines : Table Engine
  jobs : Table Job
  launches : List Launch
  armed : Nat
  faultq : List FaultItem
  reserved : Option (Nat × Nat × Nat)
  hostq : List (Nat × HostReq)
  regs : DevRegs
  deriving DecidableEq, Repr

/-- The machine right after a cold reset, before anything is placed in it (R30, R240, R352). -/
def State.reset : State where
  sched := []
  actor := 0
  site := (0, 0)
  fresh := 0
  time := 0
  ticks := 0
  pkg := 0
  cores := []
  mail := []
  mem := []
  hbm := []
  lines := []
  turn := false
  turnReq := false
  scrub := []
  stalls := []
  clocks := []
  fenced := []
  banks := []
  scratch := []
  posted := []
  regions := []
  l2 := []
  walks := []
  celog := []
  clusters := []
  twig := []
  engines := []
  jobs := []
  launches := []
  armed := 0
  faultq := []
  reserved := none
  hostq := []
  regs := .reset

/-- A step can stop with a fault for one reason only. -/
inductive Fault where
  /-- Raised by step when State.sched names a root core or a cluster the package does not have (R8, R9). Safe: the spec
  gives such an agent no existence, and no claim about one can be proved. -/
  | noSuchAgent
  deriving DecidableEq, Repr

/-- Why a step has no meaning. -/
inductive Refusal where
  /-- Raised by exec for an instruction whose meaning is not written. Safe: nothing is claimed about it. -/
  | notModelled (mnemonic : String)
  deriving DecidableEq, Repr

end Sys2Proof.Machine
end

