-- ==== Sys2Proof/Machine/Ops.lean ====
section
/-!
DEFINITION. Named operations over cores, registers, clocks and messages; taking a trap and returning from one (R239);
ending and deferring a task (R237, R238); corrected events.
-/
namespace Sys2Proof.Machine

/-- The outcome of a meaning. -/
abbrev Out := Host.Outcome State Fault Refusal

/-- The number of a fault code (R339). -/
def Code.num : Code → Nat
  | .illegalInstruction => 1
  | .reservedField => 2
  | .misaligned => 3
  | .pageNotPresent => 4
  | .permission => 5
  | .reservedPteBit => 6
  | .privileged => 7
  | .break => 8
  | .uncorrectable => 9
  | .ownerFenced => 10
  | .crownScratchUnbacked => 11
  | .coordRange => 12
  | .coordOverflow => 13
  | .configIllegal => 32
  | .formatFault => 33
  | .streamLengthMismatch => 34
  | .unbalancedSwitch => 35
  | .deadlock => 36
  | .binOverflow => 37
  | .arrayNoSpare => 38
  | .saveAreaExhausted => 39
  | .fpInvalid => 40

/-! ## Cores and registers -/

/-- Root core n; a core that nothing has changed is a core after cold reset. -/
def State.core (s : State) (n : Nat) : Core := s.cores.getD n Core.reset

def State.setCore (s : State) (n : Nat) (c : Core) : State := { s with cores := s.cores.set n c }

/-- The acting core. -/
def State.me (s : State) : Core := s.core s.actor

def State.setMe (s : State) (c : Core) : State := s.setCore s.actor c

/-- The tower of the package that holds root core n (R9). -/
def coreTower (n : Nat) : Nat := n / 48

/-- The tower id of a tower of this package (R13). -/
def State.towerId (s : State) (t : Nat) : Nat := 4 * s.pkg + t

/-- The agent id of root core n (R65). -/
def State.coreAgent (s : State) (n : Nat) : Nat := s.towerId (coreTower n) * 2 ^ 22 + 2 ^ 20 + n % 48

/-- A general register; g0 reads as 0 (R158, R234). -/
def Core.get (c : Core) (r : Reg) : Word := if r = 0 then 0 else c.g[r.toNat]

/-- A write of a general register; a write of g0 is discarded (R158, R234). -/
def Core.put (c : Core) (r : Reg) (v : Word) : Core :=
  if r = 0 then c else { c with g := c.g.set r.toNat v }

/-- The next word (R156). -/
def Core.advance (c : Core) : Core := { c with pc := c.pc + 8 }

def Core.jump (c : Core) (target : Word) : Core := { c with pc := target }

/-- pts raised to a clock (R73). -/
def Core.raise (c : Core) (t : Nat) : Core := { c with pts := max c.pts t }

/-- Registers by number, for the moves of g1 to g15. -/
def Core.getNat (c : Core) (n : Nat) : Word := c.get (BitVec.ofNat 5 n)

def Core.putNat (c : Core) (n : Nat) (v : Word) : Core := c.put (BitVec.ofNat 5 n) v

/-- gD := v, and the next word: the whole effect of a register instruction (R243). -/
def State.result (s : State) (d : Reg) (v : Word) : Out := .next (s.setMe ((s.me.put d v).advance))

/-- Nothing but the next word. -/
def State.skip (s : State) : Out := .next (s.setMe s.me.advance)

/-! ## Free values -/

/-- A choice among n alternatives: with one alternative, that one; otherwise a free value (R67, R44). -/
def State.choose (s : State) (n : Nat) : Nat × State :=
  if n ≤ 1 then (0, s) else (Config.pick s.fresh % n, { s with fresh := s.fresh + 1 })

/-! ## Traps -/

/-- Taking a trap on a core at the word in its PC (R239): the address, the code and level, the value the trap's rule
names, and the privilege are saved; the core becomes privileged; the PC goes to the handler; an instruction in progress is given
up; what has been performed behind the word is kept for the return (R78). -/
def Core.trap (c : Core) (code : Code) (level : Nat) (eval : Word) : Core :=
  { c with
    epc := c.pc
    code := code.num
    level := level
    eval := eval
    ppriv := c.priv
    priv := true
    burst := none
    ahead := []
    eahead := c.ahead
    pc := c.vbase }

/-- The trap on the acting core; nothing else changes (R161, R239). -/
def State.trap (s : State) (code : Code) (level : Nat := 0) (eval : Word := 0) : State :=
  s.setMe (s.me.trap code level eval)

/-- Return from a trap (R239). -/
def Core.eret (c : Core) : Core := { c with pc := c.epc, priv := c.ppriv, ahead := c.eahead, eahead := [] }

/-! ## Channels and tasks -/

def Core.chan (c : Core) (k : Nat) : Channel := c.chans.getD k Channel.reset

def Core.setChan (c : Core) (k : Nat) (ch : Channel) : Core := { c with chans := c.chans.set k ch }

/-- A task ends; the core has no task until the picker starts one (R237). -/
def Core.endTask (c : Core) : Core := { c with task := .none, ahead := [], eahead := [] }

/-- g1 to g15. -/
def Core.low15 (c : Core) : List Word := (upFrom 1 15).map c.getNat

/-- Registers from number n up set from a list. -/
def Core.putList (c : Core) : Nat → List Word → Core
  | _, [] => c
  | n, v :: vs => (c.putNat n v).putList (n + 1) vs

/-- An instruction whose condition is unmet records its own address and g1 to g15 as the channel's deferred task and
ends the task; a start task ends with no deferred task (R238, R242). -/
def Core.defer (c : Core) (w : Wait) : Core :=
  match c.task with
  | .chan k =>
    (c.setChan k { c.chan k with deferred := some ⟨c.pc, c.low15, w, false, false, c.ahead⟩ }).endTask
  | _ => c.endTask

def State.defer (s : State) (w : Wait) : Out := .next (s.setMe (s.me.defer w))

/-- The acting core is between two steps of an instruction (R66). -/
def State.between (s : State) (b : Burst) : Out := .next (s.setMe { s.me with burst := some b })

/-- A message put on its way to a channel of a core (R236). -/
def State.post (s : State) (src : Sender) (core chan : Nat) (word : Word) (clock : Nat) : State :=
  { s with mail := s.mail ++ [⟨src, core, chan, ⟨word, clock⟩⟩] }

/-! ## Corrected events -/

/-- A corrected event is logged, with the PF's vector 2; the log keeps the latest 4,096 (R378, R381). -/
def State.logEvent (s : State) (e : CeEntry) : State :=
  let l := s.celog ++ [e]
  { s with celog := if l.length ≤ 4096 then l else l.tail, regs := { s.regs with msix := s.regs.msix.set 2 true } }

/-- A corrected event that names a physical address (R18, R20, R31). -/
def State.logPa (s : State) (kind pa : Nat) : State :=
  s.logEvent ⟨pa / 2 ^ 42 % 1024, 0, 0, 0, kind, pa % 2 ^ 40⟩

/-- An access that must wait for the turn advance: the tower counts it, once for each time it is tried (DESIGN CHOICE, log 19),
and the instruction stands (R29). -/
def State.stallTurn (s : State) (tower : Nat) : State :=
  { s with stalls := s.stalls.set tower (s.stalls.getD tower 0 + 1) }

end Sys2Proof.Machine
end

