-- ==== Sys2Proof/Machine/LeafStore.lean ====
section
/-!
DEFINITION. Clusters and their leaf stores: geometry (R8, R9), leaf accesses (R76, R91, R93), tiles and buffers (R94 to
R98).
-/
namespace Sys2Proof.Machine

def sumNat (l : List Nat) : Nat := l.foldl (· + ·) 0

/-! ## Geometry -/

/-- The number of a cluster: 768·tower + 256·layer + 16·Y + X (R8). -/
def clusterKey (tower layer x y : Nat) : Nat := 768 * tower + 256 * layer + 16 * y + x

def clTower (cl : Nat) : Nat := cl / 768
def clLayer (cl : Nat) : Nat := cl % 768 / 256
def clY (cl : Nat) : Nat := cl % 256 / 16
def clX (cl : Nat) : Nat := cl % 16

/-- The root core of a cluster's branch (R9). -/
def clCore (cl : Nat) : Nat := 48 * clTower cl + 16 * clLayer cl + 4 * (clY cl / 4) + clX cl / 4

/-- The position of a cluster in its branch (R9). -/
def clPos (cl : Nat) : Nat := 4 * (clY cl % 4) + clX cl % 4

/-- The cluster at a position of the branch of root core n (R9). -/
def clusterAt (n pos : Nat) : Nat :=
  let b := n % 16
  clusterKey (n / 48) (n % 48 / 16) (4 * (b % 4) + pos % 4) (4 * (b / 4) + pos / 4)

/-- The cluster and buffer that handle h of core n names (R9). -/
def handleOf (n h : Nat) : Nat × Nat := (clusterAt n (h / 4), h % 4)

/-- The crown bank of a cluster's twig column (R9). -/
def clBank (cl : Nat) : Nat := 8 * (clY cl / 2) + clX cl / 2

/-- The cluster at a twig position of a cluster's own twig (R93). -/
def twigCluster (cl pos : Nat) : Nat :=
  clusterKey (clTower cl) (clLayer cl) (clX cl / 2 * 2 + pos % 2) (clY cl / 2 * 2 + pos / 2)

/-- The twig position of a cluster (R93). -/
def twigPos (cl : Nat) : Nat := 2 * (clY cl % 2) + clX cl % 2

/-! ## Access -/

def State.cluster (s : State) (cl : Nat) : Cluster := s.clusters.getD cl Cluster.reset

def State.setCluster (s : State) (cl : Nat) (c : Cluster) : State := { s with clusters := s.clusters.set cl c }

/-- A change to one cluster. -/
def State.onCluster (s : State) (cl : Nat) (f : Cluster → Cluster) : State := s.setCluster cl (f (s.cluster cl))

namespace Cluster

def line (c : Cluster) (l : Nat) : LeafLine := c.lines.getD l ⟨false, 0, false⟩

/-- A write of bytes by a writer with clock pts: the data, the line full, its clock raised (R76). -/
def write (c : Cluster) (off : Nat) (data : List Byte) (pts : Nat) : Cluster :=
  let l := off / 128
  let li := c.line l
  { c with
    leaf := c.leaf.writeN off data
    lines := c.lines.set l { li with full := true, clk := max li.clk pts } }

/-- Bytes of the store. -/
def read (c : Cluster) (off n : Nat) : List Byte := c.leaf.readN off n

/-- A write that names a tile sets SWZ from the tile's entry (R91). -/
def setSwz (c : Cluster) (l n : Nat) (swz : Bool) : Cluster :=
  { c with lines := (upFrom l n).foldl (fun t i => t.set i { c.line i with swz := swz }) c.lines }

/-! ### Tiles (R94, R96) -/

def tile (c : Cluster) (i : Nat) : Tile := c.tiles.getD i Tile.reset

def setTile (c : Cluster) (i : Nat) (t : Tile) : Cluster := { c with tiles := c.tiles.set i t }

/-- The tile clock: the largest line clock of the slot's lines (R79). -/
def tileClock (c : Cluster) (t : Tile) : Nat :=
  (c.lines.filter fun p => t.base ≤ p.1 ∧ p.1 < t.base + t.lcount).foldl (fun m p => max m p.2.clk) 0

/-- The drain of a slot's lines: empty, clocks 0; the data stays (R76, R96). -/
def drainLines (c : Cluster) (t : Tile) : Cluster :=
  { c with lines := c.lines.map fun p =>
      if t.base ≤ p.1 ∧ p.1 < t.base + t.lcount then (p.1, { p.2 with full := false, clk := 0 }) else p }

/-! ### Buffers (R95) -/

def buf (c : Cluster) (b : Nat) : Buf := c.bufs.getD b Buf.reset

def setBuf (c : Cluster) (b : Nat) (x : Buf) : Cluster := { c with bufs := c.bufs.set b x }

end Cluster

namespace Buf

/-- Occupied slots, (PIDX − CIDX) mod 2·SLOTS (R95). -/
def occupied (b : Buf) : Nat := if b.slots = 0 then 0 else (b.pidx + 2 * b.slots - b.cidx) % (2 * b.slots)

/-- Free slots (R95). -/
def freeSlots (b : Buf) : Nat := b.slots - b.occupied

/-- The tile entry of the producer's next slot, k slots on (R95). -/
def pSlot (b : Buf) (k : Nat) : Nat := b.first + (b.pidx + k) % max 1 b.slots

/-- The tile entry of the consumer's next slot, k slots on (R95). -/
def cSlot (b : Buf) (k : Nat) : Nat := b.first + (b.cidx + k) % max 1 b.slots

/-- PIDX advances past a slot whose state changes (R96). -/
def stepP (b : Buf) : Buf := { b with pidx := (b.pidx + 1) % max 1 (2 * b.slots), moved := true }

/-- CIDX advances past a slot that turns EMPTY; the producer gets a freed-slot notice (R89, R96). -/
def stepC (b : Buf) : Buf :=
  { b with cidx := (b.cidx + 1) % max 1 (2 * b.slots), moved := true, credit := b.credit + 1 }

end Buf

namespace Cluster

/-- The run of slots in a state from an index on, at most SLOTS of them. -/
def runOf (c : Cluster) (st : TileSt) (slot : Nat → Nat) : Nat → Nat → Nat
  | 0, _ => 0
  | n + 1, k => if (c.tile (slot k)).st = st then runOf c st slot n (k + 1) + 1 else 0

/-- READY slots from the consumer index on (R270, R271). -/
def readyRun (c : Cluster) (b : Buf) : Nat := c.runOf .ready b.cSlot b.slots 0

/-- EMPTY slots from the producer index on (R270, R271). -/
def emptyRun (c : Cluster) (b : Buf) : Nat := c.runOf .empty b.pSlot b.slots 0

/-- A buffer's descriptor as a 64-bit word (R95). -/
def bufWord (b : Buf) : Nat :=
  b.pidx * 2 ^ 27 + b.cidx * 2 ^ 22 + (if b.swz then 2 ^ 20 else 0) + b.fmt * 2 ^ 16 + b.slots * 64 + b.first

/-- A descriptor written: the indices and the STATE and TCLK of its slots become 0 (R95), and both notices are disarmed
(R280). -/
def initBuf (c : Cluster) (i : Nat) (swz : Bool) (fmt slots first : Nat) : Cluster :=
  let b := { c.buf i with pidx := 0, cidx := 0, swz := swz, fmt := fmt, slots := slots, first := first }
  let c := c.setBuf i { b with noteF := none, noteE := none, moved := false }
  (upFrom first slots).foldl (fun c t => c.setTile t { c.tile t with st := .empty, tclk := 0, due := false }) c

/-- A producer makes the slot at PIDX READY as BADVP does (R96). -/
def advanceP (c : Cluster) (i : Nat) : Cluster :=
  let b := c.buf i
  let k := b.pSlot 0
  let t := c.tile k
  let t := { t with tbytes := 128 * t.lcount, ord := false, rlines := 0, fmt := b.fmt, swz := b.swz, st := .ready, due := false }
  (c.setTile k { t with tclk := c.tileClock t }).setBuf i b.stepP

/-- The slot at CIDX is drained and becomes EMPTY (R96). -/
def advanceC (c : Cluster) (i : Nat) : Cluster :=
  let b := c.buf i
  let k := b.cSlot 0
  let t := c.tile k
  ((c.drainLines t).setTile k { t with st := .empty, tclk := 0 }).setBuf i b.stepC

/-- The slot at CIDX begins to be read (R96). -/
def beginDrain (c : Cluster) (i : Nat) : Cluster :=
  let b := c.buf i
  let k := b.cSlot 0
  (c.setTile k { c.tile k with st := .draining }).setBuf i { b with moved := true }

end Cluster

/-! ## The tile table as words (R94, R272) -/

def TileSt.num : TileSt → Nat
  | .empty => 0
  | .filling => 1
  | .ready => 2
  | .draining => 3

/-- The 128 bits of an entry (R94). -/
def Tile.word (t : Tile) : Nat :=
  t.st.num * 2 ^ 126 + t.tclk * 2 ^ 102 + (if t.ord then 2 ^ 101 else 0) + (if t.swz then 2 ^ 100 else 0) +
    t.fmt * 2 ^ 96 + t.tbytes * 2 ^ 77 + t.rlines * 2 ^ 65 + t.lcount * 2 ^ 11 + t.base

/-- An entry that R94 refuses. -/
def Tile.bad (t : Tile) : Bool := t.lcount = 0 || t.base + t.lcount > 2048 || t.tbytes > 128 * t.lcount

/-! ## Leaf reads and writes of the twig (R77, R93) -/

/-- The bytes that a held write puts in a store: its own, or its byte with a 4-bit cell replaced in it. -/
def TwigWrite.bytes (w : TwigWrite) (c : Cluster) : List Byte :=
  match w.half with
  | none => w.data
  | some high =>
    let new := leNat w.data % 16
    let old := leNat (c.read w.off 1)
    leBytes 1 (if high then old % 16 + 16 * new else old / 16 * 16 + new)

/-- A write held in the twig switch is performed at its store (R77). -/
def State.twigArrive (s : State) (w : TwigWrite) : State := s.onCluster w.cl fun c => c.write w.off (w.bytes c) w.pts

/-- The writes that the switch holds and p selects are performed, oldest first. -/
def State.twigPerform (s : State) (p : TwigWrite → Bool) : State :=
  (s.twig.filter p).foldl State.twigArrive { s with twig := s.twig.filter fun w => !p w }

/-- An agent's own writes that the switch still holds for a store are performed (R77). -/
def State.twigDrain (s : State) (agent at_ : Nat) : State := s.twigPerform fun w => w.agent = agent && w.cl = at_

/-- The acting core's own leaf writes to a store are performed (R77). -/
def State.myDrain (s : State) (cl : Nat) : State := s.twigDrain (s.coreAgent s.actor) cl

end Sys2Proof.Machine
end

