-- ==== Sys2Proof/Machine/Coherent.lean ====
section
/-!
DEFINITION. Coherent memory: windows and homes (R13, R17), the home record (R21 to R27), and the steps of the abstract
machine on line versions (R64 to R70).
-/
namespace Sys2Proof.Machine

/-! ## Addresses -/

/-- The home tower id, PA[51:42] (R13). -/
def homeOf (pa : Nat) : Nat := pa / 2 ^ 42 % 1024

/-- The package, PA[51:44] (R13). -/
def pkgOf (pa : Nat) : Nat := pa / 2 ^ 44 % 256

/-- The offset within the tower, PA[41:0] (R13). -/
def offOf (pa : Nat) : Nat := pa % 2 ^ 42

/-- The number of the line that contains an address. -/
def lineOf (pa : Nat) : Nat := pa / 128

/-- The windows of a tower (R17). -/
inductive Window where
  | hbm | crown | device | host | unbacked
  deriving DecidableEq, Repr

/-- The window that an address lies in (R17); the host window exists in tower 0 only (R18). -/
def windowOf (pa : Nat) : Window :=
  let o := offOf pa
  if o < 0x02000000000 then .hbm
  else if o < 0x10000000000 then .unbacked
  else if o < 0x10040000000 then .crown
  else if o < 0x20000000000 then .unbacked
  else if o < 0x20100000000 then .device
  else if o < 0x30000000000 then .unbacked
  else if homeOf pa % 4 = 0 then .host
  else .unbacked

/-- The crown bank that an address selects (R55). -/
def crownBankOf (pa : Nat) : Nat :=
  let f (hi lo : Nat) : Nat := pa / 2 ^ lo % 2 ^ (hi + 1 - lo)
  ((((f 12 7).xor (f 18 13)).xor (f 24 19)).xor (f 30 25)).xor ((f 36 31).xor (f 41 37))

/-! ## Lines -/

def State.line (s : State) (l : Nat) : LineInfo := s.lines.getD l LineInfo.reset

def State.setLine (s : State) (l : Nat) (li : LineInfo) : State := { s with lines := s.lines.set l li }

/-- WTS of the record, 0 when it was written in another turn (R22). -/
def State.recWts (s : State) (l : Nat) : Nat :=
  let li := s.line l
  if li.recTurn = s.turn then li.recWts else 0

def State.recRts (s : State) (l : Nat) : Nat :=
  let li := s.line l
  if li.recTurn = s.turn then li.recRts else 0

/-- The code of a state (R21). -/
def LineSt.num : LineSt → Nat
  | .i => 0
  | .s => 1
  | .e => 2
  | .o => 3
  | .m => 4

/-- The metadata word of a line (R21). -/
def LineInfo.word (li : LineInfo) : Nat :=
  (if li.recTurn then 2 ^ 61 else 0) + li.recWts * 2 ^ 37 + li.recRts * 2 ^ 13 + li.owner * 8 + li.st.num

/-- E, M or O: a tower owns the line (R24). -/
def LineInfo.owned (li : LineInfo) : Bool := li.st = .e || li.st = .o || li.st = .m

/-- The end of a lease granted at t (R25). -/
def leaseEnd (rts t : Nat) : Nat := min (max rts (t + Config.leaseSpan)) Config.maxClock

def State.isFenced (s : State) (pkg : Nat) : Bool := s.fenced.contains pkg

/-- Requests to a package get there: it is this one, or fenced, or its ROUTE entry names a port that is up (R367, R369). -/
def State.routed (s : State) (pkg : Nat) : Bool :=
  let p := s.regs.route.getD pkg 15
  pkg = s.pkg || s.isFenced pkg || (p < 12 && bitAt (s.regs.gport.getD p 0) 63)

/-- The packages that an access to an address involves can be reached: its home's and its owner's (R25, R367). -/
def State.reachable (s : State) (pa : Nat) : Bool :=
  let li := s.line (lineOf pa)
  s.routed (pkgOf pa) && (!li.owned || s.routed (li.owner / 4))

/-- The fault of a line, if it has one: uncorrectable (R31), or fenced by its owner or its home (R32). Of two, a fenced home
comes first, then UNCORRECTABLE, then a fenced owner (DESIGN CHOICE, log 15). -/
def State.lineFault (s : State) (pa : Nat) : Option Code :=
  let li := s.line (lineOf pa)
  if s.isFenced (pkgOf pa) then some .ownerFenced
  else if li.bad then some .uncorrectable
  else if li.owned && s.isFenced (li.owner / 4) then some .ownerFenced
  else none

/-- Crown bank `bank` of a tower of this package. -/
def State.bank (s : State) (tower bank : Nat) : Bank := s.banks.getD (64 * tower + bank) Bank.reset

def State.setBank (s : State) (tower bank : Nat) (b : Bank) : State :=
  { s with banks := s.banks.set (64 * tower + bank) b }

/-- A request of tower T that its remote-data cache cannot hold: no REMOTE ways in the selected bank (R58, R63). -/
def State.noAlloc (s : State) (T pa : Nat) : Bool :=
  if T = homeOf pa || T / 4 ≠ s.pkg then false
  else
    let b := s.bank (T % 4) (crownBankOf pa)
    b.remote = 0 || b.offline

/-- An access to an unbacked address is logged (R18). -/
def State.logUnbacked (s : State) (pa : Nat) : State := if windowOf pa = .unbacked then s.logPa 4 pa else s

/-! ## Symbols and ways (R20, R55) -/

/-- HBM takes the latest version of a line, with a fresh code (R20). -/
def State.toHbm (s : State) (l : Nat) : State :=
  { s.setLine l { s.line l with sym := false } with hbm := s.hbm.copyFrom s.mem (128 * l) 128 }

/-- The home corrects the symbols of a line that it reads from HBM for tower T, when neither it nor T holds a copy: the line
is written back with a fresh code and the event is logged (R20). -/
def State.correct (s : State) (T pa : Nat) : State :=
  let l := lineOf pa
  let li := s.line l
  if li.sym && li.place = .none && !(li.owned && li.owner = T) then (s.setLine l { li with sym := false }).logPa 0 pa
  else s

/-- The set of a line within its crown bank, PA[25:13] (R55). -/
def crownSetOf (pa : Nat) : Nat := pa / 2 ^ 13 % 8192

/-- A line holds a home way of crown bank k of tower t (R55). -/
def State.inHomeWay (s : State) (t k l : Nat) : Bool :=
  crownBankOf (128 * l) = k && homeOf (128 * l) = s.towerId t && (s.line l).place = .home

/-- A line is owned in a remote way of crown bank k of tower t (R58). -/
def State.inRemoteWay (s : State) (t k l : Nat) : Bool :=
  let li := s.line l
  crownBankOf (128 * l) = k && homeOf (128 * l) ≠ s.towerId t && li.owned && li.owner = s.towerId t

/-- A way for a line among n from way lo up of its set, and the line that gives it up: the first free one, else one that
replacement, which is unspecified, takes (R55, log 5). -/
def State.pickWay (s : State) (l lo n : Nat) (ls : List Nat) (way : Nat → Nat) : Nat × Option Nat × State :=
  let ls := ls.filter fun x => x ≠ l && crownSetOf (128 * x) = crownSetOf (128 * l)
  match (List.range n).find? fun i => ls.all fun x => way x ≠ lo + i with
  | some i => (lo + i, none, s)
  | none =>
    let (i, s) := s.choose n
    (lo + i, ls.find? fun x => way x = lo + i, s)

/-- A clock or lease end near the end of the turn requests a turn advance (R29). -/
def State.noteClock (s : State) (t : Nat) : State :=
  if t ≥ Config.turnLimit then { s with turnReq := true } else s

/-! ## Records -/

/-- The record with new timestamps, stamped with the current turn. -/
def LineInfo.stamp (li : LineInfo) (turn : Bool) (wts rts : Nat) : LineInfo :=
  { li with recWts := wts, recRts := rts, recTurn := turn }

/-- The record after a load by tower T that leaves the latest version [wts, rts] (R25, R58). -/
def State.recLoad (s : State) (li : LineInfo) (T pa : Nat) : LineInfo :=
  match li.st with
  | .i =>
    if s.noAlloc T pa then { li with st := .s, owner := 0x3FF }.stamp s.turn li.wts li.rts
    else { li with st := .e, owner := T }.stamp s.turn li.wts li.rts
  | .s => li.stamp s.turn li.wts li.rts
  | .e => if li.owner = T then li else { li with st := .s, owner := 0x3FF }.stamp s.turn li.wts li.rts
  | .o => if li.owner = T then li else li.stamp s.turn li.wts li.rts
  | .m => if li.owner = T then li else { li with st := .o }.stamp s.turn li.wts li.rts

/-- The record after a store or atomic by tower T at t; true when HBM then holds the new version (R25, R58). -/
def State.recStore (s : State) (li : LineInfo) (T pa t : Nat) : LineInfo × Bool :=
  if li.owned && li.owner = T then
    if li.st = .m then (li, false) else ({ li with st := .m }.stamp s.turn t t, false)
  else if s.noAlloc T pa then
    if li.owned then ({ li with st := .m }.stamp s.turn t t, false)
    else ({ li with st := .i, owner := 0x3FF }.stamp s.turn t t, true)
  else ({ li with st := .m, owner := T }.stamp s.turn t t, false)

/-- A write-back of a dirty line: HBM takes the latest version, M becomes I and O becomes S; a copy the home holds is clean
then (R25, R256). A copy that was lost is not written. -/
def State.writeBackLine (s : State) (l : Nat) : State :=
  let li := s.line l
  if (li.st = .m || li.st = .o) && li.copy ≠ .lost then
    let st : LineSt := if li.st = .m then .i else .s
    let li := { li with st := st, owner := 0x3FF, copy := .held }
    (s.setLine l (li.stamp s.turn li.wts li.rts)).toHbm l
  else s

/-- The crown bank over a line of this package has home ways (R50, R63). -/
def State.hasHomeWays (s : State) (l : Nat) : Bool :=
  let b := s.bank (homeOf (128 * l) % 4) (crownBankOf (128 * l))
  pkgOf (128 * l) = s.pkg && b.home ≠ 0 && !b.offline

/-- A version that the home tower stored and that no SRAM of it can hold lies in HBM (R50, R63). -/
def State.noSram (s : State) (l : Nat) : State :=
  let li := s.line l
  if li.place = .none && pkgOf (128 * l) = s.pkg && !s.hasHomeWays l && li.owner = homeOf (128 * l) then s.writeBackLine l else s

/-- A line leaves the home's caches: one that is dirty there is written to HBM, its record with it; of a line that another
tower owns only the record was here (R23, R51, R57). -/
def State.leaveHome (s : State) (l : Nat) : State :=
  let s := if (s.line l).owner = homeOf (128 * l) then s.writeBackLine l else s
  s.setLine l { s.line l with place := .none }

/-- An owned remote line leaves its way: written back when dirty, given up when clean (R25, R57). -/
def State.leaveRemote (s : State) (l : Nat) : State :=
  let li := s.line l
  if li.st = .e then s.setLine l ({ li with st := .i, owner := 0x3FF, copy := .held }.stamp s.turn li.wts li.rts)
  else s.writeBackLine l

/-- The line enters a home way of its set; the line whose way it takes leaves (R50, R55). -/
def State.enterHome (s : State) (l : Nat) : State :=
  let t := homeOf (128 * l) % 4
  let k := crownBankOf (128 * l)
  let (w, out, s) := s.pickWay l 0 (s.bank t k).home (s.lines.keys.filter (s.inHomeWay t k)) fun x => (s.line x).way
  let s := match out with
    | some x => s.leaveHome x
    | none => s
  s.setLine l { s.line l with place := .home, way := w }

/-- A line that another tower of this package has come to own enters a remote way of its set there (R55, R58). -/
def State.enterRemote (s : State) (T l : Nat) : State :=
  if T = homeOf (128 * l) || T / 4 ≠ s.pkg then s
  else
    let k := crownBankOf (128 * l)
    let b := s.bank (T % 4) k
    let (w, out, s) := s.pickWay l b.home b.remote (s.lines.keys.filter (s.inRemoteWay (T % 4) k)) fun x => (s.line x).rway
    let s := match out with
      | some x => s.leaveRemote x
      | none => s
    s.setLine l { s.line l with rway := w }

/-- A record as a transaction of tower T leaves it; a line that comes to be owned enters the owner's caches. -/
def State.setRecord (s : State) (T l : Nat) (new : LineInfo) : State :=
  let old := s.line l
  let s := s.setLine l new
  if new.owned && new.owner = T && !(old.owned && old.owner = T) then s.enterRemote T l else s

/-! ## Steps (R67 to R70, R53) -/

/-- The older versions of a line that a load at pts may take (R67). -/
def LineInfo.choices (li : LineInfo) (pts : Nat) : List Version :=
  li.old.filter fun v => max pts v.wts ≤ v.rts

/-- What a read returns that takes one of these older versions or the latest, without a step, and whether it is the latest.
Such a read obtains and renews no lease, which R40 leaves to it (DESIGN CHOICE, log 16). -/
def State.peekAmong (s : State) (cs : List Version) (pa n : Nat) : List Byte × Bool × State :=
  let (k, s) := s.choose (cs.length + 1)
  match k with
  | 0 => (s.mem.readN pa n, true, s.correct (homeOf pa) pa)
  | j + 1 =>
    match cs[j]? with
    | some v => (v.cells.readN pa n, false, s)
    | none => (s.mem.readN pa n, true, s.correct (homeOf pa) pa)

/-- What a read at pts returns without taking a step: the bytes of a version a load at pts could return (R40, R251). -/
def State.peek (s : State) (pts pa n : Nat) : List Byte × Bool × State :=
  s.peekAmong ((s.line (lineOf pa)).choices pts) pa n

/-- The same by a walk: no version older than the last invalidation (R40, R45, R48). -/
def State.peekWalk (s : State) (pts pa n : Nat) : List Byte × Bool × State :=
  s.peekAmong (((s.line (lineOf pa)).choices pts).filter (·.walks)) pa n

/-- A load step that takes the latest version (R67). -/
def State.loadLatest (s : State) (T pts pa n : Nat) : List Byte × Nat × State :=
  let s := s.correct T pa
  let l := lineOf pa
  let li := s.line l
  let t := max pts li.wts
  let li := { li with rts := leaseEnd li.rts t }
  (s.mem.readN pa n, t, ((s.setRecord T l (s.recLoad li T pa)).noteClock t).noteClock li.rts)

/-- A load step of an agent of tower T with clock pts on n bytes at pa: the bytes, and the agent's new clock (R67). -/
def State.loadStep (s : State) (T pts pa n : Nat) : List Byte × Nat × State :=
  let cs := (s.line (lineOf pa)).choices pts
  let (k, s) := s.choose (cs.length + 1)
  match k with
  | 0 => s.loadLatest T pts pa n
  | j + 1 =>
    match cs[j]? with
    | some v => (v.cells.readN pa n, max pts v.wts, s)
    | none => s.loadLatest T pts pa n

/-- The latest version of a line put behind a new one (R64). -/
def State.pushVersion (s : State) (l : Nat) (li : LineInfo) : LineInfo :=
  { li with old := ⟨s.mem.slice (128 * l) 128, li.wts, li.rts, true⟩ :: li.old }

/-- A store step: the clock it takes, none when the clock would pass the end of the turn (R68). -/
def State.storeStep (s : State) (T pts pa : Nat) (data : List Byte) : Option (Nat × State) :=
  let l := lineOf pa
  let t := max pts ((s.line l).rts + 1)
  if t > Config.maxClock then none
  else
    let s := s.correct T pa
    let li := { s.pushVersion l (s.line l) with wts := t, rts := t }
    let (li, current) := s.recStore li T pa t
    let s := { s.setRecord T l li with mem := s.mem.writeN pa data }
    let s := if current then s.toHbm l else s
    some (t, s.noteClock t)

/-- An atomic step: the old bytes, and the clock; f gives the new bytes from the old, none where a comparison fails
(R69). -/
def State.amoStep (s : State) (T pts pa n : Nat) (f : List Byte → Option (List Byte)) :
    Option (List Byte × Nat × State) :=
  let old := s.mem.readN pa n
  match f old with
  | some data => (s.storeStep T pts pa data).map fun (t, s) => (old, t, s)
  | none =>
    let l := lineOf pa
    let t := max pts ((s.line l).rts + 1)
    if t > Config.maxClock then none
    else
      let s := s.correct T pa
      let li := { s.line l with rts := t }
      let li' := (s.recStore li T pa t).1
      let li' := if li.st = .m && li.owner = T then li' else { li' with recWts := li.wts }
      some (old, t, (s.setRecord T l li').noteClock t)

/-- The home reads the data of a line from HBM, with its symbols corrected (R20). -/
def State.readHbm (s : State) (pa : Nat) : State :=
  let li := s.line (lineOf pa)
  if li.sym then (s.setLine (lineOf pa) { li with sym := false }).logPa 0 pa else s

/-- The discard of a line: a store step of its backing value that drops every copy (R53). -/
def State.discardStep (s : State) (pts pa : Nat) : Option (Nat × State) :=
  let l := lineOf pa
  let t := max pts ((s.line l).rts + 1)
  if t > Config.maxClock then none
  else
    let s := s.readHbm pa
    let li := { s.pushVersion l (s.line l) with wts := t, rts := t, st := .i, owner := 0x3FF, place := .none, copy := .held }
    let s := { s.setLine l (li.stamp s.turn t t) with mem := s.mem.copyFrom s.hbm (128 * l) 128 }
    some (t, s.noteClock t)

/-! ## Home agents (R19) -/

/-- The clock the home agents of a package share (R19). -/
def State.homeClock (s : State) (pkg : Nat) : Nat := s.clocks.getD pkg 0

def State.setHomeClock (s : State) (pkg t : Nat) : State := { s with clocks := s.clocks.set pkg t }

/-- A load step of the home agent of the line's tower (R19, R70). -/
def State.homeLoad (s : State) (pa n : Nat) : List Byte × Nat × State :=
  let (bs, t, s) := s.loadStep (homeOf pa) (s.homeClock (pkgOf pa)) pa n
  (bs, t, s.setHomeClock (pkgOf pa) t)

/-- A store step of the home agent. -/
def State.homeStore (s : State) (pa : Nat) (data : List Byte) : Option (Nat × State) :=
  (s.storeStep (homeOf pa) (s.homeClock (pkgOf pa)) pa data).map fun (t, s) =>
    (t, (s.noSram (lineOf pa)).setHomeClock (pkgOf pa) t)

/-- An atomic step of the home agent. -/
def State.homeAmo (s : State) (pa n : Nat) (f : List Byte → Option (List Byte)) :
    Option (List Byte × Nat × State) :=
  (s.amoStep (homeOf pa) (s.homeClock (pkgOf pa)) pa n f).map fun (bs, t, s) =>
    (bs, t, (s.noSram (lineOf pa)).setHomeClock (pkgOf pa) t)

/-- A line reverts to its backing value by a discard of the home agent (R352, R370); none when a turn advance must come first
(R29). -/
def State.revertLine (s : State) (pa : Nat) : Option State :=
  (s.discardStep (s.homeClock (pkgOf pa)) pa).map fun (t, s) =>
    s.setHomeClock (pkgOf pa) (max t (s.homeClock (pkgOf pa)))

/-- What comes before an access to a line: one whose owner's copy was lost reverts; whether a package that has rejoined still
holds a copy is its own answer, a free one here (R352, R370, log 33). -/
def State.touch (s : State) (pa : Nat) : Option State :=
  match (s.line (lineOf pa)).copy with
  | .held => some s
  | .lost => s.revertLine pa
  | .asked =>
    let (k, s) := s.choose 2
    if k = 0 then some (s.setLine (lineOf pa) { s.line (lineOf pa) with copy := .held }) else s.revertLine pa

/-! ## Crown scratch (R59, R60) -/

/-- Bank and way of a crown-window address (R59). -/
def scratchBank (pa : Nat) : Nat := (offOf pa - 0x10000000000) / 0x1000000

def scratchWay (pa : Nat) : Nat := (offOf pa - 0x10000000000) / 0x100000 % 16

/-- A crown-window address of this package is backed by a scratch way (R59, R63); ways that leave scratch are unbacked
at once, ways that enter it are backed when the repartition completes (R57). -/
def State.scratchBacked (s : State) (pa : Nat) : Bool :=
  let b := s.bank (homeOf pa % 4) (scratchBank pa)
  let n := match b.next with
    | some (_, _, _, n) => min n b.scratch
    | none => b.scratch
  !b.offline && 16 - n ≤ scratchWay pa

/-- A posted scratch write (R60, R78). -/
def State.postScratch (s : State) (agent pa : Nat) (data : List Byte) : State :=
  { s with posted := s.posted ++ [⟨agent, pa, data⟩] }

/-- A scratch read (R60): the last write that arrived. -/
def State.readScratch (s : State) (pa n : Nat) : List Byte := s.scratch.readN pa n

/-- A scratch write arrives in its bank's write buffer (R60); in a way that has left scratch it is lost (R57). -/
def State.arrive (s : State) (p : Posted) : State :=
  if s.scratchBacked p.pa then { s with scratch := s.scratch.writeN p.pa p.data } else s

/-- The posted writes of an agent arrive, in issue order (R60). -/
def State.drainPosted (s : State) (agent : Nat) : State :=
  (s.posted.filter (·.agent = agent)).foldl State.arrive { s with posted := s.posted.filter (·.agent ≠ agent) }

end Sys2Proof.Machine
end

