-- ==== Sys2Proof/Machine/Translate.lean ====
section
/-!
DEFINITION. Address translation: the walk (R37 to R41), the access check (R42), and the translation caches (R44, R45).
-/
namespace Sys2Proof.Machine

/-- Who translates: tower of the package, clock, address space, table root, privilege (R35). -/
structure Ctx where
  tower : Nat
  pts : Nat
  asid : Nat
  tbase : Nat
  priv : Bool
  deriving DecidableEq, Repr

/-- What an access asks of a leaf (R42), and whether an access to the line follows the translation. -/
structure Need where
  rd : Bool
  wr : Bool
  ex : Bool
  go : Bool
  deriving DecidableEq, Repr

def needLoad : Need := ⟨true, false, false, true⟩
def needStore : Need := ⟨false, true, false, true⟩
def needBoth : Need := ⟨true, true, false, true⟩
def needFetch : Need := ⟨false, false, true, true⟩

/-- The same permissions for a translation alone. -/
def Need.look (n : Need) : Need := { n with go := false }

/-- A canonical address: bits 63:57 equal bit 56 (R34). -/
def canonical (va : Nat) : Bool :=
  let h := va % 2 ^ 64 / 2 ^ 56
  h = 0 || h = 0xFF

/-! ## Entries (R37, R38, R39) -/

/-- Bits hi:lo of a number. -/
def nbits (x hi lo : Nat) : Nat := x / 2 ^ lo % 2 ^ (hi + 1 - lo)

def pteV (e : Nat) : Bool := e.testBit 0
def pteLeaf (e : Nat) : Bool := e.testBit 1
def pteCont (e : Nat) : Bool := e.testBit 9
def ptePage (e : Nat) : Nat := nbits e 51 12 * 4096

/-- An entry with V = 1 that breaks the layout at its level, but for the group check (R38). -/
def pteReserved (lv e : Nat) : Bool :=
  nbits e 63 52 ≠ 0 ||
  (if pteLeaf e then
    lv ≥ 4 || nbits e 11 10 = 3 || (e.testBit 3 && !e.testBit 2) || (pteCont e && lv ≠ 1) ||
    (lv = 3 && nbits e 29 12 ≠ 0) || (lv = 2 && nbits e 20 12 ≠ 0)
  else lv = 1 || nbits e 11 2 ≠ 0 || windowOf (ptePage e) ≠ .hbm)

/-- The members of a group agree (R39); es are the 16 entries of the line. -/
def groupOk (es : List Nat) : Bool :=
  let e0 := es.headD 0
  es.zipIdx.all fun (e, i) =>
    pteV e && pteLeaf e && pteCont e && nbits e 15 12 = i && nbits e 51 16 = nbits e0 51 16 &&
      nbits e 6 2 = nbits e0 6 2 && nbits e 11 10 = nbits e0 11 10

/-- Index of a level in its table (R37). -/
def pteIndex (va lv : Nat) : Nat := va / 2 ^ (12 + 9 * (lv - 1)) % 512

/-- 8-byte entries of a run of bytes. -/
def entriesOf : Nat → List Byte → List Nat
  | 0, _ => []
  | n + 1, bs => leNat (bs.take 8) :: entriesOf n (bs.drop 8)

/-! ## The walk -/

/-- What a walk found: the leaf entries as read (one, or the 16 of a group), the address of the first of them, the
level, and the non-leaf entries it read on the way. -/
structure Leaf where
  pa : Nat
  entries : List Nat
  entry : Nat
  level : Nat
  path : List WalkEntry
  deriving DecidableEq, Repr

inductive WalkRes where
  | leaf (l : Leaf) (s : State)
  | fault (code : Code) (level : Nat)
  /-- An entry's line cannot be read yet (R29, R367). -/
  | wait (s : State)
  deriving DecidableEq, Repr

/-- The walk from a table of level lv down; each entry is read at the agent's pts, without a step (R40). A root table, whose
place no entry checks, lies in memory: one in the host window raises PERMISSION (R379), and one in a crown or device window does
so too (DESIGN CHOICE, log 17). -/
def walkFrom (s : State) (ctx : Ctx) (va : Nat) (path : List WalkEntry) : Nat → Nat → WalkRes
  | 0, _ => .fault .pageNotPresent 0
  | lv + 1, table =>
    let level := lv + 1
    let pa := table + 8 * pteIndex va level
    if !(windowOf pa = .hbm || windowOf pa = .unbacked) then .fault .permission level
    else
    match s.lineFault pa, (if s.reachable pa then s.touch pa else none) with
    | some c, _ => .fault c 0
    | none, none => .wait (if s.reachable pa then s.stallTurn ctx.tower else s)
    | none, some s =>
      let base := pa / 128 * 128
      let (bs, _, s) := (s.logUnbacked pa).peekWalk ctx.pts base 128
      let es := entriesOf 16 bs
      let e := nth es (pa % 128 / 8) 0
      if !pteV e then .fault .pageNotPresent level
      else if pteReserved level e then .fault .reservedPteBit level
      else if pteLeaf e then
        if pteCont e then
          if groupOk es then .leaf ⟨base, es, e, level, path⟩ s else .fault .reservedPteBit level
        else .leaf ⟨pa, [e], e, level, path⟩ s
      else
        walkFrom s ctx va (⟨ctx.asid, level, va / 2 ^ (12 + 9 * lv), ptePage e⟩ :: path) lv (ptePage e)

/-! ## Caches (R44) -/

/-- A cached leaf serves an address in an address space. -/
def Xlate.hits (x : Xlate) (asid va : Nat) : Bool :=
  (x.glob || x.asid = asid) && va / 2 ^ x.size = x.va / 2 ^ x.size

/-- A cached leaf that an access can use: a store needs DIRTY remembered as set (R41). -/
def Xlate.usable (x : Xlate) (ctx : Ctx) (need : Need) (va : Nat) : Bool :=
  x.hits ctx.asid va && (!need.wr || x.dirty)

def Xlate.phys (x : Xlate) (va : Nat) : Nat := x.pa + va % 2 ^ x.size

/-- A list of at most cap entries with one added; replacement is unspecified (R44). -/
def State.cacheAdd {α : Type} (s : State) (l : List α) (cap : Nat) (x : α) : List α × State :=
  if l.length < cap then (x :: l, s)
  else
    let (k, s) := s.choose l.length
    (x :: l.eraseIdx k, s)

def State.tlbAdd (s : State) (l : List Xlate) (cap : Nat) (x : Xlate) : List Xlate × State :=
  s.cacheAdd (l.filter fun y => !(y.va = x.va && y.size = x.size && y.asid = x.asid && y.glob = x.glob)) cap x

def State.l2Of (s : State) (tower : Nat) : List Xlate := s.l2.getD tower []

/-- The set of the L2 TLB that holds a translation: 2,048 sets of 8 ways, by a function the spec does not give (R44). -/
def Xlate.l2Set (x : Xlate) : Nat := Config.l2Set x.size (x.va / 2 ^ x.size) % 2048

/-- A translation enters the L2 TLB, in its set of 8 ways (R44); while the cache holds fewer than 8, its set has room. -/
def State.l2Add (s : State) (tower : Nat) (x : Xlate) : State :=
  let all := s.l2Of tower
  let (own, others) := if all.length < 8 then (all, []) else all.partition fun y => y.l2Set = x.l2Set
  let (l, s) := s.tlbAdd own 8 x
  { s with l2 := s.l2.set tower (l ++ others) }

def State.walksOf (s : State) (tower : Nat) : List WalkEntry := s.walks.getD tower []

/-- The non-leaf entries a walk read enter the tower's walk cache. -/
def State.walkAdd (s : State) (tower : Nat) (path : List WalkEntry) : State :=
  path.foldl (fun s w =>
    let (l, s) := s.cacheAdd ((s.walksOf tower).filter fun v => !(v.level = w.level && v.tag = w.tag && v.asid = w.asid))
      1024 w
    { s with walks := s.walks.set tower l }) s

/-- A walk that a failed compare-and-swap ends is made again from L5: the entries it could start after are dropped (R41). -/
def State.walkAgain (s : State) (ctx : Ctx) (va : Nat) : State :=
  { s with walks := s.walks.set ctx.tower ((s.walksOf ctx.tower).filter fun w =>
      !(w.asid = ctx.asid && w.tag = va / 2 ^ (12 + 9 * (w.level - 1)))) }

/-- Where a walk starts: the deepest walk-cache hit, or the root (R44): the level to read and its table. -/
def State.walkStart (s : State) (ctx : Ctx) (va : Nat) : Nat × Nat :=
  let hit (lv : Nat) : Option WalkEntry :=
    (s.walksOf ctx.tower).find? fun w => w.level = lv && w.asid = ctx.asid && w.tag = va / 2 ^ (12 + 9 * (lv - 1))
  match hit 2, hit 3, hit 4, hit 5 with
  | some w, _, _, _ => (1, w.table)
  | none, some w, _, _ => (2, w.table)
  | none, none, some w, _ => (3, w.table)
  | none, none, none, some w => (4, w.table)
  | none, none, none, none => (5, ctx.tbase)

/-! ## The access check (R42) -/

def Xlate.permits (x : Xlate) (need : Need) (priv : Bool) : Bool :=
  (!need.rd || x.rd) && (!need.wr || x.wr) && (!need.ex || x.ex) &&
  (if priv then !(need.ex && x.user) else x.user)

/-- The cached form of a leaf (R39, R44). -/
def Leaf.xlate (l : Leaf) (asid va : Nat) (dirty : Bool) : Xlate :=
  let size := if l.level = 3 then 30 else if l.level = 2 then 21 else if pteCont l.entry then 16 else 12
  let e := l.entry
  { asid := asid
    glob := e.testBit 6
    va := va / 2 ^ size * 2 ^ size
    pa := ptePage e / 2 ^ size * 2 ^ size
    size := size
    level := l.level
    wr := e.testBit 3
    rd := e.testBit 2
    ex := e.testBit 4
    user := e.testBit 5
    mtype := nbits e 11 10
    dirty := dirty }

/-- ACC, and DIRTY for a store, set in an entry (R41). -/
def pteMark (wr : Bool) (e : Nat) : Nat := e ||| (if wr then 0x180 else 0x80)

def entriesBytes (es : List Nat) : List Byte := (es.map (leBytes 8)).flatten

/-! ## Translation -/

inductive Xl where
  /-- The physical address, the leaf, the L1 TLB and the state after. -/
  | ok (pa : Nat) (x : Xlate) (tlb : List Xlate) (s : State)
  | fault (code : Code) (level : Nat)
  /-- The walk restarts, or the access waits for the turn advance or a route; it is tried again (R29, R41, R367). -/
  | wait (s : State)
  deriving DecidableEq, Repr

/-- The checks that follow a translation: R42, and those the caller names (R19, R31, R32, R59, R249). -/
def checkLeaf (ctx : Ctx) (need : Need) (post : Xlate → Nat → Option (Code × Nat)) (va : Nat) (x : Xlate) :
    Option (Code × Nat) :=
  if x.permits need ctx.priv then post x (x.phys va) else some (.permission, x.level)

/-- A translation is found: the access goes on, or waits while no route leads there or while a line that must revert first waits
for the turn advance (R29, R352, R367). -/
def Xl.give (need : Need) (tower pa : Nat) (x : Xlate) (tlb : List Xlate) (s : State) : Xl :=
  if !need.go then .ok pa x tlb s
  else if s.reachable pa then
    match s.touch pa with
    | some s => .ok pa x tlb s
    | none => .wait (s.stallTurn tower)
  else .wait s

/-- Translation of a virtual address by an agent, with its L1 TLB of cap entries (none for an address generator, R44).
A fault fills no TLB and sets no ACC or DIRTY bit (R43). A non-canonical address that no coordinate arithmetic made (a shape
VA, an overflow word) faults as on a root core, with PAGE_NOT_PRESENT and level 5 (R34; DESIGN CHOICE, log 18). -/
def State.translate (s : State) (ctx : Ctx) (tlb : List Xlate) (cap : Nat) (need : Need)
    (post : Xlate → Nat → Option (Code × Nat)) (va : Nat) : Xl :=
  let addr := va % 2 ^ 57
  if !canonical va then .fault .pageNotPresent 5
  else
    match tlb.find? (·.usable ctx need addr) with
    | some x =>
      match checkLeaf ctx need post addr x with
      | some (c, lv) => .fault c lv
      | none => .give need ctx.tower (x.phys addr) x tlb s
    | none =>
      match (s.l2Of ctx.tower).find? (·.usable ctx need addr) with
      | some x =>
        match checkLeaf ctx need post addr x with
        | some (c, lv) => .fault c lv
        | none =>
          if cap = 0 then .give need ctx.tower (x.phys addr) x tlb s
          else
            let (tlb, s) := s.tlbAdd tlb cap x
            .give need ctx.tower (x.phys addr) x tlb s
      | none =>
        let (lv, table) := s.walkStart ctx addr
        match walkFrom s ctx addr [] lv table with
        | .fault c l => .fault c l
        | .wait s => .wait s
        | .leaf lf s =>
          let new := lf.entries.map (pteMark need.wr)
          let x := lf.xlate ctx.asid addr (need.wr || lf.entries.all (·.testBit 8))
          match checkLeaf ctx need post addr x with
          | some (c, l) => .fault c l
          | none =>
            let fill (s : State) : Xl :=
              let s := (s.walkAdd ctx.tower lf.path).l2Add ctx.tower x
              if cap = 0 then .give need ctx.tower (x.phys addr) x tlb s
              else
                let (tlb, s) := s.tlbAdd tlb cap x
                .give need ctx.tower (x.phys addr) x tlb s
            if new = lf.entries then fill s
            else
              let old := entriesBytes lf.entries
              match s.homeAmo lf.pa old.length fun bs => if bs = old then some (entriesBytes new) else none with
              | none => .wait (s.stallTurn ctx.tower)
              | some (bs, _, s) => if bs = old then fill s else .wait (s.walkAgain ctx addr)

/-- Invalidation of the cached translations of an address space, a page, or all (R45, R292). -/
def invalidates (scope : TlbScope) (asid va : Nat) (x : Xlate) : Bool :=
  match scope with
  | .all => true
  | .asid => !x.glob && x.asid = asid
  | .page => (x.glob || x.asid = asid) && va / 2 ^ x.size = x.va / 2 ^ x.size

end Sys2Proof.Machine
end

