-- ==== Sys2Proof/Machine/Launches.lean ====
section
/-!
DEFINITION. Jobs, launches and bands as data (R311, R312, R318, R321, R324), fault items (R339 to R341), and how a
launch fails or a unit stalls.
-/
namespace Sys2Proof.Machine

/-! ## Launch records (R312) -/

namespace Launch

def word (l : Launch) (i : Nat) : Word := nth l.words i 0

def priority (l : Launch) : Nat := bits (l.word 0) 60 58

/-- BAND_MODE scroll. -/
def scrollMode (l : Launch) : Bool := bitAt (l.word 0) 57

def height (l : Launch) : Nat := bits (l.word 0) 56 51

/-- Band width in clusters; 0 for the reserved code. -/
def width (l : Launch) : Nat :=
  match bits (l.word 0) 50 49 with
  | 0 => 4
  | 1 => 8
  | 2 => 16
  | _ => 0

def depth (l : Launch) : Nat := bits (l.word 0) 48 39

def wave (l : Launch) : Nat := bits (l.word 0) 38 31

/-- USE_n of STREAM_n. -/
def use (l : Launch) (n : Nat) : Nat := bits (l.word 0) (24 + 2 * n) (23 + 2 * n)

def waitTarget (l : Launch) : Nat := bits (l.word 0) 22 16

def image (l : Launch) : Nat := (l.word 1).toNat

def stream (l : Launch) (n : Nat) : Nat := (l.word (2 + n)).toNat

def waitCounter (l : Launch) : Nat := (l.word 6).toNat

def signalCounter (l : Launch) : Nat := (l.word 7).toNat

/-- The shape VA that SHSEL names (R209). -/
def shapeVa (l : Launch) (shsel : Nat) : Nat :=
  if shsel < 4 then l.stream shsel else (l.word (8 + (shsel - 4))).toNat

/-- A barrier launch (R320). -/
def isBarrier (l : Launch) : Bool := l.height = 0

/-- The band scrolls: BAND_MODE 1 with more stages than rows (R313, R324). -/
def scrolls (l : Launch) : Bool := l.scrollMode && l.height < l.depth

/-- Word 0 with ARMED and STATE as the scheduler keeps them (R312). -/
def num : LaunchSt → Nat
  | .waiting => 0
  | .eligible => 1
  | .running => 2
  | .ended => 3

end Launch

/-- Job n, when admitted. -/
def State.job (s : State) (n : Nat) : Option Job := s.jobs.get n

/-- A launch of a job by id, ended or not. -/
def State.launch? (s : State) (job lid : Nat) : Option Launch :=
  s.launches.find? fun l => l.job = job && l.id = lid

/-- The launches of a job, in arm order. -/
def State.ofJob (s : State) (n : Nat) : List Launch := s.launches.filter fun l => l.job = n

/-- A launch that has not ended. -/
def State.live (s : State) (job lid : Nat) : Option Launch :=
  (s.launch? job lid).filter fun l => l.st ≠ .ended

def State.setLaunch (s : State) (l : Launch) : State :=
  { s with launches := s.launches.map fun x => if x.job = l.job && x.id = l.id then l else x }

/-- A change to the band of a launch. -/
def State.onBand (s : State) (l : Launch) (f : Band → Band) : State :=
  s.setLaunch { l with band := l.band.map f }

/-! ## Bands (R318, R324) -/

namespace Band

/-- The cluster at row r and column c of a band; rows fold through the layers (R318). -/
def cluster (b : Band) (r c : Nat) : Nat :=
  let k := r / 16
  clusterKey b.tower (b.layer + k) (b.x + c) (if k % 2 = 0 then b.y + r % 16 else 15 - r % 16)

def rowClusters (b : Band) (r : Nat) : List Nat := (List.range b.width).map (b.cluster r)

def clusters (b : Band) : List Nat := ((List.range b.height).map b.rowClusters).flatten

/-- Row and column of a cluster in a band. -/
def place (b : Band) (cl : Nat) : Option (Nat × Nat) :=
  (List.range b.height).findSome? fun r => ((b.rowClusters r).idxOf? cl).map fun c => (r, c)

def row (b : Band) (r : Nat) : Row := nth b.rows r ⟨.empty, 0, 0, false, false, false, []⟩

def setRow (b : Band) (r : Nat) (x : Row) : Band := { b with rows := b.rows.set r x }

def onRow (b : Band) (r : Nat) (f : Row → Row) : Band := b.setRow r (f (b.row r))

/-- The stage images of the band. -/
def depth (b : Band) : Nat := b.images.length

/-- Stage and wave that row r hosts (R324): in a pinned band stage r in wave 0. -/
def hosts (b : Band) (r : Nat) : Option (Nat × Nat) :=
  let x := b.row r
  if x.st = .empty then none
  else some (x.p % max 1 b.depth, if b.scroll then x.p / max 1 b.depth else 0)

/-- A row accepts tokens (R327, R328). -/
def resident (b : Band) (r : Nat) : Bool := (b.row r).st = .resident

/-- The band is on the fabric and its tokens may move: not frozen, not being scanned out, not suspended. -/
def active (b : Band) : Bool := !b.frozen && !b.leaving && b.context.isNone

/-- The rows that a pinned band configures (R324). -/
def stageRows (b : Band) : List Nat := List.range (min b.depth b.height)

/-- A row held by a CFGLOAD (R287). -/
def held (b : Band) (r : Nat) : Bool := b.holds.any (·.row = r)

end Band

/-- The launch that a cluster is placed for, with its band and the cluster's row and column. -/
def State.hostOf (s : State) (cl : Nat) : Option (Launch × Band × Nat × Nat) :=
  match (s.cluster cl).launch with
  | none => none
  | some (j, id) =>
    match s.live j id with
    | none => none
    | some l =>
      match l.band with
      | none => none
      | some b => (b.place cl).map fun (r, c) => (l, b, r, c)

/-- A launch is placed: it has a band that is not being scanned out or suspended (R265, R286). -/
def Launch.placed (l : Launch) : Option Band := l.band.filter fun b => b.context.isNone && !b.leaving

/-- Every cluster of a row is configured (R116). -/
def State.configured (s : State) (b : Band) (r : Nat) : Bool := (b.rowClusters r).all fun c => (s.cluster c).done

/-- A generator reads a shape: all modes but SCATADD and BIN, and no TGT BUF (R209). -/
def needsShape (mode : Nat) (g : AgCfg) : Bool := mode ≠ 4 && mode ≠ 5 && g.tgt ≠ 1

/-- A configured generator that has its shape record still to load, or pages of its declared region to latch (R46, R210). -/
def Ag.unready (a : Ag) : Bool :=
  match a.frame with
  | some f =>
    let mode := bits f 239 236
    (a.shape.isNone && (mode = 5 || needsShape mode (agCfgOf f))) || !a.pend.isEmpty
  | none => false

/-- Every generator of a row is ready. -/
def State.rowReady (s : State) (b : Band) (r : Nat) : Bool :=
  (b.rowClusters r).all fun cl => (s.cluster cl).ags.all fun p => !p.2.unready

/-- The configuration of a row may go on to its shape records: in a pinned band once every row's frames have entered, but for
rows that a CFGLOAD holds; in a scrolling one once the row is RESIDENT (R117, R210, R327). -/
def State.rowEntered (s : State) (b : Band) (r : Nat) : Bool :=
  if b.scroll then b.resident r else b.stageRows.all fun r => b.held r || s.configured b r

/-- The latest clock of the address generators of a row (R74). -/
def State.rowClock (s : State) (b : Band) (r : Nat) : Nat :=
  ((b.rowClusters r).map fun cl => ((s.cluster cl).ags.vals.map (·.pts)).foldl max 0).foldl max 0

/-- Tokens may move in a row: it is configured, and in a pinned band every generator of every row has its shape (R117). -/
def State.rowStarted (s : State) (b : Band) (r : Nat) : Bool :=
  s.rowEntered b r && (b.scroll || b.stageRows.all fun r => b.held r || s.rowReady b r)

/-- The launch of a cluster runs, neither failed nor ending, its band is active, and its row is as far as asked. -/
def State.launchRuns (s : State) (cl : Nat) (p : Band → Nat → Bool) : Bool :=
  match (s.cluster cl).launch with
  | none => true
  | some _ =>
    match s.hostOf cl with
    | some (l, b, r, _) => l.st = .running && l.status = 0 && !l.cancelled && l.ending.isNone && b.active && p b r
    | none => false

/-- The units of a cluster may act: it has no launch, or its launch runs, has not failed, and its band is active. -/
def State.mayAct (s : State) (cl : Nat) : Bool := s.launchRuns cl s.rowStarted

/-- The start clock of the launch a cluster is placed for (R74). -/
def State.startClock (s : State) (cl : Nat) : Nat := ((s.hostOf cl).map fun h => h.1.start).getD 0

/-- WAVE of the launch record (R211). -/
def State.waveLen (s : State) (cl : Nat) : Nat := ((s.hostOf cl).map fun h => h.1.wave).getD 0

/-! ## Stage flags (R132) -/

/-- The clusters that share a cluster's stage: its row, or itself alone. -/
def State.stageOf (s : State) (cl : Nat) : List Nat :=
  match s.hostOf cl with
  | some (_, b, r, _) => b.rowClusters r
  | none => [cl]

/-- The stage flag word: the flags of every cluster of the row (R132). -/
def State.stageFlags (s : State) (cl : Nat) : Flags :=
  (s.stageOf cl).foldl (fun f c => f ||| (s.cluster c).flags) 0

/-- Sticky flags set by a unit of a cluster (R132). -/
def State.raiseFlags (s : State) (cl : Nat) (f : Flags) : State :=
  s.onCluster cl fun c => { c with flags := c.flags ||| f }

/-! ## Fault records (R339, R340) -/

/-- Resume actions of a stall: RETRY, and SKIP (R339). -/
def Code.actions : Code → Nat
  | .coordRange | .coordOverflow | .streamLengthMismatch | .unbalancedSwitch | .binOverflow | .fpInvalid => 3
  | _ => 1

/-- What a record says beside its place: SRC, UNIT, the queues, OP, the lane, the index, the VA, and DETAIL words 4 to 6
(R340). -/
structure FaultInfo where
  src : Nat
  unit : Nat := 0
  level : Nat := 0
  qa : Nat := 0
  qb : Nat := 0
  op : Nat := 0
  lane : Nat := 0
  index : Nat := 0
  va : Nat := 0
  detail : List Nat := []
  agent : Nat := 0
  tower : Option Nat := none
  deriving DecidableEq, Repr

/-- The 8 words of a record (R340), VALID set. Of a fault with no cluster the tower alone is named. -/
def faultWords (s : State) (code : Code) (act id : Nat) (cl : Option Nat) (stage wave : Nat) (i : FaultInfo) :
    List Word :=
  let w0 := 2 ^ 63 + i.src * 2 ^ 60 + act * 2 ^ 48 + i.level * 2 ^ 40 + code.num * 2 ^ 32 + id % 2 ^ 32
  let place := match cl with
    | some c => s.towerId (clTower c) * 2 ^ 54 + clLayer c * 2 ^ 52 + clX c * 2 ^ 48 + clY c * 2 ^ 44
    | none => (i.tower.map fun t => s.towerId t * 2 ^ 54).getD 0
  let w1 := place + i.unit * 2 ^ 39 + i.qa % 16 * 2 ^ 35 + i.qb % 16 * 2 ^ 31 + i.op % 256 * 2 ^ 23 +
    i.lane % 16 * 2 ^ 19
  let w2 := wave % 2 ^ 16 * 2 ^ 48 + stage % 1024 * 2 ^ 38 + i.index % 2 ^ 32
  [w0, w1, w2, i.va, nth i.detail 0 0, nth i.detail 1 0, nth i.detail 2 0, i.agent].map (BitVec.ofNat 64)

/-- The controlling root core of a launch: the core that armed it, or CTLCORE (R341). -/
def State.controlCore (s : State) (l : Launch) : Nat :=
  match l.core with
  | some n => n
  | none => ((s.job l.job).map (·.ctlcore)).getD 0

/-- Units that wait no more: of their faults those with a record are done with, of the others only the record remains to be
written (R341, R342). -/
def State.dropFaults (s : State) (p : FaultItem → Bool) : State :=
  { s with faultq := (s.faultq.filter fun f => !(p f && f.n.isSome)).map fun f => if p f then { f with unit := .none } else f }

/-- A fault of a launch queues for its job's fault queue (R341). -/
def State.launchFault (s : State) (l : Launch) (code : Code) (act : Nat) (cl : Option Nat) (stage wave : Nat)
    (u : UnitRef) (i : FaultInfo) : State :=
  { s with faultq := s.faultq ++
      [⟨l.job, none, faultWords s code act l.id cl stage wave i, u, s.controlCore l, 0⟩] }

/-- Stage and wave of a cluster's row, 0 when it hosts none. -/
def State.stageWave (s : State) (cl : Nat) : Nat × Nat :=
  match s.hostOf cl with
  | some (_, b, r, _) => (b.hosts r).getD (0, 0)
  | none => (0, 0)

/-- A unit's launch fault of class stall: the unit waits for FRESUME, and the record queues (R339, R341, R343). A
cluster that belongs to no launch has no fault queue. -/
def State.stall (s : State) (cl : Nat) (code : Code) (u : UnitRef) (i : FaultInfo) : State :=
  match s.hostOf cl with
  | some (l, _, _, _) =>
    let (st, w) := s.stageWave cl
    s.launchFault l code code.actions (some cl) st w u i
  | none => s

/-- A launch that is not yet ending fails at once with a code of class end (R319, R339); the record names the place. -/
def State.failLaunch (s : State) (l : Launch) (code : Code) (cl : Option Nat) (stage wave : Nat) (i : FaultInfo) :
    State :=
  if l.status ≠ 0 || l.st = .ended || l.ending.isSome then s
  else (s.setLaunch { l with status := code.num }).launchFault l code 0 cl stage wave .none i

/-- The launch of a cluster fails at a unit of it. -/
def State.failAt (s : State) (cl : Nat) (code : Code) (i : FaultInfo) : State :=
  match s.hostOf cl with
  | some (l, _, _, _) =>
    let (st, w) := s.stageWave cl
    s.failLaunch l code (some cl) st w i
  | none => s

/-! ## Agents of a launch (R35, R65) -/

/-- The agent id of address generator u of a cluster (R65). -/
def State.agAgent (s : State) (cl u : Nat) : Nat :=
  s.towerId (clTower cl) * 2 ^ 22 + 2 ^ 21 + 4 * (256 * clLayer cl + 16 * clY cl + clX cl) + u

/-- The agent name under which a cluster's vertical unit posts its writes; it is no agent of R65. -/
def vertAgent (cl : Nat) : Nat := 2 ^ 32 + cl

/-- A cluster whose address generators hold no latched base. -/
def Cluster.dropBases (c : Cluster) : Cluster := { c with ags := c.ags.mapVals fun a => { a with bases := [] } }

/-- The agent id of a copy job: engine 2·core + e, slot k (R65). -/
def State.jobAgent (s : State) (eng slot : Nat) : Nat :=
  s.towerId (coreTower (eng / 2)) * 2 ^ 22 + 3 * 2 ^ 20 + 64 * (2 * (eng / 2 % 48) + eng % 2) + slot

/-- The context of an address generator of a cluster: its job's address space, without privilege (R35, R42). -/
def State.agCtx (s : State) (cl pts : Nat) : Ctx :=
  match s.hostOf cl with
  | some (l, _, _, _) =>
    match s.job l.job with
    | some j => ⟨clTower cl, pts, j.asid, j.tbase, false⟩
    | none => ⟨clTower cl, pts, 0, 0, false⟩
  | none => ⟨clTower cl, pts, 0, 0, false⟩

/-- The context of the scheduler's accesses for a job: privileged, with the clock of the package's home agents (R321). -/
def State.jobCtx (s : State) (j : Job) : Ctx := ⟨0, s.homeClock s.pkg, j.asid, j.tbase, true⟩

/-! ## Ports (R265) -/

/-- The frame of an entry of a cluster: LAYOUT, UNIT, selector, SEQ (R163, R205). -/
def entryKey (layout unit sel seq : Nat) : Nat := ((layout * 8 + unit) * 4 + sel) * 16 + seq

namespace Cluster

def muBuf (c : Cluster) (b : Nat) : Option MuBuf := (c.cfg.get (entryKey 1 0 0 b)).map muBufOf

def muBintab (c : Cluster) : Option MuBintab := (c.cfg.get (entryKey 1 3 0 0)).map muBintabOf

def muState (c : Cluster) : Option MuState := (c.cfg.get (entryKey 1 4 0 0)).map muStateOf

def swRepl (c : Cluster) : Option SwRepl := (c.cfg.get (entryKey 2 1 0 0)).map swReplOf

def swVert (c : Cluster) : Option SwVert := (c.cfg.get (entryKey 2 2 0 0)).map swVertOf

def swPark (c : Cluster) : Option SwPark := (c.cfg.get (entryKey 2 3 0 0)).map swParkOf

def ctCfg (c : Cluster) : Option CtCfg := (c.cfg.get (entryKey 0 4 0 0)).map ctCfgOf

def ctLoad (c : Cluster) : Option CtLoad := (c.cfg.get (entryKey 0 4 1 0)).map ctLoadOf

def ctChain (c : Cluster) : Option CtChain := (c.cfg.get (entryKey 0 4 2 0)).map ctChainOf

def ctAcc (c : Cluster) : Option CtAcc := (c.cfg.get (entryKey 0 5 0 0)).map ctAccOf

/-- The pairs in use, numbered 4·SEQ + p (R224). -/
def pairs (c : Cluster) : List (Nat × RoutePair) :=
  ((List.range 16).filterMap fun k =>
    (c.cfg.get (entryKey 2 0 0 (k / 4))).map fun f => (k, routePairOf f (k % 4))).filter fun p => p.2.en

/-- The spill depth of the link that leaves a port on a VC, in tokens (R221). -/
def spillDepth (c : Cluster) (port vc : Nat) : Nat :=
  let gs := (List.range 12).filterMap fun k =>
    (c.cfg.get (entryKey 1 2 0 (k / 4))).map fun f => muSpillOf f (k % 4)
  ((gs.find? fun g => g.en && g.port = port && g.vc = vc).map fun g => 16 * g.depth).getD 0

/-- The buffer that the memory-unit source reads, and the one its sink writes (R218). -/
def sourceBuf (c : Cluster) : Option (Nat × MuBuf) :=
  (List.range 4).findSome? fun b => (c.muBuf b).bind fun m => if m.cons = 1 && m.slots ≠ 0 then some (b, m) else none

def sinkBuf (c : Cluster) : Option (Nat × MuBuf) :=
  (List.range 4).findSome? fun b => (c.muBuf b).bind fun m => if m.prod = 1 && m.slots ≠ 0 then some (b, m) else none

end Cluster

/-- The port counts of buffer b (R267, R268). -/
def Cluster.port (c : Cluster) (b : Nat) : Port := c.ports.getD b ⟨0, false⟩

def Cluster.setPort (c : Cluster) (b : Nat) (p : Port) : Cluster := { c with ports := c.ports.set b p }

/-- n slots of buffer b have been made READY from outside: a source port counts them (R268). -/
def Cluster.countReady (c : Cluster) (b n : Nat) : Cluster :=
  if (c.muBuf b).all (·.prod = 0) then c.setPort b { c.port b with recs := (c.port b).recs + n } else c

/-- What a port of a buffer is to a program: unbound, bound but suspended, or bound (R265). -/
inductive Binding where
  | unbound | suspended | bound
  deriving DecidableEq, Repr

/-- An MU.BUF entry makes buffer b a port of a kind (R265). -/
def isPort (m : MuBuf) (k : PortKind) : Bool :=
  match k with
  | .src => m.prod = 0 && m.cons = 1
  | .sink => m.prod = 1 && m.cons = 0

/-- Some stage image of a band makes buffer b of column c a port of a kind. -/
def Band.imagePort (b : Band) (stages : List Nat) (col buf : Nat) (k : PortKind) : Bool :=
  stages.any fun st => (nth b.images st []).any fun f =>
    Frame.layout f = 1 && Frame.unit f = 0 && Frame.seq f = buf && Frame.col f = col && isPort (muBufOf f) k

/-- The pre-empted launch that a cluster was placed for: its band, and the cluster's row and column (R265, R346). -/
def State.suspendedAt (s : State) (cl : Nat) : Option (Band × Nat × Nat) :=
  s.launches.findSome? fun l =>
    match l.band with
    | some b => if l.st = .running && b.context.isSome then (b.place cl).map fun (r, c) => (b, r, c) else none
    | none => none

/-- The cluster whose port state the launch of a cluster has: itself, or of a pre-empted launch the one in its context. -/
def State.portCluster (s : State) (cl : Nat) : Cluster :=
  match s.hostOf cl, s.suspendedAt cl with
  | none, some (b, r, c) => nth (nth (b.context.getD []) r []) c (s.cluster cl)
  | _, _ => s.cluster cl

/-- The binding of port k of buffer b of a cluster (R265): from dispatch until the launch ends; suspended while the
launch is pre-empted or being scanned out, and in scroll mode while no resident stage makes the buffer such a port. -/
def State.binding (s : State) (cl buf : Nat) (k : PortKind) : Binding :=
  match s.hostOf cl with
  | some (_, b, r, c) =>
    if b.leaving then
      if b.imagePort (if b.scroll then List.range b.depth else [r]) c buf k then .suspended else .unbound
    else if b.scroll then
      if b.imagePort (List.range b.depth) c buf k then
        match (b.row r).st, b.hosts r with
        | .resident, some (st, _) => if b.imagePort [st] c buf k then .bound else .suspended
        | _, _ => .suspended
      else .unbound
    else
      match b.hosts r with
      | some (st, _) => if b.imagePort [st] c buf k then .bound else .unbound
      | none => .unbound
  | none =>
    -- A pre-empted launch keeps its ports on the clusters it was placed on, suspended.
    match s.suspendedAt cl with
    | some (b, r, c) => if b.imagePort (if b.scroll then List.range b.depth else [r]) c buf k then .suspended else .unbound
    | none => .unbound

end Sys2Proof.Machine
end

