-- ==== Sys2Proof/Machine/Shapes.lean ====
section
/-!
DEFINITION. Shape records: fields, validity (R83, R85), tiles and elements (R84, R86), and elements packed in tokens
(R97, R107, R355, R363).
-/
namespace Sys2Proof.Machine

/-! ## Records (R83) -/

/-- A two's-complement field. -/
def sfield (x : Shape) (hi lo : Nat) : Int := sextNat (hi + 1 - lo) (bits x hi lo)

/-- The fields of a shape record, one list entry for each dimension 0 to 4. -/
structure Shp where
  fmt : Nat
  rank : Nat
  base : Nat
  permit : Bool
  swz : Bool
  ord : Bool
  conv : Bool
  pad : Nat
  extent : List Nat
  start : List Int
  stride : List Int
  tile : List Nat
  step : List Nat
  dilate : List Nat
  deriving DecidableEq, Repr

def dims : List Nat := [0, 1, 2, 3, 4]

def shpOf (x : Shape) : Shp where
  fmt := bits x 67 64
  rank := bits x 70 68
  base := bits x 63 0
  permit := bitAt x 72
  swz := bitAt x 73
  ord := bitAt x 74
  conv := bitAt x 75
  pad := bits x 127 96
  extent := dims.map fun d => bits x (159 + 32 * d) (128 + 32 * d)
  start := dims.map fun d => sfield x (319 + 32 * d) (288 + 32 * d)
  stride := dims.map fun d => sfield x (495 + 48 * d) (448 + 48 * d)
  tile := dims.map fun d => bits x (703 + 16 * d) (688 + 16 * d)
  step := [bits x 815 800, bits x 831 816]
  dilate := [bits x 783 768, bits x 799 784]

/-- The record keeps its ZERO fields and the rules of R85. -/
def shapeLegal (x : Shape) : Bool :=
  let s := shpOf x
  let z (d : Nat) : Bool :=
    nth s.extent d 0 = 0 && nth s.start d 0 = 0 && nth s.stride d 0 = 0 && nth s.tile d 0 = 0 &&
      nth s.step d 0 = 0 && nth s.dilate d 0 = 0
  bits x 1023 832 = 0 && bits x 95 76 = 0 && !bitAt x 71 && 1 ≤ s.rank && s.rank ≤ 5 && s.fmt ≤ 13 &&
  dims.all (fun d => if d < s.rank then nth s.tile d 0 ≠ 0 else z d) &&
  (s.step ++ s.dilate).all (fun v => if s.conv then v ≠ 0 else v = 0) &&
  (fmtWidth s.fmt ≠ 4 ||
    (nth s.stride 0 0 = 0 && nth s.start 0 0 % 2 = 0 && nth s.extent 0 0 % 2 = 0 && nth s.tile 0 0 % 2 = 0))

namespace Shp

/-! ## Tiles and elements (R84) -/

def adv (s : Shp) (d : Nat) : Nat := if s.conv && d < 2 then nth s.step d 0 else nth s.tile d 0

def spread (s : Shp) (d : Nat) : Nat := if s.conv && d < 2 then nth s.dilate d 0 else 1

/-- n_d: tiles along a dimension. -/
def count (s : Shp) (d : Nat) : Nat :=
  let a := max 1 (s.adv d)
  (((nth s.extent d 0 : Int) - nth s.start d 0 + (a : Int) - 1) / (a : Int)).toNat

def ranks (s : Shp) : List Nat := List.range s.rank

/-- Tiles of the traversal. -/
def tiles (s : Shp) : Nat := (s.ranks.map s.count).foldl (· * ·) 1

/-- Elements of a tile over its first n dimensions. -/
def elemsOf (s : Shp) (n : Nat) : Nat := ((List.range n).map fun d => nth s.tile d 0).foldl (· * ·) 1

def elems (s : Shp) : Nat := s.elemsOf s.rank

/-- The digits of a number, dimension 0 fastest. -/
def digits : List Nat → Nat → List Nat
  | [], _ => []
  | n :: ns, k => k % max 1 n :: digits ns (k / max 1 n)

/-- Coordinates of element e of a tile with the given origin. -/
def coordsAt (s : Shp) (origin : List Int) (e : Nat) : List Int :=
  let es := digits (s.ranks.map fun d => nth s.tile d 0) e
  s.ranks.map fun d => nth origin d 0 + (nth es d 0 * s.spread d : Nat)

/-- The origin of tile m. -/
def origin (s : Shp) (m : Nat) : List Int :=
  let ms := digits (s.ranks.map s.count) m
  s.ranks.map fun d => nth s.start d 0 + (nth ms d 0 * s.adv d : Nat)

def coords (s : Shp) (m e : Nat) : List Int := s.coordsAt (s.origin m) e

def bitsOf (s : Shp) : Nat := fmtWidth s.fmt

/-- Bytes of one element in memory; a 4-bit element lies in one byte. -/
def elemBytes (s : Shp) : Nat := max 1 (s.bitsOf / 8)

/-- Bytes of a tile in a slot. -/
def tileBytes (s : Shp) : Nat := (s.elems * s.bitsOf + 7) / 8

end Shp

/-! ## Element checks (R86) -/

/-- What an element is: out of range under PERMIT, out of range, beyond the address space, or at a byte address, with
which nibble of it for a 4-bit format. -/
inductive Elem where
  | pad
  | range (c : List Int)
  | over (c : List Int)
  | loc (va : Nat) (high : Bool)
  deriving DecidableEq, Repr

/-- The signed 64-bit range (R86). -/
def fits64 (x : Int) : Bool := -(2 ^ 63 : Int) ≤ x && x < (2 ^ 63 : Int)

/-- BASE and the products summed in order, none outside the signed 64-bit range (R86). -/
def sumTerms : Int → List Int → Option Int
  | acc, [] => some acc
  | acc, t :: ts => if fits64 t && fits64 (acc + t) then sumTerms (acc + t) ts else none

/-- The element at given coordinates (R84, R86); a leaf address lies in [0, 2^20) (R212). -/
def Shp.at (s : Shp) (leaf : Bool) (c : List Int) : Elem :=
  if !(c.zip s.extent).all (fun (x, n) => 0 ≤ x && x < (n : Int)) then (if s.permit then .pad else .range c)
  else
    let nib := s.bitsOf = 4
    let terms := (c.zip s.stride).zipIdx.map fun ((x, k), d) => if nib && d = 0 then x / 2 else x * k
    match sumTerms (sextNat 64 s.base) terms with
    | none => .over c
    | some a =>
      let high := nib && nth c 0 0 % 2 = 1
      if leaf then (if 0 ≤ a && a < 2 ^ 20 then .loc a.toNat high else .over c)
      else
        let va := (a % 2 ^ 64).toNat
        let h := va / 2 ^ 56
        if h = 0 || h = 0xFF then .loc va high else .over c

/-- Element e of tile m. -/
def Shp.elem (s : Shp) (leaf : Bool) (m e : Nat) : Elem := s.at leaf (s.coords m e)

/-- Coordinates as DETAIL words 4 to 6 of a fault record (R340). -/
def coordWords (c : List Int) : List Nat :=
  let w (i : Nat) : Nat := (nth c i 0 % 2 ^ 32).toNat
  [w 0 + 2 ^ 32 * w 1, w 2 + 2 ^ 32 * w 3, w 4]

/-- The lines that n bytes at an address touch, ascending. -/
def linesOf (va n : Nat) : List Nat := if va / 128 = (va + n - 1) / 128 then [va / 128] else [va / 128, (va + n - 1) / 128]

/-- The lines of a list, each once, in order of first use. -/
def firsts (ls : List Nat) : List Nat := ls.foldl (fun acc l => if acc.contains l then acc else acc ++ [l]) []

/-- A byte of lines already read, by line number. -/
def lineByte (ls : Table (List Byte)) (va : Nat) : Byte := nth (ls.getD (va / 128) []) (va % 128) 0

/-- The value of an element from lines already read. -/
def Shp.value (s : Shp) (ls : Table (List Byte)) (va : Nat) (high : Bool) : Nat :=
  let x := leNat ((upFrom va s.elemBytes).map (lineByte ls))
  if s.bitsOf = 4 then (if high then x / 16 else x % 16) else x

/-- The 4-bit cells that writing an element changes, cell 2·address holding a byte's low half. -/
def Shp.cells (s : Shp) (va : Nat) (high : Bool) (v : Nat) : List (Nat × Nat) :=
  if s.bitsOf = 4 then [(2 * va + (if high then 1 else 0), v % 16)]
  else (List.range (2 * s.elemBytes)).map fun i => (2 * va + i, v / 16 ^ i % 16)

/-- Cells put with the line they lie in: lines in order of first use, cells by their place in the line. -/
def addCells (ls : List (Nat × Table Nat)) (cells : List (Nat × Nat)) : List (Nat × Table Nat) :=
  cells.foldl (fun ls (a, v) =>
    let l := a / 256
    if ls.any (·.1 = l) then ls.map fun (k, t) => if k = l then (k, t.set (a % 256) v) else (k, t)
    else ls ++ [(l, [(a % 256, v)])]) ls

/-- A line's bytes with cells replaced. -/
def mergeCells (old : List Byte) (cells : Table Nat) : List Byte :=
  old.zipIdx.map fun (b, i) =>
    BitVec.ofNat 8 (cells.getD (2 * i) (b.toNat % 16) + 16 * cells.getD (2 * i + 1) (b.toNat / 16))

/-! ## Elements in tokens (R97, R107, R355, R363) -/

/-- Elements of one token. -/
def perToken (w : Nat) : Nat := 512 / w

/-- A token's lanes and VALID bits from its element positions; a lane is valid when it holds an element. -/
def packLanes (w : Nat) (vals : List (Option Nat)) : BitVec 512 × BitVec 16 :=
  let per := 32 / w
  let lanes := (vals.zipIdx.map fun (v, i) => (v.getD 0) % 2 ^ w * 2 ^ (w * i)).foldl (· + ·) 0
  let valid := ((List.range 16).map fun l =>
    if ((vals.drop (per * l)).take per).any Option.isSome then 2 ^ l else 0).foldl (· + ·) 0
  (BitVec.ofNat 512 lanes, BitVec.ofNat 16 valid)

/-- Element i of a token. -/
def Token.elem (t : Token) (w i : Nat) : Nat := t.lanes.toNat / 2 ^ (w * i) % 2 ^ w

/-- Lane l of a token. -/
def Token.lane (t : Token) (l : Nat) : Nat := t.lanes.toNat / 2 ^ (32 * l) % 2 ^ 32

def Token.isValid (t : Token) (l : Nat) : Bool := t.valid.toNat.testBit l

/-- Element i of a run of tokens, whatever their VALID bits (R107). -/
def runElem (ts : List Token) (w i : Nat) : Nat :=
  match ts[i / perToken w]? with
  | some t => t.elem w (i % perToken w)
  | none => 0

/-- Element i of a run of tokens, when its lane is valid. -/
def runValid (ts : List Token) (w i : Nat) : Option Nat :=
  match ts[i / perToken w]? with
  | some t => if t.isValid (i % perToken w * w / 32) then some (t.elem w (i % perToken w)) else none
  | none => none

/-- A list cut into runs of n. -/
def chunks {α : Type} (n : Nat) : Nat → List α → List (List α)
  | 0, _ => []
  | _ + 1, [] => []
  | f + 1, l => l.take (max 1 n) :: chunks n f (l.drop (max 1 n))

/-- A record's tokens from its element positions, LAST on the last (R212); an empty list makes no token. -/
def recordTokens (w seq : Nat) (vals : List (Option Nat)) : List Token :=
  let cs := chunks (perToken w) (vals.length + 1) vals
  cs.zipIdx.map fun (c, i) =>
    let (lanes, valid) := packLanes w c
    ⟨if i + 1 = cs.length then 1 else 0, seq % 2 ^ 16, valid, lanes⟩

/-- A token without data (R106). -/
def bareToken (kind seq : Nat) : Token := ⟨kind, seq % 2 ^ 16, 0, 0⟩

end Sys2Proof.Machine
end

