-- ==== Sys2Proof/Machine/Operands.lean ====
section
/-!
DEFINITION. Operand forms of root-core words: values under a signedness, immediates, sizes (R156 to R158, R244, R246).
-/
namespace Sys2Proof

/-- Bytes of an access size (R157). -/
def Size.bytes : Size → Nat
  | .b => 1
  | .h => 2
  | .w => 4
  | .d => 8

/-- Bits of an extension width (R157). -/
def Width.bits : Width → Nat
  | .b => 8
  | .h => 16
  | .w => 32

end Sys2Proof

namespace Sys2Proof.Machine

/-- v(x): the signed value under .S, the unsigned under .N (R244). -/
def val (sg : Sign) (x : Word) : Int :=
  match sg with
  | .n => x.toNat
  | .s => x.toInt

/-- wrap(n): n mod 2^64 as a pattern (R244). -/
def wrap (n : Int) : Word := BitVec.ofInt 64 n

/-- sext(IMM) (R246). -/
def sext32 (imm : BitVec 32) : Word := imm.signExtend 64

/-- zext(IMM) (R246). -/
def zext32 (imm : BitVec 32) : Word := imm.setWidth 64

/-- A value of n bytes zero-extended, or sign-extended (R250). -/
def extend (sx : Bool) (bs : List Byte) : Word :=
  if sx then wrap (sextNat (8 * bs.length) (leNat bs)) else BitVec.ofNat 64 (leNat bs)

/-- A shift or rotate count, gB[5:0] (R244). -/
def count6 (x : Word) : Nat := x.toNat % 64

/-- ea := wrap(gA + sext(IMM)) (R248), and the leaf address of R257. -/
def Core.ea (c : Core) (a : Reg) (imm : BitVec 32) : Word := c.get a + sext32 imm

/-- The low n bytes of a register, for a store (R250). -/
def Core.bytes (c : Core) (b : Reg) (n : Nat) : List Byte := leBytes n (c.get b).toNat

/-- target = wrap(pc + 8·sext(IMM)) (R247). -/
def Core.target (c : Core) (off : BitVec 32) : Word := c.pc + 8 * sext32 off

end Sys2Proof.Machine
end

