-- ==== Sys2Proof/Machine/Waypart.lean ====
section
/-!
DEFINITION. The partition of a crown bank (R55 to R58, R63): SYS_WAYPART as a word, selection, repartition and its end,
and the lines its ways hold.
-/
namespace Sys2Proof.Machine

/-- SYS_WAYPART as a read returns it: the bank this core last selected, with BUSY and ERR; the counts are those of the
partition last accepted (R56, R57). -/
def State.waypartWord (s : State) (c : Core) : Word :=
  let b := s.bank c.wayTower c.wayBank
  let n := b.next.getD (b.home, b.remote, b.spill, b.scratch)
  BitVec.ofNat 64 ((if b.next.isSome then 2 ^ 63 else 0) + (if c.wayErr then 2 ^ 62 else 0) + c.wayTower * 2 ^ 48 +
    c.wayBank * 2 ^ 42 + n.2.2.2 * 2 ^ 15 + n.2.2.1 * 2 ^ 10 + n.2.1 * 2 ^ 5 + n.1)

/-- The ZERO fields of a written value are zero (R56). -/
def waypartZeroOk (v : Word) : Bool := bits v 61 50 = 0 && bits v 41 20 = 0

/-- The way counts of a written value: HOME, REMOTE, SPILL, SCRATCH (R56). -/
def waypartCounts (v : Word) : Nat × Nat × Nat × Nat := (bits v 4 0, bits v 9 5, bits v 14 10, bits v 19 15)

/-- The selection of a written value (R56). -/
def Core.select (c : Core) (v : Word) (err : Bool) : Core :=
  { c with wayTower := bits v 49 48, wayBank := bits v 47 42, wayErr := err }

/-- A write of way counts is rejected (R57). -/
def Bank.rejects (b : Bank) (n : Nat × Nat × Nat × Nat) : Bool :=
  n.1 + n.2.1 + n.2.2.1 + n.2.2.2 ≠ 16 || b.next.isSome || (n.2.2.1 < b.spill && b.reserved ≠ 0)

/-- A write that selects a bank, and repartitions it when the counts are not all zero (R57); the acting core's PC does
not move here. -/
def State.waypartWrite (s : State) (v : Word) : State :=
  let n := waypartCounts v
  let c := s.me
  if n = (0, 0, 0, 0) then s.setMe (c.select v false)
  else
    let t := bits v 49 48
    let k := bits v 47 42
    let b := s.bank t k
    if b.rejects n then s.setMe (c.select v true)
    else (s.setMe (c.select v false)).setBank t k { b with next := some n }

/-- The lines that bank k of a tower holds for its own tower or for others, among those with a record. -/
def State.bankLines (s : State) (t k : Nat) (remote : Bool) : List Nat :=
  s.lines.keys.filter fun l => if remote then s.inRemoteWay t k l else s.inHomeWay t k l

/-- The end of a repartition (R57 steps 2 to 4): the lines in the ways that change use leave, ways that enter scratch are
zeroed, and the new partition is in force. Nothing happens when none is in progress. -/
def State.repartitionDone (s : State) (t k : Nat) : State :=
  let b := s.bank t k
  match b.next with
  | none => s
  | some (h, r, sp, sc) =>
    let s := ((s.bankLines t k false).filter fun l => h ≤ (s.line l).way).foldl State.leaveHome s
    let s := ((s.bankLines t k true).filter fun l => !(h ≤ (s.line l).rway && (s.line l).rway < h + r)).foldl State.leaveRemote s
    let base := s.towerId t * 2 ^ 42 + 0x10000000000 + 0x1000000 * k
    let kept := min sc b.scratch
    let s := { s with scratch := s.scratch.clear base (0x100000 * (16 - kept)) }
    s.setBank t k { b with home := h, remote := r, spill := sp, scratch := sc, next := none }

/-- WAYPART_SELECT and WAYPART_REPARTITION as parts of SYSWR: privilege, ZERO fields, then the write (R56, R57, R291). -/
def State.waypartExec (s : State) (v : Word) (write : State → Word → State) : Out :=
  if !s.me.priv then .next (s.trap .privileged)
  else if !waypartZeroOk v then .next (s.trap .reservedField)
  else
    let s := write s v
    .next (s.setMe s.me.advance)

/-- The select form acts on its TOWER and BANK alone (R57). -/
def execWaypartSelect (a : Reg) (s : State) : Out :=
  s.waypartExec (s.me.get a) fun s v => s.setMe (s.me.select v false)

def execWaypartRepartition (a : Reg) (s : State) : Out := s.waypartExec (s.me.get a) State.waypartWrite

/-- Bank 64·tower + bank ends its repartition (R57). -/
def execRepartitionComplete (bank : Nat) (s : State) : Out := .next (s.repartitionDone (bank / 64 % 4) (bank % 64))

end Sys2Proof.Machine
end

