-- ==== Sys2Proof/Machine/Tree.lean ====
section
/-!
DEFINITION. Tree banks (R49 to R52) and where a line's home copy lies (R16, R23, R50, R51).
-/
namespace Sys2Proof.Machine

/-- Levels of tree banks (R8). -/
inductive Level where
  | twig | branch | bough
  deriving DecidableEq, Repr

/-- The number of the tree bank over a cluster at a level: 84 banks a layer (R8). -/
def treeBank (lv : Level) (cl : Nat) : Nat :=
  let base := 84 * (3 * clTower cl + clLayer cl)
  match lv with
  | .twig => base + clBank cl
  | .branch => base + 64 + 4 * (clY cl / 4) + clX cl / 4
  | .bough => base + 80 + 2 * (clY cl / 8) + clX cl / 8

/-- Lines a tree bank holds: 1, 4 or 8 MiB (R8). -/
def treeBankLines (b : Nat) : Nat := if b % 84 < 64 then 8192 else if b % 84 < 80 then 32768 else 65536

/-- A line lies in a region of a bank's table. -/
def State.regionCovers (s : State) (b l : Nat) : Bool :=
  (s.regions.getD b []).any fun r => r.line ≤ l && l < r.line + r.len

/-- A tree bank has a free entry. -/
def State.treeRoom (s : State) (b : Nat) : Bool :=
  (s.lines.filter fun p => p.2.place = .tree b).length < treeBankLines b

/-- A line leaves a tree bank: with its record to the home ways, or to HBM (R51). -/
def State.leaveTree (s : State) (l : Nat) : State := if s.hasHomeWays l then s.enterHome l else s.leaveHome l

/-- The line enters a tree bank; with the bank full, a line that replacement, which is unspecified, takes leaves first
(R50, R51, log 5). -/
def State.enterTree (s : State) (b l : Nat) : State :=
  let s :=
    if s.treeRoom b then s
    else
      let ls := s.lines.keys.filter fun x => (s.line x).place = .tree b
      let (k, s) := s.choose ls.length
      match ls[k]? with
      | some x => s.leaveTree x
      | none => s
  s.setLine l { s.line l with place := .tree b }

/-- After a miss everywhere, the line is placed in the first tree bank on the request's path whose table covers it, else
in the home ways, else in no SRAM; only the home tower's own requests place lines in its tree (R50). cl is a cluster on the
request's way; a root core or copy engine starts at its branch. What another package's home holds is not known here. -/
def State.placeLine (s : State) (cl : Nat) (fromTwig : Bool) (pa : Nat) : State :=
  let l := lineOf pa
  if (s.line l).place ≠ .none || windowOf pa ≠ .hbm || pkgOf pa ≠ s.pkg then s
  else
    let path := (if fromTwig then [treeBank .twig cl] else []) ++ [treeBank .branch cl, treeBank .bough cl]
    let own := homeOf pa = s.towerId (clTower cl)
    match path.find? fun b => own && s.regionCovers b l with
    | some b => s.enterTree b l
    | none => if s.hasHomeWays l then s.enterHome l else s.noSram l

/-- TREE_BANK_EVICTION: a tree bank evicts a line (R51). -/
def execTreeBankEviction (line : Nat) (s : State) : Out :=
  match (s.line line).place with
  | .tree _ => .next (s.leaveTree line)
  | _ => .next s

/-! ## Transactions of the home that no program step makes (R25 to R28) -/

/-- OWNER_FORWARD: a load or store by an agent of another tower with clock pts reaches a line that a tower owns (R25);
no value of the store is known here, so a store is taken with the line's own bytes. -/
def execOwnerForward (line tower pts : Nat) (store : Bool) (s : State) : Out :=
  let pa := 128 * line
  let li := s.line line
  if !li.owned || li.owner = tower || s.isFenced (tower / 4) || (s.lineFault pa).isSome then .next s
  else
    match s.touch pa with
    | none => .next (s.stallTurn (homeOf pa % 4))
    | some s =>
      if store then
        match s.storeStep tower pts pa (s.mem.readN pa 128) with
        | some (_, s) => .next s
        | none => .next (s.stallTurn (homeOf pa % 4))
      else .next (s.loadLatest tower pts pa 0).2.2

/-- What the owner of a line may still send of it: a message of a fenced package is discarded, and a copy that was lost sends
nothing (R352, R369). -/
def State.ownerSends (s : State) (line : Nat) : Bool :=
  let li := s.line line
  li.copy ≠ .lost && !s.isFenced (li.owner / 4)

/-- WRITE_BACK: the owner's dirty copy returns to HBM; the home acknowledges it at once (R25, R26). -/
def execWriteBack (line : Nat) (s : State) : Out := .next (if s.ownerSends line then s.writeBackLine line else s)

/-- EVICTION_NOTICE: the owner gives up a clean copy (R25). -/
def execEvictionNotice (line : Nat) (s : State) : Out :=
  .next (if (s.line line).st = .e && s.ownerSends line then s.leaveRemote line else s)

/-- LEASE_RENEWAL: a copy with the given WTS asks at clock pts; the responder applies a lease (R27). -/
def execLeaseRenewal (line wts pts : Nat) (s : State) : Out :=
  let li := s.line line
  if (s.lineFault (128 * line)).isSome then .next s
  else
    let s := if li.owned then s else s.correct (homeOf (128 * line)) (128 * line)
    let li := s.line line
    let t := if wts = li.wts then pts else max pts li.wts
    let rts := leaseEnd li.rts t
    let li' := { li with rts := rts }
    .next ((s.setLine line (if li.owned then li' else li'.stamp s.turn li.wts rts)).noteClock rts)

/-- SCRUB_VISIT: the scrubber of a tower comes to its next line: a single symbol is corrected, an uncorrectable line logged, a
record of another turn rewritten (R20, R28). The sweeps follow each other; the first starts with READY (R30, log 4). -/
def execScrubVisit (line : Nat) (s : State) : Out :=
  let pa := 128 * line
  let t := homeOf pa
  let n := s.scrub.getD t 0
  if windowOf pa ≠ .hbm || n % 2 ^ 30 ≠ offOf pa / 128 then .next s
  else
    let li := s.line line
    let s := { s with scrub := s.scrub.set t (n + 1) }
    if li.bad then .next (s.logPa 5 pa)
    else
      let s := if li.sym then (s.setLine line { li with sym := false }).logPa 0 pa else s
      .next (if li.recTurn = s.turn then s else s.setLine line ((s.line line).stamp s.turn 0 0))

/-- The sweep of a tower that began at the last turn advance, or with READY, has completed (R29, R30, log 4). -/
def State.sweepDone (s : State) (t : Nat) : Bool := 2 ^ 30 ≤ s.scrub.getD t 0

end Sys2Proof.Machine
end

