-- ==== Sys2Proof/Machine/Agents.lean ====
section
/-!
DEFINITION. Accesses of address generators, copy jobs and the scheduler: the checks of their page types (R19, R31, R32,
R59, R379), the access itself (R66 to R70), and completion counters (R282).
-/
namespace Sys2Proof.Machine

/-! ## Address generators and copy jobs -/

/-- Page type, scratch and line of an access by an address generator, or by a copy job, which alone reaches the host
window; in the device window, which no rule opens to them and none bars, it is PERMISSION (R19, R31, R32, R59, R379; DESIGN
CHOICE, log 84). -/
def State.agentCheck (s : State) (copy : Bool) (x : Xlate) (pa : Nat) : Option (Code × Nat) :=
  let deny : Option (Code × Nat) := some (.permission, x.level)
  match windowOf pa with
  | .unbacked => none
  | .hbm => if x.mtype ≤ 1 then (s.lineFault pa).map fun c => (c, 0) else deny
  | .crown =>
    if x.mtype ≠ 1 || pkgOf pa ≠ s.pkg then deny
    else if s.scratchBacked pa then none
    else some (.crownScratchUnbacked, 0)
  | .device => deny
  | .host => if copy && x.mtype = 2 && pkgOf pa = s.pkg then none else deny

/-- Who accesses: tower of the package, clock, agent id, a cluster on its way to the tree and whether it starts at its
twig, and whether it is a copy job (R50, R65). -/
structure Agent where
  tower : Nat
  pts : Nat
  id : Nat
  cl : Nat
  twig : Bool
  deriving DecidableEq, Repr

/-- An element of the host window lies in an enabled aperture (R379). -/
def State.hostBacked (s : State) (pa : Nat) : Bool :=
  let d := offOf pa - 0x30000000000
  let n := d / 2 ^ 34
  let w1 := s.regs.oaper.getD (2 * n + 1) 0
  bitAt w1 63 && bits w1 62 61 ≠ 3 && d % 2 ^ 34 < 4096 * bits w1 22 0

/-- n bytes that a read over PCIe returns: values from outside the package (R379). -/
def State.hostBytes (s : State) (n : Nat) : List Byte × State :=
  ((List.range n).map (Config.hostByte s.fresh), { s with fresh := s.fresh + 1 })

/-- A read of n bytes within a line: the bytes, and the agent's new clock; only a coherent load step changes it
(R19, R60, R67, R70). -/
def State.agentLoad (s : State) (a : Agent) (x : Xlate) (pa n : Nat) : List Byte × Nat × State :=
  match windowOf pa with
  | .hbm =>
    if x.mtype = 0 then
      let (bs, t, s) := s.loadStep (s.towerId a.tower) a.pts pa n
      (bs, t, s.placeLine a.cl a.twig pa)
    else
      let (bs, _, s) := s.homeLoad pa n
      (bs, a.pts, s)
  | .crown => (s.readScratch pa n, a.pts, s)
  | .host =>
    if s.hostBacked pa then
      let (bs, s) := s.hostBytes n
      (bs, a.pts, s)
    else (leBytes n 0, a.pts, s.logPa 4 pa)
  | _ => (leBytes n 0, a.pts, s.logPa 4 pa)

/-- A write of cells of one line at physical address pa: a partial-line store step, a home-agent store, or posted
scratch writes; none when it must wait for the turn advance (R60, R68, R70). -/
def State.agentStore (s : State) (a : Agent) (x : Xlate) (pa : Nat) (cells : Table Nat) : Option (Nat × State) :=
  let base := pa / 128 * 128
  match windowOf pa with
  | .hbm =>
    let data := mergeCells (s.mem.readN base 128) cells
    if x.mtype = 0 then
      (s.storeStep (s.towerId a.tower) a.pts base data).map fun (t, s) => (t, s.placeLine a.cl a.twig pa)
    else (s.homeStore base data).map fun (_, s) => (a.pts, s)
  | .crown =>
    let data := mergeCells (s.readScratch base 128) cells
    let touched := (firsts (cells.keys.map (· / 2)))
    some (a.pts, touched.foldl (fun s i => s.postScratch a.id (base + i) [nth data i 0]) s)
  | .host => some (a.pts, if s.hostBacked pa then s else s.logPa 4 pa)
  | _ => some (a.pts, s.logPa 4 pa)

/-! ## The scheduler (R321) -/

/-- What an access for a job gives. -/
inductive Acc where
  | ok (bs : List Byte) (t : Nat) (s : State)
  | fault (code : Code) (level : Nat)
  | wait (s : State)
  deriving DecidableEq, Repr

/-- The page check of the regions that lie on coherent pages (R282, R321): a coherent page of an HBM data window, or an unbacked
address. -/
def jobPage (x : Xlate) (pa : Nat) : Option (Code × Nat) :=
  match windowOf pa with
  | .hbm => if x.mtype = 0 then none else some (.permission, x.level)
  | .unbacked => none
  | _ => some (.permission, x.level)

/-- The same, and the line's own fault (R31, R32). -/
def State.jobCheck (s : State) (x : Xlate) (pa : Nat) : Option (Code × Nat) :=
  match jobPage x pa with
  | some e => some e
  | none => if windowOf pa = .hbm then (s.lineFault pa).map fun c => (c, 0) else none

/-- The check of a page that need only be readable (R321): templates, and the shape records read at placement. -/
def State.readCheck (s : State) (x : Xlate) (pa : Nat) : Option (Code × Nat) :=
  match windowOf pa with
  | .hbm => if x.mtype ≤ 1 then (s.lineFault pa).map fun c => (c, 0) else some (.permission, x.level)
  | .unbacked => none
  | _ => some (.permission, x.level)

/-- A home-agent load of n bytes of a job's address space, its page checked by `ok` (R70, R321). -/
def State.jobRead (s : State) (j : Job) (ok : Xlate → Nat → Option (Code × Nat)) (va n : Nat) : Acc :=
  match s.translate (s.jobCtx j) [] 0 needLoad ok va with
  | .fault c l => .fault c l
  | .wait s => .wait s
  | .ok pa _ _ s =>
    if windowOf pa = .unbacked then .ok (leBytes n 0) (s.homeClock s.pkg) (s.logPa 4 pa)
    else
      let (bs, t, s) := s.homeLoad pa n
      .ok bs t s

/-- A read of n bytes as a walk reads a table line, at clock pts: no step, no clock changes (R40, R318). -/
def State.jobPeek (s : State) (j : Job) (pts va n : Nat) : Acc :=
  match s.translate (s.jobCtx j) [] 0 needLoad s.readCheck va with
  | .fault c l => .fault c l
  | .wait s => .wait s
  | .ok pa _ _ s =>
    let (bs, _, s) := (s.logUnbacked pa).peek pts pa n
    .ok bs pts s

/-- A home-agent store to a job's address space (R70, R321). -/
def State.jobWrite (s : State) (j : Job) (va : Nat) (data : List Byte) : Acc :=
  match s.translate (s.jobCtx j) [] 0 needStore s.jobCheck va with
  | .fault c l => .fault c l
  | .wait s => .wait s
  | .ok pa _ _ s =>
    if windowOf pa = .unbacked then .ok [] (s.homeClock s.pkg) (s.logPa 4 pa)
    else
      match s.homeStore pa data with
      | some (t, s) => .ok [] t s
      | none => .wait (s.stallTurn (homeOf pa % 4))

/-- A page of a counter: a coherent one (R282), an unbacked address too. -/
def counterPage (x : Xlate) (pa : Nat) : Option (Code × Nat) := if x.mtype = 0 then jobPage x pa else some (.permission, x.level)

/-- The physical address of a counter, with needs as given; its line takes its own faults (R282). Whether the VA is aligned is the
caller's to test: R313 and R321 ask it of SIGNAL_COUNTER, WAIT_COUNTER and ENDED, and R90 asks nothing of a DTARGET (log 88). -/
def State.counterPa (s : State) (ctx : Ctx) (need : Need) (va : Nat) : Xl :=
  s.translate ctx [] 0 need (fun x pa => if x.mtype = 0 then s.jobCheck x pa else some (.permission, x.level)) va

/-- An increment of a completion counter as an AMO.ADD.D step with the given clock (R282). -/
def State.countUp (s : State) (ctx : Ctx) (va clock : Nat) : Acc :=
  match s.counterPa ctx needBoth va with
  | .fault c l => .fault c l
  | .wait s => .wait s
  | .ok pa _ _ s =>
    if windowOf pa = .unbacked then .ok [] clock (s.logPa 4 pa)
    else
      match s.amoStep (s.towerId ctx.tower) clock pa 8 fun old => some (leBytes 8 (leNat old + 1)) with
      | some (bs, t, s) => .ok bs t s
      | none => .wait (s.stallTurn ctx.tower)

/-- An access whose page may have ceased to serve is left out then; k goes on with the state, or the access waits (R29, R41). -/
def Acc.after (r : Acc) (s : State) (k : State → Out) : Out :=
  match r with
  | .ok _ _ t => k t
  | .fault _ _ => k s
  | .wait t => .next t

end Sys2Proof.Machine
end

