-- ==== Sys2Proof/Machine/Flags.lean ====
section
/-!
DEFINITION. The stage flag word (R132): its bits, and results that carry the flags they set.
-/
namespace Sys2Proof.Machine

/-- Invalid (R132). -/
def flagNV : Flags := 1

/-- Divide by zero (R132). -/
def flagDZ : Flags := 2

/-- Overflow (R132). -/
def flagOF : Flags := 4

/-- Underflow (R132). -/
def flagUF : Flags := 8

/-- Inexact (R132). -/
def flagNX : Flags := 16

/-- A flag set when a condition holds. -/
def flagIf (c : Bool) (f : Flags) : Flags := if c then f else 0

/-- An encoding with the flags that making it set. -/
structure Fl where
  bits : Nat
  flags : Flags
  deriving DecidableEq, Repr

/-- Flags added to a result. -/
def Fl.with (r : Fl) (f : Flags) : Fl := ⟨r.bits, r.flags ||| f⟩

/-- A result that sets no flag. -/
def Fl.pure (n : Nat) : Fl := ⟨n, 0⟩

end Sys2Proof.Machine
end

