-- ==== Sys2Proof/Machine/Num.lean ====
section
/-!
DEFINITION. Element formats and exact values (R121 to R126), rounding (R127 to R130, R134 to R136), products and sums of
exact values (R139), the residue triple (R125, R126).
-/
namespace Sys2Proof.Machine

/-! ## Formats (R121, R122, R124) -/

def isFloat (f : Nat) : Bool := f ≤ 5

/-- Mantissa bits of a floating-point format. -/
def fmtM (f : Nat) : Nat :=
  match f with
  | 0 => 23
  | 1 => 7
  | 2 => 10
  | 3 => 3
  | 4 => 2
  | _ => 1

/-- Exponent bits. -/
def fmtE (f : Nat) : Nat :=
  match f with
  | 0 | 1 => 8
  | 2 => 5
  | 3 => 4
  | 4 => 5
  | _ => 2

/-- Exponent bias. -/
def fmtBias (f : Nat) : Int :=
  match f with
  | 0 | 1 => 127
  | 2 => 15
  | 3 => 7
  | 4 => 15
  | _ => 1

/-- The exponent of the smallest normal. -/
def fmtEmin (f : Nat) : Int := 1 - fmtBias f

/-- The encoding of the largest finite magnitude. -/
def fmtMaxBits (f : Nat) : Nat :=
  match f with
  | 0 => 0x7F7FFFFF
  | 1 => 0x7F7F
  | 2 => 0x7BFF
  | 3 => 0x7E
  | 4 => 0x7B
  | _ => 0x7

/-- The encoding of +Inf, where the format has one. -/
def fmtInfBits (f : Nat) : Option Nat :=
  match f with
  | 0 => some 0x7F800000
  | 1 => some 0x7F80
  | 2 => some 0x7C00
  | 4 => some 0x7C
  | _ => none

/-- The canonical NaN; 0 for the formats without one (R128, R131). -/
def canonicalNan (f : Nat) : Nat :=
  match f with
  | 0 => 0x7FC00000
  | 1 => 0x7FC0
  | 2 => 0x7E00
  | 3 => 0x7F
  | 4 => 0x7E
  | _ => 0

/-- The sign bit of a format. -/
def fmtSign (f : Nat) : Nat := 2 ^ (fmtWidth f - 1)

/-- A magnitude with a sign bit. -/
def withSign (f : Nat) (neg : Bool) (mag : Nat) : Nat := if neg then mag + fmtSign f else mag

/-! ## Exact values -/

/-- An exact value: (−1)^neg · m · 2^e, an infinity, or a NaN. -/
inductive XVal where
  | fin (neg : Bool) (m : Nat) (e : Int)
  | inf (neg : Bool)
  | nan (signalling : Bool)
  deriving DecidableEq, Repr

namespace XVal

def zero (neg : Bool) : XVal := .fin neg 0 0

/-- An integer. -/
def ofInt (n : Int) : XVal := .fin (n < 0) n.natAbs 0

def isNan : XVal → Bool
  | .nan _ => true
  | _ => false

def isSnan : XVal → Bool
  | .nan s => s
  | _ => false

def isZero : XVal → Bool
  | .fin _ 0 _ => true
  | _ => false

def isInf : XVal → Bool
  | .inf _ => true
  | _ => false

def sign : XVal → Bool
  | .fin s _ _ => s
  | .inf s => s
  | .nan _ => false

def neg : XVal → XVal
  | .fin s m e => .fin (!s) m e
  | .inf s => .inf (!s)
  | v => v

def abs : XVal → XVal
  | .fin _ m e => .fin false m e
  | .inf _ => .inf false
  | v => v

end XVal

/-- decode(F, bits, ftz) of a floating-point element (R122, R130). -/
def decodeFloat (f : Nat) (x : Nat) (ftz : Bool) : XVal :=
  let m := fmtM f
  let x := x % 2 ^ fmtWidth f
  let s := x ≥ fmtSign f
  let ef := x / 2 ^ m % 2 ^ fmtE f
  let mf := x % 2 ^ m
  let top := ef = 2 ^ fmtE f - 1
  if f ≠ 3 && f ≠ 5 && top then
    if mf = 0 then .inf s else .nan (mf < 2 ^ (m - 1))
  else if f = 3 && top && mf = 7 then .nan false
  else if ef = 0 then
    if ftz || mf = 0 then .zero s else .fin s mf (fmtEmin f - m)
  else .fin s (2 ^ m + mf) (ef - fmtBias f - m)

/-- The signed value of an integer element (R124). -/
def intOf (f : Nat) (x : Nat) : Int :=
  if f = 9 || f = 12 || f = 13 then ((x % 2 ^ fmtWidth f : Nat) : Int) else sextNat (fmtWidth f) x

/-- decode of an element; the residue triple has its own operations (R139). -/
def decodeVal (f : Nat) (x : Nat) (ftz : Bool) : XVal :=
  if isFloat f then decodeFloat f x ftz else .ofInt (intOf f x)

/-- Least and largest values of an integer format (R124). -/
def intMin (f : Nat) : Int := if f = 9 || f = 12 || f = 13 then 0 else -((2 ^ (fmtWidth f - 1) : Nat) : Int)

def intMax (f : Nat) : Int :=
  if f = 9 || f = 12 || f = 13 then ((2 ^ fmtWidth f : Nat) : Int) - 1 else ((2 ^ (fmtWidth f - 1) : Nat) : Int) - 1

/-- The pattern of an integer in a format's width. -/
def intBits (f : Nat) (n : Int) : Nat := (n % ((2 ^ fmtWidth f : Nat) : Int)).toNat

/-! ## Rounding (R127, R128, R129) -/

/-- rnd_int of m / 2^k under a mode, for a value of sign neg (R127, R128). -/
def rndShift (m k : Nat) (mode : Nat) (neg : Bool) : Nat :=
  let q := m / 2 ^ k
  let r := m % 2 ^ k
  let up : Bool :=
    match mode with
    | 0 => 2 * r > 2 ^ k || (2 * r = 2 ^ k && q % 2 = 1)
    | 1 => false
    | 2 => r ≠ 0 && !neg
    | 3 => r ≠ 0 && neg
    | _ => r ≠ 0 && 2 * r ≥ 2 ^ k
  if up then q + 1 else q

/-- m · 2^e rounded to an integer. -/
def rndInt (m : Nat) (e : Int) (mode : Nat) (neg : Bool) : Nat :=
  if 0 ≤ e then m * 2 ^ e.toNat else rndShift m (-e).toNat mode neg

/-- m · 2^e is an integer. -/
def isInteger (m : Nat) (e : Int) : Bool := 0 ≤ e || m % 2 ^ (-e).toNat = 0

/-- floor(log2(m · 2^e)) for a nonzero m. -/
def expOf (m : Nat) (e : Int) : Int := (Nat.log2 m : Int) + e

/-- The result of an infinite value in F (R136). -/
def infResult (f : Nat) (neg sat : Bool) : Fl :=
  if isFloat f then
    match fmtInfBits f with
    | some i => .pure (withSign f neg (if sat then fmtMaxBits f else i))
    | none =>
      if f = 3 then if sat then .pure (withSign 3 neg 0x7E) else ⟨0x7F, flagNV⟩
      else ⟨withSign 5 neg 7, flagOF⟩
  else ⟨intBits f (if neg then intMin f else intMax f), flagOF⟩

/-- overflow(F, mode, s, sat) (R129); SR as R135. -/
def overflowBits (f mode : Nat) (neg sat : Bool) : Nat :=
  let big := withSign f neg (fmtMaxBits f)
  let inf := match fmtInfBits f with
    | some i => withSign f neg i
    | none => if f = 3 then 0x7F else big
  if sat || f = 5 then big
  else
    match mode with
    | 1 => big
    | 2 => if neg then big else inf
    | 3 => if neg then inf else big
    | _ => inf

/-- How the rounding to an integer multiple of the ulp is made: a mode, or a stochastic draw with the source format's
ulp exponent (R127, R135). -/
inductive Rounding where
  | mode (n : Nat)
  | sr (draw : Nat) (srcUlp : Int)
  deriving DecidableEq, Repr

/-- sr_round of m · 2^sh with d discarded bits and a draw (R135). -/
def srRound (m : Nat) (sh : Int) (d : Nat) (draw : Nat) : Nat :=
  let k := min d 24
  let floorShift (sh : Int) : Nat := if 0 ≤ sh then m * 2 ^ sh.toNat else m / 2 ^ (-sh).toNat
  if k = 0 then floorShift sh
  else (floorShift (sh + k) + draw % 2 ^ 32 / 2 ^ (32 - k)) / 2 ^ k

/-- round_to of a finite nonzero magnitude m · 2^e into a floating-point format (R128, R135). -/
def roundFinite (f : Nat) (neg : Bool) (m : Nat) (e : Int) (how : Rounding) (ftz sat : Bool) : Fl :=
  let mb := fmtM f
  let emin := fmtEmin f
  let lg := expOf m e
  let ex := max lg emin
  let ulp := ex - mb
  let w : Nat :=
    match how with
    | .mode n => rndInt m (e - ulp) n neg
    | .sr x src => srRound m (e - ulp) (ulp - src).toNat x
  let exact : Bool :=
    match how with
    | .mode _ => isInteger m (e - ulp)
    | .sr _ _ => isInteger m (e - ulp)
  let tiny : Bool :=
    match how with
    | .mode n => lg < emin && !(lg = emin - 1 && rndInt m (e - (lg - mb)) n neg = 2 ^ (mb + 1))
    | .sr _ _ => ex = emin && w < 2 ^ mb
  let mode : Nat :=
    match how with
    | .mode n => n
    | .sr _ _ => 0
  let enc := ((ex + fmtBias f) * (2 ^ mb : Nat) + w - (2 ^ mb : Nat)).toNat
  if enc > fmtMaxBits f then ⟨overflowBits f mode neg sat, flagOF ||| flagNX⟩
  else if ftz && tiny then ⟨withSign f neg 0, flagUF ||| flagNX⟩
  else ⟨withSign f neg enc, flagIf (!exact) flagNX ||| flagIf (!exact && tiny) flagUF⟩

/-- round_to (R128). -/
def roundTo (f : Nat) (v : XVal) (how : Rounding) (ftz sat : Bool) : Fl :=
  match v with
  | .nan s =>
    let nv := flagIf s flagNV
    if f = 5 || !isFloat f then ⟨0, flagNV⟩ else ⟨canonicalNan f, nv⟩
  | .inf neg => infResult f neg sat
  | .fin neg m e =>
    if isFloat f then
      if m = 0 then .pure (withSign f neg 0) else roundFinite f neg m e how ftz sat
    else
      let mode : Nat := match how with | .mode n => n | .sr _ _ => 0
      let a := rndInt m e mode neg
      let n : Int := if neg then -(a : Int) else a
      if n < intMin f then ⟨intBits f (intMin f), flagOF⟩
      else if intMax f < n then ⟨intBits f (intMax f), flagOF⟩
      else ⟨intBits f n, flagIf (!isInteger m e) flagNX⟩

/-- The ulp exponent of a finite value in a floating-point format (R135). -/
def ulpExp (f : Nat) (v : XVal) : Int :=
  match v with
  | .fin _ m e => max (if m = 0 then fmtEmin f else expOf m e) (fmtEmin f) - fmtM f
  | _ => 0

/-! ## Products and sums of exact values (R130, R139) -/

/-- exact_product of two values, with NV for Inf × 0; a signalling NaN is reported by the reader (R131). -/
def xmul (a b : XVal) : XVal × Flags :=
  match a, b with
  | .nan _, _ => (.nan false, 0)
  | _, .nan _ => (.nan false, 0)
  | .inf s, y => if y.isZero then (.nan false, flagNV) else (.inf (s != y.sign), 0)
  | x, .inf s => if x.isZero then (.nan false, flagNV) else (.inf (s != x.sign), 0)
  | .fin s m e, .fin t n f => (.fin (s != t) (m * n) (e + f), 0)

/-- A signed integer multiple of 2^e. -/
def scaled (v : XVal) (e : Int) : Int :=
  match v with
  | .fin s m k => let x : Int := ((m * 2 ^ (k - e).toNat : Nat) : Int); if s then -x else x
  | _ => 0

def XVal.exp : XVal → Int
  | .fin _ _ e => e
  | _ => 0

/-- An exact sum; a zero sum of operands that are not all zero is +0, or −0 under RDN; the sign of a sum of zeros of
mixed sign is a free value (R130, log 8). Inf + (−Inf) is NaN and sets NV. -/
def xadd (rdn : Bool) (a b : XVal) : XVal × Flags :=
  match a, b with
  | .nan _, _ => (.nan false, 0)
  | _, .nan _ => (.nan false, 0)
  | .inf s, .inf t => if s = t then (.inf s, 0) else (.nan false, flagNV)
  | .inf s, _ => (.inf s, 0)
  | _, .inf t => (.inf t, 0)
  | .fin s m e, .fin t n f =>
    if m = 0 ∧ n = 0 then (.zero (if s = t then s else Config.mixedZeroNeg rdn), 0)
    else
      let k := min e f
      let x := scaled (.fin s m e) k + scaled (.fin t n f) k
      if x = 0 then (.zero rdn, 0) else (.fin (x < 0) x.natAbs k, 0)

/-- NV for a signalling NaN among the operands (R131). -/
def snanFlags (vs : List XVal) : Flags := flagIf (vs.any XVal.isSnan) flagNV

/-- A value less than another, numbers only; −0 below +0 when strict zeros are asked (R137, R178). -/
def xlt (zeroOrder : Bool) (a b : XVal) : Bool :=
  match a, b with
  | .nan _, _ => false
  | _, .nan _ => false
  | .inf s, .inf t => s && !t
  | .inf s, _ => s
  | _, .inf t => !t
  | .fin s m e, .fin t n f =>
    if m = 0 ∧ n = 0 then zeroOrder && s && !t
    else
      let k := min e f
      scaled (.fin s m e) k < scaled (.fin t n f) k

/-- Equal numbers; the zeros are equal. -/
def xeq (a b : XVal) : Bool := !a.isNan && !b.isNan && !xlt false a b && !xlt false b a

/-! ## The residue triple (R125, R126) -/

def rtMods : List Nat := [1024, 1023, 1021]

/-- The residues of a lane after the reading of R125, and NV when a field is out of range. -/
def rtRead (x : Nat) : List Nat × Flags :=
  let a := [x % 1024, x / 1024 % 1024, x / 2 ^ 20 % 1024]
  let high := (a.zip rtMods).any fun (v, m) => v ≥ m
  ((a.zip rtMods).map fun (v, m) => v % m, flagIf high flagNV)

/-- The lane of three residues. -/
def rtLane (a : List Nat) : Nat := nth a 2 0 * 2 ^ 20 + nth a 1 0 * 1024 + nth a 0 0

/-- A function of two residues and the modulus, on each channel. -/
def rtMap2 (f : Nat → Nat → Nat → Nat) (a b : List Nat) : List Nat :=
  ((a.zip b).zip rtMods).map fun ((x, y), m) => f m x y

def rtAdd : List Nat → List Nat → List Nat := rtMap2 fun m x y => (x + y) % m
def rtSub : List Nat → List Nat → List Nat := rtMap2 fun m x y => (x + m - y) % m
def rtMul : List Nat → List Nat → List Nat := rtMap2 fun m x y => x * y % m

/-- rt_enc (R126). -/
def rtEnc (x : Int) : Nat := rtLane (rtMods.map fun m => (x % (m : Int)).toNat)

/-- rt_dec of residues (R126). -/
def rtDec (a : List Nat) : Int :=
  let a1 : Int := nth a 0 0
  let a2 : Int := nth a 1 0
  let a3 : Int := nth a 2 0
  let k2 := (a2 - a1) % 1023
  let k3 := ((a3 - a1 - 3 * k2) * 851) % 1021
  let x := a1 + 1024 * k2 + 1047552 * k3
  if x ≥ 534775296 then x - 1069550592 else x

/-! ## Atomic FP32 addition (R258, R214) -/

/-- round_to(FP32, decode(a) + decode(b), mode, ftz, sat), with its flags. -/
def fadd32 (mode : Nat) (ftz sat : Bool) (a b : Nat) : Fl :=
  let x := decodeFloat 0 a ftz
  let y := decodeFloat 0 b ftz
  let (v, f) := xadd (mode = 3) x y
  (roundTo 0 v (.mode mode) ftz sat).with (f ||| snanFlags [x, y])

/-- combine(old, b) at w bits (R258). -/
def amoCombine (fn : AmoFn) (w : Nat) (old b : Nat) : Nat :=
  let so := sextNat w old
  let sb := sextNat w b
  match fn with
  | .add => (old + b) % 2 ^ w
  | .and => old.land b
  | .or => old.lor b
  | .xor => old.xor b
  | .minS => if sb < so then b else old
  | .maxS => if so < sb then b else old
  | .minN => min old b
  | .maxN => max old b
  | .swap => b
  | .fadd => (fadd32 0 false false old b).bits

end Sys2Proof.Machine
end

