-- ==== Sys2Proof/Machine/Routes.lean ====
section
/-!
DEFINITION. Queues of a cluster (R103, R112, R206), destinations of its units (R165, R207), and what lies behind a router
port (R112, R114, R323, R328 to R330, R332).
-/
namespace Sys2Proof.Machine

namespace Cluster

/-! ## Queues -/

def queue (c : Cluster) (n : Nat) : List Token := c.q.getD n []

def setQueue (c : Cluster) (n : Nat) (ts : List Token) : Cluster := { c with q := c.q.set n ts }

def head? (c : Cluster) (n : Nat) : Option Token := (c.queue n).head?

def pushQ (c : Cluster) (n : Nat) (t : Token) : Cluster := c.setQueue n (c.queue n ++ [t])

/-- An input or source that has taken or sent a MARK or an EOS (R327). -/
def note (c : Cluster) (n kind : Nat) : Cluster :=
  if kind = 3 then { c with marked := if c.marked.contains n then c.marked else n :: c.marked }
  else if kind = 2 then { c with ended := if c.ended.contains n then c.ended else n :: c.ended }
  else c

/-- The head of a queue consumed; a MARK or EOS is noted. -/
def popQ (c : Cluster) (n : Nat) : Cluster :=
  match c.queue n with
  | [] => c
  | t :: ts => (c.setQueue n ts).note n t.kind

def popAll (c : Cluster) (ns : List Nat) : Cluster := ns.foldl popQ c

def rqueue (c : Cluster) (port vc : Nat) : List (Nat × Token) := c.rq.getD (2 * port + vc) []

def setRqueue (c : Cluster) (port vc : Nat) (ts : List (Nat × Token)) : Cluster :=
  { c with rq := c.rq.set (2 * port + vc) ts }

def slot (c : Cluster) (k : Nat) : Slot := c.slots.getD k Slot.reset

def setSlot (c : Cluster) (k : Nat) (x : Slot) : Cluster := { c with slots := c.slots.set k x }

def ag (c : Cluster) (u : Nat) : Ag := c.ags.getD u Ag.reset

def setAg (c : Cluster) (u : Nat) (x : Ag) : Cluster := { c with ags := c.ags.set u x }

/-- The address generator's entry, when it is configured. -/
def agCfg? (c : Cluster) (u : Nat) : Option (Nat × AgCfg) := (c.ag u).frame.map fun f => (bits f 239 236, agCfgOf f)

/-- The slot's configuration: OP and fields (R164). -/
def slotCfg? (c : Cluster) (k : Nat) : Option (Nat × SlotCfg) := (c.slot k).frame.map fun f => (bits f 239 232, slotCfgOf f)

end Cluster

/-! ## Destinations -/

/-- Where a token of a unit goes: a queue of the cluster, the router by a circuit, or nowhere. -/
inductive Dest where
  | queue (n : Nat)
  | router (tag : Nat)
  | none
  deriving DecidableEq, Repr

/-- The queue that a destination's tokens wait in: those of one circuit share theirs. -/
def Dest.place : Dest → Dest
  | .router tag => .router (tag % 32)
  | d => d

namespace Cluster

/-- The circuit whose IN is a unit's port code: a pair's number, or 16 for SW.REPL (R207, R225, R226). -/
def circuitOf (c : Cluster) (code : Nat) : Option Nat :=
  match c.pairs.find? fun p => p.2.inp = code with
  | some p => some p.1
  | none => c.swRepl.bind fun r => if r.inp = code then some 16 else none

def circuitDest (c : Cluster) (code : Nat) : Dest :=
  match c.circuitOf code with
  | some t => .router t
  | none => .none

/-- The queue of a local output: LQ of a slot, IQ or VQ of an address generator, the sink, arr.p or arr.q (R207). -/
def localQueue (out lq : Nat) : Nat :=
  if out ≤ 9 then 4 * (out - 6) + lq
  else if out ≤ 13 then 16 + 2 * (out - 10) + lq
  else if out = 14 then 24
  else 25 + lq

/-- The input of address generator a that slot k feeds (R209). -/
def agInput (c : Cluster) (a k : Nat) : Dest :=
  match c.agCfg? a with
  | some (_, g) =>
    if g.isrc.toNat = k then .queue (16 + 2 * a) else if g.vsrc.toNat = k then .queue (17 + 2 * a) else .none
  | none => .none

/-- The destination of one bit of slot k's route mask (R165). -/
def slotDest (c : Cluster) (k : Nat) (g : SlotCfg) (b : Nat) : Dest :=
  if b ≤ 3 then .queue (4 * b + g.qsel b)
  else if b = 6 then c.agInput g.agsel.toNat k
  else if b = 7 then .queue 24
  else if b = 8 then .queue 26
  else if b = 9 then .queue 25
  else if 10 ≤ b then c.circuitDest (6 + k)
  else .none

/-- The outside ports that slot k routes to by another of its masks than the given one, as a mask of ports (R189, R198). -/
def otherPorts (c : Cluster) (k : Nat) (g : SlotCfg) (mask : Nat) : Nat :=
  let all := g.dst.toNat.lor (opExtraMask ((((c.slotCfg? k).map (·.1)).getD 0)) g.cst)
  sumNat ((List.range 6).map fun p => if all.testBit (15 - p) && !mask.testBit (15 - p) then 2 ^ p else 0)

/-- The destinations of a route mask, by ascending bit, each once: the router bits share the slot's circuit. A token for
SW.REPL carries the ports that only another mask of the slot names, which it passes by. DEDUCED (log 27): R113 copies a token to
every branch, and R198 and R200 send it to the chosen mask alone. -/
def slotDests (c : Cluster) (k : Nat) (g : SlotCfg) (mask : Nat) : List (Nat × Dest) :=
  ((List.range 16).filter mask.testBit).foldl (fun l b =>
    let d := match c.slotDest k g b with
      | .router 16 => .router (16 + 32 * c.otherPorts k g mask)
      | d => d
    if l.any (·.2 = d) then l else l ++ [(b, d)]) []

/-- The destination of a destination code with its queue field (R207). -/
def codeDest (c : Cluster) (inp code oq : Nat) : Dest :=
  if code ≤ 3 then .queue (4 * code + oq)
  else if code = 4 then .queue 25
  else if code = 5 then .queue 26
  else if code = 6 then c.circuitDest inp
  else if code = 7 then .queue 24
  else .none

/-- The virtual channel of the local port that a circuit's tokens wait in: that of its output link, VC 0 for local outputs and
for a replication with a branch on VC 0 (R112). -/
def localVc (c : Cluster) (tag : Nat) : Nat :=
  let vc (out ovc : Nat) : Nat := if out ≤ 5 then ovc else 0
  if tag % 32 = 16 then (match c.swRepl with
    | some r => if r.br.all fun b => vc b.1 b.2.1 = 1 then 1 else 0
    | none => 0)
  else
    match c.pairs.find? fun p => p.1 = tag with
    | some (_, r) => vc r.out r.ovc
    | none => 0

/-- Room for n tokens at a destination (R103, R104, R112). -/
def room (c : Cluster) (d : Dest) (n : Nat) : Bool :=
  match d with
  | .queue q => (c.queue q).length + n ≤ 4
  | .router tag => (c.rqueue 6 (c.localVc tag)).length + n ≤ 8
  | .none => true

/-- A token put into a destination. -/
def send (c : Cluster) (d : Dest) (t : Token) : Cluster :=
  match d with
  | .queue q => c.pushQ q t
  | .router tag => c.setRqueue 6 (c.localVc tag) (c.rqueue 6 (c.localVc tag) ++ [(tag, t)])
  | .none => c

/-- Tokens put into the destinations of a slot, in order: a mask with each token. -/
def sendSlot (c : Cluster) (k : Nat) (g : SlotCfg) (ts : List (Nat × Token)) : Cluster :=
  ts.foldl (fun c (mask, t) => (c.slotDests k g mask).foldl (fun c d => c.send d.2 t) c) c

/-- The lowest-numbered destination without room for what a firing sends it. -/
def fullDest (c : Cluster) (k : Nat) (g : SlotCfg) (ts : List (Nat × Token)) : Option (Nat × Dest) :=
  let all := ts.foldl (fun m t => m.lor t.1) 0
  (c.slotDests k g all).find? fun (_, d) =>
    !c.room d (ts.filter fun t => (c.slotDests k g t.1).any fun x => x.2.place = d.place).length

end Cluster

/-! ## Behind a router port -/

/-- What an output port and VC of a cluster's router leads to: a queue of another router, the crown for a skip link, a
place that takes no token now, or nothing. -/
inductive Hop where
  | into (cl port vc : Nat)
  | park (skip : Nat)
  | held
  | off
  deriving DecidableEq, Repr

/-- The port at the other end of a link (R112): north and south, east and west, up and down. -/
def opposite (port : Nat) : Nat := if port % 2 = 0 then port + 1 else port - 1

/-- The cluster next to one through a port; a row's number rises southward (R8, R318). -/
def neighbour (cl port : Nat) : Option Nat :=
  let (t, l, x, y) := (clTower cl, clLayer cl, clX cl, clY cl)
  match port with
  | 0 => if y = 0 then none else some (clusterKey t l x (y - 1))
  | 1 => if y = 15 then none else some (clusterKey t l x (y + 1))
  | 2 => if x = 15 then none else some (clusterKey t l (x + 1) y)
  | 3 => if x = 0 then none else some (clusterKey t l (x - 1) y)
  | 4 => if l = 2 then none else some (clusterKey t (l + 1) x y)
  | _ => if l = 0 then none else some (clusterKey t (l - 1) x y)

/-- The links of a frame: input, VC, and outputs with VC and queue (R224, R226). -/
def frameLinks (f : Frame) : List (Nat × Nat × Nat × Nat) :=
  if Frame.layout f ≠ 2 then []
  else if Frame.unit f = 0 then
    [0, 1, 2, 3].filterMap fun p =>
      let r := routePairOf f p
      if r.en then some (r.inp, r.ivc, r.out, r.ovc) else none
  else if Frame.unit f = 1 then
    let r := swReplOf f
    r.br.map fun b => (r.inp, r.ivc, b.1, b.2.1)
  else []

/-- The frames of a stage for one column. -/
def Band.stageCol (b : Band) (stage col : Nat) : List Frame := (nth b.images stage []).filter fun f => Frame.col f = col

/-- A stage's image has a link into the given input in a column. -/
def Band.takes (b : Band) (stage col inp ivc : Nat) : Bool :=
  ((b.stageCol stage col).map frameLinks).flatten.any fun l => l.1 = inp && l.2.1 = ivc

/-- A stage's image has a link out of the given output in a column. -/
def Band.gives (b : Band) (stage col out ovc : Nat) : Bool :=
  ((b.stageCol stage col).map frameLinks).flatten.any fun l => l.2.2.1 = out && l.2.2.2 = ovc

/-- The receiver of stage t's feedback link in a column (R329). -/
def Band.feedbackTo (b : Band) (t col : Nat) : Option Nat :=
  ((List.range t).filter fun u => b.takes u col 1 1).getLast?

/-- The row of a band that hosts a position and accepts tokens (R327, R328). -/
def Band.rowAt (b : Band) (p : Nat) : Option Nat :=
  let r := p % max 1 b.height
  if b.resident r && (b.row r).p = p then some r else none

/-- The link of a port and VC (R112, R323, R328 to R330, R332). -/
def State.hop (s : State) (cl port vc : Nat) : Hop :=
  match s.hostOf cl with
  | none =>
    match neighbour cl port with
    | some n => .into n (opposite port) vc
    | none => .off
  | some (_, b, r, col) =>
    let p := (b.row r).p
    let stage := p % max 1 b.depth
    let toRow (o : Option Nat) (inp ivc : Nat) : Hop :=
      match o with
      | some r => .into (b.cluster r col) inp ivc
      | none => .held
    match (s.cluster cl).swPark with
    | some k =>
      if k.port = port && k.vc = vc then .park k.skip
      else State.hop.links b r col p stage toRow port vc
    | none => State.hop.links b r col p stage toRow port vc
where
  links (b : Band) (r col p stage : Nat) (toRow : Option Nat → Nat → Nat → Hop) (port vc : Nat) : Hop :=
    if port = 1 && vc = 0 then
      if b.scroll then toRow (b.rowAt (p + 1)) 0 0
      else
        let n := (r + 1) % max 1 b.height
        toRow (if b.resident n then some n else none) 0 0
    else if port = 0 && vc = 1 then
      match b.feedbackTo stage col with
      | some u => toRow (b.rowAt (p - (stage - u))) 1 1
      | none => .off
    else if port = 2 then (if col + 1 < b.width then .into (b.cluster r (col + 1)) 3 vc else .off)
    else if port = 3 then (if col = 0 then .off else .into (b.cluster r (col - 1)) 2 vc)
    else .off

/-- A cluster's router takes a token into a port and VC: its configuration is complete, or it has no launch, and the
queue has one of its 8 places free; the inbound links of a row under CFGLOAD close with its quiescence (R112, R116, R118). -/
def State.routerRoom (s : State) (cl port vc : Nat) : Bool :=
  let c := s.cluster cl
  let closed := match s.hostOf cl with
    | some (_, b, r, _) => b.holds.any fun h => h.row = r && h.quiet
    | none => false
  (c.done || c.launch.isNone) && !closed && (c.rqueue port vc).length < 8

/-- A destination that scrolling holds: the circuit's link leads to a row that hosts another position (R328). -/
def State.scrollHeld (s : State) (cl : Nat) (d : Dest) : Bool :=
  match d with
  | .router tag =>
    let c := s.cluster cl
    let outs := if tag % 32 = 16 then ((c.swRepl.map fun r => r.br.map fun b => (b.1, b.2.1)).getD [])
      else (c.pairs.filter fun p => p.1 = tag).map fun p => (p.2.out, p.2.ovc)
    outs.any fun o => o.1 ≤ 1 && s.hop cl o.1 o.2 = .held
  | _ => false

end Sys2Proof.Machine
end

