-- ==== Sys2Proof/Machine/CellCore.lean ====
section
/-!
DEFINITION. Firing of a compute slot: its heads (R186, R188), its lanes (R108, R172), FP_INVALID (R133), room (R109,
R189), the stall record (R110), and the generators (R134).
-/
namespace Sys2Proof.SlotCfg

/-- The configured inputs: the distinct queues that SRC names, in ascending order (R164). -/
def inputs (g : SlotCfg) : List Nat := [0, 1, 2, 3].filter fun q => [0, 1, 2, 3].any fun i => g.src i = q

/-- The primary input (R186). -/
def primary (g : SlotCfg) : Nat := if g.src 0 ≤ 3 then g.src 0 else (g.inputs.head?).getD 0

end Sys2Proof.SlotCfg

namespace Sys2Proof.Machine

/-! ## Tokens by class (R186) -/

namespace Token

def valued (t : Token) : Bool := t.kind = 0 || t.kind = 1 || t.kind = 5
def isEnd (t : Token) : Bool := t.kind = 2 || t.kind = 3
def isBoundary (t : Token) : Bool := t.kind = 6 || t.kind = 7
def isSwitch (t : Token) : Bool := t.kind = 4
def isReserved (t : Token) : Bool := 8 ≤ t.kind
def isLast (t : Token) : Bool := t.kind = 1

/-- The valid lanes that a list of lane results gives. -/
def ofLanes (kind seq : Nat) (ls : List (Option Nat)) : Token :=
  let (lanes, valid) := packLanes 32 ls
  ⟨kind, seq, valid, lanes⟩

end Token

/-! ## Heads (R188) -/

/-- What the heads of a slot ask for. -/
inductive Heads where
  /-- A queue is empty. -/
  | wait (q : Nat)
  /-- A token of a reserved kind (R106). -/
  | reserved
  | switch
  /-- A firing: the token of each input, the inputs that give up their head, and the token that gives KIND and SEQ. -/
  | fire (toks : List (Nat × Token)) (pop : List Nat) (base : Token)
  | align (kind : Nat)
  /-- STREAM_LENGTH_MISMATCH: the two queues, ends of two kinds or not. -/
  | mismatch (qa qb : Nat) (ends : Bool)
  | hold
  /-- LEN TRUNCATE: the inputs that discard a valued token. -/
  | discard (qs : List Nat)
  deriving DecidableEq, Repr

/-- A token with every lane CST (R188). -/
def cstToken (cst : Lane) : Token := Token.ofLanes 0 0 (List.replicate 16 (some cst.toNat))

/-- The inputs of slot k, of those given, that TRUNCATE discards on: no head yet, or a valued one. -/
def Cluster.cutting (c : Cluster) (k : Nat) (qs : List Nat) : List Nat :=
  qs.filter fun q => ((c.head? (4 * k + q)).map Token.valued).getD true

/-- A configured input of slot k has a token of a reserved kind at its head, which blocks the slot whatever the other inputs
hold (R106). -/
def Cluster.reservedHead (c : Cluster) (k : Nat) (g : SlotCfg) : Bool :=
  g.inputs.any fun q => ((c.head? (4 * k + q)).map Token.isReserved).getD false

/-- The first row of R188's table that applies to the heads of slot k. -/
def Cluster.headRow (c : Cluster) (k : Nat) (g : SlotCfg) : Heads :=
  let hs := g.inputs.map fun q => (q, c.head? (4 * k + q))
  if c.reservedHead k g then .reserved
  else
  match hs.find? fun h => h.2.isNone with
  | some (q, _) => .wait q
  | none =>
    let hs := hs.filterMap fun (q, t) => t.map fun t => (q, t)
    let vs := hs.filter (·.2.valued)
    let es := hs.filter (·.2.isEnd)
    let bs := hs.filter (·.2.isBoundary)
    let first (l : List (Nat × Token)) : Nat := (l.head?.map (·.1)).getD 0
    if hs.any (·.2.isSwitch) then .switch
    else if vs.length = hs.length then
      let base := ((hs.find? fun h => h.1 = g.primary).map (·.2)).getD (bareToken 0 0)
      .fire hs (hs.map (·.1)) base
    else
      match hs.head? with
      | none => .hold
      | some (_, t) =>
        if hs.all fun h => h.2.kind = t.kind then .align t.kind
        else if es.any fun e => e.2.kind ≠ (es.head?.map (·.2.kind)).getD 0 then
          let other := (es.find? fun e => e.2.kind ≠ (es.head?.map (·.2.kind)).getD 0)
          .mismatch (first es) ((other.map (·.1)).getD 0) true
        else if !bs.isEmpty then .hold
        else
          match g.len.toNat with
          | 0 => .mismatch (min (first vs) (first es)) (max (first vs) (first es)) false
          | 1 => .discard (vs.map (·.1))
          | _ =>
            let base := (vs.head?.map (·.2)).getD (bareToken 0 0)
            .fire (hs.map fun (q, t) => if t.isEnd then (q, cstToken g.cst) else (q, t)) (vs.map (·.1)) base

/-- What the heads of slot k ask for: a discard of TRUNCATE that goes on until no head of it is valued, then R188's table. -/
def Cluster.heads (c : Cluster) (k : Nat) (g : SlotCfg) : Heads :=
  match if c.reservedHead k g then [] else c.cutting k (c.slot k).cut with
  | [] => c.headRow k g
  | q :: qs =>
    match (q :: qs).filter fun q => (c.head? (4 * k + q)).isSome with
    | [] => .wait q
    | ds => .discard ds

/-- TRUNCATE discards one token of each given input of slot k, and goes on with those whose next head is not another kind. -/
def Cluster.truncate (c : Cluster) (k : Nat) (qs : List Nat) : Cluster :=
  let all := (c.slot k).cut ++ qs.filter fun q => !(c.slot k).cut.contains q
  let c := c.popAll (qs.map (4 * k + ·))
  c.setSlot k { c.slot k with cut := c.cutting k all }

/-! ## Lanes (R108) -/

/-- The operands of a lane, absent ones none; no operands at all when the lane is invalid (R108). -/
def laneArgs (g : SlotCfg) (n : Nat) (toks : List (Nat × Token)) (l : Nat) : Option (List (Option Nat)) :=
  let one (i : Nat) : Option Nat × Nat × Bool :=
    if g.src i = 4 then (some g.cst.toNat, 0, false)
    else
      match toks.find? fun t => t.1 = g.src i with
      | some (_, t) =>
        if t.isValid l then (some (t.lane l), 1, false)
        else
          match g.emp i with
          | 1 => (none, 0, true)
          | 2 => (some g.cst.toNat, 1, false)
          | _ => (none, 0, false)
      | none => (none, 0, false)
  let os := (List.range n).map one
  if os.any (fun o => o.2.2) || os.all (fun o => o.2.1 = 0) then none else some (os.map (·.1))

/-- Results of the 16 lanes with their flags; no result is VALID 0 (R172). -/
def laneResults (g : SlotCfg) (n : Nat) (toks : List (Nat × Token)) (f : List (Option Nat) → Option Fl) :
    List (Option Fl) :=
  (List.range 16).map fun l => (laneArgs g n toks l).bind f

/-! ## A firing -/

/-- What a firing does: the tokens sent, each with its route mask, in order; the slot's new stage state and generators;
the flags raised, with the first lane that raised NV. -/
structure Fire where
  sends : List (Nat × Token)
  st : SlotSt
  gen : List Lane
  flags : Flags := 0
  nv : Option Nat := none
  deriving DecidableEq, Repr

/-- The first lane whose flags hold NV. -/
def nvLane (rs : List (Option Fl)) : Option Nat :=
  rs.findIdx? fun r => match r with | some r => r.flags &&& flagNV ≠ 0 | none => false

def allFlags (rs : List (Option Fl)) : Flags :=
  rs.foldl (fun f r => match r with | some r => f ||| r.flags | none => f) 0

/-- Saturating counters of the stall record (R110). -/
def satCount (n : Nat) : Nat := min (n + 1) 0xFFFFFFF

/-- A slot that waits for an input (R110). -/
def Slot.waitIn (x : Slot) (cause : Nat) : Slot := { x with cause := cause, inWait := satCount x.inWait }

/-- A slot that waits for room: CAUSE 7 for scroll back-pressure, else 5 with the destination (R110, R328). -/
def Slot.waitOut (x : Slot) (dest : Nat) (scroll : Bool) : Slot :=
  if scroll then { x with cause := 7, outWait := satCount x.outWait }
  else { x with cause := 5, dest := dest, outWait := satCount x.outWait }

/-- The slot that an operation acts on: cluster and slot, when it is configured with that operation, not blocked and at no
fault, and its cluster may act (R104, R116, R117). -/
def State.slotFor (s : State) (op : BitVec 8) (g : SlotCfg) : Option (Nat × Nat × Slot) :=
  let cl := s.site.1
  let k := g.unit.toNat
  let c := s.cluster cl
  let x := c.slot k
  if x.frame = some (slotFrame op g) && !x.blocked && !x.stall && s.mayAct cl && (c.done || c.launch.isNone)
  then some (cl, k, x) else none

/-- What a record says of a slot (R340). -/
def slotInfo (k : Nat) (op : BitVec 8) (qa qb lane : Nat) (detail : List Nat) : FaultInfo :=
  { src := 1, unit := k, qa := qa, qb := qb, op := op.toNat, lane := lane, detail := detail }

/-- A slot stalls on a fault of its launch; INDEX is the SEQ of the record at its primary input (R339, R340, R343). -/
def State.slotStall (s : State) (cl k : Nat) (code : Code) (i : FaultInfo) : State :=
  let c := s.cluster cl
  let head := ((c.slotCfg? k).bind fun x => c.head? (4 * k + x.2.primary))
  let i := { i with index := (head.map (·.seq)).getD 0 }
  (s.onCluster cl fun c => c.setSlot k { c.slot k with stall := true }).stall cl code (.slot cl k) i

/-- A firing is carried out: room at every destination it sends to, then inputs consumed, results sent, flags raised and
state written, in one event; under TRAPINV, NV holds it back (R109, R133, R172, R189). -/
def State.commit (s : State) (cl k : Nat) (op : BitVec 8) (g : SlotCfg) (pop : List Nat) (f : Fire) : Out :=
  let c := s.cluster cl
  let x := c.slot k
  match c.fullDest k g f.sends with
  | some (b, d) => .next (s.setCluster cl (c.setSlot k (x.waitOut b (s.scrollHeld cl d))))
  | none =>
    match f.nv with
    | some lane =>
      if g.trapinv && !x.skip then .next (s.slotStall cl k .fpInvalid (slotInfo k op 0 0 lane [])) else go s c x
    | none => go s c x
where
  go (s : State) (c : Cluster) (x : Slot) : Out :=
    let c := (c.popAll (pop.map (4 * k + ·))).setSlot k { x with st := f.st, gen := f.gen, skip := false, cut := [] }
    .next ((s.setCluster cl (c.sendSlot k g f.sends)).raiseFlags cl f.flags)

/-- A slot's turn with the operation's own rule for a firing; other heads are END_TOKEN_ALIGN's and SWITCH_APPLY's, and an
empty input counts in the stall record (R109, R110, R188). -/
def State.fire (s : State) (op : BitVec 8) (g : SlotCfg) (f : Slot → List (Nat × Token) → Token → Fire) : Out :=
  match s.slotFor op g with
  | none => .next s
  | some (cl, k, x) =>
    let c := s.cluster cl
    match c.heads k g with
    | .fire toks pop base => s.commit cl k op g pop (f x toks base)
    | .wait q => .next (s.setCluster cl (c.setSlot k (x.waitIn (q + 1))))
    | _ => .next s

/-- An operation that acts lane by lane and keeps no state (R172): n operands, a result for each lane. -/
def State.laneOp (s : State) (op : BitVec 8) (g : SlotCfg) (n : Nat) (f : List (Option Nat) → Option Fl) : Out :=
  s.fire op g fun x toks base =>
    let rs := laneResults g n toks f
    { sends := [(g.dst.toNat, Token.ofLanes base.kind base.seq (rs.map fun r => r.map (·.bits)))]
      st := x.st
      gen := x.gen
      flags := allFlags rs
      nv := nvLane rs }

/-! ## Absent operands (R172) -/

/-- One operand. -/
def arg1 (f : Nat → Fl) : List (Option Nat) → Option Fl
  | [some a] => some (f a)
  | _ => none

/-- Two operands, a result only with both ("none"). -/
def both (f : Nat → Nat → Fl) : List (Option Nat) → Option Fl
  | [some a, some b] => some (f a b)
  | _ => none

/-! ## Generators (R134) -/

/-- One step of a generator. -/
def srDraw (g : Lane) : Lane :=
  let g := g ^^^ (g <<< 13)
  let g := g ^^^ (g >>> 17)
  g ^^^ (g <<< 5)

/-- The seed of a lane's generator: stage position, column, slot, lane (R134). -/
def srSeed (seed : Lane) (stage col k l : Nat) : Lane :=
  let g := seed ^^^ BitVec.ofNat 32 (stage % 4096 * 2 ^ 20 + col * 2 ^ 12 + k * 64 + l)
  if g = 0 then 0x9E3779B9 else g

def srSeeds (seed : Lane) (stage col k : Nat) : List Lane := (List.range 16).map (srSeed seed stage col k)

end Sys2Proof.Machine
end

