-- ==== Sys2Proof/Machine/MemUnit.lean ====
section
/-!
DEFINITION. The memory unit: slots as tokens (R97), the source and the sink (R211, R219), SW.VERT (R227).
-/
namespace Sys2Proof.Machine

/-! ## A slot as tokens (R97) -/

/-- Bytes of a slot as a number. -/
def slotNum (bs : List Byte) : Nat := leNat bs

/-- Row fetch: 64 bytes a token, lanes beyond TBYTES not valid. -/
def rowTokens (seq tbytes : Nat) (bs : List Byte) : List Token :=
  let n := max 1 ((tbytes + 63) / 64)
  (List.range n).map fun i =>
    let lanes := (List.range 16).map fun l =>
      if 64 * i + 4 * l < tbytes then some (leNat ((bs.drop (64 * i + 4 * l)).take 4)) else none
    Token.ofLanes (if i + 1 = n then 1 else 0) seq lanes

/-- Column fetch: down each column of NROWS rows, E elements a token. -/
def colTokens (seq w rlines tbytes : Nat) (bs : List Byte) : List Token :=
  let rowBytes := 128 * rlines
  let nrows := tbytes / max 1 rowBytes
  let per := 512 / max 1 w
  let cols := rowBytes * 8 / max 1 w
  let el (col row : Nat) : Nat := leNat ((bs.drop (row * rowBytes + col * w / 8)).take (max 1 (w / 8))) /
    (if w = 4 && col % 2 = 1 then 16 else 1) % 2 ^ w
  let groups := (List.range cols).map fun col =>
    (List.range ((nrows + per - 1) / per)).map fun r =>
      (List.range per).map fun m => if r * per + m < nrows then some (el col (r * per + m)) else none
  let ts := groups.flatten
  if ts.isEmpty then [bareToken 1 seq]
  else ts.zipIdx.map fun (vs, i) =>
    let (lanes, valid) := packLanes w vs
    ⟨if i + 1 = ts.length then 1 else 0, seq % 2 ^ 16, valid, lanes⟩

/-- The layouts that a read refuses (R98): TBYTES no multiple of 4; under column fetch no whole number of rows, or a number of
rows that is no multiple of 32/W; and an FMT of 14 or 15, which have no width (DESIGN CHOICE, log 90). -/
def Tile.badLayout (t : Tile) : Bool :=
  let row := 128 * t.rlines
  t.tbytes % 4 ≠ 0 ||
  (t.ord && t.tbytes ≠ 0 && (row = 0 || 13 < t.fmt || t.tbytes % row ≠ 0 || t.tbytes / row % (32 / max 4 (fmtWidth t.fmt)) ≠ 0))

/-- The record that a read of a slot forms, by the tile's ORD and FMT. -/
def Cluster.slotTokens (c : Cluster) (t : Tile) (seq : Nat) : List Token :=
  let bs := c.read (128 * t.base) t.tbytes
  if t.ord then colTokens seq (max 4 (fmtWidth t.fmt)) t.rlines t.tbytes bs else rowTokens seq t.tbytes bs

/-! ## Sources (R211, R325) -/

/-- A source begins no record: in a scrolling band it has closed its wave (R325), its band drains for a pre-emption (R346),
or a CFGLOAD holds its row (R287). -/
def State.wavePause (s : State) (cl key : Nat) : Bool :=
  match s.hostOf cl with
  | some (_, b, r, _) => (b.scroll && (s.cluster cl).marked.contains key) || b.closing || b.held r
  | none => false

/-- The tokens a paused source still has to send: the CLOSE of a pre-emption, once, unless it has sent EOS (R186, R346). -/
def State.closeToken (s : State) (cl key : Nat) : List Token :=
  match s.hostOf cl with
  | some (_, b, _, _) =>
    let c := s.cluster cl
    if b.closing && !c.closed.contains key && !c.ended.contains key then [bareToken 7 0] else []
  | none => []

/-- A source notes that its CLOSE is on its way. -/
def Cluster.noteClose (c : Cluster) (key : Nat) (ts : List Token) : Cluster :=
  if ts.isEmpty then c else { c with closed := key :: c.closed }

/-- A source has sent a token: a MARK or EOS is noted, and an EOS of stage 0 of a scrolling band gives the EOS wave
(R325). -/
def State.noteSource (s : State) (cl key kind : Nat) : State :=
  let s := s.onCluster cl fun c => c.note key kind
  if kind ≠ 2 then s
  else
    match s.hostOf cl with
    | some (l, b, r, _) =>
      match b.hosts r with
      | some (0, w) => if b.scroll then s.onBand l fun b => { b with eosWave := some w } else s
      | _ => s
    | none => s

/-- The closing tokens of a source whose traversal has ended, one at a time: a MARK when it has sent a record since its
last, then EOS (R211). -/
def closing (sinceMark : Nat) (eosSent : Bool) : List Token :=
  if sinceMark ≠ 0 then [bareToken 3 0] else if eosSent then [] else [bareToken 2 0]

/-- The record's tokens with the MARK that closes a wave (R211). -/
def waveTokens (wave sinceMark : Nat) (ts : List Token) : List Token × Nat :=
  if wave ≠ 0 && sinceMark + 1 = wave then (ts ++ [bareToken 3 0], 0) else (ts, sinceMark + 1)

/-! ## The memory-unit source (R219, R267) -/

/-- What the source does next with nothing to send: tokens to send, or nothing. -/
def Cluster.sourceNext (c : Cluster) (wave b : Nat) (m : MuBuf) : Cluster :=
  let u := c.mu
  let fin (u : Mu) : Cluster :=
    { c with mu := { u with ended := true, outq := closing u.sinceMark (c.ended.contains 36), sinceMark := 0 } }
  if u.ended then fin u
  else
    match u.cuts with
    | (k, eos) :: rest =>
      if k ≤ u.slots then
        if eos then fin { u with cuts := [] }
        else { c with mu := { u with cuts := rest, outq := [bareToken 3 0], sinceMark := 0 } }
      else read u
    | [] => read u
where
  read (u : Mu) : Cluster :=
    if m.nrec ≠ 0 && m.nrec ≤ u.slots then
      { c with mu := { u with ended := true, outq := closing u.sinceMark (c.ended.contains 36), sinceMark := 0 } }
    else
      let t := c.tile ((c.buf b).cSlot 0)
      if t.st = .ready && (c.buf b).slots ≠ 0 then
        let (ts, since) := waveTokens wave u.sinceMark (c.slotTokens t u.seq)
        { c.beginDrain b with
          mu := { u with
            outq := ts
            reading := true
            seq := (u.seq + 1) % 2 ^ 16
            slots := u.slots + 1
            sinceMark := since } }
      else c

/-- MU_SOURCE_RECORD: the source sends its next token, or with none in hand reads its next slot, or closes its stream; a layout
of R98 fails the launch (R98, R211, R219). -/
def execMuSourceRecord (cl : Nat) (s : State) : Out :=
  let c := s.cluster cl
  match c.sourceBuf with
  | none => .next s
  | some (b, m) =>
    if c.mu.blocked || !s.mayAct cl || !(c.done || c.launch.isNone) then .next s
    else
      match c.mu.outq with
      | t :: rest =>
        let d := c.codeDest 14 m.muout m.muoq
        if c.room d 1 then
          let c := { c with mu := { c.mu with outq := rest } }.send d t
          .next ((s.setCluster cl c).noteSource cl 36 t.kind)
        else .next s
      | [] =>
        if !c.room (c.codeDest 14 m.muout m.muoq) 1 then .next s
        else if s.wavePause cl 36 then
          let ts := s.closeToken cl 36
          .next (s.setCluster cl { c.noteClose 36 ts with mu := { c.mu with outq := ts } })
        else
          let n := c.sourceNext (s.waveLen cl) b m
          if n.mu.slots ≠ c.mu.slots && (c.tile ((c.buf b).cSlot 0)).badLayout then
            .next ((s.onCluster cl fun c => { c with mu := { c.mu with blocked := true } }).failAt cl .formatFault { src := 4 })
          else .next (s.setCluster cl n)

/-! ## The memory-unit sink (R212, R219) -/

/-- The sink stalls at the token at its head; INDEX is the SEQ of its record (R212, R219, R340). -/
def State.sinkStall (s : State) (cl : Nat) : State :=
  let seq := (((s.cluster cl).head? 24).map (·.seq)).getD 0
  let i : FaultInfo := { src := 4, index := seq, detail := [seq] }
  (s.onCluster cl fun c => { c with mu := { c.mu with stall := true } }).stall cl .streamLengthMismatch (.mu cl) i

/-- A SWITCH or a token of a reserved kind blocks the element (R106, R119). -/
def State.blockMu (s : State) (cl : Nat) : State :=
  (s.onCluster cl fun c => { c with mu := { c.mu with blocked := true } }).failAt cl .configIllegal { src := 4 }

/-- A data token of a record written into the slot at PIDX, the slot made READY at LAST (R96, R212). -/
def Cluster.writeToken (c : Cluster) (b wtok pts : Nat) (t : Token) : Cluster :=
  let x := c.tile ((c.buf b).pSlot 0)
  let line := x.base + wtok / 2
  let c := (c.write (128 * x.base + 64 * wtok) (leBytes 64 t.lanes.toNat) pts).setSwz line 1 x.swz
  if t.isLast then c.advanceP b else c

/-- MU_SINK_RECORD: the sink takes the token at its head (R211, R219). -/
def execMuSinkRecord (cl : Nat) (s : State) : Out :=
  let c := s.cluster cl
  let u := c.mu
  match c.sinkBuf, c.head? 24 with
  | some (b, _), some t =>
    if u.blocked || u.stall || !s.mayAct cl || !(c.done || c.launch.isNone) then .next s
    else if t.isSwitch || t.isReserved then .next (s.blockMu cl)
    else if u.skip then
      if t.isEnd || t.isBoundary then .next (s.setCluster cl { c with mu := { u with skip := false, wtok := 0 } })
      else .next (s.setCluster cl { c.popQ 24 with mu := { u with skip := !t.isLast, wtok := 0 } })
    else if t.kind = 5 || t.isBoundary then .next (s.setCluster cl (c.popQ 24))
    else if t.isEnd then
      if u.wtok ≠ 0 then .next (s.sinkStall cl)
      else .next (s.setCluster cl { c.popQ 24 with mu := { u with eos := u.eos || t.kind = 2 } })
    else
      let x := c.tile ((c.buf b).pSlot 0)
      if x.st ≠ .empty then .next s
      else if 128 * x.lcount < 64 * (u.wtok + 1) then .next (s.sinkStall cl)
      else
        let c := (c.popQ 24).writeToken b u.wtok (s.startClock cl) t
        .next (s.setCluster cl { c with mu := { c.mu with wtok := if t.isLast then 0 else u.wtok + 1 } })
  | _, _ => .next s

/-! ## SW.VERT (R227) -/

/-- SW_VERT_TILE: the next tile moves between the buffer and crown scratch (R227); an unbacked address stalls the unit with
nothing of the tile moved (R59). -/
def execSwVertTile (cl : Nat) (s : State) : Out :=
  let c := s.cluster cl
  match c.swVert with
  | none => .next s
  | some v =>
    let u := c.mu
    let x := c.buf v.bufn
    let k := if v.down then x.pSlot 0 else x.cSlot 0
    let t := c.tile k
    let pa := s.towerId (clTower cl) * 2 ^ 42 + 0x10000000000 + v.coff + u.vert * v.tstride
    let n := 128 * t.lcount
    if v.tcount ≤ u.vert || u.vstall || x.slots = 0 || c.rblocked || !s.mayAct cl || !(c.done || c.launch.isNone) then .next s
    else if t.st ≠ (if v.down then .empty else .ready) then .next s
    else if !(List.range t.lcount).all (fun i => s.scratchBacked (pa + 128 * i)) then
      let s := s.onCluster cl fun c => { c with mu := { c.mu with vstall := true } }
      .next (s.stall cl .crownScratchUnbacked (.switch cl) { src := 5, unit := 2, index := u.vert })
    else if v.down then
      let bs := s.readScratch pa n
      let c := (List.range t.lcount).foldl (fun c i =>
        c.write (128 * (t.base + i)) ((bs.drop (128 * i)).take 128) (s.startClock cl)) c
      let c := (c.setSwz t.base t.lcount t.swz).advanceP v.bufn
      .next (s.setCluster cl { c with mu := { u with vert := u.vert + 1 } })
    else
      let bs := c.read (128 * t.base) n
      let s := (List.range t.lcount).foldl (fun s i =>
        s.postScratch (vertAgent cl) (pa + 128 * i) ((bs.drop (128 * i)).take 128)) s
      .next (s.onCluster cl fun c => { c.beginDrain v.bufn with mu := { u with vert := u.vert + 1 } })

end Sys2Proof.Machine
end

