-- ==== Sys2Proof/Machine/AddrGen.lean ====
section
/-!
DEFINITION. Address generators (R46, R99, R101, R209 to R217, R308, R363): their shapes and latched bases, elements of memory
and of leaf stores, the eight modes, and end tokens at their inputs.
-/
namespace Sys2Proof.Machine

/-! ## The unit -/

/-- The generator that an operation acts on: cluster and unit, when it is configured with that mode, not blocked, at no
fault, and its cluster may act; to make itself ready it need not wait for the other generators of its launch (R104, R117). -/
def State.agFor (s : State) (mode : BitVec 4) (g : AgCfg) : Option (Nat × Nat × Ag) :=
  let cl := s.site.1
  let u := g.unit.toNat
  let c := s.cluster cl
  let x := c.ag u
  let may := if x.unready then s.launchRuns cl s.rowEntered else s.mayAct cl
  if x.frame = some (agFrame mode g) && !x.blocked && !x.stall && may && (c.done || c.launch.isNone)
  then some (cl, u, x) else none

def State.onAg (s : State) (cl u : Nat) (f : Ag → Ag) : State := s.onCluster cl fun c => c.setAg u (f (c.ag u))

/-- The generator as an agent (R65). -/
def State.agentOf (s : State) (cl u : Nat) : Agent :=
  ⟨clTower cl, ((s.cluster cl).ag u).pts, s.agAgent cl u, cl, true⟩

/-- What a record says of a generator (R217, R340). -/
def State.agInfo (s : State) (cl u level va lane : Nat) (detail : List Nat) : FaultInfo :=
  let a := (s.cluster cl).ag u
  { src := 3
    unit := u
    level := level
    op := (a.frame.map fun f => bits f 239 236).getD 0
    lane := lane
    index := a.tile
    va := va
    detail := detail
    agent := s.agAgent cl u }

/-- A fault of class stall: the unit waits at the element (R217). -/
def State.agStall (s : State) (cl u : Nat) (code : Code) (i : FaultInfo) : Out :=
  .next ((s.onAg cl u fun a => { a with stall := true }).stall cl code (.ag cl u) i)

/-- A fault of class end: the unit is blocked and its launch fails (R210). -/
def State.agFail (s : State) (cl u : Nat) (code : Code) : Out :=
  .next ((s.onAg cl u fun a => { a with blocked := true }).failAt cl code (s.agInfo cl u 0 0 0 []))

/-- The condition of a fault is met: with a SKIP to carry out, f; else the unit stalls (R343). -/
def State.agSkipOr (s : State) (cl u : Nat) (code : Code) (i : FaultInfo) (f : State → Out) : Out :=
  if ((s.cluster cl).ag u).skip then f (s.onAg cl u fun a => { a with skip := false }) else s.agStall cl u code i

/-! ## Latched bases (R46) -/

/-- The bases after a use of one: the most recently used first, at most 16; those latched and not yet used stand behind them, the
last latched last (R46; DESIGN CHOICE, log 43). -/
def useBase (l : List Xlate) (x : Xlate) : List Xlate :=
  (x :: l.filter fun y => !(y.va = x.va && y.size = x.size)).take 16

/-- A translation of the unit: a latched base, or a fresh one through the tower L2 TLB that replaces the least recently used
(R44, R46). -/
def State.agAccess (s : State) (cl u : Nat) (need : Need) (post : Xlate → Nat → Option (Code × Nat)) (va lane : Nat)
    (f : Nat → Xlate → State → Out) : Out :=
  let a := (s.cluster cl).ag u
  match s.translate (s.agCtx cl a.pts) a.bases 0 need post va with
  | .fault code lv => s.agStall cl u code (s.agInfo cl u lv va lane [])
  | .wait s => .next s
  | .ok pa x _ s => f pa x (s.onAg cl u fun a => { a with bases := useBase a.bases x })

/-- The next page to be latched when the unit is configured; a page that fails is not latched, one that must wait is tried
again (R46). -/
def State.latch (s : State) (cl u va : Nat) : Out :=
  let a := (s.cluster cl).ag u
  let pend := a.pend.tail
  match s.translate (s.agCtx cl a.pts) [] 0 needLoad.look (s.agentCheck false) va with
  | .ok _ x _ s =>
    .next (s.onAg cl u fun a =>
      if a.bases.any (fun y => y.va = x.va && y.size = x.size) || 16 ≤ a.bases.length then { a with pend := pend }
      else { a with bases := a.bases ++ [x], pend := pend })
  | .wait s => .next s
  | .fault _ _ => .next (s.onAg cl u fun a => { a with pend := pend })

/-- The first addresses of the pages of a shape's first tile. -/
def Shp.firstPages (sh : Shp) : List Nat :=
  (firsts ((List.range sh.elems).filterMap fun e =>
    match sh.elem false 0 e with
    | .loc va _ => some (va / 4096 * 4096)
    | _ => none)).take 16

/-! ## The shape record (R210) -/

/-- The requirements of R210 and R216 on a shape record beside R85. -/
def agShapeOk (mode : Nat) (g : AgCfg) (x : Shape) : Bool :=
  let sh := shpOf x
  shapeLegal x &&
  (match mode with
   | 3 => sh.rank = 1
   | 6 => sh.rank = 1 && sh.fmt = g.fmt.toNat
   | 7 => sh.conv && sh.rank = 3 && nth sh.start 2 0 = 0 && sh.elems ≤ (if g.kw then 32 else 16)
   | _ => true) &&
  (g.tgt ≠ 2 || sh.base < 2 ^ 20)

/-- The first pages of the overflow region that BIN writes (R46, R101, R222). -/
def Cluster.overflowPages (c : Cluster) : List Nat :=
  match c.muBintab with
  | some b =>
    let va := (sextNat 57 b.ovbase % 2 ^ 64).toNat
    (List.range (min 16 (if b.ovlen = 0 then 0 else (va % 4096 + b.ovlen + 4095) / 4096))).map fun i => va / 4096 * 4096 + 4096 * i
  | none => []

/-- The load of the shape record: one load step, its checks, and the pages to be latched (R46, R210). -/
def State.loadShape (s : State) (cl u mode : Nat) (g : AgCfg) : Out :=
  let va := ((s.hostOf cl).map fun h => h.1.shapeVa g.shsel.toNat).getD 0
  if va % 128 ≠ 0 then s.agFail cl u .configIllegal
  else
    s.agAccess cl u needLoad (s.agentCheck false) va 0 fun pa x s =>
      let (bs, t, s) := s.agentLoad (s.agentOf cl u) x pa 128
      let rec_ : Shape := BitVec.ofNat 1024 (leNat bs)
      let s := s.onAg cl u fun a => { a with pts := t }
      if agShapeOk mode g rec_ then
        .next (s.onAg cl u fun a => { a with shape := some rec_, pend := if g.tgt = 0 then (shpOf rec_).firstPages else [] })
      else s.agFail cl u .configIllegal

/-- A unit with its shape, when it needs one; the load of the shape and the latching of pages come first. A BIN has pages of
the overflow region to latch in place of a shape's. -/
def State.withShape (s : State) (cl u mode : Nat) (g : AgCfg) (f : Shp → Out) : Out :=
  let a := (s.cluster cl).ag u
  match a.shape, a.pend with
  | _, va :: _ => s.latch cl u va
  | some x, [] => f (shpOf x)
  | none, [] =>
    if needsShape mode g then s.loadShape cl u mode g
    else if mode = 5 then .next (s.onAg cl u fun a => { a with shape := some 0, pend := (s.cluster cl).overflowPages })
    else f (shpOf 0)

/-! ## Elements (R86, R212, R363) -/

/-- The store and offset of a leaf address, when it may be reached: aligned, in the unit's own store, or from an address
cluster in a twig sibling's (R93, R212). -/
def State.leafTarget (s : State) (cl la n : Nat) : Option (Nat × Nat) :=
  let pos := la / 2 ^ 18
  let off := la % 2 ^ 18
  if off % n ≠ 0 then none
  else if pos = twigPos cl then some (cl, off)
  else if (s.cluster cl).ctype = 1 then some (twigCluster cl pos, off)
  else none

/-- The lane that holds element e of a record of w-bit elements (R107, R217). -/
def laneNo (w e : Nat) : Nat := e % perToken w * w / 32

/-- One element read at coordinates c (R86, R212): its value to f, or PAD; of a CONV an element out of range without PERMIT has
no value and raises no fault (R153); a fault stalls the unit there; a line of memory
that is not in hand is loaded by one load step, and the element follows at the unit's next turn. -/
def State.readElem (s : State) (cl u : Nat) (g : AgCfg) (sh : Shp) (conv : Bool) (lane : Nat) (c : List Int)
    (f : Option Nat → State → Out) : Out :=
  let pad := sh.pad % 2 ^ sh.bitsOf
  let fault (code : Code) (va : Nat) : Out :=
    s.agSkipOr cl u code (s.agInfo cl u 0 va lane (coordWords c)) (f (some pad))
  match sh.at (g.tgt = 2) c with
  | .pad => f (some pad) s
  | .range _ => if conv then f none s else fault .coordRange 0
  | .over _ => fault .coordOverflow 0
  | .loc va high =>
    let a := (s.cluster cl).ag u
    if g.tgt = 2 then
      match s.leafTarget cl va sh.elemBytes with
      | none => fault .coordRange va
      | some (at_, off) =>
        let t := s.cluster at_
        let li := t.line (off / 128)
        let x := leNat (t.read off sh.elemBytes)
        let x := if sh.bitsOf = 4 then (if high then x / 16 else x % 16) else x
        if g.waitf then
          if li.full then f (some x) (s.onAg cl u fun a => { a with pts := max a.pts li.clk }) else .next s
        else f (some x) s
    else
      match (linesOf va sh.elemBytes).find? fun l => (a.lines.get l).isNone with
      | none => f (some (sh.value a.lines va high)) s
      | some l =>
        s.agAccess cl u needLoad (s.agentCheck false) (128 * l) lane fun pa x s =>
          let (bs, t, s) := s.agentLoad (s.agentOf cl u) x pa 128
          .next (s.onAg cl u fun a => { a with pts := t, lines := a.lines.set l bs })

/-- An element written to a leaf store, of 4 bits into its half of the byte: to its own store at once, to a sibling's through the
twig switch (R76, R77). -/
def State.leafStore (s : State) (cl u at_ off : Nat) (sh : Shp) (high : Bool) (v : Nat) : State :=
  let pts := ((s.cluster cl).ag u).pts
  let w : TwigWrite :=
    if sh.bitsOf = 4 then ⟨s.agAgent cl u, at_, off, leBytes 1 (v % 16), some high, pts⟩
    else ⟨s.agAgent cl u, at_, off, leBytes sh.elemBytes v, none, pts⟩
  if at_ = cl then s.twigArrive w else { s with twig := s.twig ++ [w] }

/-- One element written at coordinates c (R86, R212): an element of memory joins the lines to be stored, one of a leaf store
is written; an element out of range under PERMIT is dropped. Then f. -/
def State.writeElem (s : State) (cl u : Nat) (g : AgCfg) (sh : Shp) (lane : Nat) (c : List Int) (v : Nat)
    (f : State → Out) : Out :=
  let fault (code : Code) (va : Nat) : Out := s.agSkipOr cl u code (s.agInfo cl u 0 va lane (coordWords c)) f
  match sh.at (g.tgt = 2) c with
  | .pad => f s
  | .range _ => fault .coordRange 0
  | .over _ => fault .coordOverflow 0
  | .loc va high =>
    if g.tgt = 2 then
      match s.leafTarget cl va sh.elemBytes with
      | none => fault .coordRange va
      | some (at_, off) => f (s.leafStore cl u at_ off sh high v)
    else f (s.onAg cl u fun a => { a with wlines := addCells a.wlines (sh.cells va high v) })

/-- One store step: the next line to be written (R68, R212). -/
def State.storeLine (s : State) (cl u lane l : Nat) (cells : Table Nat) (rest : List (Nat × Table Nat))
    (f : State → State) : Out :=
  s.agAccess cl u needStore (s.agentCheck false) (128 * l) lane fun pa x s =>
    match s.agentStore (s.agentOf cl u) x pa cells with
    | none => .next (s.stallTurn (clTower cl))
    | some (t, s) =>
      let s := s.onAg cl u fun a => { a with pts := t, wlines := rest }
      .next (if rest.isEmpty then f s else s)

/-! ## Sources (R211, R212, R216) -/

/-- The destination of a unit's results (R207, R209). -/
def Cluster.agDest (c : Cluster) (u : Nat) (g : AgCfg) : Dest := c.codeDest (10 + u) g.out.toNat g.oq.toNat

/-- A token that waits to be sent goes first; with none, f (R104). -/
def State.agSend (s : State) (cl u : Nat) (g : AgCfg) (f : Out) : Out :=
  let c := s.cluster cl
  match (c.ag u).outq with
  | t :: rest =>
    let d := c.agDest u g
    if c.room d 1 then
      .next ((s.setCluster cl ((c.setAg u { c.ag u with outq := rest }).send d t)).noteSource cl (32 + u) t.kind)
    else .next s
  | [] => f

/-- The destination has a free entry for the result of an operation that starts (R104). -/
def State.agRoom (s : State) (cl u : Nat) (g : AgCfg) : Bool := (s.cluster cl).room ((s.cluster cl).agDest u g) 1

/-- No record is in hand (R287, R346). -/
def Ag.between (a : Ag) : Bool := a.vals.isEmpty && a.elem = 0

/-- A paused source sends its CLOSE, if one is due (R346). -/
def State.agPause (s : State) (cl u : Nat) : State :=
  let ts := s.closeToken cl (32 + u)
  s.onCluster cl fun c => (c.noteClose (32 + u) ts).setAg u { c.ag u with outq := ts, lines := [] }

/-- The traversal has ended: the closing MARK, then EOS (R211). -/
def State.agClose (s : State) (cl u : Nat) : State :=
  let done := (s.cluster cl).ended.contains (32 + u)
  s.onAg cl u fun a => { a with ended := true, outq := closing a.sinceMark done, sinceMark := 0 }

/-- A record is complete: its tokens wait to be sent, with the MARK that closes a wave. -/
def Ag.emit (a : Ag) (wave : Nat) (ts : List Token) : Ag :=
  let (ts, since) := waveTokens wave a.sinceMark ts
  { a with outq := ts, sinceMark := since, seq := (a.seq + 1) % 2 ^ 16, vals := [], lines := [], elem := 0 }

/-- The producer of a buffer that an address generator reads has ended (R211). -/
def Cluster.producerEnded (c : Cluster) (b : Nat) : Bool :=
  match c.muBuf b with
  | none => false
  | some m =>
    match m.prod with
    | 1 => c.mu.eos
    | 2 => [0, 1, 2, 3].any fun u =>
      match c.agCfg? u with
      | some (1, g) => g.tgt = 1 && g.bufn.toNat = b && (c.ag u).eos
      | _ => false
    | 3 => match c.swVert with | some v => v.down && v.tcount ≤ c.mu.vert | none => false
    | _ => false

/-- A READ of a buffer: the READY slot at CIDX becomes a record; with its producer ended and no slot left, the traversal
ends; a layout of R98 fails the launch (R96 to R98, R211, R212). -/
def State.readBuf (s : State) (cl u : Nat) (g : AgCfg) : Out :=
  let c := s.cluster cl
  let b := g.bufn.toNat
  let a := c.ag u
  let t := c.tile ((c.buf b).cSlot 0)
  if (c.buf b).slots = 0 || !s.agRoom cl u g then .next s
  else if a.ended then .next (s.agClose cl u)
  else if t.st = .ready then
    if t.badLayout then s.agFail cl u .formatFault
    else
      let a := ({ a with pts := max a.pts t.tclk }).emit (s.waveLen cl) (c.slotTokens t a.seq)
      .next (s.setCluster cl ((c.beginDrain b).setAg u { a with tile := a.tile + 1 }))
  else if t.st = .empty && c.producerEnded b then .next (s.agClose cl u)
  else .next s

/-- A traversal of tiles: the next element of the tile in hand, or with the last the tile's record (R84, R211, R212). -/
def State.readTile (s : State) (cl u : Nat) (g : AgCfg) (sh : Shp) (conv : Bool) (done : Ag → Ag) : Out :=
  let a := (s.cluster cl).ag u
  if a.ended || sh.tiles ≤ a.tile then .next (s.agClose cl u)
  else if a.between && !s.agRoom cl u g then .next s
  else if sh.elems ≤ a.elem then .next (s.onAg cl u done)
  else
    s.readElem cl u g sh conv (laneNo sh.bitsOf a.elem) (sh.coords a.tile a.elem) fun v s =>
      .next (s.onAg cl u fun a => { a with vals := a.vals ++ [v], elem := a.elem + 1 })

/-- AG_READ (R211, R212). -/
def execAgRead (g : AgCfg) (s : State) : Out :=
  match s.agFor 0 g with
  | none => .next s
  | some (cl, u, a) =>
    s.withShape cl u 0 g fun sh =>
      s.agSend cl u g <|
        if a.between && s.wavePause cl (32 + u) then .next (s.agPause cl u)
        else if g.tgt = 1 then s.readBuf cl u g
        else
          s.readTile cl u g sh false fun a =>
            { a.emit (s.waveLen cl) (recordTokens sh.bitsOf a.seq a.vals) with tile := a.tile + 1 }

/-- The row that a tile of a convolution gives: element k is channel c at tap (tx, ty); from K up there is no element, which reads as
zero (R216, R363). -/
def convRow (sh : Shp) (kw : Bool) (vals : List (Option Nat)) : List (Option Nat) :=
  let taps := nth sh.tile 0 0 * nth sh.tile 1 0
  let chans := nth sh.tile 2 0
  (List.range (if kw then 32 else 16)).map fun k =>
    if k < taps * chans then nth vals (k % max 1 chans * taps + k / max 1 chans) none else none

/-- The tokens of rows packed as passes, the places of rows that are missing without a value (R140, R216). -/
def convTokens (w seq : Nat) (last : Bool) (vals : List (Option Nat)) : List Token :=
  let ts := recordTokens w seq vals
  if last then ts else ts.map fun t => { t with kind := 0 }

/-- AG_CONV: every RPR rows form a record; the rows so far wait in vals, behind those of the tile in hand (R216). -/
def execAgConv (g : AgCfg) (s : State) : Out :=
  match s.agFor 7 g with
  | none => .next s
  | some (cl, u, a) =>
    s.withShape cl u 7 g fun sh =>
      s.agSend cl u g <|
        if a.between && s.wavePause cl (32 + u) then .next (s.agPause cl u)
        else
          let n := if g.kw then 32 else 16
          -- vals holds the rows of the record, then the elements of the tile in hand; elem counts those alone.
          s.readTile cl u g sh true fun a =>
            let rows := a.vals.take (n * a.lane)
            let row := convRow sh g.kw (a.vals.drop (n * a.lane))
            let a := { a with vals := rows ++ row, lines := [], elem := 0, tile := a.tile + 1, lane := a.lane + 1 }
            if a.lane = max 1 g.rpr.toNat || sh.tiles ≤ a.tile then
              { a.emit (s.waveLen cl) (recordTokens sh.bitsOf a.seq a.vals) with lane := 0 }
            else a

/-! ## Inputs (R188, R211, R308) -/

/-- The queues of IQ and VQ. -/
def iqOf (u : Nat) : Nat := 16 + 2 * u
def vqOf (u : Nat) : Nat := 17 + 2 * u

/-- What the inputs of a unit hold. -/
inductive AgHeads where
  | wait
  | bad
  | valued (i v : Token)
  | ends (t : Token)
  /-- A RESCALE that a sink consumes and ignores, at a queue. -/
  | rescale (q : Nat)
  | hold
  | mismatch (i v : Token)
  deriving DecidableEq, Repr

/-- An address generator that is a sink (R308). -/
def agSink (mode : Nat) (g : AgCfg) : Bool := mode = 1 || mode = 3 || mode = 4 || mode = 5 || (mode = 6 && g.out = 8)

/-- The heads of the one input or two of a unit, aligned as a slot's are under STRICT (R188); a SWITCH or a token of a reserved
kind at either blocks the unit whatever the other holds (R106, R119). -/
def Cluster.agHeads (c : Cluster) (u mode : Nat) (g : AgCfg) : AgHeads :=
  let sink := agSink mode g
  let rescaled (t : Option Token) : Bool := match t with | some t => t.kind = 5 && sink | none => false
  let bad (t : Option Token) : Bool := match t with | some t => t.isSwitch || t.isReserved | none => false
  let one (q : Nat) : AgHeads :=
    match c.head? q with
    | none => .wait
    | some t =>
      if bad (some t) then .bad
      else if rescaled (some t) then .rescale q
      else if t.valued then .valued t t
      else .ends t
  if mode = 1 then one (vqOf u)
  else if mode = 2 then one (iqOf u)
  else
    let i := c.head? (iqOf u)
    let v := c.head? (vqOf u)
    if bad i || bad v then .bad
    else if rescaled i then .rescale (iqOf u)
    else if rescaled v then .rescale (vqOf u)
    else
      match i, v with
      | some i, some v =>
        if i.valued && v.valued then .valued i v
        else if i.kind = v.kind then .ends i
        else if i.isBoundary || v.isBoundary then .hold
        else .mismatch i v
      | _, _ => .wait

/-- The inputs that a mode has. -/
def agInputs (u mode : Nat) : List Nat := if mode = 1 then [vqOf u] else if mode = 2 then [iqOf u] else [iqOf u, vqOf u]

/-- STREAM_LENGTH_MISMATCH of the heads of IQ and VQ, or of a WRITE's VQ alone; queues are named as LQ names them, 0 IQ and 1
VQ (R207, R212, R217, R340). -/
def State.agMismatch (s : State) (cl u : Nat) (i : Option Token) (v : Token) : Out :=
  let x := s.agInfo cl u 0 0 0
  s.agStall cl u .streamLengthMismatch (match i with
    | some i => { x [i.seq + 2 ^ 16 * v.seq] with qb := 1 }
    | none => { x [v.seq] with qa := 1 })

/-- Heads of two inputs that disagree: a stall; with a SKIP to carry out, of two ends each MARK is discarded, else the queue
of valued tokens discards them up to its next end or boundary token, while the other keeps its end; drop says that it is doing
so (R343). -/
def State.agDisagree (s : State) (cl u : Nat) (i v : Token) : Out :=
  let c := s.cluster cl
  let a := c.ag u
  let ends := i.isEnd && v.isEnd
  if !(a.skip || (a.drop && !ends)) then s.agMismatch cl u (some i) v
  else if ends then
    let drop (c : Cluster) (q : Nat) (t : Token) : Cluster := if t.kind = 3 then c.popQ q else c
    let c := drop (drop c (iqOf u) i) (vqOf u) v
    .next (s.setCluster cl (c.setAg u { c.ag u with skip := false, drop := false }))
  else
    let c := c.popQ (if i.valued then iqOf u else vqOf u)
    .next (s.setCluster cl (c.setAg u { c.ag u with held := [], skip := false, drop := true }))

/-- A record that is abandoned: the rest of it is dropped, and its tile passed over (R212, R343). -/
def Ag.abandon (a : Ag) (rest : Bool) : Ag :=
  { a with held := [], elem := 0, wtok := 0, vals := [], wlines := [], drop := rest, skip := false, tile := a.tile + 1 }

/-- END_TOKEN_AT_UNIT for an address generator: a sink consumes MARK, RESCALE and CLOSE, and consumes and holds EOS; one that
is no sink sends end and boundary tokens on; an end inside a record of a WRITE is a mismatch (R187, R211, R212, R308). -/
def State.agEnds (s : State) (cl u : Nat) : Out :=
  let c := s.cluster cl
  let a := c.ag u
  match c.agCfg? u with
  | none => .next s
  | some (mode, g) =>
    if a.blocked || a.stall || !s.mayAct cl || !(c.done || c.launch.isNone) || mode = 0 || mode = 7 || !a.outq.isEmpty then .next s
    else
      match c.agHeads u mode g with
      | .bad => s.agFail cl u .configIllegal
      | .rescale q => .next (s.setCluster cl (c.popQ q))
      | .mismatch i v => s.agDisagree cl u i v
      | .ends t =>
        if mode = 1 && a.wtok ≠ 0 && t.isEnd then
          if a.skip then .next (s.onAg cl u fun a => a.abandon false) else s.agMismatch cl u none t
        else
          if !agSink mode g && !s.agRoom cl u g then .next s else
          -- A record of a GATHER of RANK 1 that the end finds unfinished has ended with it (R187).
          let inside := mode = 2 && a.wtok ≠ 0
          let c := c.popAll (agInputs u mode)
          let a := { c.ag u with
            drop := false
            wtok := if inside then 0 else a.wtok
            seq := if inside then (a.seq + 1) % 2 ^ 16 else a.seq }
          if agSink mode g then .next (s.setCluster cl (c.setAg u { a with eos := a.eos || t.kind = 2 }))
          else .next (s.setCluster cl (c.setAg u { a with outq := [t] }))
      | _ => .next s

/-! ## WRITE (R212) -/

/-- Tokens of a record of a tile. -/
def Shp.recordToks (sh : Shp) : Nat := (sh.elems + perToken sh.bitsOf - 1) / perToken sh.bitsOf

/-- A WRITE into a buffer: 64 bytes a token from the first line of the slot at PIDX, READY at LAST (R96, R212). -/
def State.writeBuf (s : State) (cl u : Nat) (g : AgCfg) (t : Token) : Out :=
  let c := s.cluster cl
  let a := c.ag u
  let b := g.bufn.toNat
  let x := c.tile ((c.buf b).pSlot 0)
  if (c.buf b).slots = 0 || x.st ≠ .empty then .next s
  else if 128 * x.lcount < 64 * (a.wtok + 1) then
    if a.skip then .next (s.onAg cl u fun a => a.abandon true) else s.agMismatch cl u none t
  else
    let c := (c.popQ (vqOf u)).writeToken b a.wtok a.pts t
    .next (s.setCluster cl (c.setAg u { c.ag u with
      wtok := if t.isLast then 0 else a.wtok + 1
      tile := if t.isLast then a.tile + 1 else a.tile }))

/-- The lane of the first element of a tile that has cells among those to be written in line l (R217). -/
def Shp.laneAt (sh : Shp) (tile l : Nat) (cells : Table Nat) : Nat :=
  ((List.range sh.elems).findSome? fun e =>
    match sh.elem false tile e with
    | .loc va high =>
      if (sh.cells va high 0).any fun p => p.1 / 256 = l && (cells.get (p.1 % 256)).isSome then some (laneNo sh.bitsOf e) else none
    | _ => none).getD 0

/-- A token of a record of a WRITE: its elements one by one, then with the last token the tile's lines, one store step each;
the token stays at its head until all of it is done (R212, R217, R363). -/
def State.writeTile (s : State) (cl u : Nat) (g : AgCfg) (sh : Shp) (t : Token) : Out :=
  let a := (s.cluster cl).ag u
  let e := a.wtok * perToken sh.bitsOf + a.elem
  let done (s : State) : State :=
    s.onCluster cl fun c =>
      let c := c.popQ (vqOf u)
      let a := c.ag u
      c.setAg u (if t.isLast then { a with elem := 0, wtok := 0, tile := a.tile + 1 } else { a with elem := 0, wtok := a.wtok + 1 })
  if a.elem < perToken sh.bitsOf && e < sh.elems then
    let next (s : State) : Out := .next (s.onAg cl u fun a => { a with elem := a.elem + 1 })
    match runValid [t] sh.bitsOf a.elem with
    | some v => s.writeElem cl u g sh (laneNo sh.bitsOf e) (sh.coords a.tile e) v next
    | none => next s
  else
    match t.isLast, a.wlines with
    | true, (l, cells) :: rest => s.storeLine cl u (sh.laneAt a.tile l cells) l cells rest done
    | _, _ => .next (done s)

/-- AG_WRITE: each token of a record is written to its place of the tile, or to the slot; a record of the wrong length, or
beyond the shape's tiles, stops the unit at the token that shows it (R212). -/
def execAgWrite (g : AgCfg) (s : State) : Out :=
  match s.agFor 1 g with
  | none => .next s
  | some (cl, u, a) =>
    s.withShape cl u 1 g fun sh =>
      match (s.cluster cl).agHeads u 1 g with
      | .valued t _ =>
        if a.drop then
          .next (s.onCluster cl fun c =>
            let c := c.popQ (vqOf u)
            c.setAg u { c.ag u with drop := !t.isLast })
        else if g.tgt = 1 then s.writeBuf cl u g t
        else if sh.tiles ≤ a.tile || sh.recordToks ≤ a.wtok || (t.isLast && a.wtok + 1 ≠ sh.recordToks) then
          if a.skip then .next (s.onAg cl u fun a => a.abandon true) else s.agMismatch cl u none t
        else s.writeTile cl u g sh t
      | .bad => s.agFail cl u .configIllegal
      | _ => .next s

/-! ## GATHER and SCATTER (R213) -/

/-- The signed index of a lane. -/
def laneIndex (t : Token) (l : Nat) : Int := sextNat 32 (t.lane l)

/-- Element l of the token that a GATHER of RANK 1 makes. -/
def State.gatherFlat (s : State) (cl u : Nat) (g : AgCfg) (sh : Shp) (t : Token) : Out :=
  let c := s.cluster cl
  let a := c.ag u
  if 16 ≤ a.elem then
    let (lanes, valid) := packLanes sh.bitsOf a.vals
    let c := c.popQ (iqOf u)
    .next (s.setCluster cl (c.setAg u { c.ag u with
      outq := [⟨t.kind, a.seq, valid, lanes⟩]
      seq := if t.isLast then (a.seq + 1) % 2 ^ 16 else a.seq
      wtok := if t.isLast then 0 else a.wtok + 1
      tile := a.tile + 1
      vals := []
      lines := []
      elem := 0 }))
  else
    let put (v : Option Nat) (s : State) : Out :=
      .next (s.onAg cl u fun a => { a with vals := a.vals ++ [v], elem := a.elem + 1 })
    if t.isValid a.elem then s.readElem cl u g sh false a.elem [laneIndex t a.elem] put else put none s

/-- The tile of the inner dimensions at a lane's index (R84, R213). -/
def Shp.innerCoords (sh : Shp) (x : Int) (e : Nat) : List Int :=
  let inner := { sh with rank := sh.rank - 1 }
  inner.coordsAt sh.start e ++ [x]

/-- A record for each valid lane of a GATHER of RANK 2 to 5. -/
def State.gatherRows (s : State) (cl u : Nat) (g : AgCfg) (sh : Shp) (t : Token) : Out :=
  let c := s.cluster cl
  let a := c.ag u
  if 16 ≤ a.lane then
    let c := c.popQ (iqOf u)
    .next (s.setCluster cl (c.setAg u { c.ag u with lane := 0, tile := a.tile + 1 }))
  else if !t.isValid a.lane then .next (s.onAg cl u fun a => { a with lane := a.lane + 1 })
  else if sh.elemsOf (sh.rank - 1) ≤ a.elem then
    .next (s.onAg cl u fun a => { a.emit 0 (recordTokens sh.bitsOf a.seq a.vals) with lane := a.lane + 1, sinceMark := 0 })
  else
    s.readElem cl u g sh false a.lane (sh.innerCoords (laneIndex t a.lane) a.elem) fun v s =>
      .next (s.onAg cl u fun a => { a with vals := a.vals ++ [v], elem := a.elem + 1 })

/-- AG_GATHER (R213). -/
def execAgGather (g : AgCfg) (s : State) : Out :=
  match s.agFor 2 g with
  | none => .next s
  | some (cl, u, a) =>
    s.withShape cl u 2 g fun sh =>
      s.agSend cl u g <|
        match (s.cluster cl).agHeads u 2 g with
        | .valued t _ =>
          if a.between && !s.agRoom cl u g then .next s
          else if sh.rank = 1 then s.gatherFlat cl u g sh t else s.gatherRows cl u g sh t
        | .bad => s.agFail cl u .configIllegal
        | _ => .next s

/-- Both inputs of a unit are consumed with a token done. -/
def State.agDone (s : State) (cl u mode : Nat) : State :=
  s.onCluster cl fun c =>
    let c := c.popAll (agInputs u mode)
    c.setAg u { c.ag u with tile := (c.ag u).tile + 1, elem := 0, vals := [], held := [], lane := 0 }

/-- A unit with two inputs: valued heads to f; heads that disagree, and kinds no unit takes (R188, R215). -/
def State.agPair (s : State) (cl u mode : Nat) (g : AgCfg) (f : Token → Token → Out) : Out :=
  match (s.cluster cl).agHeads u mode g with
  | .valued i v => f i v
  | .mismatch i v => s.agDisagree cl u i v
  | .bad => s.agFail cl u .configIllegal
  | _ => .next s

/-- AG_SCATTER: one lane at a time in ascending order, each a store (R213). -/
def execAgScatter (g : AgCfg) (s : State) : Out :=
  match s.agFor 3 g with
  | none => .next s
  | some (cl, u, a) =>
    s.withShape cl u 3 g fun sh =>
      s.agPair cl u 3 g fun i v =>
        let next (s : State) : State := s.onAg cl u fun a => { a with elem := a.elem + 1 }
        match a.wlines with
        | (l, cells) :: rest => s.storeLine cl u a.elem l cells rest next
        | [] =>
          if 16 ≤ a.elem then .next (s.agDone cl u 3)
          else if i.isValid a.elem && v.isValid a.elem then
            s.writeElem cl u g sh a.elem [laneIndex i a.elem] (v.lane a.elem % 2 ^ sh.bitsOf) fun s =>
              .next (if ((s.cluster cl).ag u).wlines.isEmpty then next s else s)
          else .next (next s)

/-! ## ATOM (R214) -/

/-- The new value of a 4-byte element and the flags of FADD (R214, R258). -/
def atomNew (g : AgCfg) (old x : Nat) : Fl :=
  match amoFnOf g.afn with
  | some .fadd => fadd32 0 g.ftz false old x
  | some fn => .pure (amoCombine fn 32 old x)
  | none => .pure old

/-- The page types an atomic step may reach: coherent and uncached HBM pages (R214, R249). -/
def State.atomCheck (s : State) (x : Xlate) (pa : Nat) : Option (Code × Nat) :=
  if windowOf pa = .crown then some (.permission, x.level) else s.agentCheck false x pa

/-- The AMO step of a lane: the old value to the result, none of it where the step must wait (R69, R70, R214). -/
def State.atomStep (s : State) (cl u : Nat) (g : AgCfg) (lane va x : Nat) : Out :=
  s.agAccess cl u needBoth s.atomCheck va lane fun pa p s =>
    let put (old : Nat) (s : State) : Out :=
      .next (s.onAg cl u fun a => { a with vals := a.vals ++ [some old], elem := a.elem + 1 })
    if windowOf pa = .unbacked then put 0 (s.logPa 4 pa)
    else
      let f (old : List Byte) : Option (List Byte) := some (leBytes 4 (atomNew g (leNat old) x).bits)
      let flags (old : List Byte) : Flags := (atomNew g (leNat old) x).flags
      if p.mtype = 0 then
        match s.amoStep (s.towerId (clTower cl)) ((s.cluster cl).ag u).pts pa 4 f with
        | some (old, t, s) =>
          let s := ((s.onAg cl u fun a => { a with pts := t }).placeLine cl true pa).raiseFlags cl (flags old)
          put (leNat old) s
        | none => .next (s.stallTurn (clTower cl))
      else
        match s.homeAmo pa 4 f with
        | some (old, _, s) => put (leNat old) (s.raiseFlags cl (flags old))
        | none => .next (s.stallTurn (clTower cl))

/-- AG_ATOM: one lane at a time; the old values form the result token, of the index token's KIND and SEQ (R214). -/
def execAgAtom (g : AgCfg) (s : State) : Out :=
  match s.agFor 6 g with
  | none => .next s
  | some (cl, u, a) =>
    s.withShape cl u 6 g fun sh =>
      s.agSend cl u g <|
        s.agPair cl u 6 g fun i v =>
          let none_ (s : State) : Out := .next (s.onAg cl u fun a => { a with vals := a.vals ++ [none], elem := a.elem + 1 })
          if a.between && !s.agRoom cl u g then .next s
          else if 16 ≤ a.elem then
            let t := Token.ofLanes i.kind i.seq a.vals
            let s := s.agDone cl u 6
            .next (if g.out = 8 then s else s.onAg cl u fun a => { a with outq := [t] })
          else if !(i.isValid a.elem && v.isValid a.elem) then none_ s
          else
            let x := [laneIndex i a.elem]
            let fault (code : Code) (va : Nat) : Out :=
              s.agSkipOr cl u code (s.agInfo cl u 0 va a.elem (coordWords x)) none_
            match sh.at false x with
            | .pad => none_ s
            | .range _ => fault .coordRange 0
            | .over _ => fault .coordOverflow 0
            | .loc va _ => if va % 4 ≠ 0 then fault .coordRange va else s.atomStep cl u g a.elem va (v.lane a.elem)

/-! ## SCATADD (R99, R215) -/

/-- combine of SCATADD's format (R99). -/
def scatCombine (g : AgCfg) (x y : Nat) : Fl :=
  if g.fmt = 0 then fadd32 g.rnd.toNat g.ftz false x y
  else if g.fmt = 10 then
    let (a, f) := rtRead x
    let (b, h) := rtRead y
    ⟨rtLane (rtAdd a b), f ||| h⟩
  else .pure ((x + y) % 2 ^ 32)

/-- The lanes valid in both tokens. -/
def bothLanes (i v : Token) : List Nat := (List.range 16).filter fun l => i.isValid l && v.isValid l

/-- The least distinct offset among lanes that is at least k. -/
def nextOffset (i : Token) (ls : List Nat) (k : Nat) : Option Nat :=
  (ls.map i.lane).foldl (fun m o => if k ≤ o then (match m with | some n => some (min n o) | none => some o) else m) none

/-- Flags added along a fold of combine. -/
def foldCombine (g : AgCfg) (x : Nat) (ys : List Nat) : Fl :=
  ys.foldl (fun r y => (scatCombine g r.bits y).with r.flags) (.pure x)

/-- AG_SCATADD: the token's offsets checked, a COORD_RANGE giving the offset as c_0 (log 91), then one read-modify-write for each
distinct offset in ascending order, one at a turn (R99, R215). -/
def execAgScatadd (g : AgCfg) (s : State) : Out :=
  match s.agFor 4 g with
  | none => .next s
  | some (cl, u, a) =>
    s.agPair cl u 4 g fun i v =>
      let ls := bothLanes i v
      match ls.find? fun l => g.lwords.toNat ≤ i.lane l with
      | some l =>
        s.agSkipOr cl u .coordRange { s.agInfo cl u 0 0 l (coordWords [laneIndex i l]) with index := i.seq } fun s =>
          .next (s.agDone cl u 4)
      | none =>
        match nextOffset i ls a.elem with
        | none => .next (s.agDone cl u 4)
        | some o =>
          match ls.filter fun l => i.lane l = o with
          | [] => .next s
          | l :: rest =>
            let c := s.cluster cl
            let off := 4 * (g.lbase.toNat + o)
            let sum := foldCombine g (v.lane l) (rest.map v.lane)
            let new := scatCombine g (leNat (c.read off 4)) sum.bits
            let c := c.write off (leBytes 4 new.bits) a.pts
            let s := s.setCluster cl (c.setAg u { c.ag u with elem := o + 1 })
            .next (s.raiseFlags cl (sum.flags ||| new.flags))

/-! ## BIN (R100, R101, R215) -/

/-- Word i of lane l's record: 0 where the lane is not valid in that token. -/
def binWord (held : List Token) (l i : Nat) : Nat :=
  match held[i]? with
  | some t => if t.isValid l then t.lane l else 0
  | none => 0

/-- Lane l of a BIN record appended (R101); a COORD_RANGE gives the bin number as c_0 (log 91); a record for the overflow
region takes its words there before its lines are stored. -/
def State.binLane (s : State) (cl u : Nat) (b : MuBintab) (held : List Token) (i : Token) (l : Nat) : Out :=
  let c := s.cluster cl
  let a := c.ag u
  let next (s : State) : State := s.onAg cl u fun a => { a with elem := l + 1 }
  let bin := i.lane l
  let fault (code : Code) (detail : List Nat) : Out :=
    s.agSkipOr cl u code (s.agInfo cl u 0 0 l detail) fun s => .next (next s)
  let range := coordWords [laneIndex i l]
  let words := (List.range b.w).map (binWord held l)
  if b.bincount ≤ bin then fault .coordRange range
  else
    let eoff := 4 * b.tbase + 8 * bin
    let e := leNat (c.read eoff 8)
    let (fill, limit, base) := (nbits e 47 32, nbits e 31 16, nbits e 15 0)
    if fill + b.w ≤ limit then
      if 65536 < base + fill + b.w then fault .coordRange range
      else
        let c := words.zipIdx.foldl (fun c (w, k) => c.write (4 * (base + fill + k)) (leBytes 4 w) a.pts) c
        let c := c.write (eoff + 4) (leBytes 2 (fill + b.w)) a.pts
        .next (next (s.setCluster cl c))
    else if e.testBit 63 then
      if b.ovlen < 4 * (c.mu.ovfill + b.w + 1) then fault .binOverflow [0xFFFF]
      else
        let va := (sextNat 57 b.ovbase % 2 ^ 64).toNat + 4 * c.mu.ovfill
        let cells := ((bin :: words).zipIdx.map fun (w, k) =>
          (List.range 8).map fun n => (2 * (va + 4 * k) + n, w / 16 ^ n % 16)).flatten
        let s := s.onAg cl u fun a => { a with wlines := addCells [] cells }
        .next (s.onCluster cl fun c => { c with mu := { c.mu with ovfill := c.mu.ovfill + b.w + 1 } })
    else fault .binOverflow [bin % 2 ^ 16]

/-- AG_BIN: the w VQ tokens of the IQ token at the head, then its valid lanes appended one by one; an overflow record is
stored line by line. Input is consumed with the last lane, but for VQ tokens that its queue cannot hold all at once or that stand
before a token of another kind (R101, R215, R217). -/
def execAgBin (g : AgCfg) (s : State) : Out :=
  match s.agFor 5 g with
  | none => .next s
  | some (cl, u, a) =>
    s.withShape cl u 5 g fun _ =>
      let c := s.cluster cl
      match c.muBintab, a.wlines with
      | none, _ => .next s
      | some _, (l, cells) :: rest =>
        s.storeLine cl u a.elem l cells rest fun s => s.onAg cl u fun a => { a with elem := a.elem + 1 }
      | some b, [] =>
        let left := b.w - a.held.length
        let ready := (c.queue (vqOf u)).take left
        s.agPair cl u 5 g fun i v =>
          if ready.length = left && ready.all fun t => t.valued && t.kind ≠ 5 then
            if 16 ≤ a.elem then
              let c := (ready.foldl (fun c _ => c.popQ (vqOf u)) c).popQ (iqOf u)
              .next (s.setCluster cl (c.setAg u { c.ag u with tile := a.tile + 1, elem := 0, held := [] }))
            else if i.isValid a.elem then s.binLane cl u b (a.held ++ ready) i a.elem
            else .next (s.onAg cl u fun a => { a with elem := a.elem + 1 })
          else if ready.any (fun t => !t.valued || t.kind = 5) || !c.room (.queue (vqOf u)) 1 then
            let c := c.popQ (vqOf u)
            .next (s.setCluster cl (c.setAg u { c.ag u with held := a.held ++ [v] }))
          else .next s

end Sys2Proof.Machine
end

