-- ==== Sys2Proof/Machine/CopyEngine.lean ====
section
/-!
DEFINITION. The copy engines (R80 to R90, R373): starting a job, moving a tile step by step, completing or failing.
Engine 2·core + e, e 0 xylem and 1 phloem.
-/
namespace Sys2Proof.Machine

/-! ## Access -/

def State.engine (s : State) (e : Nat) : Engine := s.engines.getD e Engine.reset

def State.setEngine (s : State) (e : Nat) (x : Engine) : State := { s with engines := s.engines.set e x }

def State.copyJob (s : State) (e k : Nat) : CopyJob := (s.engine e).slots.getD k CopyJob.reset

def State.setCopyJob (s : State) (e k : Nat) (j : CopyJob) : State :=
  s.setEngine e { s.engine e with slots := (s.engine e).slots.set k j }

/-! ## The card (R80, R81) -/

namespace CopyJob

def kind (j : CopyJob) : Nat := bits j.card 3 0

def tileCount (j : CopyJob) : Nat := bits j.card 511 480

def dkind (j : CopyJob) : Nat := bits j.card 447 446

/-- The channel of DKIND 1. -/
def dchan (j : CopyJob) : Nat := bits j.card 389 384

/-- The counter's VA of DKIND 2: VA[56:0], sign-extended. -/
def dcounter (j : CopyJob) : Nat := (sextNat 57 (bits j.card 440 384) % 2 ^ 64).toNat

def dest (j : CopyJob) : Nat := bits j.card 191 128

def shapeVa (j : CopyJob) : Nat := bits j.card 127 64

/-- READ_REGION and WRITE_REGION: base and length. -/
def readRegion (j : CopyJob) : Nat × Nat := (bits j.card 255 192, bits j.card 351 320)

def writeRegion (j : CopyJob) : Nat × Nat := (bits j.card 319 256, bits j.card 383 352)

/-- The buffer handles of a job: DEST for FILL and FILLREPL, FROMBUF for DRAIN (R81). -/
def handles (j : CopyJob) : List Nat :=
  match j.kind with
  | 1 | 2 => (List.range (j.dest / 2 ^ 32 % 4 + 1)).map fun n => j.dest / 2 ^ (8 * n) % 64
  | 3 => [bits j.card 29 24]
  | _ => []

/-- The shape that numbers the job's tiles: DEST for DRAIN, SHAPE otherwise (R81). -/
def main (j : CopyJob) : Shp := shpOf (if j.kind = 3 then j.dshape else j.sshape)

end CopyJob

/-- Byte ranges overlap; an empty one overlaps nothing (R75). -/
def overlap (a b : Nat × Nat) : Bool := a.2 ≠ 0 && b.2 ≠ 0 && a.1 < b.1 + b.2 && b.1 < a.1 + a.2

/-- An edge from an earlier job to a later one of the same context (R75). -/
def edgeOf (old new : CopyJob) : Bool :=
  overlap old.writeRegion new.readRegion || overlap old.readRegion new.writeRegion ||
    overlap old.writeRegion new.writeRegion

/-- The card's own rules: kind and engine, ZERO fields, DKIND, handle lists (R80, R81, R82). -/
def cardLegal (e : Nat) (j : CopyJob) : Bool :=
  let d := j.dest
  let hs := j.handles
  (match j.kind with
   | 1 | 2 => e % 2 = 0
   | 3 => e % 2 = 1
   | 4 => true
   | _ => false) &&
  bits j.card 445 441 = 0 && bits j.card 63 30 = 0 && bits j.card 23 4 = 0 && j.dkind ≠ 3 &&
  (j.dkind ≠ 1 || bits j.card 440 390 = 0) && (j.kind = 3 || bits j.card 29 24 = 0) &&
  (match j.kind with
   | 1 => hs.length = 1
   | 2 => 2 ≤ hs.length && hs.Nodup
   | _ => true) &&
  (!(j.kind = 1 || j.kind = 2) ||
    (d / 2 ^ 34 = 0 && [0, 1, 2, 3].all fun n => d / 2 ^ (8 * n + 6) % 4 = 0))

/-! ## Starting (R75, R82, R87, R88) -/

/-- The buffers of a job, with their tile entries. -/
def State.jobBufs (s : State) (j : CopyJob) : List (Buf × List Tile) :=
  j.handles.map fun h =>
    let (cl, b) := handleOf j.core h
    let c := s.cluster cl
    (c.buf b, (upFrom (c.buf b).first (c.buf b).slots).map c.tile)

/-- A buffer of a job is absent (R82). -/
def State.bufAbsent (s : State) (j : CopyJob) : Bool := (s.jobBufs j).any fun p => p.1.slots = 0

/-- The tiles a job has still to move, from PROGRESS to the end of this number (R80, R84). -/
def CopyJob.bound (j : CopyJob) : Nat :=
  if j.tileCount = 0 then j.main.tiles else min j.main.tiles (j.progress + j.tileCount)

/-- The code that fails a job before its first step, 0 when its card, shapes and buffers agree; an absent buffer fails one
that would claim or read it, that is, one with a tile to move (R82, R84, R85, R98). Where a case of each code holds,
CONFIG_ILLEGAL is reported (DESIGN CHOICE, log 89). -/
def State.startCode (s : State) (j : CopyJob) : Nat :=
  let src := shpOf j.sshape
  let dst := shpOf j.dshape
  let m := j.main
  let bufs := (s.jobBufs j).filter fun p => p.1.slots ≠ 0
  let rowBytes := nth m.tile 0 0 * m.bitsOf / 8
  let nrows := m.elems / max 1 (nth m.tile 0 0)
  if (j.kind ≠ 3 && !shapeLegal j.sshape) || (3 ≤ j.kind && !shapeLegal j.dshape) then Code.configIllegal.num
  else if (s.bufAbsent j && j.progress < j.bound) || bufs.any (fun p => p.2.any fun t => 128 * t.lcount < m.tileBytes) then
    Code.configIllegal.num
  else if j.kind = 4 && (src.tiles ≠ dst.tiles || src.elems ≠ dst.elems) then Code.configIllegal.num
  else if j.kind = 4 && src.fmt ≠ dst.fmt then Code.formatFault.num
  else if bufs.any (fun (b, _) => b.fmt ≠ m.fmt || (j.kind ≠ 3 && b.swz ≠ m.swz)) then Code.formatFault.num
  else if (j.kind = 1 || j.kind = 2) && m.tileBytes % 4 ≠ 0 then Code.formatFault.num
  else if (j.kind = 1 || j.kind = 2) && m.ord && (rowBytes % 128 ≠ 0 || nrows % (32 / m.bitsOf) ≠ 0) then
    Code.formatFault.num
  else 0

/-- A job's context (R35, R42). -/
def CopyJob.ctx (j : CopyJob) : Ctx := ⟨coreTower j.core, j.pts, j.asid, j.tbase, false⟩

/-- A job as an agent. -/
def State.copyAgent (s : State) (e k : Nat) : Agent :=
  let j := s.copyJob e k
  ⟨coreTower j.core, j.pts, s.jobAgent e k, clusterAt j.core 0, false⟩

/-- What a record says of a copy job (R340). -/
def State.copyInfo (s : State) (e k level va : Nat) (detail : List Nat) : FaultInfo :=
  { src := 6, level := level, index := (s.copyJob e k).progress, va := va, detail := detail, agent := s.jobAgent e k,
    tower := some (coreTower (s.copyJob e k).core) }

/-- A job waits on a translation fault, its record queued for its job (R43, R341). -/
def State.copyStall (s : State) (e k : Nat) (code : Code) (level va : Nat) : State :=
  let j := s.copyJob e k
  let words := faultWords s code 1 (64 * (e % 2) + k) none 0 0 (s.copyInfo e k level va [])
  let s := s.setCopyJob e k { j with stall := true }
  { s with faultq := s.faultq ++ [⟨j.job, none, words, .copy e k, j.core, 0⟩] }

/-- A job fails: no further step; its end is COPY_JOB_COMPLETE (R82, R86, R90). -/
def State.copyFail (s : State) (e k : Nat) (code : Code) (level va : Nat) (detail : List Nat) : State :=
  let words := faultWords s code 0 (64 * (e % 2) + k) none 0 0 (s.copyInfo e k level va detail)
  let j := s.copyJob e k
  s.setCopyJob e k { j with
    st := .running, started := false, pend := [], lines := [], wlines := [], taken := [], fills := [], fail := code.num,
    record := words }

/-- Translation faults stall a job; the other faults of an access fail it (R31, R32, R43, R59). -/
def State.copyFault (s : State) (e k : Nat) (code : Code) (level va : Nat) : State :=
  match code with
  | .pageNotPresent | .permission | .reservedPteBit => s.copyStall e k code level va
  | _ => s.copyFail e k code level va []

/-- An access of a job through its engine's TLB. -/
def State.copyAccess (s : State) (e k : Nat) (need : Need) (va : Nat) (f : Nat → Xlate → State → Out) : Out :=
  match s.translate (s.copyJob e k).ctx (s.engine e).tlb 256 need (s.agentCheck true) va with
  | .fault code lv => .next (s.copyFault e k code lv va)
  | .wait s => .next s
  | .ok pa x tlb s => f pa x (s.setEngine e { s.engine e with tlb := tlb })

/-- The line of a shape record, read as a walk reads a table line (R40, R87); one in the host window comes through its aperture
like an element (DESIGN CHOICE, log 86). -/
def State.shapeAt (s : State) (pts : Nat) (x : Xlate) (pa : Nat) : Shape × State :=
  if windowOf pa = .hbm && x.mtype ≤ 1 then
    let (bs, _, s) := s.peek pts pa 128
    (BitVec.ofNat 1024 (leNat bs), s)
  else if windowOf pa = .crown then (BitVec.ofNat 1024 (leNat (s.readScratch pa 128)), s)
  else if windowOf pa = .host && s.hostBacked pa then
    let (bs, s) := s.hostBytes 128
    (BitVec.ofNat 1024 (leNat bs), s)
  else (0, s.logPa 4 pa)

/-- A shape record of a job, when its kind has one at that VA; a VA that is no multiple of 128 names no record. -/
def State.copyShape (s : State) (e k : Nat) (wanted : Bool) (va : Nat) (f : Shape → State → Out) : Out :=
  if !wanted then f 0 s
  else if va % 128 ≠ 0 then .next (s.copyFail e k .configIllegal 0 va [])
  else s.copyAccess e k needLoad va fun pa x s =>
    let (sh, s) := s.shapeAt (s.copyJob e k).pts x pa
    f sh s

/-- The buffers of a job are not claimed by another (R88). -/
def State.claimFree (s : State) (e k : Nat) : Bool :=
  (s.copyJob e k).handles.all fun h =>
    let (cl, b) := handleOf (s.copyJob e k).core h
    match ((s.cluster cl).buf b).claim with
    | none => true
    | some o => o = 64 * e + k

/-- A change to each buffer of a job. -/
def State.onBufs (s : State) (j : CopyJob) (f : Buf → Buf) : State :=
  j.handles.foldl (fun s h =>
    let (cl, b) := handleOf j.core h
    s.onCluster cl fun c => c.setBuf b (f (c.buf b))) s

/-- A stopped job that has been asked to resume goes on once every pre-empted launch of its job has been placed again
(R347). -/
def State.copyGoOn (s : State) (e k : Nat) : State :=
  let j := s.copyJob e k
  if j.going && !((s.ofJob j.job).any fun l => match l.band with | some b => b.resume | none => false) then
    s.setCopyJob e k { j with st := if j.limit = 0 then .waiting else .running, going := false }
  else s

/-- COPY_JOB_START: with no edge left, the admission found at the issue, the card and the shapes are checked (R75, R82, R87,
R241). -/
def execCopyJobStart (e k : Nat) (s : State) : Out :=
  let j := s.copyJob e k
  if j.st = .stopped then .next (s.copyGoOn e k)
  else if j.st ≠ .waiting || !j.edges.isEmpty || j.stall then .next s
  else if !j.admitted then .next (s.copyFail e k .configIllegal 0 0 [])
  else if !cardLegal e j then .next (s.copyFail e k .configIllegal 0 0 [])
  else
    s.copyShape e k (j.kind ≠ 3) j.shapeVa fun src s =>
    s.copyShape e k (3 ≤ j.kind) j.dest fun dst s =>
      let j := { s.copyJob e k with sshape := src, dshape := dst }
      let code := s.startCode j
      if code = Code.configIllegal.num then .next (s.copyFail e k .configIllegal 0 0 [])
      else if code ≠ 0 then .next (s.copyFail e k .formatFault 0 0 [])
      else .next (s.setCopyJob e k { j with limit := j.bound, st := .running })

/-! ## Tiles (R86, R87, R89, R373) -/

/-- The first element of a tile that fails the job (R86). -/
def Shp.badElem (sh : Shp) (m : Nat) : Option (Code × List Int) :=
  (List.range sh.elems).findSome? fun e =>
    match sh.elem false m e with
    | .range c => some (.coordRange, c)
    | .over c => some (.coordOverflow, c)
    | _ => none

/-- The lines a tile reads, in traversal order (R87). -/
def Shp.tileLines (sh : Shp) (m : Nat) : List Nat :=
  firsts (((List.range sh.elems).map fun e =>
    match sh.elem false m e with
    | .loc va _ => linesOf va sh.elemBytes
    | _ => []).flatten)

/-- The values of a tile's elements, PAD where out of range. -/
def Shp.tileValues (sh : Shp) (m : Nat) (ls : Table (List Byte)) : List Nat :=
  (List.range sh.elems).map fun e =>
    match sh.elem false m e with
    | .loc va high => sh.value ls va high
    | _ => sh.pad % 2 ^ sh.bitsOf

/-- The lines a tile writes, in traversal order, with their cells (R87). -/
def Shp.tileCells (sh : Shp) (m : Nat) (vals : List Nat) : List (Nat × Table Nat) :=
  vals.zipIdx.foldl (fun ls (v, e) =>
    match sh.elem false m e with
    | .loc va high => addCells ls (sh.cells va high v)
    | _ => ls) []

/-- Elements as the bytes of a slot (R107). -/
def slotBytes (w : Nat) (vals : List Nat) : List Byte :=
  let n := (vals.zipIdx.map fun (v, i) => v % 2 ^ w * 2 ^ (w * i)).foldl (· + ·) 0
  leBytes ((vals.length * w + 7) / 8) n

/-- The first element of a job's tile that fails it (R86). DESIGN CHOICE (log 25): of a COPY tile every source element is
checked before its destination elements. -/
def CopyJob.badTile (j : CopyJob) (m : Nat) : Option (Code × List Int) :=
  if j.kind = 3 then (shpOf j.dshape).badElem m
  else match (shpOf j.sshape).badElem m with
    | some x => some x
    | none => if j.kind = 4 then (shpOf j.dshape).badElem m else none

/-- The tile in hand begins to be read. -/
def State.tileBegin (s : State) (e k : Nat) : State :=
  let j := s.copyJob e k
  s.setCopyJob e k
    { j with started := true, pend := (shpOf j.sshape).tileLines j.progress, lines := [], wlines := [], fills := [] }

/-- One load step of a tile: its next line (R87). A read over PCIe may complete with an error status, which fails the job (R379);
whether it does comes from outside the package and is a free choice (log 5). -/
def State.tileLoad (s : State) (e k l : Nat) (rest : List Nat) : Out :=
  s.copyAccess e k needLoad (128 * l) fun pa x s =>
    let (bad, s) := if windowOf pa = .host && s.hostBacked pa then s.choose 2 else (0, s)
    if bad = 1 then .next (s.copyFail e k .uncorrectable 0 (128 * l) []) else
    let (bs, t, s) := s.agentLoad (s.copyAgent e k) x pa 128
    let j := s.copyJob e k
    .next (s.setCopyJob e k { j with pts := t, pend := rest, lines := j.lines.set l bs })

/-- One store step of a tile: its next line; with the last, the tile is delivered (R87). -/
def State.tileStore (s : State) (e k l : Nat) (cells : Table Nat) (rest : List (Nat × Table Nat)) : Out :=
  s.copyAccess e k needStore (128 * l) fun pa x s =>
    match s.agentStore (s.copyAgent e k) x pa cells with
    | none => .next (s.stallTurn (coreTower (s.copyJob e k).core))
    | some (t, s) =>
      let j := { s.copyJob e k with pts := t, wlines := rest }
      .next (s.setCopyJob e k
        (if rest.isEmpty then { j with started := false, progress := j.progress + 1, lines := [] } else j))

/-- Every buffer of a fill job has a free slot it may use: a credit, and an EMPTY slot at PIDX (R89, R96). -/
def State.fillReady (s : State) (j : CopyJob) : Bool :=
  j.handles.all fun h =>
    let (cl, b) := handleOf j.core h
    let c := s.cluster cl
    (c.buf b).slots ≠ 0 && (c.buf b).credit ≠ 0 && (c.tile ((c.buf b).pSlot 0)).st = .empty

/-- The free slots that the buffers of a job all have, from the producer index on (R89, R95). -/
def State.freeAll (s : State) (j : CopyJob) : Nat :=
  (j.handles.map fun h =>
    let (cl, b) := handleOf j.core h
    let c := s.cluster cl
    min (c.buf b).freeSlots (c.emptyRun (c.buf b))).foldl min 32

/-- A tile starts in the slot at PIDX of a buffer (R96). -/
def Cluster.startFill (c : Cluster) (b : Nat) (m : Shp) : Cluster :=
  let x := c.buf b
  let k := x.pSlot 0
  let t := { c.tile k with
    st := .filling
    fmt := m.fmt
    swz := m.swz
    ord := m.ord
    rlines := if m.ord then nth m.tile 0 0 * m.bitsOf / 8 / 128 else 0
    tbytes := m.tileBytes
    due := true }
  (c.setTile k t).setBuf b { x.stepP with credit := x.credit - 1 }

/-- A fill job's next tiles start in its buffers, n of them at most, up to the last tile or one with a failing element
(R86, R89, R96). -/
def State.startTiles (s : State) (e k : Nat) : Nat → State
  | 0 => s
  | n + 1 =>
    let j := s.copyJob e k
    let m := j.progress + j.taken.length
    if j.limit ≤ m || (j.badTile m).isSome then s
    else
      let slots := j.handles.map fun h =>
        let (cl, b) := handleOf j.core h
        ((s.cluster cl).buf b).pSlot 0
      let s := j.handles.foldl (fun s h =>
        let (cl, b) := handleOf j.core h
        s.onCluster cl fun c => c.startFill b (shpOf j.sshape)) s
      (s.setCopyJob e k { j with taken := j.taken ++ [slots] }).startTiles e k n

/-- The first tile of a fill job starts, or a later one. At the first its buffers are claimed once no other job claims one,
each lets as many tiles start as all have free slots, and these start at once; a later one needs a freed-slot notice of each
(R82, R88, R89). -/
def State.fillStart (s : State) (e k : Nat) : State :=
  let j := s.copyJob e k
  let mine := j.handles.all fun h =>
    let (cl, b) := handleOf j.core h
    ((s.cluster cl).buf b).claim = some (64 * e + k)
  if mine then (if s.fillReady j then s.startTiles e k 1 else s)
  else if s.startCode j = Code.configIllegal.num then s.copyFail e k .configIllegal 0 0 []
  else if s.startCode j ≠ 0 then s.copyFail e k .formatFault 0 0 []
  else
    let n := s.freeAll j
    if s.claimFree e k && n ≠ 0 then
      (s.onBufs j fun b => { b with claim := some (64 * e + k), credit := n }).startTiles e k n
    else s

/-- Line i of a tile written into tile entry k; the last leaves no write of it due (R76, R88, R91, R96). -/
def Cluster.fillLine (c : Cluster) (k i : Nat) (data : List Byte) (pts : Nat) : Cluster :=
  let t := c.tile k
  let c := (c.write (128 * (t.base + i)) ((data.drop (128 * i)).take 128) pts).setSwz (t.base + i) 1 t.swz
  if data.length ≤ 128 * (i + 1) then c.setTile k { c.tile k with due := false } else c

/-- One write of the tile in hand of a fill job: the next line of one of its buffers, in no particular order among the buffers
(R77, R88, R89). With the last the tile is delivered. -/
def State.fillStep (s : State) (e k : Nat) : State :=
  let j := s.copyJob e k
  let m := shpOf j.sshape
  let data := slotBytes m.bitsOf (m.tileValues j.progress j.lines)
  let (i, s) := s.choose j.fills.length
  match j.fills[i]? with
  | none => s
  | some (n, line) =>
    let slot := nth (nth j.taken 0 []) n 0
    let cl := (handleOf j.core (nth j.handles n 0)).1
    let s := s.onCluster cl fun c => c.fillLine slot line data j.pts
    let rest := if data.length ≤ 128 * (line + 1) then j.fills.eraseIdx i else j.fills.set i (n, line + 1)
    s.setCopyJob e k
      (if rest.isEmpty then
        { j with started := false, progress := j.progress + 1, lines := [], fills := [], taken := j.taken.drop 1 }
      else { j with fills := rest })

/-- The job may take a step: running, not at a fault, not failed, tiles left. -/
def CopyJob.mayStep (j : CopyJob) : Bool :=
  j.st = .running && !j.stall && j.fail = 0 && (j.started || j.progress < j.limit)

/-- PROGRESS written to the card's memory, as a home-agent store step: its t. A line that has become uncorrectable or fenced since
the issue is left as it is (R31, R32). A card in crown scratch has no step, one at an unbacked address nothing to write, and one
in the device window is no register to write (R18, R59, R80; DESIGN CHOICE, log 87). -/
def State.writeProgress (s : State) (j : CopyJob) : Acc :=
  let pa := j.cardPa + 56
  match windowOf pa with
  | .hbm =>
    if !s.reachable pa then .wait s
    else if (s.lineFault pa).isSome then .ok [] 0 s
    else
      match (s.touch pa).bind fun s => s.homeStore pa (leBytes 4 j.progress) with
      | some (t, s) => .ok [] t s
      | none => .wait (s.stallTurn (coreTower j.core))
  | .crown => .ok [] 0 (s.arrive ⟨0, pa, leBytes 4 j.progress⟩)
  | .unbacked => .ok [] 0 (s.logPa 4 pa)
  | _ => .ok [] 0 s

/-- A job that a pre-emption has asked to stop can: no tile is in hand, or it waits on a fault (R346, R348). -/
def CopyJob.halts (j : CopyJob) : Bool := j.halt && ((!j.started && j.taken.isEmpty) || j.stall)

/-- A job stops for a pre-emption with PROGRESS written to its card; one with no tile left completes instead (R80, R346). -/
def State.copyHalt (s : State) (e k : Nat) : Out :=
  let j := s.copyJob e k
  if j.st = .running && !j.started && j.limit ≤ j.progress then .next (s.setCopyJob e k { j with halt := false })
  else
    (s.writeProgress j).after s fun s => .next (s.setCopyJob e k { j with st := .stopped, halt := false })

/-- COPY_JOB_TILE: the next step of a FILL, FILLREPL or COPY tile: its checks, its start, a load step, a store step, or a
write into a buffer (R86 to R89, R96). DESIGN CHOICE (log 26): a COPY tile makes all its load steps before its store
steps. -/
def execCopyJobTile (e k : Nat) (s : State) : Out :=
  let j := s.copyJob e k
  if j.st = .stopped then .next (s.copyGoOn e k)
  else if j.halts then s.copyHalt e k
  else if !j.mayStep || j.kind = 3 then .next s
  else if !j.started then
    if !j.taken.isEmpty then .next (s.tileBegin e k)
    else
      match j.badTile j.progress with
      | some (code, c) => .next (s.copyFail e k code 0 0 (coordWords c))
      | none => .next (if j.kind = 4 then s.tileBegin e k else s.fillStart e k)
  else
    match j.pend, j.wlines with
    | l :: rest, _ => s.tileLoad e k l rest
    | [], (l, cells) :: rest => s.tileStore e k l cells rest
    | [], [] =>
      if j.kind = 4 then
        let ws := (shpOf j.dshape).tileCells j.progress ((shpOf j.sshape).tileValues j.progress j.lines)
        match ws with
        | (l, cells) :: rest => s.tileStore e k l cells rest
        | [] => .next (s.setCopyJob e k { j with started := false, progress := j.progress + 1, lines := [] })
      else if j.fills.isEmpty then
        .next (State.fillStep (s.setCopyJob e k { j with fills := (List.range j.handles.length).map fun n => (n, 0) }) e k)
      else .next (s.fillStep e k)

/-- Element e of a slot's bytes. -/
def slotElem (w : Nat) (bs : List Byte) (e : Nat) : Nat :=
  if w = 4 then (nth bs (e / 2) 0).toNat / (if e % 2 = 1 then 16 else 1) % 16
  else leNat ((bs.drop (e * (w / 8))).take (w / 8))

/-- DRAIN_TILE: a tile starts when its source slot is READY, raises the clock to TCLK and reads the slot; its store steps
follow one by one (R79, R87, R89, R373). -/
def execDrainTile (e k : Nat) (s : State) : Out :=
  let j := s.copyJob e k
  if j.st = .stopped then .next (s.copyGoOn e k)
  else if j.halts then s.copyHalt e k
  else if !j.mayStep || j.kind ≠ 3 then .next s
  else if j.started then
    match j.wlines with
    | (l, cells) :: rest => s.tileStore e k l cells rest
    | [] => .next (s.setCopyJob e k { j with started := false, progress := j.progress + 1 })
  else
    let (cl, b) := handleOf j.core (nth j.handles 0 0)
    let c := s.cluster cl
    let t := c.tile ((c.buf b).cSlot 0)
    let dst := shpOf j.dshape
    if (c.buf b).slots = 0 then .next (s.copyFail e k .configIllegal 0 0 [])
    else
      match j.badTile j.progress with
      | some (code, x) => .next (s.copyFail e k code 0 0 (coordWords x))
      | none =>
        if t.st ≠ .ready then .next s
        else
          let bs := c.read (128 * t.base) (128 * t.lcount)
          let vals := (List.range dst.elems).map (slotElem dst.bitsOf bs)
          let s := s.setCluster cl (c.beginDrain b)
          .next (s.setCopyJob e k
            { j with started := true, pts := max j.pts t.tclk, wlines := dst.tileCells j.progress vals })

/-! ## Slots of fill and drain (R79, R96) -/

/-- The FILLING slots of a buffer with no write of their tile due, oldest first. -/
def Cluster.fillingSlots (c : Cluster) (b : Nat) : List Nat :=
  let x := c.buf b
  (List.range x.occupied).filterMap fun i =>
    let k := x.cSlot i
    if (c.tile k).st = .filling && !(c.tile k).due then some k else none

/-- SLOT_FILL_COMPLETE: the oldest FILLING slot, every write of whose tile has been performed, turns READY (R79, R96). -/
def execSlotFillComplete (cl b : Nat) (s : State) : Out :=
  let c := s.cluster cl
  match c.fillingSlots b with
  | k :: _ =>
    let t := c.tile k
    let c := c.setTile k { t with st := .ready, tclk := c.tileClock t }
    .next (s.setCluster cl ((c.setBuf b { c.buf b with moved := true }).countReady b 1))
  | [] => .next s

/-- SLOT_DRAIN_COMPLETE: the DRAINING slot at CIDX, whose reader has read it, turns EMPTY, with a freed-slot notice
(R76, R89, R96). -/
def execSlotDrainComplete (cl b : Nat) (s : State) : Out :=
  let c := s.cluster cl
  if (c.buf b).slots ≠ 0 && (c.tile ((c.buf b).cSlot 0)).st = .draining then
    let mine := (c.sourceBuf.map (·.1)) = some b
    let c := c.advanceC b
    .next (s.setCluster cl (if mine then { c with mu := { c.mu with reading := false } } else c))
  else .next s

/-! ## Completion (R75, R80, R90, R275) -/

/-- The engine's end of a job: claims and edges released, the completion record kept (R75, R88, R275). -/
def State.copyRelease (s : State) (e k final status : Nat) : State :=
  let j := s.copyJob e k
  let id := 64 * e + k
  let s := s.onBufs j fun b => if b.claim = some id then { b with claim := none } else b
  let s := s.dropFaults fun f => f.unit = .copy e k
  let free (o : CopyJob) : CopyJob :=
    if o.edges.contains id then { o with edges := o.edges.filter (· ≠ id), pts := max o.pts final } else o
  let s := [e / 2 * 2, e / 2 * 2 + 1].foldl (fun s i =>
    s.setEngine i { s.engine i with slots := (s.engine i).slots.mapVals free }) s
  s.setCopyJob e k { CopyJob.reset with final := final, status := status, progress := j.progress }

/-- The word of a DONE message (R90). -/
def doneWord (j : CopyJob) (e k : Nat) : Word :=
  BitVec.ofNat 64 (j.progress % 2 ^ 32 * 2 ^ 32 + j.fail * 2 ^ 8 + e % 2 * 2 ^ 7 + k)

/-- COPY_JOB_COMPLETE: with every store acknowledged, the DONE target is served; a failed job first writes PROGRESS and
queues its record (R80, R90, R341). -/
def execCopyJobComplete (e k : Nat) (s : State) : Out :=
  let j := s.copyJob e k
  let busy := j.st ≠ .running || j.started || j.stall || (j.fail = 0 && j.progress < j.limit) ||
    s.posted.any fun p => p.agent = s.jobAgent e k
  if busy then .next s
  else
    let eng := s.engine e
    if j.fail ≠ 0 then
      match s.writeProgress j with
      | .wait s => .next s
      | .fault _ _ => .next s
      | .ok _ t s =>
        let s := if j.admitted then
            { s with faultq := s.faultq ++ [⟨j.job, none, j.record, .none, j.core, t⟩] }
          else s
        let s := if j.dkind = 1 then s.post (.engine e) j.core j.dchan (doneWord j e k) (max j.pts t) else s
        let s := s.copyRelease e k j.pts j.fail
        .next (s.setEngine e
          { s.engine e with maxFinal := max eng.maxFinal j.pts, failures := eng.failures + 1 })
    else
      let fin (s : State) : Out :=
        let s := s.copyRelease e k j.pts 0
        .next (s.setEngine e { s.engine e with maxFinal := max eng.maxFinal j.pts })
      match j.dkind with
      | 1 => fin (s.post (.engine e) j.core j.dchan (doneWord j e k) j.pts)
      | 2 =>
        match s.countUp j.ctx j.dcounter j.pts with
        | .fault code lv => .next (s.copyFault e k code lv j.dcounter)
        | .wait s => .next s
        | .ok _ _ s => fin s
      | _ => fin s

end Sys2Proof.Machine
end

