-- ==== Sys2Proof/Machine/CellInt.lean ====
section
/-!
DEFINITION. Integer cell operations (R173, R174) and packed integer operations (R175).
-/
namespace Sys2Proof.Machine

/-! ## Shared pieces -/

/-- A 32-bit pattern (R173 wrap). -/
def wrap32 (n : Int) : Nat := (n % 2 ^ 32).toNat

/-- The product of the present factors; none when every factor is absent (R172). -/
def prodOf : List (Option Int) → Option Int
  | [] => none
  | none :: r => prodOf r
  | some x :: r => some (x * (prodOf r).getD 1)

/-- The sum of the present terms (R172). -/
def sumOf : List (Option Int) → Int
  | [] => 0
  | none :: r => sumOf r
  | some x :: r => x + sumOf r

/-- Operands as signed or unsigned values of FMT (R173). -/
def vals (f : Nat) (xs : List (Option Nat)) : List (Option Int) := xs.map fun x => x.map (intOf f)

/-- n limited to an integer format, OF when clamped, else wrapped or in range (R173, R175). -/
def clampTo (f : Nat) (n : Int) : Fl :=
  if n < intMin f then ⟨intBits f (intMin f), flagOF⟩
  else if intMax f < n then ⟨intBits f (intMax f), flagOF⟩
  else .pure (intBits f n)

/-- The residues of the present operands, and NV for a field out of range (R125, R173). -/
def rtArgs (xs : List (Option Nat)) : List (Option (List Nat)) × Flags :=
  (xs.map fun x => x.map fun x => (rtRead x).1, xs.foldl (fun f x => f ||| (x.map fun x => (rtRead x).2).getD 0) 0)

def rtZero : List Nat := [0, 0, 0]

/-- A channel-wise function of two operands either of which may be left out. -/
def rtCombine (f : List Nat → List Nat → List Nat) (a b : Option (List Nat)) : Option (List Nat) :=
  match a, b with
  | some a, some b => some (f a b)
  | some a, none => some a
  | none, b => b

def rtResult (r : Option (List Nat)) (f : Flags) : Option Fl := r.map fun r => ⟨rtLane r, f⟩

/-- An operation with one formula for integers and one for residues. -/
def intOrRt (g : SlotCfg) (xs : List (Option Nat)) (i : List (Option Int) → Int)
    (r : List (Option (List Nat)) → Option (List Nat)) : Option Fl :=
  if g.fmt = 10 then
    let (a, f) := rtArgs xs
    rtResult (r a) f
  else some (.pure (wrap32 (i (vals g.fmt.toNat xs))))

/-- A bit function of two operands; with one left out, the other, or not b where a is left out and neg holds (R173). -/
def bitOp (neg : Bool) (f : Nat → Nat → Nat) (xs : List (Option Nat)) : Option Fl :=
  match xs with
  | [some a, some b] => some (.pure (f a b))
  | [some a, none] => some (.pure a)
  | [none, some b] => some (.pure (if neg then 2 ^ 32 - 1 - b else b))
  | _ => none

/-- The operand that a comparison of values chooses; with one absent, the other (R173). -/
def pick2 (f : Nat) (less : Int → Int → Bool) (xs : List (Option Nat)) : Option Fl :=
  match xs with
  | [some a, some b] => some (.pure (if less (intOf f b) (intOf f a) then b else a))
  | [some a, none] => some (.pure a)
  | [none, some b] => some (.pure b)
  | _ => none

/-! ## Integer operations (R173) -/

def execIadd (g : SlotCfg) (s : State) : Out :=
  s.laneOp 0x00 g 2 fun xs => intOrRt g xs sumOf fun
    | [a, b] => rtCombine rtAdd a b
    | _ => none

def execIsub (g : SlotCfg) (s : State) : Out :=
  s.laneOp 0x01 g 2 fun xs => intOrRt g xs
    (fun
      | [a, b] => a.getD 0 - b.getD 0
      | _ => 0)
    fun
      | [a, none] => a
      | [a, some b] => some (rtSub (a.getD rtZero) b)
      | _ => none

def execIadds (g : SlotCfg) (s : State) : Out :=
  s.laneOp 0x02 g 2 fun xs => some (clampTo g.fmt.toNat (sumOf (vals g.fmt.toNat xs)))

def execImul (g : SlotCfg) (s : State) : Out :=
  s.laneOp 0x03 g 2 fun xs => intOrRt g xs (fun vs => (prodOf vs).getD 0) fun
    | [a, b] => rtCombine rtMul a b
    | _ => none

def execImulh (g : SlotCfg) (s : State) : Out :=
  s.laneOp 0x04 g 2 fun xs => some (.pure (wrap32 ((prodOf (vals g.fmt.toNat xs)).getD 0 / 2 ^ 32)))

def execImad (g : SlotCfg) (s : State) : Out :=
  s.laneOp 0x05 g 3 fun xs => intOrRt g xs
    (fun
      | [a, b, c] => sumOf [prodOf [a, b], c]
      | _ => 0)
    fun
      | [a, b, c] => rtCombine rtAdd (rtCombine rtMul a b) c
      | _ => none

def execIneg (g : SlotCfg) (s : State) : Out :=
  s.laneOp 0x06 g 1 fun xs => intOrRt g xs (fun vs => -(sumOf vs)) fun
    | [some a] => some (rtSub rtZero a)
    | _ => none

def execIabs (g : SlotCfg) (s : State) : Out := s.laneOp 0x07 g 1 (arg1 fun a => .pure (intOf 8 a).natAbs)

def execImin (g : SlotCfg) (s : State) : Out := s.laneOp 0x08 g 2 (pick2 g.fmt.toNat fun b a => b < a)

def execImax (g : SlotCfg) (s : State) : Out := s.laneOp 0x09 g 2 (pick2 g.fmt.toNat fun b a => a < b)

def execIshl (g : SlotCfg) (s : State) : Out :=
  s.laneOp 0x0A g 2 (both fun a b => .pure (a * 2 ^ (b % 32) % 2 ^ 32))

def execIshr (g : SlotCfg) (s : State) : Out :=
  s.laneOp 0x0B g 2 (both fun a b => .pure (wrap32 (intOf g.fmt.toNat a / 2 ^ (b % 32))))

def execIrol (g : SlotCfg) (s : State) : Out :=
  s.laneOp 0x0C g 2 (both fun a b => .pure (a * 2 ^ (b % 32) % 2 ^ 32 + a / 2 ^ (32 - b % 32)))

def execCellAnd (g : SlotCfg) (s : State) : Out := s.laneOp 0x0D g 2 (bitOp false Nat.land)

def execCellOr (g : SlotCfg) (s : State) : Out := s.laneOp 0x0E g 2 (bitOp false Nat.lor)

def execCellXor (g : SlotCfg) (s : State) : Out := s.laneOp 0x0F g 2 (bitOp false Nat.xor)

def execCellAndn (g : SlotCfg) (s : State) : Out :=
  s.laneOp 0x10 g 2 (bitOp true fun a b => a.land (2 ^ 32 - 1 - b))

/-- Number of 1 bits among the low n. -/
def ones : Nat → Nat → Nat
  | 0, _ => 0
  | n + 1, x => x % 2 + ones n (x / 2)

/-- Trailing zeros of an n-bit value; n for 0. -/
def trailing : Nat → Nat → Nat
  | 0, _ => 0
  | n + 1, x => if x % 2 = 1 then 0 else trailing n (x / 2) + 1

/-- The low n bits reversed. -/
def reverse : Nat → Nat → Nat
  | 0, _ => 0
  | n + 1, x => x % 2 * 2 ^ n + reverse n (x / 2)

def execCellPopc (g : SlotCfg) (s : State) : Out := s.laneOp 0x11 g 1 (arg1 fun a => .pure (ones 32 a))

def execCellClz (g : SlotCfg) (s : State) : Out := s.laneOp 0x12 g 1 (arg1 fun a => .pure (trailing 32 (reverse 32 a)))

def execCellCtz (g : SlotCfg) (s : State) : Out := s.laneOp 0x13 g 1 (arg1 fun a => .pure (trailing 32 a))

def execBrev (g : SlotCfg) (s : State) : Out := s.laneOp 0x14 g 1 (arg1 fun a => .pure (reverse 32 a))

/-! ## Bit fields and comparison (R174) -/

/-- Position and length of a control operand. -/
def fieldPos (ctl : Nat) : Nat := ctl % 32

def fieldLen (ctl : Nat) : Nat := min (ctl / 32 % 32 + 1) (32 - ctl % 32)

def bfx (f a ctl : Nat) : Nat :=
  let len := fieldLen ctl
  let x := a / 2 ^ fieldPos ctl % 2 ^ len
  if f = 8 then wrap32 (sextNat len x) else x

def bfi (a b ctl : Nat) : Nat :=
  let p := fieldPos ctl
  let w := 2 ^ fieldLen ctl
  a % 2 ^ p + b % w * 2 ^ p + a / 2 ^ p / w * w * 2 ^ p

def execBfx (g : SlotCfg) (s : State) : Out :=
  s.laneOp 0x15 g 2 (both fun a ctl => .pure (bfx g.fmt.toNat a ctl))

def execBfi (g : SlotCfg) (s : State) : Out :=
  s.laneOp 0x16 g 3 fun
    | [some a, some b, some ctl] => some (.pure (bfi a b ctl))
    | _ => none

/-- The conditions of ICMP by SUB. -/
def intCond (sub : Nat) (a b : Int) : Bool :=
  match sub with
  | 0 => a = b
  | 1 => a ≠ b
  | 2 => a < b
  | 3 => a ≤ b
  | 4 => b < a
  | _ => b ≤ a

/-- A lane of ones or zeros. -/
def maskLane (b : Bool) : Nat := if b then 0xFFFFFFFF else 0

def execIcmp (g : SlotCfg) (s : State) : Out :=
  s.laneOp 0x17 g 2 (both fun a b =>
    .pure (maskLane (intCond g.sub.toNat (intOf g.fmt.toNat a) (intOf g.fmt.toNat b))))

/-! ## Packed integer operations (R175) -/

/-- Element n of width w of a lane. -/
def sub1 (w x n : Nat) : Nat := x / 2 ^ (w * n) % 2 ^ w

/-- A lane made element by element, with the flags of every element. -/
def packed (w : Nat) (f : Nat → Fl) : Fl :=
  (List.range (32 / max 1 w)).foldl (fun r n => ⟨r.bits + (f n).bits % 2 ^ w * 2 ^ (w * n), r.flags ||| (f n).flags⟩) ⟨0, 0⟩

/-- A result wrapped, or clamped under SAT (R175). -/
def wrapOrClamp (sat : Bool) (f : Nat) (n : Int) : Fl := if sat then clampTo f n else .pure (intBits f n)

/-- An element-wise operation on values. -/
def packedOp (f : Nat) (xs : List (Option Nat)) (h : List (Option Int) → Fl) : Option Fl :=
  let w := fmtWidth f
  some (packed w fun n => h (xs.map fun x => x.map fun x => intOf f (sub1 w x n)))

def execPadd (g : SlotCfg) (s : State) : Out :=
  let f := g.fmt.toNat
  s.laneOp 0x20 g 2 fun xs => packedOp f xs fun vs => wrapOrClamp g.sat f (sumOf vs)

def execPsub (g : SlotCfg) (s : State) : Out :=
  let f := g.fmt.toNat
  s.laneOp 0x21 g 2 fun xs => packedOp f xs fun
    | [a, b] => wrapOrClamp g.sat f (a.getD 0 - b.getD 0)
    | _ => .pure 0

def execPmin (g : SlotCfg) (s : State) : Out :=
  let f := g.fmt.toNat
  s.laneOp 0x22 g 2 fun xs => packedOp f xs fun
    | [some a, some b] => .pure (intBits f (min a b))
    | vs => .pure (intBits f (sumOf vs))

def execPmax (g : SlotCfg) (s : State) : Out :=
  let f := g.fmt.toNat
  s.laneOp 0x23 g 2 fun xs => packedOp f xs fun
    | [some a, some b] => .pure (intBits f (max a b))
    | vs => .pure (intBits f (sumOf vs))

def execPmulH (g : SlotCfg) (s : State) : Out :=
  let f := g.fmt.toNat
  s.laneOp 0x24 g 2 (both fun a b => packed 16 fun n =>
    .pure (wrap32 (intOf f (sub1 16 a n) * intOf f (sub1 16 b n)) / (if g.sub = 1 then 2 ^ 16 else 1)))

/-- The sum of the products of the elements, with c as S32 or N32 (R175). -/
def packedDot (g : SlotCfg) (xs : List (Option Nat)) : Option Fl :=
  let f := g.fmt.toNat
  let w := fmtWidth f
  let cf := if f = 6 || f = 11 then 8 else 9
  match xs with
  | [some a, some b, c] =>
    let p := ((List.range (32 / max 1 w)).map fun n => intOf f (sub1 w a n) * intOf f (sub1 w b n)).foldl (· + ·) 0
    some (wrapOrClamp g.sat cf (p + (c.map (intOf cf)).getD 0))
  | _ => none

def execPdot4 (g : SlotCfg) (s : State) : Out := s.laneOp 0x25 g 3 (packedDot g)

def execPdot2 (g : SlotCfg) (s : State) : Out := s.laneOp 0x26 g 3 (packedDot g)

end Sys2Proof.Machine
end

