-- ==== Sys2Proof/Machine/Special.lean ====
section
/-!
DEFINITION. The special functions (R138): each is computed in fixed point to 512 bits below the point and rounded once.
The result is a value between two neighbours of that grid, marked inexact by a last bit; the exact cases are told apart
first (log 9).
-/
namespace Sys2Proof.Machine
namespace Special

/-- Bits below the point. -/
def prec : Nat := 512

def one : Nat := 2 ^ prec

/-- floor(√x), bit by bit from bit n − 1. -/
def isqrt (x : Nat) : Nat → Nat → Nat
  | 0, r => r
  | n + 1, r => if (r + 2 ^ n) * (r + 2 ^ n) ≤ x then isqrt x n (r + 2 ^ n) else isqrt x n r

/-- The sum of z^(2k+1)/(2k+1), k from k0, alternating when alt is set: atan and its hyperbolic form; p is z^(2k+1). -/
def atanSum (alt : Bool) (zz : Nat) : Nat → Nat → Nat → Int
  | 0, _, _ => 0
  | n + 1, k, p =>
    let t : Int := ((p / (2 * k + 1) : Nat) : Int)
    (if alt && k % 2 = 1 then -t else t) + atanSum alt zz n (k + 1) (p * zz / one)

/-- atanh(z) of a fixed-point z below 1/3 + a bit. -/
def atanh (z : Nat) : Nat := (atanSum false (z * z / one) 180 0 z).toNat

def atan (z : Nat) : Nat := (atanSum true (z * z / one) 130 0 z).toNat

/-- ln 2 = 2 atanh(1/3). -/
def ln2 : Nat := 2 * atanh (one / 3)

/-- π = 16 atan(1/5) − 4 atan(1/239). -/
def pi : Nat := 16 * atan (one / 5) - 4 * atan (one / 239)

/-- The sum of z^k/k! for k from k0; p is the term of k0. -/
def expSum (z : Nat) : Nat → Nat → Nat → Nat
  | 0, _, _ => 0
  | n + 1, k, p => p + expSum z n (k + 1) (p * z / one / (k + 1))

/-- e^z of a fixed-point z in [0, 1). -/
def exp (z : Nat) : Nat := expSum z 110 0 one

/-- The alternating sum of z^(2k+i)/(2k+i)!; p is the term of k. -/
def circSum (zz : Nat) : Nat → Nat → Nat → Int
  | 0, _, _ => 0
  | n + 1, i, p => (p : Int) - circSum zz n (i + 2) (p * zz / one / ((i + 1) * (i + 2)))

/-- sin(z) and cos(z) of a fixed-point z in [0, π/2). -/
def sin (z : Nat) : Nat := (circSum (z * z / one) 70 1 z).toNat

def cos (z : Nat) : Nat := (circSum (z * z / one) 70 0 one).toNat

/-- m · 2^e as fixed point, rounded down. -/
def fix (m : Nat) (e : Int) : Nat :=
  if 0 ≤ e + prec then m * 2 ^ (e + prec).toNat else m / 2 ^ (-(e + prec)).toNat

/-- The value strictly between v and v + 1 of the fixed-point grid, scaled by 2^k. -/
def between (neg : Bool) (v : Nat) (k : Int := 0) : XVal := .fin neg (2 * v + 1) (k - prec - 1)

/-- A value just below 1. -/
def belowOne (neg : Bool) : XVal := .fin neg (2 ^ 64 - 1) (-64)

/-- A value far below every subnormal. -/
def tiny (neg : Bool) : XVal := .fin neg 1 (-2000)

/-- The odd part of m and the shift, for m below 2^64. -/
def oddPart : Nat → Nat → Int → Nat × Int
  | 0, m, e => (m, e)
  | n + 1, m, e => if m ≠ 0 ∧ m % 2 = 0 then oddPart n (m / 2) (e + 1) else (m, e)

def recip (s : Bool) (m : Nat) (e : Int) : XVal :=
  let (m, e) := oddPart 64 m e
  if m = 1 then .fin s 1 (-e) else between s (one / m) (-e)

def sqrt (m : Nat) (e : Int) : XVal :=
  let (m, e) := if e % 2 = 0 then (m, e) else (2 * m, e - 1)
  let r := isqrt (m * one * one) 560 0
  if r * r = m * one * one then .fin false r (e / 2 - prec) else between false r (e / 2)

def rsqrt (m : Nat) (e : Int) : XVal :=
  let (m, e) := oddPart 64 m e
  let (m, e) := if e % 2 = 0 then (m, e) else (2 * m, e - 1)
  if m = 1 then .fin false 1 (-(e / 2))
  else between false (isqrt (one * one / m) 560 0) (-(e / 2))

/-- Integer part (toward −∞) and fixed-point fraction of a value. -/
def split (s : Bool) (m : Nat) (e : Int) : Int × Nat :=
  let v : Int := fix m e
  let x := if s then -v else v
  (x / (one : Int), (x % (one : Int)).toNat)

def exp2 (s : Bool) (m : Nat) (e : Int) : XVal :=
  if expOf m e ≥ 12 then (if s then tiny false else .fin false 1 2000)
  else
    let (n, f) := split s m e
    if f = 0 then .fin false 1 n else between false (exp (f * ln2 / one)) n

/-- log2 of a positive value other than a power of two. -/
def log2 (m : Nat) (e : Int) : XVal :=
  let (m, e) := oddPart 64 m e
  if m = 1 then .ofInt e
  else
    let l := Nat.log2 m
    let y := fix m (-(l : Int))
    let z := (y - one) * one / (y + one)
    let fr := 2 * atanh z * one / ln2
    let x : Int := (e + l) * (one : Int) + fr
    if x < 0 then .fin true (2 * (-x).toNat - 1) (-(prec : Int) - 1) else between false x.toNat

/-- e^(−y) of a fixed-point y, below 2^10. -/
def expNeg (y : Nat) : Nat :=
  let n := y / ln2
  one * one / exp (y - n * ln2) / 2 ^ n

def tanh (s : Bool) (m : Nat) (e : Int) : XVal :=
  if expOf m e ≥ 7 then belowOne s
  else
    let q := expNeg (2 * fix m e)
    between s ((one - q) * one / (one + q))

/-- 1/(1 + e^(−x)). -/
def sigmoid (s : Bool) (m : Nat) (e : Int) : XVal :=
  if expOf m e ≥ 8 then (if s then tiny false else belowOne false)
  else
    let q := expNeg (fix m e)
    if s then between false (q * one / (one + q)) else between false (one * one / (one + q))

/-- sin(π·t) for a fixed-point t in [0, 2), with the sign; exact values at multiples of 1/2. -/
def sinpiFix (t : Nat) (zero : XVal) : XVal :=
  let q := 2 * t / one
  let r := t - q * (one / 2)
  let neg := q ≥ 2
  if r = 0 then (if q % 2 = 0 then zero else .fin neg 1 0)
  else
    let z := pi * r / one
    between neg (if q % 2 = 0 then sin z else cos z)

def sinpi (s : Bool) (m : Nat) (e : Int) : XVal :=
  let t := (split s m e).1 % 2
  let f := (split s m e).2
  sinpiFix (t.toNat * one + f) (.zero s)

/-- cos(πx) = sin(π(x + 1/2)). -/
def cospi (s : Bool) (m : Nat) (e : Int) : XVal :=
  let t := (split s m e).1 % 2
  let f := (split s m e).2
  sinpiFix ((t.toNat * one + f + one / 2) % (2 * one)) (.zero false)

/-- f(x) of the operation with code 0x40 to 0x48, with DZ and NV of the special cases (R138). -/
def value (op : Nat) (x : XVal) : XVal × Flags :=
  match op, x with
  | _, .nan sg => (.nan sg, 0)
  | 0x40, .inf s => (.zero s, 0)
  | 0x40, .fin s m e => if m = 0 then (.inf s, flagDZ) else (recip s m e, 0)
  | 0x41, .inf s => if s then (.nan false, flagNV) else (.zero false, 0)
  | 0x41, .fin s m e =>
    if m = 0 then (.inf s, flagDZ) else if s then (.nan false, flagNV) else (rsqrt m e, 0)
  | 0x42, .inf s => if s then (.nan false, flagNV) else (.inf false, 0)
  | 0x42, .fin s m e =>
    if m = 0 then (.zero s, 0) else if s then (.nan false, flagNV) else (sqrt m e, 0)
  | 0x43, .inf s => (if s then .zero false else .inf false, 0)
  | 0x43, .fin s m e => if m = 0 then (.fin false 1 0, 0) else (exp2 s m e, 0)
  | 0x44, .inf s => if s then (.nan false, flagNV) else (.inf false, 0)
  | 0x44, .fin s m e =>
    if m = 0 then (.inf true, flagDZ) else if s then (.nan false, flagNV) else (log2 m e, 0)
  | 0x45, .inf s => (.fin s 1 0, 0)
  | 0x45, .fin s m e => if m = 0 then (.zero s, 0) else (tanh s m e, 0)
  | 0x46, .inf s => (if s then .zero false else .fin false 1 0, 0)
  | 0x46, .fin s m e => if m = 0 then (.fin false 1 (-1), 0) else (sigmoid s m e, 0)
  | 0x47, .inf _ => (.nan false, flagNV)
  | 0x47, .fin s m e => if m = 0 then (.zero s, 0) else (sinpi s m e, 0)
  | _, .inf _ => (.nan false, flagNV)
  | _, .fin s m e => if m = 0 then (.fin false 1 0, 0) else (cospi s m e, 0)

end Special
end Sys2Proof.Machine
end

