-- ==== Sys2Proof/Machine/CellFloat.lean ====
section
/-!
DEFINITION. FP32 cell operations (R176 to R179), special functions (R138, R180) and packed float operations (R181).
-/
namespace Sys2Proof.Machine

/-! ## Exact expressions (R176) -/

/-- The exact sum of terms: NV and NaN for opposite infinities; a zero sum as R130 gives. -/
def xsum (rdn : Bool) (ts : List XVal) : XVal × Flags :=
  if ts.any XVal.isNan then (.nan false, 0)
  else if ts.any (fun t => t = .inf false) && ts.any (fun t => t = .inf true) then (.nan false, flagNV)
  else
    match ts.find? XVal.isInf with
    | some i => (i, 0)
    | none =>
      let e := ts.foldl (fun m t => if t.exp < m then t.exp else m) 0
      let n := (ts.map fun t => scaled t e).foldl (· + ·) 0
      if n ≠ 0 then (.fin (n < 0) n.natAbs e, 0)
      else if ts.all XVal.isZero then
        let neg := ts.all XVal.sign
        if neg || !ts.any XVal.sign then (.zero neg, 0) else (.zero (Config.mixedZeroNeg rdn), 0)
      else (.zero rdn, 0)

/-- The product of the present factors, none when all are absent (R172, R176). -/
def xprod : List (Option XVal) → Option (XVal × Flags)
  | [] => none
  | none :: r => xprod r
  | some x :: r =>
    match xprod r with
    | none => some (x, 0)
    | some (y, f) =>
      let (z, h) := xmul x y
      some (z, f ||| h)

/-- A term of an expression: its sign and its factors by operand number. -/
abbrev Term := Bool × List Nat

/-- The expression of an operation rounded once (R176): absent factors left out, a term without factors left out. -/
def fexpr (f mode : Nat) (ftz sat : Bool) (terms : List (Bool × List (Option XVal))) : Option Fl :=
  let present := (terms.map fun t => t.2.filterMap id).flatten
  if present.any XVal.isNan then some ⟨canonicalNan f, snanFlags present⟩
  else
    let ps := terms.filterMap fun (neg, fs) => (xprod fs).map fun (v, h) => (if neg then v.neg else v, h)
    let fl := ps.foldl (fun f p => f ||| p.2) (0 : Flags)
    match ps with
    | [] => none
    | [(v, h)] => some ((roundTo f v (.mode mode) ftz sat).with h)
    | _ =>
      if fl ≠ 0 then some ⟨canonicalNan f, fl⟩
      else
        let (v, h) := xsum (mode = 3) (ps.map (·.1))
        some ((roundTo f v (.mode mode) ftz sat).with h)

/-- An FP32 operation by its terms over operand numbers. -/
def fp32Op (g : SlotCfg) (terms : List Term) (xs : List (Option Nat)) : Option Fl :=
  let vs := xs.map fun x => x.map fun x => decodeFloat 0 x g.ftz
  fexpr 0 g.rnd.toNat g.ftz g.sat (terms.map fun (neg, is) => (neg, is.map fun i => nth vs i none))

def execFadd (g : SlotCfg) (s : State) : Out := s.laneOp 0x30 g 2 (fp32Op g [(false, [0]), (false, [1])])

def execFsub (g : SlotCfg) (s : State) : Out := s.laneOp 0x31 g 2 (fp32Op g [(false, [0]), (true, [1])])

def execFmul (g : SlotCfg) (s : State) : Out := s.laneOp 0x32 g 2 (fp32Op g [(false, [0, 1])])

def execFfma (g : SlotCfg) (s : State) : Out := s.laneOp 0x33 g 3 (fp32Op g [(false, [0, 1]), (false, [2])])

def execFfms (g : SlotCfg) (s : State) : Out := s.laneOp 0x34 g 3 (fp32Op g [(false, [0, 1]), (true, [2])])

def execFnma (g : SlotCfg) (s : State) : Out := s.laneOp 0x35 g 3 (fp32Op g [(true, [0, 1]), (false, [2])])

def execFtriad (g : SlotCfg) (s : State) : Out := s.laneOp 0x36 g 4 (fp32Op g [(false, [0, 1, 2]), (false, [3])])

/-! ## Minimum and maximum (R137, R177) -/

/-- The encoding of a value that is already one of the format. -/
def encodeExact (f : Nat) (v : XVal) : Nat := (roundTo f v (.mode 0) false false).bits

/-- FMIN, FMAX, and with prop FMINP, FMAXP, of two FP32 values. -/
def fminmax (mx prop : Bool) (a b : XVal) : Fl :=
  let nv := snanFlags [a, b]
  let v : XVal :=
    if a.isNan && b.isNan then .nan false
    else if a.isNan then (if prop then .nan false else b)
    else if b.isNan then (if prop then .nan false else a)
    else if xlt true a b = mx then b else a
  ⟨encodeExact 0 v, nv⟩

/-- One operand left alone: decoded, canonical NaN, and its flag (R172). -/
def falone (a : XVal) : Fl := ⟨encodeExact 0 (if a.isNan then .nan false else a), snanFlags [a]⟩

def fminmaxOp (g : SlotCfg) (mx prop : Bool) (xs : List (Option Nat)) : Option Fl :=
  match xs.map fun x => x.map fun x => decodeFloat 0 x g.ftz with
  | [some a, some b] => some (fminmax mx prop a b)
  | [some a, none] => some (falone a)
  | [none, some b] => some (falone b)
  | _ => none

def execFmin (g : SlotCfg) (s : State) : Out := s.laneOp 0x37 g 2 (fminmaxOp g false false)

def execFmax (g : SlotCfg) (s : State) : Out := s.laneOp 0x38 g 2 (fminmaxOp g true false)

def execFminp (g : SlotCfg) (s : State) : Out := s.laneOp 0x39 g 2 (fminmaxOp g false true)

def execFmaxp (g : SlotCfg) (s : State) : Out := s.laneOp 0x3A g 2 (fminmaxOp g true true)

/-! ## Signs, comparison, class (R177 to R179) -/

/-- A NaN gives the canonical NaN, NV when signalling; any other value the given one. -/
def signOp (a : XVal) (f : XVal → XVal) : Fl := ⟨encodeExact 0 (if a.isNan then .nan false else f a), snanFlags [a]⟩

def execFabs (g : SlotCfg) (s : State) : Out :=
  s.laneOp 0x3B g 1 (arg1 fun a => signOp (decodeFloat 0 a g.ftz) XVal.abs)

def execFneg (g : SlotCfg) (s : State) : Out :=
  s.laneOp 0x3C g 1 (arg1 fun a => signOp (decodeFloat 0 a g.ftz) XVal.neg)

def execFsgn (g : SlotCfg) (s : State) : Out :=
  s.laneOp 0x3D g 2 (both fun a b =>
    signOp (decodeFloat 0 a g.ftz) fun v => if b ≥ 2 ^ 31 then v.abs.neg else v.abs)

/-- FCMP conditions by SUB, with NV (R178). -/
def fcmp (sub : Nat) (a b : XVal) : Fl :=
  let nan := a.isNan || b.isNan
  let quietOk := sub ≤ 1 || sub = 6 || sub = 7
  let nv := if quietOk then snanFlags [a, b] else flagIf nan flagNV
  let r : Bool :=
    match sub with
    | 0 => xeq a b
    | 1 => !xeq a b
    | 2 => xlt false a b
    | 3 => !nan && !xlt false b a
    | 4 => xlt false b a
    | 5 => !nan && !xlt false a b
    | 6 => nan
    | _ => !nan
  ⟨maskLane r, nv⟩

def execFcmp (g : SlotCfg) (s : State) : Out :=
  s.laneOp 0x3E g 2 (both fun a b => fcmp g.sub.toNat (decodeFloat 0 a g.ftz) (decodeFloat 0 b g.ftz))

/-- The class bit of an FP32 encoding (R179). -/
def fclass (x : Nat) : Nat :=
  let neg := x % 2 ^ 32 ≥ 2 ^ 31
  let e := x / 2 ^ 23 % 256
  let m := x % 2 ^ 23
  if e = 255 then
    if m = 0 then (if neg then 1 else 2 ^ 7) else if m < 2 ^ 22 then 2 ^ 8 else 2 ^ 9
  else if e ≠ 0 then (if neg then 2 else 2 ^ 6)
  else if m ≠ 0 then (if neg then 4 else 2 ^ 5)
  else if neg then 8 else 16

def execFclass (g : SlotCfg) (s : State) : Out := s.laneOp 0x3F g 1 (arg1 fun a => .pure (fclass a))

/-! ## Special functions (R138, R180) -/

/-- A special function of a lane; the infinite results of the special cases stand, SAT or not (R138, log 14). -/
def specialOp (g : SlotCfg) (op : Nat) : List (Option Nat) → Option Fl :=
  arg1 fun a =>
    let (v, f) := Special.value op (decodeFloat 0 a g.ftz)
    let sat := match v with | .inf _ => false | _ => g.sat
    (roundTo 0 v (.mode 0) g.ftz sat).with f

def execFrcp (g : SlotCfg) (s : State) : Out := s.laneOp 0x40 g 1 (specialOp g 0x40)

def execFrsq (g : SlotCfg) (s : State) : Out := s.laneOp 0x41 g 1 (specialOp g 0x41)

def execFsqrt (g : SlotCfg) (s : State) : Out := s.laneOp 0x42 g 1 (specialOp g 0x42)

def execFexp2 (g : SlotCfg) (s : State) : Out := s.laneOp 0x43 g 1 (specialOp g 0x43)

def execFlog2 (g : SlotCfg) (s : State) : Out := s.laneOp 0x44 g 1 (specialOp g 0x44)

def execFtanh (g : SlotCfg) (s : State) : Out := s.laneOp 0x45 g 1 (specialOp g 0x45)

def execFsigm (g : SlotCfg) (s : State) : Out := s.laneOp 0x46 g 1 (specialOp g 0x46)

def execFsinpi (g : SlotCfg) (s : State) : Out := s.laneOp 0x47 g 1 (specialOp g 0x47)

def execFcospi (g : SlotCfg) (s : State) : Out := s.laneOp 0x48 g 1 (specialOp g 0x48)

/-! ## Packed float operations (R181) -/

/-- Two 16-bit elements, each a·b + c rounded once; none when an element has no term, which no valid lane has. -/
def fma2 (g : SlotCfg) (f : Nat) (xs : List (Option Nat)) : Option Fl :=
  let one (h : Nat) : Fl :=
    let vs := xs.map fun x => x.map fun x => decodeFloat f (sub1 16 x h) g.ftz
    (fexpr f g.rnd.toNat g.ftz g.sat [(false, [nth vs 0 none, nth vs 1 none]), (false, [nth vs 2 none])]).getD
      (.pure 0)
  some (packed 16 one)

def execBfma2 (g : SlotCfg) (s : State) : Out := s.laneOp 0x49 g 3 (fma2 g 1)

def execHfma2 (g : SlotCfg) (s : State) : Out := s.laneOp 0x4A g 3 (fma2 g 2)

def execFdot2b (g : SlotCfg) (s : State) : Out :=
  s.laneOp 0x4B g 3 fun
    | [some a, some b, c] =>
      let el (x h : Nat) : Option XVal := some (decodeFloat 1 (sub1 16 x h) g.ftz)
      fexpr 0 g.rnd.toNat g.ftz g.sat
        [(false, [el a 0, el b 0]), (false, [el a 1, el b 1]), (false, [c.map fun c => decodeFloat 0 c g.ftz])]
    | _ => none

end Sys2Proof.Machine
end

