-- ==== Sys2Proof/Machine/CellConv.lean ====
section
/-!
DEFINITION. Conversions (R182, R183), PACK and UNPACK (R184), RTENC and RTDEC (R185).
-/
namespace Sys2Proof.Machine

/-! ## Conversions (R183) -/

/-- Element j of a result lane: its bits in the source, none when its operand is absent. -/
def convSource (ws wt j : Nat) (xs : List (Option Nat)) : Option Nat :=
  let es := 32 / max 1 ws
  if wt ≤ ws then (nth xs (j / es) none).map fun x => sub1 ws x (j % es)
  else (nth xs 0 none).map fun x => sub1 ws x j

/-- A lane converted under a rounding mode (R183). -/
def convLane (g : SlotCfg) (xs : List (Option Nat)) : Option Fl :=
  let sub := g.sub.toNat
  let f := g.fmt.toNat
  some (packed (fmtWidth f) fun j =>
    match convSource (fmtWidth sub) (fmtWidth f) j xs with
    | none => .pure 0
    | some x => roundTo f (decodeVal sub x g.ftz) (.mode g.rnd.toNat) g.ftz g.sat)

/-- Operands of a conversion (R182). -/
def convOps (g : SlotCfg) : Nat := max 1 (fmtWidth g.sub.toNat / max 1 (fmtWidth g.fmt.toNat))

def execCvt (g : SlotCfg) (s : State) : Out := s.laneOp 0x50 g (convOps g) (convLane g)

def execCvti (g : SlotCfg) (s : State) : Out := s.laneOp 0x52 g (convOps g) (convLane g)

def execCvtf (g : SlotCfg) (s : State) : Out := s.laneOp 0x53 g (convOps g) (convLane g)

/-- Elements of a lane converted stochastically in element order, one draw for each of a present operand (R134, R135). -/
def srElems (g : SlotCfg) (xs : List (Option Nat)) : List Nat → Fl × Lane → Fl × Lane
  | [], r => r
  | j :: js, (r, gen) =>
    let sub := g.sub.toNat
    let f := g.fmt.toNat
    let w := fmtWidth f
    match convSource (fmtWidth sub) w j xs with
    | none => srElems g xs js (r, gen)
    | some x =>
      let gen := srDraw gen
      let v := decodeFloat sub x g.ftz
      let e := roundTo f v (.sr gen.toNat (ulpExp sub v)) g.ftz g.sat
      srElems g xs js (⟨r.bits + e.bits % 2 ^ w * 2 ^ (w * j), r.flags ||| e.flags⟩, gen)

/-- CVTSR: an invalid lane draws nothing (R134, R183). -/
def execCvtsr (g : SlotCfg) (s : State) : Out :=
  s.fire 0x51 g fun x toks base =>
    let rs : List (Option (Fl × Lane)) := (List.range 16).map fun l =>
      (laneArgs g (convOps g) toks l).map fun xs =>
        srElems g xs (List.range (32 / max 1 (fmtWidth g.fmt.toNat))) (⟨0, 0⟩, nth x.gen l 0)
    let fs : List (Option Fl) := rs.map fun r => r.map (·.1)
    { sends := [(g.dst.toNat, Token.ofLanes base.kind base.seq (fs.map fun r => r.map (·.bits)))]
      st := x.st
      gen := rs.zipIdx.map fun (r, l) => (r.map (·.2)).getD (nth x.gen l 0)
      flags := allFlags fs
      nv := nvLane fs }

/-! ## PACK, UNPACK (R184) -/

/-- A move of whole tokens: the result's lanes from the operand tokens, with no flag. -/
def State.moveOp (s : State) (op : BitVec 8) (g : SlotCfg)
    (f : (Nat → Option Token) → List (Option Nat)) : Out :=
  s.fire op g fun x toks base =>
    let tok (i : Nat) : Option Token := (toks.find? fun t => t.1 = g.src i).map (·.2)
    { sends := [(g.dst.toNat, Token.ofLanes base.kind base.seq (f tok))], st := x.st, gen := x.gen }

/-- A lane of an operand, CST for a constant one, none when it is not valid. -/
def opLane (g : SlotCfg) (tok : Nat → Option Token) (i l : Nat) : Option Nat :=
  if g.src i = 4 then some g.cst.toNat
  else (tok i).bind fun t => if t.isValid l then some (t.lane l) else none

def execPack (g : SlotCfg) (s : State) : Out :=
  let w := fmtWidth g.fmt.toNat
  let n := 32 / max 1 w
  s.moveOp 0x54 g fun tok =>
    (List.range 16).map fun l =>
      let ps := (List.range n).map fun m => opLane g tok ((n * l + m) / 16) ((n * l + m) % 16)
      if ps.any Option.isSome then
        some ((ps.zipIdx.map fun (p, m) => p.getD 0 % 2 ^ w * 2 ^ (w * m)).foldl (· + ·) 0)
      else none

def execUnpack (g : SlotCfg) (s : State) : Out :=
  let w := fmtWidth g.fmt.toNat
  let n := 32 / max 1 w
  s.moveOp 0x55 g fun tok =>
    (List.range 16).map fun l =>
      let e := 16 * g.sub.toNat + l
      (opLane g tok 0 (e / n)).map fun x => sub1 w x (e % n)

/-! ## RTENC, RTDEC (R185) -/

def execRtenc (g : SlotCfg) (s : State) : Out := s.laneOp 0x56 g 1 (arg1 fun a => .pure (rtEnc (sextNat 32 a)))

def execRtdec (g : SlotCfg) (s : State) : Out :=
  s.laneOp 0x57 g 1 (arg1 fun a =>
    let (r, f) := rtRead a
    ⟨wrap32 (rtDec r), f⟩)

end Sys2Proof.Machine
end

