-- ==== Sys2Proof/Machine/CellLane.lean ====
section
/-!
DEFINITION. Lane operations (R190 to R196).
-/
namespace Sys2Proof.Machine

/-- Lane l of operand i by its policy (R191): CST for a constant or a replaced lane. -/
def resLane (g : SlotCfg) (tok : Nat → Option Token) (i l : Nat) : Option Nat :=
  match opLane g tok i l with
  | some x => some x
  | none => if g.emp i = 2 then some g.cst.toNat else none

/-- A lane of operand i that its policy forwards (R193). -/
def fwdLane (g : SlotCfg) (tok : Nat → Option Token) (i l : Nat) : Bool :=
  g.src i < 4 && g.emp i = 1 && (opLane g tok i l).isNone

/-- The resolved lanes of operand i. -/
def lanesOf (g : SlotCfg) (tok : Nat → Option Token) (i : Nat) : List (Option Nat) :=
  (List.range 16).map (resLane g tok i)

/-! ## Moves (R192) -/

def execLperm (g : SlotCfg) (s : State) : Out :=
  s.moveOp 0x60 g fun tok =>
    let two := g.sub = 1
    let a := lanesOf g tok 0
    let b := lanesOf g tok 1
    (lanesOf g tok (if two then 2 else 1)).map fun x =>
      x.bind fun x => if two && x / 16 % 2 = 1 then nth b (x % 16) none else nth a (x % 16) none

def execLrot (g : SlotCfg) (s : State) : Out :=
  s.moveOp 0x61 g fun tok =>
    let a := lanesOf g tok 0
    (List.range 16).map fun l => nth a ((l + g.cst.toNat) % 16) none

def execLbcast (g : SlotCfg) (s : State) : Out :=
  s.moveOp 0x62 g fun tok => List.replicate 16 (nth (lanesOf g tok 0) (g.cst.toNat % 16) none)

/-- LIDX.REC counts the valued tokens since the last LAST, end or boundary token. -/
def execLidx (g : SlotCfg) (s : State) : Out :=
  s.fire 0x67 g fun x toks base =>
    let tok (i : Nat) : Option Token := (toks.find? fun t => t.1 = g.src i).map (·.2)
    let n := if g.sub = 1 then 16 * x.st.n else 0
    let ls := (lanesOf g tok 0).zipIdx.map fun (a, l) => a.map fun _ => (g.cst.toNat + n + l) % 2 ^ 32
    { sends := [(g.dst.toNat, Token.ofLanes base.kind base.seq ls)]
      st := if g.sub = 1 then { x.st with n := if base.isLast then 0 else (x.st.n + 1) % 2 ^ 16 } else x.st
      gen := x.gen }

/-! ## Folds (R193) -/

/-- The combine functions of LSCAN, LRED by SUB and FMT. -/
def laneCombine (g : SlotCfg) (a b : Nat) : Fl :=
  let f := g.fmt.toNat
  match g.sub.toNat with
  | 0 =>
    if f = 0 then
      (fexpr 0 g.rnd.toNat g.ftz g.sat
        [(false, [some (decodeFloat 0 a g.ftz)]), (false, [some (decodeFloat 0 b g.ftz)])]).getD (.pure 0)
    else .pure ((a + b) % 2 ^ 32)
  | 1 =>
    if f = 0 then fminmax false false (decodeFloat 0 a g.ftz) (decodeFloat 0 b g.ftz)
    else .pure (if intOf f b < intOf f a then b else a)
  | 2 =>
    if f = 0 then fminmax true false (decodeFloat 0 a g.ftz) (decodeFloat 0 b g.ftz)
    else .pure (if intOf f a < intOf f b then b else a)
  | 3 => .pure (a.land b)
  | 4 => .pure (a.lor b)
  | _ => .pure (a.xor b)

/-- A fold in progress: s, dead, the flags, the prefixes so far, the first lane with NV. -/
structure Scan where
  s : Option Nat
  dead : Bool
  flags : Flags
  out : List (Option Nat)
  nv : Option Nat
  deriving DecidableEq, Repr

/-- One lane of the fold. -/
def scanStep (g : SlotCfg) (tok : Nat → Option Token) (r : Scan) (l : Nat) : Scan :=
  let dead := r.dead || fwdLane g tok 0 l
  match resLane g tok 0 l with
  | some x =>
    if dead then { r with dead := dead, out := r.out ++ [none] }
    else
      match r.s with
      | none => { r with s := some x, out := r.out ++ [some x] }
      | some a =>
        let c := laneCombine g a x
        { r with
          s := some c.bits
          flags := r.flags ||| c.flags
          out := r.out ++ [some c.bits]
          nv := if r.nv.isNone && c.flags &&& flagNV ≠ 0 then some l else r.nv }
  | none => { r with dead := dead, out := r.out ++ [none] }

def scanLanes (g : SlotCfg) (tok : Nat → Option Token) : Scan :=
  (List.range 16).foldl (scanStep g tok) ⟨none, false, 0, [], none⟩

def State.foldOp (s : State) (op : BitVec 8) (g : SlotCfg) (f : Scan → List (Option Nat)) : Out :=
  s.fire op g fun x toks base =>
    let r := scanLanes g fun i => (toks.find? fun t => t.1 = g.src i).map (·.2)
    { sends := [(g.dst.toNat, Token.ofLanes base.kind base.seq (f r))]
      st := x.st
      gen := x.gen
      flags := r.flags
      nv := r.nv }

def execLscan (g : SlotCfg) (s : State) : Out := s.foldOp 0x63 g (·.out)

def execLred (g : SlotCfg) (s : State) : Out :=
  s.foldOp 0x64 g fun r => (if r.dead then none else r.s) :: List.replicate 15 none

/-! ## Packing, sorting, matching (R194 to R196) -/

def execLpack (g : SlotCfg) (s : State) : Out :=
  s.moveOp 0x65 g fun tok =>
    let vs := (lanesOf g tok 0).filter Option.isSome
    vs ++ List.replicate (16 - vs.length) none

/-- The marked lanes take the lanes of a in turn. -/
def expandLanes (a : List (Option Nat)) : List Bool → Nat → List (Option Nat)
  | [], _ => []
  | m :: ms, j => if m then nth a j none :: expandLanes a ms (j + 1) else none :: expandLanes a ms j

def execLexpand (g : SlotCfg) (s : State) : Out :=
  s.moveOp 0x66 g fun tok =>
    expandLanes (lanesOf g tok 0) ((lanesOf g tok 1).map fun m => m.getD 0 ≠ 0) 0

/-- key a comes after key b in the order of SUB and FMT; NaN keys come last in either direction (R195). -/
def keyAfter (g : SlotCfg) (a b : Nat) : Bool :=
  let f := g.fmt.toNat
  let dn := g.sub.toNat % 2 = 1
  if f = 0 then
    let x := decodeFloat 0 a false
    let y := decodeFloat 0 b false
    if x.isNan then !y.isNan
    else if y.isNan then false
    else if dn then xlt true x y else xlt true y x
  else if dn then intOf f a < intOf f b else intOf f b < intOf f a

/-- A lane put in its place, after the lanes with equal keys. -/
def sortInsert (g : SlotCfg) (x : Nat × Nat) : List (Nat × Nat) → List (Nat × Nat)
  | [] => [x]
  | y :: ys => if keyAfter g y.1 x.1 then x :: y :: ys else y :: sortInsert g x ys

def execLsort (g : SlotCfg) (s : State) : Out :=
  s.moveOp 0x68 g fun tok =>
    let keys := (lanesOf g tok 0).zipIdx.filterMap fun (k, l) => k.map fun k => (k, l)
    let order := keys.foldl (fun l x => sortInsert g x l) []
    let pays := lanesOf g tok 1
    let out := order.map fun (k, l) => if g.sub.toNat / 2 % 2 = 1 then nth pays l none else some k
    out ++ List.replicate (16 - out.length) none

def execLmatch (g : SlotCfg) (s : State) : Out :=
  s.moveOp 0x69 g fun tok =>
    let ls := lanesOf g tok 0
    ls.zipIdx.map fun (a, l) => a.map fun a =>
      let same := (List.range 16).filter fun m => nth ls m none = some a
      let low := (same.head?).getD l
      (same.map fun m => 2 ^ m).foldl (· + ·) 0 + low * 2 ^ 16 + (if low = l then 2 ^ 31 else 0)

end Sys2Proof.Machine
end

