-- ==== Sys2Proof/Machine/CellStream.lean ====
section
/-!
DEFINITION. Stream and control operations (R197 to R203), their stage state (R204), and what end and boundary tokens do to
it (R187).
-/
namespace Sys2Proof.Machine

/-! ## Stage state (R204) -/

/-- −Inf in FP32. -/
def negInf32 : Nat := 0xFF800000

/-- 16 equal lanes. -/
def allLanes (x : Nat) : BitVec 512 := (Token.ofLanes 0 0 (List.replicate 16 (some x))).lanes

/-- The state of a slot at configuration: ACC all CST; M −Inf and FIRST; NEXT; taken last b (R199, R201, R202, R204). -/
def initSlotSt (op : Nat) (g : SlotCfg) : SlotSt :=
  if op = 0x77 then { SlotSt.reset with acc := allLanes g.cst.toNat }
  else if op = 0x78 then { SlotSt.reset with n := negInf32, flag := true }
  else if op = 0x74 then { SlotSt.reset with n := if g.sub = 0 then g.cst.toNat % 2 ^ 16 else 0, flag := true }
  else .reset

/-- The state after an end or boundary token, which ends a record in progress (R187, R192, R201 to R203); LOOP's record
that leaves counts as gone. -/
def recordEnd (op : Nat) (g : SlotCfg) (st : SlotSt) : SlotSt :=
  if op = 0x67 then { st with n := 0 }
  else if op = 0x73 then { st with m := 0 }
  else if op = 0x74 then { st with m := 0 }
  else if op = 0x76 then { st with m := 0, n := if st.m = 2 && st.flag then st.n - 1 else st.n }
  else if op = 0x77 && g.sub.toNat / 4 = 1 then { st with acc := allLanes g.cst.toNat, accValid := 0 }
  else if op = 0x78 then { st with n := negInf32, flag := true }
  else if op = 0x79 && g.sub = 0 then { st with n := 0, m := 0, acc := 0 }
  else st

/-! ## Single-token operations (R197) -/

/-- The token of operand i: CST in every lane for a constant. -/
def opToken (g : SlotCfg) (toks : List (Nat × Token)) (i : Nat) : Token :=
  if g.src i = 4 then cstToken g.cst
  else ((toks.find? fun t => t.1 = g.src i).map (·.2)).getD (bareToken 0 0)

/-- A firing that sends what f makes of the operand tokens and keeps no state. -/
def State.streamOp (s : State) (op : BitVec 8) (g : SlotCfg) (f : (Nat → Token) → Token → Option Token) : Out :=
  s.fire op g fun x toks base =>
    { sends := ((f (opToken g toks) base).map fun t => (g.dst.toNat, t)).toList, st := x.st, gen := x.gen }

/-- Lanes and VALID of a token with the KIND and SEQ of another. -/
def Token.as (t base : Token) : Token := { t with kind := base.kind, seq := base.seq }

def execPass (g : SlotCfg) (s : State) : Out := s.streamOp 0x70 g fun a base => some ((a 0).as base)

def execConst (g : SlotCfg) (s : State) : Out :=
  s.streamOp 0x71 g fun a base =>
    some { (cstToken g.cst).as base with valid := if g.sub = 1 then (a 0).valid else 0xFFFF }

def execSel (g : SlotCfg) (s : State) : Out :=
  s.laneOp 0x72 g 3 fun
    | [a, b, some c] => (if c ≠ 0 then a else b).map Fl.pure
    | _ => none

/-- Lane 0 of a control operand is present and nonzero (R197, R198, R200). -/
def ctlOn (g : SlotCfg) (tok : Nat → Option Token) (i : Nat) : Bool := (resLane g tok i 0).getD 0 ≠ 0

def execGate (g : SlotCfg) (s : State) : Out :=
  s.fire 0x75 g fun x toks base =>
    let on := ctlOn g (fun i => (toks.find? fun t => t.1 = g.src i).map (·.2)) 1
    let out : Option Token :=
      if on then some ((opToken g toks 0).as base) else if base.isLast then some (bareToken 1 base.seq) else none
    { sends := (out.map fun t => (g.dst.toNat, t)).toList, st := x.st, gen := x.gen }

def execDrop (g : SlotCfg) (s : State) : Out :=
  s.streamOp 0x7B g fun a base =>
    let gone := if g.sub = 1 then base.kind = 5 else base.kind = 0 && (a 0).valid = 0
    if gone then none else some ((a 0).as base)

def execOnmark (g : SlotCfg) (s : State) : Out := s.streamOp 0x7C g fun a base => some ((a 0).as base)

/-! ## Running values (R201 to R203) -/

/-- ACCRUN's combine by SUB 1:0 and FMT. -/
def accCombine (g : SlotCfg) (a x : Nat) : Fl :=
  let f := g.fmt.toNat
  let fa := decodeFloat 0 a g.ftz
  let fx := decodeFloat 0 x g.ftz
  match g.sub.toNat % 4 with
  | 0 =>
    if f = 0 then (fexpr 0 g.rnd.toNat g.ftz g.sat [(false, [some fa]), (false, [some fx])]).getD (.pure a)
    else .pure ((a + x) % 2 ^ 32)
  | 1 => if f = 0 then fminmax true false fa fx else .pure (if intOf f a < intOf f x then x else a)
  | _ => if f = 0 then fminmax false false fa fx else .pure (if intOf f x < intOf f a then x else a)

/-- ACC · x of a RESCALE, FMT 0 (R201). -/
def accScale (g : SlotCfg) (a x : Nat) : Fl :=
  (fexpr 0 g.rnd.toNat g.ftz g.sat [(false, [some (decodeFloat 0 a g.ftz), some (decodeFloat 0 x g.ftz)])]).getD (.pure a)

/-- A lane register as values, and back. -/
def laneVals (x : BitVec 512) : List Nat := (List.range 16).map fun l => bits x (32 * l + 31) (32 * l)

def lanesReg (vs : List Nat) : BitVec 512 := (Token.ofLanes 0 0 (vs.map some)).lanes

/-- The accumulators after one token: each present lane combined, with flags and the first lane with NV. -/
def accLanes (f : Nat → Nat → Fl) (acc : BitVec 512) (xs : List (Option Nat)) : BitVec 512 × Flags × Option Nat :=
  let rs : List (Option Fl) := ((laneVals acc).zip xs).map fun (a, x) => x.map fun x => f a x
  (lanesReg (((laneVals acc).zip rs).map fun (a, r) => (r.map (·.bits)).getD a), allFlags rs, nvLane rs)

/-- The lanes present in one operand, as a mask. -/
def presentMask (xs : List (Option Nat)) : BitVec 16 :=
  BitVec.ofNat 16 ((xs.zipIdx.map fun (x, l) => if x.isSome then 2 ^ l else 0).foldl (· + ·) 0)

/-- The values of a one-operand firing's lanes under R108. -/
def oneOperand (g : SlotCfg) (toks : List (Nat × Token)) : List (Option Nat) :=
  (List.range 16).map fun l => (laneArgs g 1 toks l).bind fun xs => nth xs 0 none

def execAccrun (g : SlotCfg) (s : State) : Out :=
  s.fire 0x77 g fun x toks base =>
    let xs := oneOperand g toks
    if base.kind = 5 then
      if g.fmt = 0 then
        let (acc, f, nv) := accLanes (accScale g) x.st.acc xs
        { sends := [], st := { x.st with acc := acc }, gen := x.gen, flags := f, nv := nv }
      else { sends := [], st := x.st, gen := x.gen }
    else
      let (acc, f, nv) := accLanes (accCombine g) x.st.acc xs
      let touch := x.st.accValid ||| presentMask xs
      let records := if base.isLast then (x.st.n + 1) % 2 ^ 32 else x.st.n
      let form := g.sub.toNat / 4
      if form = 0 then
        { sends := [(g.dst.toNat, ⟨base.kind, base.seq, (opToken g toks 0).valid, acc⟩)]
          st := { x.st with acc := acc, accValid := touch, n := records }
          gen := x.gen
          flags := f
          nv := nv }
      else if form = 1 && base.isLast then
        { sends := [(g.dst.toNat, ⟨1, base.seq, touch, acc⟩)]
          st := { x.st with acc := allLanes g.cst.toNat, accValid := 0, n := records }
          gen := x.gen
          flags := f
          nv := nv }
      else
        { sends := []
          st := { x.st with acc := acc, accValid := touch, n := records }
          gen := x.gen
          flags := f
          nv := nv }

/-- x − y in FP32, rounded once. -/
def fsub32 (g : SlotCfg) (x y : XVal) : Fl :=
  (fexpr 0 g.rnd.toNat g.ftz false [(false, [some x]), (true, [some y])]).getD (.pure 0)

def execRmaxs (g : SlotCfg) (s : State) : Out :=
  s.fire 0x78 g fun x toks base =>
    if base.kind = 5 then { sends := [], st := x.st, gen := x.gen }
    else
      let xs := (oneOperand g toks).map fun x => x.map fun x => decodeFloat 0 x g.ftz
      let mOld := decodeFloat 0 x.st.n false
      let top := xs.foldl (fun m x => match x with
        | some v => if v.isNan || !xlt true m v then m else v
        | none => m) (.inf true)
      let mNew := if xlt true mOld top then top else mOld
      let d : Fl := if mOld = .inf true then .pure negInf32 else fsub32 g mOld mNew
      let rise := !x.st.flag && xlt false mOld mNew
      let rs : List (Option Fl) := xs.map fun x => x.map fun v =>
        if mNew = .inf true || v = .inf true then .pure negInf32
        else if v.isNan then ⟨canonicalNan 0, snanFlags [v]⟩
        else fsub32 g v mNew
      let out := Token.ofLanes base.kind base.seq (rs.map fun r => r.map (·.bits))
      let resc : Token := ⟨5, base.seq, 0xFFFF, allLanes d.bits⟩
      { sends := (if rise then [(g.dst.toNat ||| g.cst.toNat % 2 ^ 16, resc)] else []) ++ [(g.dst.toNat, out)]
        st := if base.isLast then { x.st with n := negInf32, flag := true }
          else { x.st with n := encodeExact 0 mNew, flag := false }
        gen := x.gen
        flags := allFlags rs ||| (if rise then d.flags else 0)
        nv := nvLane rs }

/-- COUNT: VALIDS, TOKENS and RECORDS; a RESCALE is consumed and not counted (R203). -/
def execCount (g : SlotCfg) (s : State) : Out :=
  s.fire 0x79 g fun x toks base =>
    if base.kind = 5 then { sends := [], st := x.st, gen := x.gen }
    else
      let v := (x.st.n + (List.range 16).countP (opToken g toks 0).isValid) % 2 ^ 32
      let t := (x.st.m + 1) % 2 ^ 32
      let r := ((x.st.acc.toNat + if base.isLast then 1 else 0)) % 2 ^ 32
      if g.sub = 0 && base.isLast then
        { sends := [(g.dst.toNat, Token.ofLanes 1 base.seq ([some v, some t] ++ List.replicate 14 none))]
          st := { x.st with n := 0, m := 0, acc := 0 }
          gen := x.gen }
      else { sends := [], st := { x.st with n := v, m := t, acc := BitVec.ofNat 512 r }, gen := x.gen }

/-! ## Records by route: STEER (R198) -/

/-- The head of operand i of slot k, CST for a constant. -/
def Cluster.operand (c : Cluster) (k : Nat) (g : SlotCfg) (i : Nat) : Option Token :=
  if g.src i = 4 then some (cstToken g.cst) else c.head? (4 * k + g.src i)

/-- The queue of operand i, none for a constant. -/
def opQueue (g : SlotCfg) (i : Nat) : List Nat := if g.src i = 4 then [] else [g.src i]

/-- The inputs on which a slot takes an EOS: LOOP takes it on a alone (R200). -/
def eosInputs (op : Nat) (g : SlotCfg) : List Nat := if op = 0x76 then opQueue g 0 else g.inputs

/-- The token goes whole to a mask, with inputs and state changed. -/
def passFire (mask : Nat) (t : Token) (st : SlotSt) (x : Slot) : Fire := { sends := [(mask, t)], st := st, gen := x.gen }

def execSteer (g : SlotCfg) (s : State) : Out :=
  match s.slotFor 0x73 g with
  | none => .next s
  | some (cl, k, x) =>
    let c := s.cluster cl
    let mask (on : Bool) : Nat := if on then g.dst.toNat else g.cst.toNat % 2 ^ 16
    if x.st.m = 1 then
      match c.operand k g 0 with
      | some a =>
        if a.valued then
          s.commit cl k 0x73 g (opQueue g 0)
            (passFire (mask x.st.flag) a { x.st with m := if a.isLast then 0 else 1 } x)
        else .next s
      | none => .next (s.setCluster cl (c.setSlot k (x.waitIn (g.src 0 + 1))))
    else
      match c.heads k g with
      | .fire toks pop _ =>
        let on := ctlOn g (fun i => (toks.find? fun t => t.1 = g.src i).map (·.2)) 1
        let a := opToken g toks 0
        s.commit cl k 0x73 g pop (passFire (mask on) a { x.st with m := if a.isLast then 0 else 1, flag := on } x)
      | .wait q => .next (s.setCluster cl (c.setSlot k (x.waitIn (q + 1))))
      | _ => .next s

/-! ## MERGE (R199) -/

/-- Which input a MERGE takes its next record from: 1 a, 2 b, 0 neither. -/
def mergeChoice (g : SlotCfg) (st : SlotSt) (a b : Option Token) : Nat :=
  let start (t : Option Token) : Bool := (t.map Token.valued).getD false
  let ended (t : Option Token) : Bool := (t.map Token.isEnd).getD false
  let switch (t : Option Token) : Bool := (t.map Token.isSwitch).getD false
  let dist (t : Option Token) : Nat := (((t.map (·.seq)).getD 0 : Int) - st.n).emod (2 ^ 16) |>.toNat
  if g.sub = 0 then
    if start a && start b then (if dist b < dist a then 2 else 1)
    else if start a && ended b then 1
    else if start b && ended a then 2
    else 0
  else if switch a || switch b then 0
  else if start a && start b then (if st.flag then 1 else 2)
  else if start a then 1
  else if start b then 2
  else 0

def execMerge (g : SlotCfg) (s : State) : Out :=
  match s.slotFor 0x74 g with
  | none => .next s
  | some (cl, k, x) =>
    let c := s.cluster cl
    let a := c.operand k g 0
    let b := c.operand k g 1
    let i := if x.st.m ≠ 0 then x.st.m else mergeChoice g x.st a b
    let t := if i = 1 then a else b
    match i, t with
    | 0, _ =>
      let q := if a.isNone then g.src 0 else g.src 1
      .next (s.setCluster cl (c.setSlot k (x.waitIn (q + 1))))
    | _, some t =>
      if t.valued then
        let st := { x.st with
          m := if t.isLast then 0 else i
          flag := i = 2
          n := if t.isLast && g.sub = 0 then (t.seq + 1) % 2 ^ 16 else x.st.n }
        s.commit cl k 0x74 g (opQueue g (i - 1)) (passFire g.dst.toNat t st x)
      else .next s
    | _, none => .next (s.setCluster cl (c.setSlot k (x.waitIn (g.src (i - 1) + 1))))

/-! ## LOOP (R200) -/

def execLoop (g : SlotCfg) (s : State) : Out :=
  match s.slotFor 0x76 g with
  | none => .next s
  | some (cl, k, x) =>
    let c := s.cluster cl
    let a := c.operand k g 0
    let b := (c.operand k g 1).filter fun t => x.st.m = 2 || !t.isBoundary
    let ctl := c.operand k g 2
    let exit := g.cst.toNat / 2 ^ 16
    let valued (t : Option Token) : Bool := (t.map Token.valued).getD false
    let wait (i : Nat) : Out := .next (s.setCluster cl (c.setSlot k (x.waitIn (g.src i % 4 + 1))))
    let cap := g.cst.toNat % 256
    let fromB (t : Token) (out : Bool) (pop : List Nat) : Out :=
      let st := { x.st with
        m := if t.isLast then 0 else 2
        flag := out
        n := if t.isLast && out then x.st.n - 1 else x.st.n }
      s.commit cl k 0x76 g pop (passFire (if out then exit else g.dst.toNat) t st x)
    let fromA (t : Token) (first : Bool) : Out :=
      let st := { x.st with m := if t.isLast then 0 else 1, n := if first then x.st.n + 1 else x.st.n }
      s.commit cl k 0x76 g (opQueue g 0) (passFire g.dst.toNat t st x)
    match x.st.m with
    | 1 =>
      match a with
      | some t => if t.valued then fromA t false else .next s
      | none => wait 0
    | 2 =>
      match b with
      | some t => if t.valued then fromB t x.st.flag (opQueue g 1) else .next s
      | none => wait 1
    | _ =>
      if (ctl.map Token.isEnd).getD false then .next s
      else
      match b, a with
      | some t, _ =>
        if t.valued then
          if valued ctl then
            fromB t (!ctlOn g (fun i => c.operand k g i) 2)
              (opQueue g 1 ++ (opQueue g 2).filter fun q => !(opQueue g 1).contains q)
          else if ctl.isNone then wait 2
          else .next s
        else .next s
      | none, some t =>
        if t.valued then (if x.st.n < cap then fromA t true else wait 1) else .next s
      | none, none => wait (if x.st.n < cap then 0 else 1)

/-! ## DELAY (R197) -/

/-- DELAY sends the head of its FIFO when the form allows, and otherwise takes the token at its input while there is room; a
FIFO that may send but finds no room counts as waiting for it (R110). -/
def execDelay (g : SlotCfg) (s : State) : Out :=
  match s.slotFor 0x7A g with
  | none => .next s
  | some (cl, k, x) =>
    let c := s.cluster cl
    let d := g.cst.toNat % 64
    let inp := c.operand k g 0
    let marks (t : Token) : Bool := t.isEnd || t.isBoundary
    let may := g.sub = 0 || d ≤ x.st.fifo.length || x.st.fifo.any marks || (inp.map marks).getD false
    match x.st.fifo with
    | t :: rest =>
      match if may then c.fullDest k g [(g.dst.toNat, t)] else none with
      | some (b, dest) => take s cl k (x.waitOut b (s.scrollHeld cl dest)) c d inp true
      | none =>
        if may then s.commit cl k 0x7A g [] (passFire g.dst.toNat t { x.st with fifo := rest } x)
        else take s cl k x c d inp false
    | [] => take s cl k x c d inp false
where
  take (s : State) (cl k : Nat) (x : Slot) (c : Cluster) (d : Nat) (inp : Option Token) (full : Bool) : Out :=
    match inp with
    | some t =>
      if t.isSwitch || t.isReserved then .next (s.setCluster cl (c.setSlot k x))
      else if x.st.fifo.length < d then
        let st := { x.st with fifo := x.st.fifo ++ [t] }
        .next (s.setCluster cl ((c.popAll (opQueue g 0 |>.map (4 * k + ·))).setSlot k { x with st := st }))
      else .next (s.setCluster cl (c.setSlot k x))
    | none => .next (s.setCluster cl (c.setSlot k (if full then x else x.waitIn (g.src 0 % 4 + 1))))

end Sys2Proof.Machine
end

