-- ==== Sys2Proof/Machine/StageCheck.lean ====
section
/-!
DEFINITION. The checks of a stage image when it enters a row: frames judged together (R114 to R117, R163, R166, R168, R206,
R209, R215, R218 to R233, R100, R152, R323), and the size of stage state (R334).
-/
namespace Sys2Proof.Machine

/-! ## The frames of one cluster -/

abbrev Frames := List Frame

namespace Frames

/-- The frame of an entry. -/
def entry (fs : Frames) (layout unit sel seq : Nat) : Option Frame :=
  fs.find? fun f => entryName f = (layout, unit, sel) && Frame.seq f = seq

def slotOf (fs : Frames) (k : Nat) : Option (Nat × SlotCfg) :=
  (fs.entry 0 k 0 0).map fun f => (bits f 239 232, slotCfgOf f)

def agOf (fs : Frames) (u : Nat) : Option (Nat × AgCfg) := (fs.entry 3 u 0 0).map fun f => (bits f 239 236, agCfgOf f)

def bufs (fs : Frames) : List (Nat × MuBuf) :=
  [0, 1, 2, 3].filterMap fun b => (fs.entry 1 0 0 b).map fun f => (b, muBufOf f)

def pairs (fs : Frames) : List RoutePair :=
  ((List.range 16).filterMap fun k => (fs.entry 2 0 0 (k / 4)).map fun f => routePairOf f (k % 4)).filter (·.en)

def repl (fs : Frames) : Option SwRepl := (fs.entry 2 1 0 0).map swReplOf

def park (fs : Frames) : Option SwPark := (fs.entry 2 3 0 0).map swParkOf

def vert (fs : Frames) : Option SwVert := (fs.entry 2 2 0 0).map swVertOf

def cfg (fs : Frames) : Option CtCfg := (fs.entry 0 4 0 0).map ctCfgOf

def load (fs : Frames) : Option CtLoad := (fs.entry 0 4 1 0).map ctLoadOf

def chain (fs : Frames) : Option CtChain := (fs.entry 0 4 2 0).map ctChainOf

def acc (fs : Frames) : Option CtAcc := (fs.entry 0 5 0 0).map ctAccOf

def bintab (fs : Frames) : Option MuBintab := (fs.entry 1 3 0 0).map muBintabOf

def spills (fs : Frames) : List MuSpill :=
  ((List.range 12).filterMap fun k => (fs.entry 1 2 0 (k / 4)).map fun f => muSpillOf f (k % 4)).filter (·.en)

/-- The tile entries that the frames write. -/
def tiles (fs : Frames) : List MuTile :=
  ((List.range 48).filterMap fun k => (fs.entry 1 1 0 (k / 3)).map fun f => muTileOf f (k % 3)).filter (·.en)

/-- The links out of an input: OUT, OVC, LQ (R224, R226). -/
def linksFrom (fs : Frames) (inp ivc : Nat) : List (Nat × Nat × Nat) :=
  (fs.pairs.filter fun p => p.inp = inp && p.ivc = ivc).map (fun p => (p.out, p.ovc, p.lq)) ++
    (match fs.repl with | some r => if r.inp = inp && r.ivc = ivc then r.br else [] | none => [])

/-- Every output that a link of the router has. -/
def outs (fs : Frames) : List (Nat × Nat × Nat) :=
  fs.pairs.map (fun p => (p.out, p.ovc, p.lq)) ++ (match fs.repl with | some r => r.br | none => [])

/-- Every input that a link of the router has. -/
def ins (fs : Frames) : List (Nat × Nat) :=
  fs.pairs.map (fun p => (p.inp, p.ivc)) ++ (match fs.repl with | some r => [(r.inp, r.ivc)] | none => [])

/-- The cluster type: of the first frame that carries one, else compute (R206). -/
def ctypes (fs : Frames) : List Nat :=
  fs.filterMap fun f =>
    if Frame.layout f = 3 then some (bits f 235 234)
    else if Frame.layout f = 1 && (Frame.unit f = 0 || Frame.unit f = 3) then some (bits f 239 238)
    else none

def ctype (fs : Frames) : Nat := (fs.ctypes.head?).getD 0

/-! ### Destinations -/

/-- The queue that a bit of slot k's mask feeds, none for a router bit; no answer when it leads nowhere (R165). -/
def bitQueue (fs : Frames) (k : Nat) (g : SlotCfg) (b : Nat) : Option (Option Nat) :=
  if b ≤ 3 then (fs.slotOf b).map fun _ => some (4 * b + g.qsel b)
  else if b = 6 then
    match fs.agOf g.agsel.toNat with
    | some (_, a) =>
      if a.isrc.toNat = k then some (some (16 + 2 * g.agsel.toNat))
      else if a.vsrc.toNat = k then some (some (17 + 2 * g.agsel.toNat))
      else none
    | none => none
  else if b = 7 then (if fs.bufs.any (·.2.prod = 1) then some (some 24) else none)
  else if b = 8 then fs.cfg.map fun _ => some 26
  else if b = 9 then fs.cfg.map fun _ => some 25
  else if (fs.linksFrom (6 + k) 0).any (·.1 = 15 - b) then some none
  else none

/-- The queue that a destination code feeds (R207). -/
def codeQueue (fs : Frames) (inp code oq : Nat) : Option (Option Nat) :=
  if code ≤ 3 then (fs.slotOf code).map fun _ => some (4 * code + oq)
  else if code = 4 then fs.cfg.map fun _ => some 25
  else if code = 5 then fs.cfg.map fun _ => some 26
  else if code = 6 then (if (fs.linksFrom inp 0).isEmpty then none else some none)
  else if code = 7 && inp ≠ 14 then (if fs.bufs.any (·.2.prod = 1) then some (some 24) else none)
  else if code = 7 then none
  else some none

/-- The queue that a local output of the router feeds (R207, R209). -/
def localOut (fs : Frames) (out lq : Nat) : Option Nat :=
  if out ≤ 9 then (fs.slotOf (out - 6)).map fun _ => Cluster.localQueue out lq
  else if out ≤ 13 then
    (fs.agOf (out - 10)).bind fun (_, a) =>
      if (if lq = 0 then a.isrc.toNat else a.vsrc.toNat) = 4 then some (Cluster.localQueue out lq) else none
  else if out = 14 then (if fs.bufs.any (·.2.prod = 1) then some 24 else none)
  else fs.cfg.map fun _ => Cluster.localQueue out lq

/-- The mask a slot sends by: DST with the mask of its CST (R189). -/
def maskOf (op : Nat) (g : SlotCfg) : Nat := g.dst.toNat.lor (opExtraMask op g.cst)

/-- The destinations of an address generator's OUT, of the source and of the drain: input code, code, queue. -/
def unitOuts (fs : Frames) : List (Nat × Nat × Nat) :=
  ([0, 1, 2, 3].filterMap fun u => (fs.agOf u).bind fun (m, a) =>
    if m = 0 || m = 2 || m = 7 || m = 6 then some (10 + u, a.out.toNat, a.oq.toNat) else none) ++
  (fs.bufs.filterMap fun (_, m) => if m.cons = 1 then some (14, m.muout, m.muoq) else none) ++
  (match fs.acc with | some a => [(15, a.dout, a.doq)] | none => [])

/-- The queues that every feeder of the cluster feeds, one entry for each feeder and queue (R206). -/
def feeds (fs : Frames) : List Nat :=
  ([0, 1, 2, 3].map fun k =>
    match fs.slotOf k with
    | some (op, g) => firsts (((List.range 16).filter (maskOf op g).testBit).filterMap fun b => (fs.bitQueue k g b).join)
    | none => []).flatten ++
  (fs.unitOuts.filterMap fun (i, c, q) => (fs.codeQueue i c q).join) ++
  (fs.outs.filterMap fun (o, _, lq) => if 6 ≤ o then fs.localOut o lq else none)

/-- Two feeders of a queue that an element owns (R206). -/
def overfed (fs : Frames) (owned : Nat → Bool) : Bool :=
  let l := fs.feeds.filter owned
  (l.any fun q => 1 < l.count q)

end Frames

/-! ## The elements of a row -/

/-- What the checks know of the row: its clusters by column, whether it lies in a band, and its frames in image order. -/
structure RowImage where
  cls : List Nat
  band : Bool
  frames : Frames
  deriving DecidableEq, Repr

/-- SRC and UNIT of the element that a frame configures (R340). -/
def frameSource (f : Frame) : Nat × Nat :=
  match Frame.layout f with
  | 0 => if Frame.unit f ≤ 3 then (1, Frame.unit f) else (2, Frame.unit f)
  | 1 => (4, Frame.unit f)
  | 2 => (5, Frame.unit f)
  | 3 => (3, Frame.unit f)
  | _ => (7, Frame.unit f)

/-- A blocked element of a row: its column, SRC and UNIT, and the code that blocks it. -/
structure Blocked where
  col : Nat
  src : Nat
  unit : Nat
  code : Nat
  deriving DecidableEq, Repr

namespace RowImage

def col (r : RowImage) (c : Nat) : Frames := r.frames.filter fun f => Frame.col f = c

def width (r : RowImage) : Nat := r.cls.length

/-- The link that SW.PARK names in a band, exempt from the checks of physical neighbours (R323). -/
def parked (r : RowImage) (fs : Frames) (o v : Nat) : Bool :=
  r.band && (match fs.park with | some p => p.port = o && p.vc = v | none => false)

/-- A slot frame's routing and TRAPINV (R114, R116, R165, R166, R206). -/
def slotOk (r : RowImage) (fs : Frames) (layer k : Nat) (op : Nat) (g : SlotCfg) : Bool :=
  let m := Frames.maskOf op g
  let skip := (fs.linksFrom (6 + k) 0).any fun o => o.1 = 4 && r.parked fs o.1 o.2.1
  ((List.range 16).filter m.testBit).all (fun b => (fs.bitQueue k g b).isSome) &&
  !(m.testBit 11 && layer = 2 && !skip) && !(m.testBit 10 && layer = 0) && !fs.overfed (fun q => q / 4 = k)

/-- An address generator's destination and inputs (R206, R207, R215). -/
def agOk (fs : Frames) (u mode : Nat) (a : AgCfg) : Bool :=
  (!(mode = 0 || mode = 2 || mode = 7 || mode = 6) || (fs.codeQueue (10 + u) a.out.toNat a.oq.toNat).isSome) &&
  (mode ≠ 5 || fs.bintab.isSome) && !fs.overfed (fun q => q = 16 + 2 * u || q = 17 + 2 * u)

/-- The tile entry that a slot of a buffer will have (R94, R218, R220). -/
def tileBad (s : State) (fs : Frames) (cl i : Nat) : Bool :=
  match fs.tiles.find? (·.tidx = i) with
  | some t => t.lcount = 0 || t.base + t.lcount > 2048 || t.tbytes > 128 * t.lcount
  | none => ((s.cluster cl).tile i).bad

/-- An MU.BUF entry: its slots' tile entries, its producer and consumer (R94, R218). -/
def bufOk (s : State) (fs : Frames) (cl b : Nat) (m : MuBuf) : Bool :=
  let byAg (mode : Nat) : Nat := [0, 1, 2, 3].countP fun u =>
    match fs.agOf u with
    | some (mo, a) => mo = mode && a.tgt = 1 && a.bufn.toNat = b
    | none => false
  let vert (down : Bool) : Bool := match fs.vert with | some v => v.bufn = b && v.down = down | none => false
  let load : Bool := match fs.load, fs.cfg with
    | some l, some c => c.role = 0 && l.srcb = b
    | _, _ => false
  (upFrom m.first m.slots).all (fun i => !tileBad s fs cl i) &&
   (m.prod ≠ 1 || (fs.bufs.countP fun x => x.2.prod = 1) = 1) && (m.cons ≠ 1 || (fs.bufs.countP fun x => x.2.cons = 1) = 1) &&
   (m.prod ≠ 2 || byAg 1 = 1) && (m.cons ≠ 2 || byAg 0 = 1) && (m.prod ≠ 3 || vert true) && (m.cons ≠ 4 || vert false) &&
   (m.cons ≠ 3 || load) && (m.cons ≠ 1 || (fs.codeQueue 14 m.muout m.muoq).isSome) &&
   (m.prod ≠ 1 || !fs.overfed (fun q => q = 24))

/-- The bin table lies in the store and each bin in the store, with its ZERO field clear (R100). -/
def bintabOk (s : State) (cl : Nat) (m : MuBintab) : Bool :=
  (List.range m.bincount).all fun i =>
    let e := leNat ((s.cluster cl).read (4 * m.tbase + 8 * i) 8)
    e / 2 ^ 48 % 2 ^ 15 = 0 && e % 2 ^ 16 + e / 2 ^ 16 % 2 ^ 16 ≤ 65536

/-- The links of one cluster (R112 to R114, R221, R225, R226, R323). -/
def switchOk (r : RowImage) (fs : Frames) (layer : Nat) : Bool :=
  let outside := fs.outs.filter (·.1 ≤ 5)
  let parked (o v : Nat) : Bool := match fs.park with | some p => p.port = o && p.vc = v | none => false
  (outside.map fun o => (o.1, o.2.1)).Nodup && fs.ins.Nodup &&
  fs.outs.all (fun (o, v, lq) =>
    (o ≤ 5 || (fs.localOut o lq).isSome) && !(o = 4 && layer = 2 && !r.parked fs o v) && !(o = 5 && layer = 0) &&
    (!r.band || !(o = 0 && v = 0 || o = 1 && v = 1 || o = 5 || (o = 4 && !parked o v)))) &&
  fs.ins.all (fun (i, v) =>
    !(i = 5 && layer = 0) && !(i = 4 && layer = 2 && v = 0) &&
    (!r.band || !(i = 1 && v = 0 || i = 0 && v = 1 || i = 5 || (i = 4 && v = 0)))) &&
  fs.pairs.all (fun p =>
    !p.spill || (!parked p.out p.ovc &&
      match fs.spills.find? fun m => m.port = p.out && m.vc = p.ovc with
      | some m => p.hi ≤ m.depth
      | none => false))

/-- East and west outputs reach a column whose cluster takes them, but for the link that SW.PARK names (R116, R225, R323): the
columns that do not. -/
def deadEnds (r : RowImage) (c : Nat) : List Nat :=
  (r.col c).outs.filterMap fun (o, v, _) =>
    if r.parked (r.col c) o v then none
    else if o = 2 then (if (r.col (c + 1)).ins.contains (3, v) then none else some (c + 1))
    else if o = 3 then (if c ≠ 0 && (r.col (c - 1)).ins.contains (2, v) then none else some (c - 1))
    else none

/-- No neighbour's link ends at this column unanswered, and none of its own leaves the row. -/
def answered (r : RowImage) (c : Nat) : Bool :=
  let from' (n : Nat) : Bool := (r.deadEnds n).contains c
  !(from' (c + 1) || (c ≠ 0 && from' (c - 1))) &&
  (r.col c).outs.all (fun (o, v, _) => r.parked (r.col c) o v || (!(o = 2 && c + 1 = r.width) && !(o = 3 && c = 0)))

/-- A chain's members are all there and agree (R152, R233). -/
def chainOk (r : RowImage) (c : Nat) (k : CtChain) : Bool :=
  let first := c - k.pos
  k.pos ≤ c && first + k.len < r.width &&
  (List.range (k.len + 1)).all fun i =>
    let fs := r.col (first + i)
    match fs.chain, fs.cfg, (r.col c).cfg with
    | some x, some a, some b =>
      x.pos = i && x.len = k.len && a.qmode = b.qmode && a.swap = b.swap && a.pfmt = b.pfmt && a.qfmt = b.qfmt &&
        (a.survive = 0 || a.survive = 2)
    | _, _, _ => false

/-- SW.VERT's tiles lie in the bank of the cluster's own twig (R227). -/
def vertOk (s : State) (fs : Frames) (cl : Nat) (v : SwVert) : Bool :=
  let lines (i : Nat) : Nat :=
    match fs.tiles.find? (·.tidx = i) with
    | some t => t.lcount
    | none => ((s.cluster cl).tile i).lcount
  let bank := v.coff / 2 ^ 24
  let inBank (tile : Nat) (i : Nat) : Bool := (v.coff + tile * v.tstride + 128 * lines i - 1) / 2 ^ 24 = bank
  bank = clBank cl &&
    (match fs.bufs.find? (·.1 = v.bufn) with
     | some (_, m) => (List.range (min m.slots v.tcount)).all fun j =>
         inBank ((v.tcount - 1 - j) / m.slots * m.slots + j) (m.first + j)
     | none => inBank (v.tcount - 1) 0)

/-- The code that blocks frame number i of a row's image, 0 when it is accepted. -/
def frameFault (s : State) (r : RowImage) (i : Nat) (f : Frame) : Nat :=
  let own := frameCode f
  let c := Frame.col f
  let fs := r.col c
  let before := r.frames.take i
  let cl := nth r.cls c 0
  let layer := clLayer cl
  let u := Frame.unit f
  let ill (b : Bool) : Nat := if b then 0 else 32
  let trap : Option Bool :=
    (r.frames.find? fun f => Frame.layout f = 0 && Frame.unit f ≤ 3).map fun f => (slotCfgOf f).trapinv
  if own ≠ 0 then own
  else if Frame.layout f = 7 then 0
  else if r.width ≤ c then 32
  else if before.any fun g => entryName g = entryName f && Frame.seq g = Frame.seq f && Frame.col g = c then 32
  else if !(List.range (Frame.seq f)).all (fun q => fs.any fun g => entryName g = entryName f && Frame.seq g = q) then 32
  else if (Frames.ctypes [f]).any (fun t => (Frames.ctypes (before.filter fun g => Frame.col g = c)).any (· ≠ t)) then 32
  else
    match Frame.layout f with
    | 0 =>
      if u ≤ 3 then
        let g := slotCfgOf f
        ill (trap = some g.trapinv && r.slotOk fs layer u (bits f 239 232) g)
      else if u = 4 then
        match bits f 239 238 with
        | 0 => ill ((trap = none || trap = some (ctCfgOf f).trapinv) && !fs.overfed fun q => q = 25 || q = 26)
        | 1 =>
          let l := ctLoadOf f
          ill (match fs.cfg with
            | some g => if g.role = 1 then l.srcb = 0 else fs.bufs.any fun b => b.1 = l.srcb && b.2.cons = 3
            | none => true)
        | _ => ill (r.chainOk c (ctChainOf f))
      else ill ((fs.codeQueue 15 (ctAccOf f).dout (ctAccOf f).doq).isSome)
    | 1 =>
      match u with
      | 0 => ill (bufOk s fs cl (Frame.seq f) (muBufOf f))
      | 1 => ill ((fs.tiles.map (·.tidx)).Nodup)
      | 2 => ill (fs.spills.all fun m => fs.pairs.any fun p => p.spill && p.out = m.port && p.ovc = m.vc)
      | 3 => ill (fs.ctype = 2 && bintabOk s cl (muBintabOf f))
      | _ => 0
    | 2 =>
      match u with
      | 0 | 1 => ill (r.switchOk fs layer && r.answered c)
      | 2 => ill (vertOk s fs cl (swVertOf f))
      | _ =>
        let p := swParkOf f
        ill (fs.pairs.any fun q => q.out = p.port && q.ovc = p.vc && !q.spill)
    | _ => ill (agOk fs u (bits f 239 236) (agCfgOf f))

/-- The blocked elements, those of frames in image order first; then the routers of columns that have no switch frame and into
which a neighbour's circuit leads (R116, R117, R225). -/
def faults (s : State) (r : RowImage) : List Blocked :=
  (r.frames.zipIdx.filterMap fun (f, i) =>
    match frameFault s r i f with
    | 0 => none
    | c => some ⟨Frame.col f, (frameSource f).1, (frameSource f).2, c⟩) ++
  ((List.range r.width).filter fun c =>
    !((r.col c).any fun f => Frame.layout f = 2 && Frame.unit f ≤ 1) && !r.answered c).map fun c => ⟨c, 5, 0, 32⟩

end RowImage

/-! ## Stage state (R334) -/

/-- Bytes of stage state of a slot's configuration. -/
def slotBytesOf (op : Nat) (g : SlotCfg) : Nat :=
  if op = 0x51 then 64
  else if op = 0x67 then (if g.sub = 1 then 32 else 0)
  else if op = 0x73 || op = 0x74 || op = 0x76 || op = 0x78 || op = 0x79 then 32
  else if op = 0x77 then 96
  else if op = 0x7A then 32 + 72 * (g.cst.toNat % 64)
  else 0

/-- Bytes of stage state of one cluster's frames. -/
def Frames.stateBytes (fs : Frames) : Nat :=
  let slots := ([0, 1, 2, 3].map fun k => match fs.slotOf k with | some (op, g) => slotBytesOf op g | none => 0).foldl (· + ·) 0
  let ags := 64 * [0, 1, 2, 3].countP fun u => match fs.agOf u with | some (m, _) => m ≠ 4 && m ≠ 5 | none => false
  let mu := if !fs.bufs.isEmpty || fs.bintab.isSome || fs.vert.isSome then 64 else 0
  let arr := match fs.acc with | some a => if a.prows ≠ 0 then 512 * a.prows + 32 else 0 | none => 0
  slots + ags + mu + arr

/-- The first column at which the running sum of a stage's state passes 16,384 bytes (R334). -/
def stateOverflow (width : Nat) (frames : Frames) : Option Nat :=
  ((List.range width).foldl (fun (acc : Nat × Option Nat) c =>
    let n := acc.1 + (Frames.stateBytes (frames.filter fun f => Frame.col f = c))
    (n, if acc.2.isNone && 16384 < n then some c else acc.2)) (64, none)).2

end Sys2Proof.Machine
end

