-- ==== Sys2Proof/Machine/Fabric.lean ====
section
/-!
DEFINITION. Configuration (R116, R163, R204, R220, R307), end and boundary tokens at slots (R188, R197 to R203), SWITCH
tokens (R119, R120, R169), and links: hops, replication, spill, parking (R62, R105, R112, R113, R328, R332), RELATCH (R47).
-/
namespace Sys2Proof.Machine

/-! ## Applying frames -/

/-- A slot configured with a frame at a stage and column (R134, R204). -/
def freshSlot (stage col k : Nat) (f : Frame) : Slot :=
  let op := bits f 239 232
  let g := slotCfgOf f
  { Slot.reset with
    frame := some f
    st := initSlotSt op g
    gen := if op = 0x51 then srSeeds g.seed stage col k else [] }

/-- One frame applied to a cluster (R163, R204, R218, R220). -/
def Cluster.applyFrame (stage col start : Nat) (c : Cluster) (f : Frame) : Cluster :=
  let u := Frame.unit f
  let keep (c : Cluster) : Cluster :=
    let sel := if Frame.layout f = 0 && u = 4 then bits f 239 238 else 0
    { c with cfg := c.cfg.set (entryKey (Frame.layout f) u sel (Frame.seq f)) f }
  match Frame.layout f with
  | 0 =>
    if u ≤ 3 then c.setSlot u (freshSlot stage col u f)
    else if u = 5 then
      let a := ctAccOf f
      keep { c with arr := { c.arr with bank := a.bank } }
    else keep c
  | 1 =>
    match u with
    | 0 =>
      let m := muBufOf f
      keep ({ c with ctype := m.ctype }.initBuf (Frame.seq f) m.swz m.fmt m.slots m.first)
    | 1 =>
      keep ([0, 1, 2].foldl (fun c g =>
        let t := muTileOf f g
        if t.en then c.setTile t.tidx ⟨.empty, 0, t.ord, t.swz, t.fmt, t.tbytes, t.rlines, t.lcount, t.base, false⟩ else c) c)
    | 3 => keep { c with ctype := (muBintabOf f).ctype }
    | _ => keep c
  | 2 => keep c
  | 3 => { c with ctype := (agCfgOf f).ctype.toNat }.setAg u { Ag.reset with frame := some f, pts := start }
  | _ => c

/-- A cluster without a configuration: its leaf store, tile table and buffers stay, and the retired column (R155, R220). -/
def Cluster.bare (c : Cluster) : Cluster :=
  { Cluster.reset with
    leaf := c.leaf
    lines := c.lines
    tiles := c.tiles
    bufs := c.bufs
    ports := c.ports
    launch := c.launch
    arr := { Arr.reset with retired := c.arr.retired } }

/-- A cluster freshly configured with its frames; the flags of the stage stay, cleared already when the launch took it (R116,
R132, R307). -/
def Cluster.configure (stage col start : Nat) (c : Cluster) (fs : Frames) : Cluster :=
  { fs.foldl (Cluster.applyFrame stage col start) c.bare with done := true, kept := c.kept, flags := c.flags }

/-- The place of a cluster in its stage: stage position, column, the clusters of its row; a cluster of no band is a row by
itself. -/
def State.placeOf (s : State) (cl : Nat) : Nat × Nat × List Nat :=
  match s.hostOf cl with
  | some (_, b, r, c) => ((b.row r).p % max 1 b.depth, c, b.rowClusters r)
  | none => (0, 0, [cl])

/-- The frames that have entered a cluster's row, in image order; of a cluster of no band, those it keeps. -/
def State.rowImage (s : State) (cl : Nat) : RowImage :=
  match s.hostOf cl with
  | some (_, b, r, _) => ⟨b.rowClusters r, true, (b.row r).image⟩
  | none => ⟨[cl], false, (s.cluster cl).kept⟩

/-- CONFIG_FRAME: a frame enters the row of the acting cluster and stays at the cluster of its column; one beyond the width
passes them all. The first after a configuration begins a new one (R116). -/
def execConfigFrame (f : Frame) (s : State) : Out :=
  let keep (cl : Nat) (s : State) : State :=
    s.onCluster cl fun c => { c with kept := (if c.done then [] else c.kept) ++ [f], done := false }
  match s.hostOf s.site.1 with
  | some (l, b, r, _) =>
    let old := if s.configured b r then [] else (b.row r).image
    let s := match (b.rowClusters r)[Frame.col f]? with
      | some cl => keep cl s
      | none => keep s.site.1 s
    .next (s.onBand l fun b => b.onRow r fun x => { x with image := old ++ [f] })
  | none => .next (keep s.site.1 s)

/-- An element of a cluster blocked, by SRC and UNIT (R117). -/
def Cluster.block (c : Cluster) (src u : Nat) : Cluster :=
  match src with
  | 1 => c.setSlot u { c.slot u with blocked := true }
  | 2 => { c with arr := { c.arr with blocked := true } }
  | 3 => c.setAg (u % 4) { c.ag (u % 4) with blocked := true }
  | 4 => { c with mu := { c.mu with blocked := true } }
  | 5 => { c with rblocked := true }
  | _ => c

/-- The agent that AGENT names for a fault of the unit with SRC and UNIT (R65, R340). -/
def State.unitAgent (s : State) (cl src u : Nat) : Nat := if src = 3 then s.agAgent cl (u % 4) else 0

def codeOfNat (n : Nat) : Code := if n = 33 then .formatFault else .configIllegal

/-- IMAGE_END passes a cluster: its configuration is complete, or with elements blocked the launch fails at the first one in
image order (R116, R117). -/
def execImageEnd (s : State) : Out :=
  let cl := s.site.1
  let c := s.cluster cl
  if c.done then .next s
  else
    let img := s.rowImage cl
    match RowImage.faults s img with
    | x :: xs =>
      let s := (x :: xs).foldl (fun s x => s.onCluster (nth img.cls x.col cl) fun c => c.block x.src x.unit) s
      let at' := nth img.cls x.col cl
      .next (s.failAt at' (codeOfNat x.code) { src := x.src, unit := x.unit, agent := s.unitAgent at' x.src x.unit })
    | [] =>
      let (stage, col, _) := s.placeOf cl
      .next (s.setCluster cl (c.configure stage col (s.startClock cl) c.kept))

/-! ## End and boundary tokens at a slot (R187, R188, R197 to R203) -/

/-- What a slot sends before the end token K that it passes on (R201, R203). -/
def endAction (op : Nat) (g : SlotCfg) (st : SlotSt) (flags : Flags) (kind : Nat) : List Token :=
  if kind ≠ 3 then []
  else if op = 0x77 && g.sub.toNat / 4 = 2 then [⟨1, 0xFFFF, st.accValid, st.acc⟩]
  else if op = 0x79 && g.sub = 1 then
    [Token.ofLanes 1 0xFFFF ([some (st.acc.toNat % 2 ^ 32), some st.m, some st.n] ++ List.replicate 13 none)]
  else if op = 0x7C && g.sub = 0 then [{ cstToken g.cst with kind := 1, seq := 0xFFFF }]
  else if op = 0x7C then [Token.ofLanes 1 0xFFFF (some flags.toNat :: List.replicate 15 none)]
  else []

/-- The state after the end token: what the end action clears, and a record in progress ended (R187). -/
def endState (op : Nat) (g : SlotCfg) (st : SlotSt) (kind : Nat) : SlotSt :=
  let st := recordEnd op g st
  if kind ≠ 3 then st
  else if op = 0x77 && g.sub.toNat / 4 = 2 then { st with acc := allLanes g.cst.toNat, accValid := 0 }
  else if op = 0x79 && g.sub = 1 then { st with n := 0, m := 0, acc := 0 }
  else st

/-- The masks an end token goes to: DST, with STEER's else mask; LOOP's exit mask alone (R188, R198, R200). -/
def endMask (op : Nat) (g : SlotCfg) : Nat :=
  if op = 0x73 then g.dst.toNat.lor (g.cst.toNat % 2 ^ 16) else if op = 0x76 then g.cst.toNat / 2 ^ 16 else g.dst.toNat

/-- SEQ values of two heads (R340). -/
def headSeqs (c : Cluster) (qa qb : Nat) : List Nat :=
  let sq (q : Nat) : Nat := ((c.head? q).map (·.seq)).getD 0
  [sq qa + 2 ^ 16 * sq qb]

/-- The inputs between which LOOP and MERGE are in a record, whose head ends it (R187, R199, R200): the state to take. -/
def endsRecord (c : Cluster) (k op : Nat) (g : SlotCfg) (st : SlotSt) : Bool :=
  let ended (i : Nat) : Bool := ((c.operand k g i).map fun t => t.isEnd || t.isBoundary).getD false
  st.m ≠ 0 && ((op = 0x73 && ended 0) || ((op = 0x74 || op = 0x76) && ended (st.m - 1)))

/-- The end token of a slot's heads is sent on (R188). -/
def State.passEnd (s : State) (cl k op : Nat) (g : SlotCfg) (pop : List Nat) (t : Token) : Out :=
  let x := (s.cluster cl).slot k
  let mask := endMask op g
  let acts := endAction op g x.st (s.stageFlags cl) t.kind
  s.commit cl k (BitVec.ofNat 8 op) g pop
    { sends := acts.map (fun a => (g.dst.toNat, a)) ++ [(mask, bareToken t.kind t.seq)]
      st := endState op g x.st t.kind
      gen := x.gen }

/-- A slot's mismatch: a stall, or with a SKIP to carry out, one handling as under TRUNCATE, or of two ends each MARK
discarded (R188, R343). -/
def State.mismatchAt (s : State) (cl k op : Nat) (g : SlotCfg) (qa qb : Nat) (ends : Bool) : Out :=
  let c := s.cluster cl
  let x := c.slot k
  if x.skip then
    let has (f : Token → Bool) : List Nat := g.inputs.filter fun q => ((c.head? (4 * k + q)).map f).getD false
    if ends then
      .next (s.setCluster cl ((c.popAll ((has fun t => t.kind = 3).map (4 * k + ·))).setSlot k { x with skip := false, cut := [] }))
    else .next (s.setCluster cl (c.setSlot k { x with skip := false, cut := has Token.valued }))
  else
    .next (s.slotStall cl k .streamLengthMismatch
      (slotInfo k (BitVec.ofNat 8 op) qa qb 0 (headSeqs c (4 * k + qa) (4 * k + qb))))

/-- LOOP's heads that are no record (R200): the end or boundary token of a passes to the exit mask when no record is inside;
an end token on b or c is a mismatch. -/
def State.loopEnd (s : State) (cl k : Nat) (g : SlotCfg) : Out :=
  let c := s.cluster cl
  let x := c.slot k
  let ended (i : Nat) : Bool := ((c.operand k g i).map Token.isEnd).getD false
  if ended 1 then s.mismatchAt cl k 0x76 g (g.src 1) (g.src 0) true
  else if ended 2 then s.mismatchAt cl k 0x76 g (g.src 2) (g.src 0) true
  else
    match c.operand k g 0 with
    | some t =>
      if (t.isEnd || t.isBoundary) && x.st.n = 0 then s.passEnd cl k 0x76 g (opQueue g 0) t
      else .next (s.setCluster cl (c.setSlot k (x.waitIn (g.src 1 % 4 + 1))))
    | none => .next s

/-- A configured slot at no fault in a cluster that may act. -/
def State.slotAt (s : State) (cl k : Nat) : Option (Nat × SlotCfg × Slot) :=
  let c := s.cluster cl
  let x := c.slot k
  match c.slotCfg? k with
  | some (op, g) => if !x.blocked && !x.stall && s.mayAct cl && (c.done || c.launch.isNone) then some (op, g, x) else none
  | none => none

/-- A slot is blocked in place and its launch fails (R106, R117, R169). -/
def State.blockSlot (s : State) (cl k : Nat) : State :=
  (s.onCluster cl fun c => c.setSlot k { c.slot k with blocked := true }).failAt cl .configIllegal
    { src := 1, unit := k }

/-- A token that can fire, or none yet. -/
def fires (t : Option Token) : Bool := (t.map Token.valued).getD true

/-- Slot k of a cluster has a firing to try or an input to wait for; else its heads are end, boundary or SWITCH tokens (R187,
R188, R198 to R200). -/
def Cluster.slotFires (c : Cluster) (k op : Nat) (g : SlotCfg) (x : Slot) : Bool :=
  let a := c.operand k g 0
  let b := c.operand k g 1
  let general : Bool := match c.heads k g with
    | .fire _ _ _ | .wait _ => true
    | _ => false
  if c.reservedHead k g || endsRecord c k op g x.st then false
  else
    match op with
    | 0x73 => if x.st.m = 1 then fires a else general
    | 0x74 => if x.st.m ≠ 0 then fires (if x.st.m = 1 then a else b) else mergeChoice g x.st a b ≠ 0 || general
    | 0x76 =>
      if x.st.m ≠ 0 then true
      else if ((c.operand k g 2).map Token.isEnd).getD false then false
      else if (b.filter fun t => !t.isBoundary).isSome then fires b && fires (c.operand k g 2)
      else fires a
    | 0x7A => !x.st.fifo.isEmpty || !((a.map fun t => t.isSwitch || t.isReserved).getD false)
    | _ => general

/-- END_TOKEN_ALIGN: the heads of a slot that fire nothing (R187, R188, R343). In a record STEER looks at a alone, and MERGE and
LOOP at the input they take it from; a SWITCH or an end token at MERGE's other input waits for the record's LAST (R198 to R200; log
92). -/
def execEndTokenAlign (cl unit : Nat) (s : State) : Out :=
  match s.slotAt cl unit with
  | none => .next s
  | some (op, g, x) =>
    let c := s.cluster cl
    if c.reservedHead unit g then .next (s.blockSlot cl unit)
    else if op = 0x7A || c.slotFires unit op g x then .next s
    else if endsRecord c unit op g x.st then
      .next (s.setCluster cl (c.setSlot unit { x with st := recordEnd op g x.st }))
    else if op = 0x73 && x.st.m = 1 then .next s
    else if op = 0x76 then s.loopEnd cl unit g
    else
      match c.heads unit g with
      | .align _ =>
        match c.head? (4 * unit + g.primary) with
        | some t => s.passEnd cl unit op g g.inputs t
        | none => .next s
      | .mismatch qa qb ends => s.mismatchAt cl unit op g qa qb ends
      | .discard qs => .next (s.setCluster cl (c.truncate unit qs))
      | .reserved => .next (s.blockSlot cl unit)
      | _ => .next s

/-! ## SWITCH tokens (R119, R120, R169) -/

/-- The frame of lane group g of a SWITCH token, when its VALID bits are all 1. -/
def Token.frame (t : Token) (g : Nat) : Option Frame :=
  if bits t.valid (8 * g + 7) (8 * g) = 255 then some (t.lanes.extractLsb' (256 * g) 256) else none

/-- A SWITCH token with the given lane groups left. -/
def Token.onlyGroups (t : Token) (gs : List Nat) : Token :=
  let has (g : Nat) : Bool := gs.contains g
  let lanes := (if has 0 then t.lanes.toNat % 2 ^ 256 else 0) + (if has 1 then t.lanes.toNat / 2 ^ 256 * 2 ^ 256 else 0)
  { t with
    lanes := BitVec.ofNat 512 lanes
    valid := BitVec.ofNat 16 ((if has 0 then 0xFF else 0) + (if has 1 then 0xFF00 else 0)) }

/-- The frames that configure a cluster now, its slots' included. -/
def Cluster.frames (c : Cluster) : Frames :=
  c.cfg.vals ++ c.slots.vals.filterMap (·.frame) ++ c.ags.vals.filterMap (·.frame)

/-- Bytes of stage state of a row, with 32 for each slot that a SWITCH has configured (R334). -/
def State.rowStateBytes (s : State) (cls : List Nat) : Nat :=
  (cls.map fun cl =>
    let c := s.cluster cl
    (c.frames).stateBytes + 32 * c.slots.vals.countP (·.switched)).foldl (· + ·) 64

/-- The frames of a SWITCH token that name slot k of a column. -/
def switchFrames (t : Token) (col k : Nat) : List (Nat × Frame) :=
  ([0, 1].filterMap fun g => (t.frame g).map fun f => (g, f)).filter fun (_, f) => Frame.col f = col && Frame.unit f = k

/-- A SWITCH is taken, its frames checked first: the primary input's frames applied, the others consumed, one SWITCH sent on
(R119, R169). -/
def State.takeSwitch (s : State) (cl k op : Nat) (g : SlotCfg) (t : Token) : Out :=
  let (stage, col, cls) := s.placeOf cl
  let c := s.cluster cl
  let x := c.slot k
  let all := ((g.inputs.filterMap fun q => c.head? (4 * k + q)).map fun t => [0, 1].filterMap t.frame).flatten
  let mine := switchFrames t col k
  let left := ([0, 1].filter fun i => (t.frame i).isSome).filter fun i => !mine.any (·.1 = i)
  let sends := [(Frames.maskOf op g, { t.onlyGroups left with kind := 4 })]
  let others (f : Frame) : Frames := c.frames.filter fun h => !(entryName h = entryName f)
  let ok (f : Frame) : Bool :=
    frameCode f = 0 && (slotCfgOf f).trapinv = g.trapinv &&
      (⟨cls, true, f :: others f⟩ : RowImage).slotOk (f :: others f) (clLayer cl) k (bits f 239 232) (slotCfgOf f)
  let new := match mine.getLast? with
    | some (_, f) => { freshSlot stage col k f with switched := true }
    | none => { x with skip := false, cut := [] }
  if all.any (fun f => Frame.layout f ≠ 0 || 3 < Frame.unit f) || mine.any (fun m => !ok m.2) ||
      (!mine.isEmpty && 16384 < (s.setCluster cl (c.setSlot k new)).rowStateBytes cls) then .next (s.blockSlot cl k)
  else
    match c.fullDest k g sends with
    | some (b, d) => .next (s.setCluster cl (c.setSlot k (x.waitOut b (s.scrollHeld cl d))))
    | none =>
      let c' := (c.popAll (g.inputs.map (4 * k + ·))).sendSlot k g sends
      .next (s.setCluster cl (c'.setSlot k new))

/-- SWITCH_APPLY: a slot with a SWITCH at some head takes it when every configured input has one; another input discards up
to its own under DRAIN_ON_SWITCH, and is otherwise unbalanced (R119, R120, R197, R198, R200, R343). A slot that has a firing to try,
as in a record of STEER, MERGE or LOOP, makes it first (log 92). -/
def execSwitchApply (cl slot : Nat) (s : State) : Out :=
  match s.slotAt cl slot with
  | none => .next s
  | some (op, g, x) =>
    let c := s.cluster cl
    if c.slotFires slot op g x || (op = 0x73 && x.st.m = 1) then .next s
    else
    match c.heads slot g with
    | .switch =>
      let isSw (q : Nat) : Bool := ((c.head? (4 * slot + q)).map Token.isSwitch).getD false
      let others := g.inputs.filter fun q => !isSw q
      let busy := (op = 0x73 && x.st.m = 1) || (op = 0x76 && x.st.n ≠ 0) || (op = 0x7A && !x.st.fifo.isEmpty)
      match others with
      | [] =>
        if busy then .next s
        else
          match c.head? (4 * slot + g.primary) with
          | some t => s.takeSwitch cl slot op g t
          | none => .next s
      | q :: _ =>
        if others.all fun q => g.dos.getLsbD q || x.skip then .next (s.setCluster cl (c.popAll (others.map (4 * slot + ·))))
        else
          let sw := ((g.inputs.find? isSw).getD 0)
          let s := s.setCluster cl (c.setSlot slot { x with cause := 6 })
          .next (s.slotStall cl slot .unbalancedSwitch (slotInfo slot (BitVec.ofNat 8 op) sw q 0 []))
    | _ => .next s

/-! ## Router (R62, R105, R112, R113) -/

/-- The pair that takes an input, and the place and token of its next token: an outside queue's head, or the first token
of its own in the local queue. -/
def Cluster.pairHead (c : Cluster) (n : Nat) (r : RoutePair) : Option (Nat × Token) :=
  if r.inp ≤ 5 then ((c.rqueue r.inp r.ivc).head?).map fun t => (0, t.2)
  else
    ((c.rqueue 6 (c.localVc n)).zipIdx.find? fun e => e.1.1 = n).map fun e => (e.2, e.1.2)

/-- The next token of a pair's input taken away. -/
def Cluster.popPair (c : Cluster) (r : RoutePair) (i : Nat) : Cluster :=
  if r.inp ≤ 5 then c.setRqueue r.inp r.ivc (c.rqueue r.inp r.ivc).tail
  else
    let vc := if r.out ≤ 5 then r.ovc else 0
    c.setRqueue 6 vc ((c.rqueue 6 vc).eraseIdx i)

/-- A router of the package takes a token: put at the end of a queue. -/
def State.routerPush (s : State) (cl port vc : Nat) (t : Token) : State :=
  s.onCluster cl fun c => c.setRqueue port vc (c.rqueue port vc ++ [(0, t)])

def Cluster.spillOf (c : Cluster) (n : Nat) : Spill := c.spill.getD n ⟨[], true⟩

/-- The router of a cluster works: not blocked, in a cluster that may act. -/
def State.routerRuns (s : State) (cl : Nat) : Bool := !(s.cluster cl).rblocked && s.mayAct cl

/-- SRC and UNIT of the unit that owns an input queue (R206, R340). -/
def queueOwner (q : Nat) : Nat × Nat :=
  if q < 16 then (1, q / 4) else if q < 24 then (3, (q - 16) / 2) else if q = 24 then (4, 0) else (2, 4)

/-- A mismatch of parity at a router input after the resend, or at a cell input: the launch fails at the checking unit; the
token stays (R105). -/
def State.parityFault (s : State) (cl src unit : Nat) : State :=
  s.failAt cl .uncorrectable { src := src, unit := unit, agent := s.unitAgent cl src unit }

/-- A MARK or EOS of a circuit that only crosses the router has passed out of the row (R327). -/
def Cluster.noteCross (c : Cluster) (n : Nat) (r : RoutePair) (t : Token) : Cluster :=
  if r.inp ≤ 5 && r.out ≤ 5 then c.note (64 + n) t.kind else c

/-- One pair moves its next token; none when it cannot. -/
def State.pairHop (s : State) (cl n : Nat) (r : RoutePair) (parity : ParityEvent) : Option State :=
  let c := s.cluster cl
  match c.pairHead n r with
  | none => none
  | some (i, t) =>
    if r.out ≤ 5 then
      match s.hop cl r.out r.ovc with
      | .into d p v =>
        if (c.spillOf n).toks.isEmpty && s.routerRoom d p v then
          match parity with
          | .failed => some (s.parityFault d 5 0)
          | _ => some ((s.setCluster cl ((c.popPair r i).noteCross n r t)).routerPush d p v t)
        else none
      | _ => none
    else
      let q := Cluster.localQueue r.out r.lq
      if (c.queue q).length < 4 then
        match parity with
        | .good => some (s.setCluster cl ((c.popPair r i).pushQ q t))
        | _ => some (s.parityFault cl (queueOwner q).1 (queueOwner q).2)
      else none

/-- ROUTER_TOKEN_HOP: the next token of an input queue moves along its circuit; of a local queue, the first that can (R105,
R112). Keys 0 to 11 are 2·port + VC, 12 and 13 the local port's VCs; key 14 + q with a mismatch is one at the cell input of
internal queue q, and key 41 + 2·port + VC one that the resend has not mended at that router input. -/
def execRouterTokenHop (cl key : Nat) (parity : ParityEvent) (s : State) : Out :=
  let c := s.cluster cl
  if 41 ≤ key then
    .next (if parity = .failed && s.mayAct cl && !(c.rqueue ((key - 41) / 2) ((key - 41) % 2)).isEmpty then
      s.parityFault cl 5 0 else s)
  else if 14 ≤ key then
    .next (if parity ≠ .good && s.mayAct cl && (c.head? (key - 14)).isSome then
      s.parityFault cl (queueOwner (key - 14)).1 (queueOwner (key - 14)).2 else s)
  else if !s.routerRuns cl then .next s
  else
    let mine := c.pairs.filter fun p =>
      if key ≥ 12 then 6 ≤ p.2.inp && c.localVc p.1 = key - 12 else p.2.inp = key / 2 && p.2.ivc = key % 2
    match mine.findSome? fun p => s.pairHop cl p.1 p.2 parity with
    | some s => .next s
    | none => .next s

/-- The next token of SW.REPL's input: its place, the ports it passes by, and the token. -/
def Cluster.replHead (c : Cluster) (r : SwRepl) : Option (Nat × Nat × Token) :=
  if r.inp ≤ 5 then ((c.rqueue r.inp r.ivc).head?).map fun t => (0, 0, t.2)
  else ((c.rqueue 6 (c.localVc 16)).zipIdx.find? fun e => e.1.1 % 32 = 16).map fun e => (e.2, e.1.1 / 32, e.1.2)

/-- Where a branch puts a copy: a queue of a router, or of the cluster; nothing while it has no room. -/
def State.branchDest (s : State) (cl : Nat) (b : Nat × Nat × Nat) : Option (Nat × Nat × Nat ⊕ Nat) :=
  if b.1 ≤ 5 then
    match s.hop cl b.1 b.2.1 with
    | .into d p v => if s.routerRoom d p v then some (.inl (d, p, v)) else none
    | _ => none
  else
    let q := Cluster.localQueue b.1 b.2.2
    if ((s.cluster cl).queue q).length < 4 then some (.inr q) else none

/-- SW_REPL_TOKEN: a token leaves the replication point when every branch it goes to has room (R113). -/
def execSwReplToken (cl : Nat) (s : State) : Out :=
  let c := s.cluster cl
  match c.swRepl with
  | none => .next s
  | some r =>
    match c.replHead r with
    | none => .next s
    | some (i, skip, t) =>
      let ds := (r.br.filter fun b => !(b.1 ≤ 5 && skip.testBit b.1)).map (s.branchDest cl)
      if !s.routerRuns cl || ds.any Option.isNone then .next s
      else
        let vc := c.localVc 16
        let c := if r.inp ≤ 5 then c.setRqueue r.inp r.ivc (c.rqueue r.inp r.ivc).tail
          else c.setRqueue 6 vc ((c.rqueue 6 vc).eraseIdx i)
        let c := if r.inp ≤ 5 && r.br.any (·.1 ≤ 5) then c.note 80 t.kind else c
        .next (ds.foldl (fun s d =>
          match d with
          | some (.inl (d, p, v)) => s.routerPush d p v t
          | some (.inr q) => s.onCluster cl fun c => c.pushQ q t
          | none => s) (s.setCluster cl c))

/-- LINK_SPILL: a token of a spilling link enters the crown when the link's far queue is full or others wait there, or the
oldest leaves for the far queue (R62). -/
def execLinkSpill (cl pair : Nat) (back : Bool) (s : State) : Out :=
  let c := s.cluster cl
  match c.pairs.find? fun p => p.1 = pair && p.2.spill with
  | none => .next s
  | some (_, r) =>
    let sp := c.spillOf pair
    if !s.routerRuns cl then .next s
    else
      match s.hop cl r.out r.ovc with
      | .into d p v =>
        if back then
          match sp.toks with
          | t :: ts =>
            if s.routerRoom d p v then
              let sp' : Spill := ⟨ts, sp.accepting || ts.length ≤ 16 * r.lo⟩
              .next ((s.setCluster cl ({ c with spill := c.spill.set pair sp' }.noteCross pair r t)).routerPush d p v t)
            else .next s
          | [] => .next s
        else enter s c r sp (!s.routerRoom d p v || !sp.toks.isEmpty)
      | .held => if back then .next s else enter s c r sp true
      | _ => .next s
where
  enter (s : State) (c : Cluster) (r : RoutePair) (sp : Spill) (need : Bool) : Out :=
    match c.pairHead pair r with
    | some (i, t) =>
      if need && sp.accepting && sp.toks.length < c.spillDepth r.out r.ovc then
        let ts := sp.toks ++ [t]
        let sp' : Spill := ⟨ts, ts.length < 16 * r.hi⟩
        .next (s.setCluster cl { c.popPair r i with spill := c.spill.set pair sp' })
      else .next s
    | none => .next s

/-! ## Skips (R332) -/

/-- SKIP_PARK: the next token of the skip link is written to the crown with its target position, while the parking has
room. -/
def execSkipPark (cl : Nat) (s : State) : Out :=
  let c := s.cluster cl
  match s.hostOf cl, c.swPark with
  | some (l, b, row, col), some k =>
    match c.pairs.find? fun p => p.2.out = k.port && p.2.ovc = k.vc with
    | some (n, r) =>
      match c.pairHead n r with
      | some (i, t) =>
        let stage (p : Nat) : Nat := p % max 1 b.depth
        let used := b.parked.countP fun p => p.col = col && p.skip = k.skip && stage (p.pos - p.skip) = stage (b.row row).p
        if s.routerRuns cl && used < 16 * k.pdepth then
          let tok : Parked := ⟨(b.row row).p + k.skip, col, k.skip, t⟩
          .next ((s.setCluster cl ((c.popPair r i).noteCross n r t)).onBand l fun b => { b with parked := b.parked ++ [tok] })
        else .next s
      | none => .next s
    | none => .next s
  | _, _ => .next s

/-- The first parked token that can leave: its target position is RESIDENT with room at up VC 1, and no earlier token of
its link and position waits (R332). -/
def State.releasable (s : State) (b : Band) : Option (Nat × Parked × Nat) :=
  b.parked.zipIdx.findSome? fun (p, i) =>
    if (b.parked.take i).any fun q => q.col = p.col && q.pos = p.pos && q.skip = p.skip then none
    else
      (b.rowAt p.pos).bind fun r =>
        let cl := b.cluster r p.col
        if s.routerRoom cl 4 1 then some (i, p, cl) else none

/-- PARKED_TOKEN_RELEASE (R332). -/
def execParkedTokenRelease (job lid : Nat) (s : State) : Out :=
  match s.live job lid with
  | some l =>
    match l.placed with
    | some b =>
      if l.status ≠ 0 || l.cancelled || l.ending.isSome || b.frozen then .next s
      else
        match s.releasable b with
        | some (i, p, cl) =>
          .next ((s.routerPush cl 4 1 p.tok).onBand l fun b => { b with parked := b.parked.eraseIdx i })
        | none => .next s
    | none => .next s
  | none => .next s

/-! ## RELATCH (R47) -/

/-- Every request of the units of a row has been acknowledged: no write of an address generator or of SW.VERT is on its way. -/
def State.rowAcked (s : State) (cls : List Nat) : Bool :=
  let ids := (cls.map fun cl => vertAgent cl :: [0, 1, 2, 3].map (s.agAgent cl)).flatten
  !(s.posted.any fun p => ids.contains p.agent) && !(s.twig.any fun w => ids.contains w.agent)

/-- RELATCH_TOKEN: the token passes a row of a band; its address generators give up their latched bases, those of a position
that a pre-emption found RESIDENT there included. It waits behind the configuration waves of a pinned band, at a row in
LOADING, in a frozen band, and until the row's requests are acknowledged (R47, R328, R349). -/
def execRelatchToken (job lid row : Nat) (s : State) : Out :=
  match s.live job lid with
  | some l =>
    match l.placed with
    | some b =>
      let cls := b.rowClusters row
      let waves := !b.scroll && b.stageRows.any fun r => !s.configured b r
      if b.relatch ≠ some row || b.frozen || waves || (b.row row).st = .loading || !s.rowAcked cls then .next s
      else
        let stage := (b.row row).p % max 1 b.depth
        let s := cls.foldl (fun s cl => s.onCluster cl Cluster.dropBases) s
        .next (s.onBand l fun b => { b with
          relatch := if row + 1 < b.height then some (row + 1) else none
          saved := b.saved.map fun v =>
            if (b.row row).resumed && v.stage = stage then { v with row := v.row.map Cluster.dropBases } else v })
    | none => .next s
  | none => .next s

end Sys2Proof.Machine
end

