-- ==== Sys2Proof/Machine/RootSys.lean ====
section
/-!
DEFINITION. System instructions of the root core: traps by instruction, return, system registers, invalidation, clocks,
FORFEIT (R239 to R241, R290 to R293, R33).
-/
namespace Sys2Proof.Machine

/-! ## System registers as words (R35, R238, R239, R241) -/

def Task.running : Task → Bool
  | .none => false
  | _ => true

/-- SYS_STATUS (R239). -/
def Core.statusWord (c : Core) : Word :=
  BitVec.ofNat 64 ((if c.task.running then 4 else 0) + (if c.ppriv then 2 else 0) + (if c.priv then 1 else 0))

/-- SYS_CAUSE (R239). -/
def Core.causeWord (c : Core) : Word := BitVec.ofNat 64 (c.level * 256 + c.code)

/-- SYS_CLOCK (R239). -/
def State.clockWord (s : State) (c : Core) : Word := BitVec.ofNat 64 ((if s.turn then 2 ^ 24 else 0) + c.pts)

/-- A channel the picker can start: bound, unmasked, with a resumable task, or with a message and no deferred task
(R237). -/
def Channel.startable (ch : Channel) : Bool :=
  ch.entry.isSome && !ch.mask &&
    (match ch.deferred with
     | some d => d.ready
     | none => !ch.queue.isEmpty)

/-- A channel that SYS_CHPRI.PEND counts: bound, unmasked, with a pending message or a resumable task (R238). -/
def Channel.pending (ch : Channel) : Bool :=
  ch.entry.isSome && !ch.mask && (!ch.queue.isEmpty || (ch.deferred.map (·.ready)).getD false)

/-- SYS_CHPRI (R238). -/
def Core.chpriWord (c : Core) : Word :=
  let (rch, rpri) := match c.task with
    | .chan k => (k, (c.chan k).pri)
    | _ => (0, 0)
  let pend := (List.range 8).foldl (fun n p =>
    if c.chans.any fun q => q.2.pending && q.2.pri = p then n + 2 ^ p else n) 0
  BitVec.ofNat 64 (rch * 2 ^ 16 + rpri * 2 ^ 8 + pend)

/-- A read of a system register (R291); SYS_CYCLE counts on by a number of cycles the model leaves free (log 6). -/
def State.sysRead (s : State) (r : SysReg) : Word × State :=
  let c := s.me
  match r with
  | .status => (c.statusWord, s)
  | .cause => (c.causeWord, s)
  | .epc => (c.epc, s)
  | .eval => (c.eval, s)
  | .vbase => (c.vbase, s)
  | .asid => (BitVec.ofNat 64 c.asid, s)
  | .tbase => (BitVec.ofNat 64 c.tbase, s)
  | .job => (BitVec.ofNat 64 c.job, s)
  | .clock => (s.clockWord c, s)
  | .cycle =>
    let n := (c.cycle + Config.extraCycles s.fresh) % 2 ^ 64
    (BitVec.ofNat 64 n, { s.setMe { c with cycle := n } with fresh := s.fresh + 1 })
  | .chpri => (c.chpriWord, s)
  | .waypart => (s.waypartWord c, s)
  | .turnstall => (BitVec.ofNat 64 (s.stalls.getD (coreTower s.actor) 0), s)

/-- The ZERO fields of a written value are zero (R35, R239, R241, R56). -/
def sysZeroOk (r : SysReg) (v : Word) : Bool :=
  match r with
  | .status => bits v 63 3 = 0
  | .epc | .vbase => bits v 2 0 = 0
  | .asid | .job => bits v 63 16 = 0
  | .tbase => bits v 63 52 = 0 && bits v 11 0 = 0
  | .waypart => waypartZeroOk v
  | .cause | .eval | .clock | .cycle | .chpri | .turnstall => true

/-- A write of a system register: RO fields ignore it (R291). SYS_CLOCK is only raised (R240). -/
def State.sysWrite (s : State) (r : SysReg) (v : Word) : State :=
  let c := s.me
  match r with
  | .status => s.setMe { c with priv := bitAt v 0, ppriv := bitAt v 1 }
  | .epc => s.setMe { c with epc := v, eahead := [] }
  | .eval => s.setMe { c with eval := v }
  | .vbase => s.setMe { c with vbase := v }
  | .asid => s.setMe { c with asid := v.toNat }
  | .tbase => s.setMe { c with tbase := v.toNat }
  | .job => s.setMe { c with job := v.toNat }
  | .clock => (s.setMe (c.raise (bits v 23 0))).noteClock (c.raise (bits v 23 0)).pts
  | .cycle =>
    -- A timer keeps its remaining cycles (R240, R279).
    let shift (ch : Channel) : Channel := { ch with timer := ch.timer.map fun d => v.toNat + (d - c.cycle) }
    s.setMe { c with cycle := v.toNat, chans := c.chans.mapVals shift }
  | .waypart => s.waypartWrite v
  | .turnstall => { s with stalls := s.stalls.set (coreTower s.actor) v.toNat }
  | .cause | .chpri => s

/-- SYSWR of register r: privilege (R159), the ZERO fields, the write, the next word (R291). -/
def State.sysWriteExec (s : State) (r : SysReg) (a : Reg) : Out :=
  let v := s.me.get a
  if r.privWrite && !s.me.priv then .next (s.trap .privileged)
  else if !sysZeroOk r v then .next (s.trap .reservedField)
  else
    let s := s.sysWrite r v
    .next (s.setMe s.me.advance)

/-! ## Instructions -/

/-- BREAK with SYS_EVAL = code and bit 32 set (R290). -/
def execTrap (code : BitVec 32) (s : State) : Out := .next (s.trap .break 0 ((1 : BitVec 32) ++ code))

/-- BREAK with SYS_EVAL = code (R290). -/
def execBrk (code : BitVec 32) (s : State) : Out := .next (s.trap .break 0 ((0 : BitVec 32) ++ code))

/-- The return from a trap; without privilege PRIVILEGED (R161, R239). -/
def execEret (s : State) : Out :=
  if s.me.priv then .next (s.setMe s.me.eret) else .next (s.trap .privileged)

def execSysrd (d : Reg) (r : SysReg) (s : State) : Out :=
  if r.privRead && !s.me.priv then .next (s.trap .privileged)
  else
    let (v, s) := s.sysRead r
    s.result d v

def execSyswr (r : SysReg) (a : Reg) (s : State) : Out := s.sysWriteExec r a

/-- pts := max(pts, PTS) (R240). -/
def execSysClockWrite (a : Reg) (s : State) : Out := s.sysWriteExec .clock a

/-- The count is set, and counting continues (R240). -/
def execSysCycleWrite (a : Reg) (s : State) : Out := s.sysWriteExec .cycle a

/-- Walk-cache entries that an invalidation drops (R292). -/
def walkInvalid (scope : TlbScope) (asid : Nat) (w : WalkEntry) : Bool :=
  match scope with
  | .all => true
  | .asid | .page => w.asid = asid

def execNop (s : State) : Out := s.skip

/-- pts raised to gA[23:0], then gD := SYS_CLOCK (R293). -/
def execClock (d a : Reg) (s : State) : Out :=
  let v := bits (s.me.get a) 23 0
  let c := s.me.raise v
  ((s.setMe c).noteClock c.pts).result d (s.clockWord c)

/-! ## FORFEIT (R33) -/

/-- The context of the acting core (R35). -/
def State.coreCtx (s : State) : Ctx :=
  let c := s.me
  ⟨coreTower s.actor, c.pts, c.asid, c.tbase, c.priv⟩

/-- The line reset at t: its data, STATE I, no owner, a new version (R33). -/
def State.forfeitLine (s : State) (l t : Nat) (zero : Bool) : State :=
  let li := s.line l
  let old := if zero then li.old else (s.pushVersion l li).old
  let li := { LineInfo.reset with wts := t, rts := t, old := old }
  let s := s.setLine l (li.stamp s.turn t t)
  if zero then { s with mem := s.mem.clear (128 * l) 128, hbm := s.hbm.clear (128 * l) 128 }
  else { s with mem := s.mem.copyFrom s.hbm (128 * l) 128 }

/-- FORFEIT. The reset takes its t from the shared clock of the home agents (R19) and from the core's pts (R33), and raises both
to t (DEDUCED, log 20); the HBM data of a fenced owner's line is read with its symbols corrected (R20). -/
def execForfeit (d a : Reg) (s : State) : Out :=
  let c := s.me
  let va := c.get a &&& ~~~0x7F
  if !c.priv then .next (s.trap .privileged)
  else
    let post (x : Xlate) (pa : Nat) : Option (Code × Nat) :=
      if x.mtype ≠ 0 || !(windowOf pa = .hbm || windowOf pa = .unbacked) then some (.permission, x.level)
      else if s.isFenced (pkgOf pa) then some (.ownerFenced, 0)
      else none
    match s.translate s.coreCtx c.tlb 256 needStore post va.toNat with
    | .fault code lv => .next (s.trap code lv va)
    | .wait s => .next s
    | .ok pa _ tlb s =>
      let s := s.setMe { s.me with tlb := tlb }
      let l := lineOf pa
      let li := s.line l
      let r : Nat :=
        if li.bad then 2
        else if li.owned && s.isFenced (li.owner / 4) then 1
        else 0
      if windowOf pa = .unbacked then (s.logPa 4 pa).result d 0
      else if r = 0 then s.result d 0
      else
        let t := max (max c.pts (s.homeClock (pkgOf pa))) (s.recRts l + 1)
        if t > Config.maxClock then .next (s.stallTurn (coreTower s.actor))
        else
          let s := if r = 1 then s.readHbm pa else s
          let s := ((s.forfeitLine l t (r = 2)).setHomeClock (pkgOf pa) t).noteClock t
          (s.setMe (s.me.raise t)).result d (BitVec.ofNat 64 r)

end Sys2Proof.Machine
end

