-- ==== Sys2Proof/Machine/RootTask.lean ====
section
/-!
DEFINITION. Tasks and channels: the picker, starting and resuming a task, and the instructions on channels (R236 to R238,
R276 to R279).
-/
namespace Sys2Proof.Machine

/-- A channel whose deferred task is resumable. -/
def Channel.resumable (ch : Channel) : Bool := (ch.deferred.map (·.ready)).getD false

/-- The channels from k + 1 round to k. -/
def ring (k : Nat) : List Nat := (List.range 64).map fun i => (k + 1 + i) % 64

/-- The channel the picker chooses: the highest priority that has one, and round-robin within it (R237, log 3). -/
def Core.pickChannel (c : Core) : Option Nat :=
  [7, 6, 5, 4, 3, 2, 1, 0].findSome? fun p =>
    (ring (c.lastAt.getD p 63)).find? fun k => (c.chan k).startable && (c.chan k).pri = p

/-- g3 to g15 of a new task: each its old value or 0, a free choice (R234, log 5). -/
def State.scramble (s : State) (n : Nat) : List Nat → State
  | [] => s
  | r :: rs =>
    let (k, s) := s.choose 2
    let s := if k = 0 then s else s.setCore n ((s.core n).putNat r 0)
    s.scramble n rs

/-- The picker dequeues a message and starts the channel's task (R73, R234, R237). -/
def execTaskStart (core : Nat) (s : State) : Out :=
  let c := s.core core
  match c.task, c.halted, c.pickChannel with
  | .none, false, some k =>
    let ch := c.chan k
    match ch.resumable, ch.queue, ch.entry with
    | false, m :: q, some pc =>
      let c := (c.setChan k { ch with queue := q }).raise m.clock
      let c := { c with task := .chan k, pc := pc, lastAt := c.lastAt.set ch.pri k }
      let c := (c.putNat 1 m.word).putNat 2 (BitVec.ofNat 64 k)
      .next ((s.setCore core c).scramble core (upFrom 3 13))
    | _, _, _ => .next s
  | _, _, _ => .next s

/-- The picker resumes a deferred task: g1 to g15 as they were, at the instruction that deferred (R234, R238). -/
def execTaskResume (core : Nat) (s : State) : Out :=
  let c := s.core core
  match c.task, c.halted, c.pickChannel with
  | .none, false, some k =>
    let ch := c.chan k
    match ch.deferred with
    | some d =>
      if d.ready then
        let c := (c.setChan k { ch with deferred := none }).putList 1 (d.regs.take 15)
        .next (s.setCore core { c with task := .chan k, pc := d.pc, ahead := d.ahead, lastAt := c.lastAt.set ch.pri k })
      else .next s
    | none => .next s
  | _, _, _ => .next s

/-! ## Instructions on tasks and channels (R276 to R279) -/

/-- The task ends, with no deferred task (R276). -/
def execTend (s : State) : Out := .next (s.setMe s.me.endTask)

/-- The next message of the running task's channel, or a deferral (R276). -/
def execHold (d : Reg) (s : State) : Out :=
  let c := s.me
  match c.task with
  | .chan k =>
    match (c.chan k).queue with
    | m :: q =>
      let c := (c.setChan k { c.chan k with queue := q }).raise m.clock
      .next (s.setMe ((c.put d m.word).advance))
    | [] => s.defer .message
  | _ => s.defer .message

/-- The entry address; 0 unbinds and discards the deferred task (R277). -/
def execCbind (k : BitVec 6) (a : Reg) (s : State) : Out :=
  let c := s.me
  let v := c.get a
  if v.toNat % 8 ≠ 0 then .next (s.trap .misaligned 0 v)
  else
    let ch := c.chan k.toNat
    let ch := if v = 0 then { ch with entry := none, deferred := none } else { ch with entry := some v }
    .next (s.setMe (c.setChan k.toNat ch).advance)

def execCpri (k : BitVec 6) (p : BitVec 3) (s : State) : Out :=
  let c := s.me
  .next (s.setMe (c.setChan k.toNat { c.chan k.toNat with pri := p.toNat }).advance)

def execCmask (k : BitVec 6) (m : Bool) (s : State) : Out :=
  let c := s.me
  .next (s.setMe (c.setChan k.toNat { c.chan k.toNat with mask := m }).advance)

/-- The message enters the core's outgoing queue of 8 (R278). -/
def execCsend (d a b : Reg) (k : BitVec 6) (s : State) : Out :=
  let c := s.me
  let target := (c.get a).toNat % 256
  if Config.cores ≤ target then s.result d 2
  else if 8 ≤ c.out.length then s.result d 1
  else (s.setMe { c with out := c.out ++ [⟨.core s.actor, target, k.toNat, ⟨c.get b, c.pts⟩⟩] }).result d 0

/-- The channel's timer armed for gA[31:0] cycles of the core's clock; 0 cancels it (R279). -/
def execTimer (k : BitVec 6) (a : Reg) (s : State) : Out :=
  let c := s.me
  let n := bits (c.get a) 31 0
  let t := if n = 0 then none else some (c.cycle + n)
  .next (s.setMe (c.setChan k.toNat { c.chan k.toNat with timer := t }).advance)

/-! ## Messages on their way (R236, R278, R279) -/

/-- A message enters the queue it is for, when that has room (R236). -/
def State.deliver (s : State) (m : Mail) : Option State :=
  let c := s.core m.core
  let ch := c.chan m.chan
  if ch.queue.length < 8 then some (s.setCore m.core (c.setChan m.chan { ch with queue := ch.queue ++ [m.msg] }))
  else none

/-- CHANNEL_MESSAGE_ARRIVAL: the head of a core's outgoing queue, which a halted core holds, or the oldest message that another
source holds, enters its channel's queue, or stays at its source while that is full (R236, R345). -/
def execChannelMessageArrival (src : MsgSource) (s : State) : Out :=
  match src with
  | .core n =>
    match (s.core n).halted, (s.core n).out with
    | false, m :: r =>
      match (s.setCore n { s.core n with out := r }).deliver m with
      | some s => .next s
      | none => .next s
    | _, _ => .next s
  | .held i =>
    match s.mail[i]?.filter fun m => (s.mail.take i).all fun x => x.src ≠ m.src with
    | some m =>
      match State.deliver { s with mail := s.mail.eraseIdx i } m with
      | some s => .next s
      | none => .next s
    | none => .next s

/-- TIMER_EXPIRY: the core's cycle count has reached the timer's; a message with the count and clock 0 is sent (R73,
R279). A halted core's timers do not count (R345). -/
def execTimerExpiry (core chan : Nat) (s : State) : Out :=
  let c := s.core core
  let ch := c.chan chan
  match ch.timer, c.halted with
  | some d, false =>
    let n := max c.cycle d
    let c := (c.setChan chan { ch with timer := none })
    .next ((s.setCore core { c with cycle := n }).post (.timer core chan) core chan (BitVec.ofNat 64 n) 0)
  | _, _ => .next s

end Sys2Proof.Machine
end

