-- ==== Sys2Proof/Machine/Ending.lean ====
section
/-!
DEFINITION. Pools and pending queues (R314), reservations (R61), the end of a launch (R54, R74, R282, R319), and the lines a
stream covers (R318).
-/
namespace Sys2Proof.Machine

/-! ## Pools (R314) -/

/-- A snapshot in the pending queue. -/
def Launch.pending (l : Launch) : Bool := l.entry.isNone && l.st ≠ .ended && !l.isBarrier

/-- O: the pool entries that hold snapshots not yet ended. -/
def State.poolUse (s : State) (n : Nat) : Nat := (s.ofJob n).countP fun l => l.entry.isSome && l.st ≠ .ended

/-- An arm, with .RES or without, is admitted into an entry. -/
def Job.admits (j : Job) (o : Nat) (res : Bool) : Bool := o + (if res then 0 else j.reserve) < j.pooln

/-- The least number that a list does not hold. -/
def lowestFree (used : List Nat) : Nat := ((List.range (used.length + 1)).find? fun n => !used.contains n).getD 0

/-- The pool entry that the next admission of a job takes. -/
def State.freeEntry (s : State) (n : Nat) : Nat :=
  lowestFree (((s.ofJob n).filter fun l => l.st ≠ .ended).filterMap (·.entry))

/-- The scheduler's words of a snapshot in the pending queue: ARMED and STATE (R312). -/
def LaunchSt.num : LaunchSt → Nat
  | .waiting => 0
  | .eligible => 1
  | .running => 2
  | .ended => 3

/-- Word 0 of a snapshot as memory holds it (R312). -/
def Launch.word0 (l : Launch) : Word :=
  l.word 0 ||| BitVec.ofNat 64 ((if l.st = .ended then 0 else 2 ^ 63) + l.st.num * 2 ^ 61)

/-- Word 0 written to the snapshot's slot of the pending queue, when it lies there (R312, R321). -/
def State.noteSnapshot (s : State) (l : Launch) : Acc :=
  match l.pq, s.job l.job with
  | some i, some j => s.jobWrite j (j.pqbase + 128 * i) (leBytes 8 l.word0.toNat)
  | _, _ => .ok [] 0 s

/-- A pending snapshot that the pool can still admit. -/
def Launch.admissible (l : Launch) : Bool := l.pending && l.status = 0 && !l.cancelled && l.ending.isNone

/-- O once the snapshots that a freed entry admits are in the pool: each time the oldest that the rule admits (R314). -/
def State.poolDue (s : State) (n : Nat) (j : Job) : Nat :=
  ((s.ofJob n).filter Launch.admissible).foldl (fun o l => if j.admits o l.res then o + 1 else o) (s.poolUse n)

/-- The next pending snapshot enters the pool, its words as its slot of the pending queue holds them, or as armed when the page no
longer serves; l, whose end freed an entry, has done its part once none is left (R314). -/
def State.admitNext (s : State) (l : Launch) : Out :=
  let stop : Out := .next (s.setLaunch { l with ending := none })
  match s.job l.job with
  | none => stop
  | some j =>
    match (s.ofJob l.job).find? fun x => x.admissible && j.admits (s.poolUse l.job) x.res with
    | none => stop
    | some x =>
      let enter (ws : List Word) (s : State) : Out :=
        .next (s.setLaunch { x with words := ws, entry := some (s.freeEntry l.job), pq := none })
      match x.pq with
      | none => enter x.words s
      | some i =>
        match s.jobRead j s.jobCheck (j.pqbase + 128 * i) 128 with
        | .ok bs _ s =>
          let ws := (entriesOf 16 bs).map (BitVec.ofNat 64)
          enter ((nth ws 0 0 &&& ~~~(BitVec.ofNat 64 (7 * 2 ^ 61))) :: ws.drop 1) s
        | .fault _ _ => enter x.words s
        | .wait s => .next s

/-! ## Reservations (R61) -/

/-- The crown bank above a cluster's twig column, as a number of the package (R9). -/
def crownKey (cl : Nat) : Nat := 64 * clTower cl + clBank cl

/-- Spill and parking depths that a frame declares, in tokens (R221, R228). -/
def frameDepths (f : Frame) : List Nat :=
  if Frame.layout f = 1 && Frame.unit f = 2 then
    ([0, 1, 2, 3].map (muSpillOf f)).filterMap fun g => if g.en then some (16 * g.depth) else none
  else if Frame.layout f = 2 && Frame.unit f = 3 then [16 * (swParkOf f).pdepth]
  else []

/-- The rows that stage st of a band comes to lie in: of a scrolling one those of its positions (R324). -/
def Band.rowsOf (b : Band) (st : Nat) : List Nat :=
  if b.scroll then firsts ((List.range b.height).map fun w => (w * b.depth + st) % b.height) else [st]

/-- The depths that the frames of a band's stages declare, in stage and image order, each with its stage and column. -/
def Band.depths (b : Band) : List (Nat × Nat × Nat) :=
  (b.images.zipIdx.map fun (fs, st) =>
    ((fs.filter fun f => Frame.col f < b.width).map fun f => (frameDepths f).map fun n => (n, st, Frame.col f)).flatten).flatten

/-- The demands of a band: each declared depth, once in every bank that its link comes to lie under (R61, R324). -/
def Band.demands (b : Band) : List Demand :=
  (b.depths.map fun (n, st, c) =>
    let cls := (b.rowsOf st).map fun r => b.cluster r c
    (firsts (cls.map crownKey)).map fun k => ⟨k, n, (cls.find? fun cl => crownKey cl = k).getD 0, st⟩).flatten

/-- Tokens that a bank's spill ways hold (R61); a repartition in progress counts the lesser of both (R57). -/
def State.spillCap (s : State) (key : Nat) : Nat :=
  let b := s.bank (key / 64) (key % 64)
  let n := match b.next with
    | some (_, _, n, _) => min n b.spill
    | none => b.spill
  if b.offline then 0 else 14560 * n

/-- Tokens that demands ask of a bank. -/
def asked (ds : List Demand) (key : Nat) : Nat := sumNat ((ds.filter (·.bank = key)).map (·.tokens))

/-- The first demand with which a bank's capacity is passed (R61). -/
def State.demandFault (s : State) (ds : List Demand) : Option Demand :=
  ds.zipIdx.findSome? fun (d, i) => if s.spillCap d.bank < asked (ds.take (i + 1)) d.bank then some d else none

/-- The reservations of other launches leave room. -/
def State.demandFits (s : State) (ds : List Demand) : Bool :=
  ds.all fun d => asked ds d.bank + (s.bank (d.bank / 64) (d.bank % 64)).reserved ≤ s.spillCap d.bank

/-- Reservations made, or released. -/
def State.reserve (s : State) (ds : List Demand) (release : Bool) : State :=
  ds.foldl (fun s d =>
    let b := s.bank (d.bank / 64) (d.bank % 64)
    s.setBank (d.bank / 64) (d.bank % 64)
      { b with reserved := if release then b.reserved - d.tokens else b.reserved + d.tokens }) s

/-! ## Bands released (R273, R319) -/

/-- A cluster that no launch holds any more. -/
def Cluster.freed (c : Cluster) : Cluster := { c.bare with launch := none, ports := [] }

/-- The agent that posts the writes of a row's save (R335); it is no agent of R65. -/
def saveAgent (cl : Nat) : Nat := 2 ^ 33 + cl

/-- The writes of an agent that have left it are performed. -/
def State.performAll (s : State) (agent : Nat) : State :=
  (s.drainPosted agent).twigPerform fun w => w.agent = agent

/-- The agents of a cluster: its address generators, SW.VERT, and the saves of the row it begins. -/
def State.agentsOf (s : State) (cl : Nat) : List Nat :=
  [0, 1, 2, 3].map (s.agAgent cl) ++ [vertAgent cl, saveAgent cl]

/-- A band on the fabric is given up: its writes performed, its clusters free, its reservations released. -/
def State.releaseBand (s : State) (b : Band) : State :=
  if b.context.isSome then s
  else
    let s := ((b.clusters.map s.agentsOf).flatten).foldl State.performAll s
    let s := b.clusters.foldl (fun s cl => s.onCluster cl Cluster.freed) s
    s.reserve b.asked true

/-- The region entries of a launch removed (R49). -/
def State.dropRegions (s : State) (job lid : Nat) : State :=
  { s with regions := s.regions.mapVals fun l => l.filter fun r => !(r.job = job && r.lid = lid) }

/-! ## The lines of a stream (R84, R318) -/

/-- The least and greatest in-range coordinates that tiles cover along a dimension. -/
def Shp.span (sh : Shp) (d : Nat) : Option (Int × Int) :=
  let n : Int := sh.count d
  let a : Int := max 1 (sh.adv d)
  let e : Int := nth sh.extent d 0
  let cs := (List.range (nth sh.tile d 0)).filterMap fun t =>
    let o : Int := nth sh.start d 0 + (t * sh.spread d : Nat)
    let lo := max 0 ((a - 1 - o) / a)
    let hi := min (n - 1) ((e - 1 - o) / a)
    if lo ≤ hi then some (o + lo * a, o + hi * a) else none
  match cs with
  | [] => none
  | c :: cs => some (cs.foldl (fun m x => min m x.1) c.1, cs.foldl (fun m x => max m x.2) c.2)

/-- The lines of the smallest line-aligned range that holds every in-range element: the first, and how many (R318). -/
def Shp.range (sh : Shp) : Nat × Nat :=
  let spans := sh.ranks.map sh.span
  if spans.any Option.isNone then (0, 0)
  else
    let ends := spans.zipIdx.map fun (x, d) =>
      let (lo, hi) := x.getD (0, 0)
      if d = 0 && sh.bitsOf = 4 then (lo / 2, hi / 2)
      else
        let k := nth sh.stride d 0
        (min (lo * k) (hi * k), max (lo * k) (hi * k))
    let base := sextNat 64 sh.base
    let lo := ends.foldl (fun m x => m + x.1) base
    let hi := ends.foldl (fun m x => m + x.2) base + sh.elemBytes
    ((lo / 128 % 2 ^ 57).toNat, ((hi + 127) / 128 - lo / 128).toNat)

/-- What an access of the scheduler for a stream finds: nothing usable, a wait, or a value. -/
inductive Found (α : Type) where
  | bad (s : State)
  | wait (s : State)
  | ok (x : α) (s : State)

/-- The covering range of a stream, its shape record read as a walk reads a table line; bad for a record that cannot be
read or is no shape (R40, R318). -/
def State.streamRange (s : State) (j : Job) (l : Launch) (n : Nat) : Found (Nat × Nat) :=
  match s.jobPeek j l.start (l.stream n) 128 with
  | .ok bs _ s =>
    let x : Shape := BitVec.ofNat 1024 (leNat bs)
    if shapeLegal x then .ok (shpOf x).range s else .bad s
  | .wait s => .wait s
  | .fault _ _ => .bad s

/-- A virtual line's physical address, when it lies in HBM on a page that `ok` lets pass. -/
def State.streamLine (s : State) (ctx : Ctx) (need : Need) (ok : Xlate → Nat → Option (Code × Nat)) (line : Nat) : Found Nat :=
  let va := line % 2 ^ 57 * 128
  match s.translate ctx [] 0 need ok (va % 2 ^ 64) with
  | .ok pa _ _ s => if windowOf pa = .hbm then .ok pa s else .bad s
  | .wait s => .wait s
  | .fault _ _ => .bad s

/-- The physical lines of a range of k virtual lines, as runs of neighbours; pages that cannot be translated give none, at most
fuel pages. No line is accessed, so that none of them faults (R49). -/
def State.lineRuns (s : State) (ctx : Ctx) (line k : Nat) : Nat → Found (List (Nat × Nat))
  | 0 => .ok [] s
  | fuel + 1 =>
    if k = 0 then .ok [] s
    else
      let m := min k (32 - line % 32)
      match s.streamLine ctx needLoad.look jobPage line with
      | .wait s => .wait s
      | .bad s => s.lineRuns ctx (line + m) (k - m) fuel
      | .ok pa s =>
        match s.lineRuns ctx (line + m) (k - m) fuel with
        | .ok ((a, c) :: r) s => if a = lineOf pa + m then .ok ((lineOf pa, m + c) :: r) s else .ok ((lineOf pa, m) :: (a, c) :: r) s
        | .ok [] s => .ok [(lineOf pa, m)] s
        | r => r

/-! ## The end of a launch (R319) -/

/-- The launches of a launch's graph (R311). -/
def State.graphOf (s : State) (l : Launch) : List Launch :=
  if l.signalCounter = 0 then [l] else (s.ofJob l.job).filter fun x => x.signalCounter = l.signalCounter

/-- The tower of a launch's band; 0 for a launch without one. -/
def Launch.tower (l : Launch) : Nat := (l.band.map (·.tower)).getD 0

/-- The context of the scheduler's accesses as a launch's agent, with a clock. -/
def State.endCtx (s : State) (j : Job) (l : Launch) (clock : Nat) : Ctx :=
  { s.jobCtx j with tower := l.tower, pts := clock }

/-- The streams that the end of a launch discards, as launch and stream: those with USE 2 of its graph, when no other launch of
the graph is left whose end has not begun (R54, R319). -/
def State.deadStreams (s : State) (l : Launch) : List (Nat × Nat) :=
  let g := s.graphOf l
  if g.any fun x => x.id ≠ l.id && x.st ≠ .ended && x.ending.isNone then []
  else (g.map fun x => ((List.range 4).filter fun n => x.use n = 2 && x.stream n ≠ 0).map fun n => (x.id, n)).flatten

/-- The covering range of stream n of a launch: as its placement formed it, else formed now (R318, R319). -/
def State.deadRange (s : State) (j : Job) (l : Launch) (n : Nat) : Found (Nat × Nat) :=
  match l.ranges.find? (·.1 = n) with
  | some (_, line, k) => .ok (line, k) s
  | none => s.streamRange j l n

/-- Step 3: the launch-done message, or the DONE entry of a host-armed launch with its vector (R319, R377, R378). -/
def State.announce (s : State) (j : Job) (l : Launch) (clock : Nat) : State :=
  match l.core with
  | some n =>
    if ((s.core n).chan 62).entry.isSome then
      s.post .scheduler n 62 (BitVec.ofNat 64 (l.status % 256 * 2 ^ 32 + l.id % 2 ^ 32)) clock
    else s
  | none =>
    let q := s.regs.donq.getD j.vf []
    let e : Word := BitVec.ofNat 64 (2 ^ 63 + l.status % 256 * 2 ^ 32 + l.id % 2 ^ 32)
    let msix := if q.isEmpty then s.regs.msix.set (4 * j.vf) true else s.regs.msix
    { s with regs := { s.regs with donq := s.regs.donq.set j.vf (q ++ [e]), msix := msix } }

/-- The final clocks of the address generators on a band (R74). -/
def State.bandClock (s : State) (b : Band) : Nat :=
  let ags (c : Cluster) : List Nat := c.ags.vals.map (·.pts)
  let on := if b.context.isSome then [] else (b.clusters.map fun cl => ags (s.cluster cl)).flatten
  let off := ((b.context.getD []).flatten.map ags).flatten
  let saved := ((b.saved.map (·.row)).flatten.map ags).flatten
  (on ++ off ++ saved).foldl max 0

/-- The completion clock of a launch; without an address generator, its start clock (R74; DESIGN CHOICE, log 24). -/
def State.completionClock (s : State) (l : Launch) : Nat :=
  max (max l.start l.clock) ((l.band.map s.bandClock).getD 0)

/-- A fault of a unit of a launch's band. -/
def FaultItem.ofLaunch (f : FaultItem) (job lid : Nat) : Bool :=
  f.job = job && bits (nth f.words 0 0) 31 0 = lid &&
    (match f.unit with
     | .copy _ _ | .none => false
     | _ => true)

/-- Step 3 can be taken: a DONE queue of 64 entries has room; a message waits at its source (R236, R319, R377). -/
def State.canTell (s : State) (j : Job) (l : Launch) : Bool := l.core.isSome || (s.regs.donq.getD j.vf []).length < 64

/-- The launch's end begins: a completed launch takes every step of R319, a failed one skips 1 and 2, a cancelled one 1 to 3. -/
def State.beginEnd (s : State) (l : Launch) (how : Ending) : Out :=
  let first : EndStep := match how with
    | .completed => .discard (s.deadStreams l) 0 0
    | .failed => .tell
    | .cancelled => .count
  .next (s.setLaunch { l with clock := s.completionClock l, ending := some (how, first) })

/-- An ended launch: what is left of its record. -/
def Launch.gone (l : Launch) (how : Ending) : Launch :=
  { l with
    st := .ended
    entry := none
    pq := none
    band := none
    images := []
    watch := none
    cancelled := l.cancelled || how = .cancelled
    ending := some (how, .refill) }

/-- The rest of step 4: STATE in the pending queue, the region entries, the reservations, the pool entry and the band; a barrier
that completes is the job's last (R285, R319). -/
def State.closeEnd (s : State) (l : Launch) (how : Ending) (j : Job) : Out :=
  (s.noteSnapshot { l with st := .ended }).after s fun s =>
    let s := (s.dropRegions l.job l.id).dropFaults fun f => f.ofLaunch l.job l.id
    let s := (l.band.map s.releaseBand).getD s
    let s := match s.reserved with
      | some (a, b, _) => if a = l.job && b = l.id then { s with reserved := none } else s
      | none => s
    let s := if l.isBarrier && how = .completed then
        { s with jobs := s.jobs.set l.job { j with barrier := max j.barrier (l.order + 1) } }
      else s
    .next (s.setLaunch (l.gone how))

/-- One move of a launch's end: one line discarded, one counter incremented, the message, or the rest (R66, R319). -/
def State.endStep (s : State) (l : Launch) (how : Ending) (e : EndStep) : Out :=
  match s.job l.job with
  | none => .next (s.setLaunch { l.gone how with ending := none })
  | some j =>
    let go (clock : Nat) (e : EndStep) (s : State) : Out := .next (s.setLaunch { l with clock := clock, ending := some (how, e) })
    let ctx := s.endCtx j l l.clock
    match e with
    | .discard ss line (k + 1) =>
      match s.streamLine ctx needStore s.jobCheck line with
      | .bad s => go l.clock (.discard ss (line + 1) k) s
      | .wait s => .next s
      | .ok pa s =>
        match s.discardStep l.clock pa with
        | some (t, s) => go (max l.clock t) (.discard ss (line + 1) k) s
        | none => .next (s.stallTurn l.tower)
    | .discard ((id, n) :: ss) _ 0 =>
      match (s.launch? l.job id).map fun x => s.deadRange j x n with
      | some (.ok (line, k) s) => go l.clock (.discard ss line k) s
      | some (.wait s) => .next s
      | some (.bad s) => go l.clock (.discard ss 0 0) s
      | none => go l.clock (.discard ss 0 0) s
    | .discard [] _ 0 => go l.clock .signal s
    | .signal =>
      if l.signalCounter = 0 then go l.clock .tell s
      else (s.countUp ctx l.signalCounter l.clock).after s (go l.clock .tell)
    | .tell => if s.canTell j l then go l.clock .count (s.announce j l l.clock) else .next s
    | .count => (s.countUp ctx j.ended l.clock).after s (go l.clock .close)
    | .close => s.closeEnd l how j
    | .refill => s.admitNext l

/-- A launch that breaks a rule before it is placed fails at once with CONFIG_ILLEGAL (R313, R316, R319). -/
def State.failEarly (s : State) (l : Launch) (place : Option (Nat × Nat)) : State :=
  s.failLaunch l .configIllegal (place.map fun p => p.2) ((place.map (·.1)).getD 0) 0 { src := 7 }

/-! ## RELATCH (R47) -/

/-- The running launches with a band, of the jobs of an address space. -/
def State.bandsOf (s : State) (asid : Nat) : List Launch :=
  s.launches.filter fun l =>
    l.st = .running && l.band.isSome && (match s.job l.job with | some j => j.asid == asid | none => false)

/-- The bands of an address space that a RELATCH token is in. -/
def State.relatching (s : State) (asid : Nat) : Nat :=
  (s.bandsOf asid).countP fun l => match l.placed with | some b => b.relatch.isSome | none => false

/-- The address generators of a band on the fabric hold no latched base. -/
def State.dropBases (s : State) (b : Band) : State := b.clusters.foldl (fun s cl => s.onCluster cl Cluster.dropBases) s

/-- The saved latches of a pre-empted band marked invalid. -/
def Band.dropLatches (b : Band) : Band :=
  { b with
    context := b.context.map fun x => x.map fun row => row.map Cluster.dropBases
    saved := b.saved.map fun v => { v with row := v.row.map Cluster.dropBases } }

end Sys2Proof.Machine
end

