-- ==== Sys2Proof/Machine/Arming.lean ====
section
/-!
DEFINITION. Arming a launch (R284, R312, R314 to R316), cancels (R285), and admission and retirement of jobs (R321, R322,
R362).
-/
namespace Sys2Proof.Machine

/-! ## Arming -/

/-- What an arm gives: no such job or template, a full pending queue, a wait, or the launch's id, and whether it is virtualised. -/
inductive Armed where
  | noTemplate
  | full
  | wait (s : State)
  | ok (id : Nat) (virt : Bool) (s : State)
  deriving DecidableEq, Repr

/-- A launch as a template gives it: ARMED and STATE of the template are ignored (R312). -/
def newLaunch (id job : Nat) (words : List Word) (core : Option Nat) (res : Bool) (start order : Nat) : Launch where
  id := id
  job := job
  words := (nth words 0 0 &&& ~~~(BitVec.ofNat 64 (7 * 2 ^ 61))) :: words.drop 1
  st := .waiting
  core := core
  res := res
  entry := none
  pq := none
  check := .due
  images := []
  start := start
  order := order
  eligible := 0
  band := none
  clock := 0
  status := 0
  cancelled := false
  ending := none
  watch := none
  reached := none
  ranges := []

/-- The watch of a snapshot's WAIT_COUNTER: bad when the counter is misaligned or lies in no coherent page (R316), else the launch
with its watch; a counter of 0 is reached at once with clock 0. -/
def State.watchCounter (s : State) (j : Job) (l : Launch) : Found Launch :=
  if l.waitCounter = 0 then .ok { l with reached := some 0 } s
  else if l.waitCounter % 8 ≠ 0 then .bad s
  else
    match s.translate (s.jobCtx j) [] 0 needLoad.look counterPage l.waitCounter with
    | .ok pa _ _ s => .ok { l with watch := some pa } s
    | .wait s => .wait s
    | .fault _ _ => .bad s

/-- A snapshot's 128 bytes in memory (R312). -/
def snapshotBytes (l : Launch) : List Byte := ((l.word0 :: l.words.drop 1).map fun w => leBytes 8 w.toNat).flatten

/-- The snapshot at its slot of the pending queue (R314, R321); a queue page that no longer serves is left. -/
def State.writePending (s : State) (j : Job) (l : Launch) : Acc :=
  match l.pq with
  | none => .ok [] 0 s
  | some i => s.jobWrite j (j.pqbase + 128 * i) (snapshotBytes l)

/-- A launch is armed: its id taken, an ended launch that had it forgotten; one whose WAIT_COUNTER breaks R313 fails at once
(R284, R314, R316). -/
def State.enlist (s : State) (n : Nat) (j : Job) (l : Launch) (bad : Bool) : State :=
  let s := { s with
    jobs := s.jobs.set n { j with nextId := (j.nextId + 1) % 2 ^ 32 }
    launches := (s.launches.filter fun x => !(x.job = n && x.id = l.id && x.st == LaunchSt.ended)) ++ [l]
    armed := s.armed + 1 }
  if bad then s.failEarly l none else s

/-- An arm of template t of job n, with or without .RES, with a start clock, by a root core or the host. It comes after the ends
that freed entries before it: what these admit counts in O (R284, R314 to R316). -/
def State.arm (s : State) (n t : Nat) (res : Bool) (start : Nat) (core : Option Nat) : Armed :=
  match s.job n with
  | none => .noTemplate
  | some j =>
    match j.templates[t]? with
    | none => .noTemplate
    | some words =>
      let l := newLaunch j.nextId n words core res start s.armed
      let pend := (s.ofJob n).filter Launch.pending
      let virt := !l.isBarrier && !j.admits (s.poolDue n j) res
      if virt && j.pqcap ≤ pend.length then .full
      else
        let l := { l with
          entry := if virt || l.isBarrier then none else some (s.freeEntry n)
          pq := if virt then some (lowestFree (pend.filterMap (·.pq))) else none }
        let finish (l : Launch) (bad : Bool) (s : State) : Armed :=
          match s.writePending j l with
          | .wait s => .wait s
          | .fault _ _ => .ok l.id virt (s.enlist n j l bad)
          | .ok _ _ s => .ok l.id virt (s.enlist n j l bad)
        match s.watchCounter j l with
        | .wait s => .wait s
        | .ok l s => finish l false s
        | .bad s => finish l true s

/-- The result of LARM (R284). -/
def armWord (id : Nat) (virt : Bool) : Word := BitVec.ofNat 64 (id + if virt then 2 ^ 32 else 0)

/-! ## Templates (R284, R362) -/

/-- LPATCH on a job's copy of a template: 0, or 1 when PATCH_MASK forbids the word, or 2 without such a template. -/
def State.patch (s : State) (n t w : Nat) (v : Word) : Nat × State :=
  match s.job n with
  | none => (2, s)
  | some j =>
    match j.templates[t]? with
    | none => (2, s)
    | some words =>
      if (nth words 0 0).getLsbD w then
        (0, { s with jobs := s.jobs.set n { j with templates := j.templates.set t (words.set w v) } })
      else (1, s)

/-! ## Cancels (R285) -/

/-- A launch that a cancel stops: one that has not ended, nor begun to end otherwise (R285). -/
def Launch.cancelledBy (l : Launch) (j : Job) (lv : CancelLevel) (arg : Word) : Bool :=
  l.st ≠ .ended && l.status = 0 && (match l.ending with | none => true | some e => e.1 = .cancelled) &&
  (match lv with
   | .launch => l.id = bits arg 31 0
   | .graph => l.signalCounter ≠ 0 && l.signalCounter = arg.toNat
   | .phase => j.barrier ≤ l.order
   | .job => true)

/-- The copy jobs that a job's root cores issued: engine and slot. -/
def State.copyJobsOf (s : State) (n : Nat) : List (Nat × Nat) :=
  (s.engines.map fun (e, x) => (x.slots.filter fun p => p.2.st ≠ .free && p.2.job = n).map fun p => (e, p.1)).flatten

/-- A copy job stopped by a cancel: its writes performed, its slot free (R285). -/
def State.copyStop (s : State) (e k : Nat) : State :=
  let s := s.performAll (s.jobAgent e k)
  s.copyRelease e k (s.copyJob e k).pts 0

/-- CANCEL reaches the scheduler: the launches that it stops, which act no more, and how many they are; each then ends by
LAUNCH_COMPLETE as a cancelled one (R285, R319). -/
def State.cancel (s : State) (n : Nat) (lv : CancelLevel) (arg : Word) : Nat × State :=
  match s.job n with
  | none => (0, s)
  | some j =>
    let ls := (s.ofJob n).filter fun l => l.cancelledBy j lv arg
    let s := if lv = .job then
        let s := (s.copyJobsOf n).foldl (fun s (e, k) => s.copyStop e k) s
        { s with cores := s.cores.mapVals fun c => { c with watches := c.watches.filter fun w => w.job ≠ n } }
      else s
    (ls.length, ls.foldl (fun s l => s.setLaunch { l with cancelled := true }) s)

/-- A cancel of job n is still under way: some launch that it stopped has not ended. -/
def State.cancelling (s : State) (n : Nat) (lv : CancelLevel) (arg : Word) : Bool :=
  match s.job n with
  | none => false
  | some j => (s.ofJob n).any fun l => l.cancelled && l.cancelledBy j lv arg

/-! ## Descriptors (R321, R322) -/

/-- The fields of a descriptor's 16 words. -/
def jobOf (w : List Word) : Job :=
  let f (i hi lo : Nat) : Nat := bits (nth w i 0) hi lo
  { asid := f 0 47 32, vf := f 0 31 24, ceiling := f 0 23 21, drainwin := f 0 20 15, tbase := f 1 63 0,
    tmplBase := f 2 63 0, tcount := f 3 47 32, pooln := f 3 31 16, reserve := f 3 15 0, pqbase := f 4 63 0,
    pqcap := f 5 31 0, fqbase := f 6 63 0, ctlcore := f 7 39 32, fqn := f 7 31 0, ended := f 8 63 0,
    ctxbase := f 9 63 0, ctxper := f 10 63 0, templates := [], nextId := 0, faults := 0, barrier := 0 }

/-- The fields in range and aligned, the ZERO fields zero (R321, R35). -/
def descriptorOk (w : List Word) : Bool :=
  let j := jobOf w
  let z (i hi lo : Nat) : Bool := bits (nth w i 0) hi lo = 0
  z 0 63 48 && z 0 14 0 && z 3 63 48 && z 5 63 32 && z 7 63 40 && (w.drop 11).all (· = 0) &&
  j.vf ≤ 128 && j.drainwin ≤ 40 && j.tbase / 2 ^ 52 = 0 && j.tbase % 4096 = 0 && windowOf j.tbase = .hbm &&
  j.tmplBase % 128 = 0 && 1 ≤ j.tcount && j.tcount ≤ 1024 && 1 ≤ j.pooln && j.pooln ≤ 1024 && j.reserve < j.pooln &&
  j.pqbase % 128 = 0 && j.pqcap ≤ 65536 && j.fqbase % 64 = 0 && j.ctlcore < Config.cores && j.fqn ≠ 0 &&
  j.ended % 8 = 0 && j.ctxbase % 4096 = 0 && j.ctxper % 4096 = 0

/-- A page as code 4 wants it: mapped to a coherent page of an HBM window with RD and WR (R322). -/
def State.pageServes (s : State) (j : Job) (va : Nat) : Found Unit :=
  match walkFrom s (s.jobCtx j) (va % 2 ^ 57) [] 5 j.tbase with
  | .leaf lf s =>
    let x := lf.xlate j.asid (va % 2 ^ 57) false
    if canonical va && x.permits needBoth true && x.mtype = 0 && windowOf (x.phys (va % 2 ^ 57)) = .hbm then .ok () s else .bad s
  | .wait s => .wait s
  | .fault _ _ => .bad s

/-- Every 4 KiB page that n bytes at a VA touch. -/
def pagesOf (va n : Nat) : List Nat :=
  if n = 0 then [] else (upFrom (va / 4096) ((va + n - 1) / 4096 + 1 - va / 4096)).map (4096 * ·)

/-- Every page of a list serves. -/
def State.pagesServe (s : State) (j : Job) : List Nat → Found Unit
  | [] => .ok () s
  | va :: vas =>
    match s.pageServes j va with
    | .ok _ s => s.pagesServe j vas
    | r => r

/-- Every page of the regions that a descriptor names (R322 code 4). -/
def Job.regionPages (j : Job) : List Nat :=
  ([(j.fqbase, 64 * j.fqn), (j.pqbase, 128 * j.pqcap), (j.ctxbase, j.ctxper * j.pooln), (j.ended, 8)].map fun r =>
    pagesOf r.1 r.2).flatten

/-- 8-byte words of a run of bytes. -/
def wordsOf (n : Nat) (bs : List Byte) : List Word := (entriesOf n bs).map (BitVec.ofNat 64)

/-- JOBCTL after its request: BUSY clear, with a reason for a refusal; what a write refused meanwhile has set stays (R322). -/
def State.jobctlDone (s : State) (code : Nat) : State :=
  let v := s.regs.jobctl
  let err := if code = 0 then bits v 62 62 * 2 ^ 62 + bits v 59 56 * 2 ^ 56 else 2 ^ 62 + code * 2 ^ 56
  { s with regs := { s.regs with admitting := none, jobctl := BitVec.ofNat 64 (err + bits v 61 60 * 2 ^ 60 + bits v 15 0) } }

/-- The request that JOBCTL holds: BUSY with an action, 1 admit or 2 retire, for a job number. -/
def State.jobRequest (s : State) (act n : Nat) : Bool :=
  let v := s.regs.jobctl
  bitAt v 63 && bits v 61 60 = act && bits v 15 0 = n

/-- The descriptor at JOBDESC read and checked; one outside HBM, or on an uncorrectable or fenced line, cannot be read and is refused
with code 3 (R321, R322; DESIGN CHOICE, log 93). -/
def State.readDescriptor (s : State) : Out :=
  let pa := s.regs.jobdesc.toNat
  if windowOf pa ≠ .hbm || (s.lineFault pa).isSome then .next (s.jobctlDone 3)
  else if !s.reachable pa then .next s
  else
    match s.touch pa with
    | none => .next (s.stallTurn (homeOf pa % 4))
    | some s =>
      let (bs, _, s) := s.homeLoad pa 128
      let ws := wordsOf 16 bs
      if !descriptorOk ws then .next (s.jobctlDone 3)
      else
        match s.pagesServe (jobOf ws) (jobOf ws).regionPages with
        | .bad s => .next (s.jobctlDone 4)
        | .wait s => .next s
        | .ok _ s => .next { s with regs := { s.regs with admitting := some (jobOf ws) } }

/-- The next template read; with the last the job is recorded. One that cannot be read, or has PATCH_MASK bit 0 set, is refused
(R322, R362). -/
def State.readTemplate (s : State) (n : Nat) (j : Job) : Out :=
  match s.jobRead j s.readCheck (j.tmplBase + 128 * j.templates.length) 128 with
  | .fault _ _ => .next (s.jobctlDone 5)
  | .wait s => .next s
  | .ok bs _ s =>
    let ws := wordsOf 16 bs
    let j := { j with templates := j.templates ++ [ws] }
    if (nth ws 0 0).getLsbD 0 then .next (s.jobctlDone 5)
    else if j.templates.length < j.tcount then .next { s with regs := { s.regs with admitting := some j } }
    else .next (State.jobctlDone { s with jobs := s.jobs.set n j } 0)

/-- JOB_ADMIT, one access of the home agent a move: the descriptor is read with uncached loads and checked, with its regions; the
templates are read; the job is recorded with an empty pool and an empty pending queue (R66, R322). -/
def execJobAdmit (job : Nat) (s : State) : Out :=
  if !s.jobRequest 1 job then .next s
  else if (s.job job).isSome then .next (s.jobctlDone 2)
  else
    match s.regs.admitting with
    | none => s.readDescriptor
    | some j => s.readTemplate job j

/-- JOB_RETIRE: a job with no launch and no copy job left is removed (R322). -/
def execJobRetire (job : Nat) (s : State) : Out :=
  if !s.jobRequest 2 job then .next s
  else if (s.job job).isNone then .next (s.jobctlDone 2)
  else if ((s.ofJob job).any fun l => l.st ≠ .ended) || !(s.copyJobsOf job).isEmpty then .next (s.jobctlDone 6)
  else
    .next (State.jobctlDone { s with
      jobs := s.jobs.del job
      launches := s.launches.filter fun l => l.job ≠ job
      faultq := s.faultq.filter fun f => f.job ≠ job } 0)

end Sys2Proof.Machine
end

