-- ==== Sys2Proof/Machine/ArrayFile.lean ====
section
/-!
DEFINITION. The accumulator file of a contraction array (R141, R149, R273).
-/
namespace Sys2Proof.Machine

namespace Arr

/-- The address of an element: bank, row, column (R149). -/
def elemAddr (bank row col : Nat) : Nat := 4096 * bank + 64 * row + col

/-- An accumulator element; unlisted elements are +0 (R273). -/
def elem (a : Arr) (bank row col : Nat) : Nat := a.acc.getD (elemAddr bank row col) 0

def setElem (a : Arr) (bank row col v : Nat) : Arr := { a with acc := a.acc.set (elemAddr bank row col) v }

/-- The 64 TOUCHED bits of a bank, bit r for row r. -/
def touchBits (a : Arr) (bank : Nat) : Nat := a.touched.getD bank 0

def isTouched (a : Arr) (bank row : Nat) : Bool := (a.touchBits bank).testBit row

def touch (a : Arr) (bank row : Nat) : Arr :=
  { a with touched := a.touched.set bank ((a.touchBits bank).lor (2 ^ row)) }

/-- Every element of a bank +0 and every TOUCHED bit 0 (R149, R273). -/
def clearBank (a : Arr) (bank : Nat) : Arr :=
  { a with
    acc := a.acc.filter fun p => p.1 / 4096 ≠ bank
    touched := a.touched.set bank 0 }

/-- A bank that is being drained (R149). -/
def draining (a : Arr) (bank : Nat) : Bool :=
  match a.drain with
  | some d => d.bank = bank
  | none => false

end Arr

end Sys2Proof.Machine
end

