-- ==== Sys2Proof/Machine/Array.lean ====
section
/-!
DEFINITION. The contraction array (R140 to R155, R229 to R233, R309): loading and swapping planes, passes, rescales,
drains, end tokens at its inputs, chains, and column repair.
-/
namespace Sys2Proof.Machine

/-! ## Configuration -/

namespace Cluster

/-- CT.ACC, or its fields at 0 with no drain (R231). -/
def accCfg (c : Cluster) : CtAcc := c.ctAcc.getD ⟨0, 0, false, 8, 0, 0, 0⟩

/-- arr.q carries a Q stream (R229). -/
def qStream (g : CtCfg) : Bool := g.qmode = 1 || g.qmode = 2

end Cluster

/-- The array of a cluster, when it has CT.CFG, is not blocked, at no fault, and may act (R104, R117, R229). -/
def State.arrayAt (s : State) (cl : Nat) : Option CtCfg :=
  let c := s.cluster cl
  match c.ctCfg with
  | some g =>
    if !c.arr.blocked && !c.arr.stall && s.mayAct cl && (c.done || c.launch.isNone) then some g else none
  | none => none

def State.onArr (s : State) (cl : Nat) (f : Arr → Arr) : State := s.onCluster cl fun c => { c with arr := f c.arr }

/-- What a record says of the array: the inputs arr.p and arr.q as DST bits 9 and 8, and as INDEX the SEQ of the record at
arr.p (R110, R340). -/
def arrInfo (qa qb index : Nat) (detail : List Nat) : FaultInfo :=
  { src := 2, unit := 4, qa := qa, qb := qb, index := index, detail := detail }

def State.arrStall (s : State) (cl : Nat) (code : Code) (u : UnitRef) (i : FaultInfo) : State :=
  (s.onArr cl fun a => { a with stall := true }).stall cl code u i

/-- A class end fault of the array: the array is blocked and its launch fails (R339). -/
def State.arrFail (s : State) (cl : Nat) (code : Code) : State :=
  (s.onArr cl fun a => { a with blocked := true }).failAt cl code (arrInfo 0 0 0 [])

/-! ## Planes (R146, R230) -/

/-- The attributes of a plane: LFMT, SPARSE, KROWS, JCOLS, from the header or the entry. -/
structure PlaneHead where
  fmt : Nat
  sparse : Bool
  krows : Nat
  jcols : Nat
  deriving DecidableEq, Repr

def planeHead (ld : CtLoad) (ts : List Token) : PlaneHead :=
  if ld.hdr then
    let h := (ts.head?.map fun t => t.lane 0).getD 0
    ⟨nbits h 3 0, h.testBit 4, nbits h 10 5, nbits h 17 11⟩
  else ⟨ld.lfmt, ld.sparse, ld.krows, ld.jcols⟩

/-- A header keeps its zero bits and R146. -/
def headerOk (ld : CtLoad) (ts : List Token) : Bool :=
  let h := (ts.head?.map fun t => t.lane 0).getD 0
  let a := planeHead ld ts
  !ld.hdr || (nbits h 31 18 = 0 && planeShapeOk a.fmt a.sparse a.krows a.jcols)

/-- Tokens of the parts of a plane: S, scales, metadata, GRID or BCAST (R230). -/
def planeParts (g : CtCfg) (a : PlaneHead) : List Nat :=
  let kmax := if a.sparse then 32 else 16
  [2 * fmtWidth a.fmt, if a.fmt = 5 then 1 else if a.fmt = 7 then 2 else 0, if a.sparse then 4 else 0,
    if g.qmode = 3 then 2 * fmtWidth g.pfmt else if g.qmode = 4 then (kmax * fmtWidth g.pfmt + 511) / 512 else 0]

/-- The plane that a record's tokens hold. -/
def planeOf (g : CtCfg) (ld : CtLoad) (ts : List Token) : Plane :=
  let a := planeHead ld ts
  let body := if ld.hdr then ts.drop 1 else ts
  let n := planeParts g a
  let part (i : Nat) : List Token := (body.drop ((n.take i).foldl (· + ·) 0)).take (nth n i 0)
  let run (i w count : Nat) : List Nat := (List.range count).map (runElem (part i) w)
  { fmt := a.fmt
    sparse := a.sparse
    krows := a.krows
    jcols := a.jcols
    s := run 0 (fmtWidth a.fmt) 1024
    scales := if a.fmt = 5 then run 1 8 64 else if a.fmt = 7 then run 1 16 64 else []
    nibbles := if a.sparse then run 2 4 512 else []
    q := if g.qmode = 3 then run 3 (fmtWidth g.pfmt) 1024
      else if g.qmode = 4 then run 3 (fmtWidth g.pfmt) (if a.sparse then 32 else 16) else [] }

/-- What a plane's record turns out to be. -/
inductive Loaded where
  | plane (p : Plane)
  | length
  | format
  deriving DecidableEq, Repr

/-- A whole record judged: its header, its length, the order of its metadata indices (R146, R230). -/
def judgePlane (g : CtCfg) (ld : CtLoad) (ts : List Token) : Loaded :=
  if !headerOk ld ts then .format
  else if ts.length ≠ (planeParts g (planeHead ld ts)).foldl (· + ·) (if ld.hdr then 1 else 0) then .length
  else
    let p := planeOf g ld ts
    if p.nibbles.all fun m => m % 4 < m / 4 then .plane p else .format

/-- What a record says of a plane that cannot be loaded: from arr.q that queue, with the SEQ of its record or of the end token
that cuts the record short; from a buffer no queue (R230, R340). -/
def Cluster.planeInfo (c : Cluster) (g : CtCfg) : FaultInfo :=
  let seq (t : Option Token) : Nat := (t.map (·.seq)).getD 0
  let whole := (c.arr.load.getLast?.map Token.isLast).getD false
  if g.role = 0 then arrInfo 0 0 0 []
  else arrInfo 8 0 (seq c.arr.load.head?) [if whole then seq c.arr.load.head? else seq (c.head? 26)]

/-- A record that is no plane: a stall, or with a SKIP to carry out, the plane is discarded (R343). -/
def State.planeBad (s : State) (cl : Nat) (g : CtCfg) (drop : State → State) : Out :=
  if (s.cluster cl).arr.loadSkip then .next ((drop s).onArr cl fun a => { a with load := [], loadSkip := false })
  else .next (s.arrStall cl .streamLengthMismatch (.plane cl) ((s.cluster cl).planeInfo g))

/-- The record's plane in the shadow plane; a wrong one is not taken. -/
def State.takePlane (s : State) (cl : Nat) (g : CtCfg) (ld : CtLoad) (ts : List Token) (drop : State → State) : Out :=
  match judgePlane g ld ts with
  | .plane p => .next ((drop s).onArr cl fun a => { a with shadow := some p, load := [] })
  | .length => s.planeBad cl g drop
  | .format => .next (s.arrFail cl .formatFault)

/-- PLANE_LOAD: with the shadow plane free, the READY slot of buffer SRCB is loaded; or the next token of arr.q is taken,
the plane complete at LAST (R148, R230). -/
def execPlaneLoad (cl : Nat) (s : State) : Out :=
  let c := s.cluster cl
  let a := c.arr
  match s.arrayAt cl, c.ctLoad with
  | some g, some ld =>
    if a.shadow.isSome then .next s
    else if g.role = 0 then
      let t := c.tile ((c.buf ld.srcb).cSlot 0)
      if (c.buf ld.srcb).slots = 0 || t.st ≠ .ready then .next s
      else if t.badLayout then .next (s.arrFail cl .formatFault)
      else s.takePlane cl g ld (c.slotTokens t 0) fun s => s.onCluster cl fun c => c.beginDrain ld.srcb
    else if (a.load.getLast?.map Token.isLast).getD false then s.takePlane cl g ld a.load id
    else
      match c.head? 26 with
      | none => .next s
      | some t =>
        let s' := s.setCluster cl (c.popQ 26)
        if t.isSwitch || t.isReserved then .next (s.arrFail cl .configIllegal)
        else if t.kind = 5 then .next s'
        else if t.isEnd || t.isBoundary then if a.load.isEmpty then .next s' else s.planeBad cl g id
        else
          let ts := a.load ++ [t]
          let s := s'.onArr cl fun a => { a with load := ts }
          if t.isLast then s.takePlane cl g ld ts id else .next s
  | _, _ => .next s

/-- The array stands at a record boundary where a swap is due. Under SWAP 2 the next record must have come, because a MARK
before it belongs to the same boundary (R148). -/
def Cluster.swapPoint (c : Cluster) (g : CtCfg) : Bool :=
  c.arr.swapDue && c.arr.n = 0 && c.arr.pIdx = 0 && (g.swap ≠ 2 || ((c.head? 25).map fun t => decide (t.kind ≤ 1)).getD false)

/-- PLANE_SWAP: at a record boundary, when a swap is due and the shadow plane complete, it becomes the active plane; one
that breaks the pairings performs no pass (R147, R148). -/
def execPlaneSwap (cl : Nat) (s : State) : Out :=
  let a := (s.cluster cl).arr
  match s.arrayAt cl, a.shadow with
  | some g, some p =>
    if !(s.cluster cl).swapPoint g then .next s
    else if !pairOk p.fmt g.pfmt (if Cluster.qStream g then some g.qfmt else none) then .next (s.arrFail cl .formatFault)
    else .next (s.onArr cl fun a => { a with active := some p, shadow := none, swapDue := false })
  | _, _ => .next s

/-! ## Terms of a pass (R143 to R146) -/

/-- The streams hold S8 or RT30, and the accumulators residues (R145, R147). -/
def residueCfg (g : CtCfg) : Bool := g.pfmt = 6 || g.pfmt = 10

/-- The physical row that holds logical k of a column, none when it is pruned (R146). -/
def Plane.physRow (p : Plane) (k j : Nat) : Option Nat :=
  if p.sparse then
    let m := nth p.nibbles (64 * (k / 4) + j) 0
    if m % 4 = k % 4 then some (2 * (k / 4)) else if m / 4 = k % 4 then some (2 * (k / 4) + 1) else none
  else some k

/-- widen(S): exact for E2M1 and S4 whatever FTZ is (R123, R146). -/
def Plane.widen (p : Plane) (ftz : Bool) (row j : Nat) : XVal :=
  let s := nth p.s (64 * row + j) 0
  if p.fmt = 5 then
    let e := nth p.scales j 0
    if e = 255 then .nan false else (xmul (decodeVal 5 s false) (.fin false 1 ((e : Int) - 127))).1
  else if p.fmt = 7 then (xmul (decodeVal 7 s false) (decodeFloat 1 (nth p.scales j 0) false)).1
  else decodeVal p.fmt s ftz

/-- The residues of an element: an RT30 lane, or rt_enc of an S8 value (R125, R145). -/
def residuesOf (fmt x : Nat) : List Nat × Flags :=
  if fmt = 10 then rtRead x else rtRead (rtEnc (intOf fmt x))

/-- One term of a column: the codes of p, of q when there is one, with its format, and the place of S. -/
structure Triad where
  p : Nat
  q : Option (Nat × Nat)
  row : Nat
  col : Nat
  deriving DecidableEq, Repr

/-- The triple product of floating-point operands, with NV for Inf × 0 (R139, R144). -/
def Triad.value (t : Triad) (g : CtCfg) (pl : Plane) : XVal × Flags :=
  let p := decodeVal g.pfmt t.p g.ftz
  let q := match t.q with | some (f, x) => decodeVal f x g.ftz | none => .fin false 1 0
  let (a, f) := xmul p q
  let (b, h) := xmul a (pl.widen g.ftz t.row t.col)
  (b, f ||| h)

/-- The triple product by channel (R125, R145). -/
def Triad.residues (t : Triad) (g : CtCfg) (pl : Plane) : List Nat × Flags :=
  let (p, f) := residuesOf g.pfmt t.p
  let (q, h) := match t.q with | some (fm, x) => residuesOf fm x | none => ([1, 1, 1], 0)
  let (w, k) := residuesOf pl.fmt (nth pl.s (64 * t.row + t.col) 0)
  (rtMul (rtMul p q) w, f ||| h ||| k)

/-- trunc_to(x, k) as a multiple of 2^k, toward zero, and whether a nonzero bit was discarded (R139, R144). -/
def truncTo (v : XVal) (k : Int) : Int × Bool :=
  match v with
  | .fin s m e =>
    let n := if k ≤ e then m * 2 ^ (e - k).toNat else m / 2 ^ (k - e).toNat
    (if s then -(n : Int) else n, !isInteger m (e - k))
  | _ => (0, false)

/-- tri_sum of an FP32 accumulator and triple products (R144). -/
def triSum (ftz sat : Bool) (a : Nat) (terms : List (XVal × Flags)) : Fl :=
  let xs := terms.map (·.1) ++ [decodeFloat 0 a ftz]
  let invalid := xs.any XVal.isNan || terms.any (fun t => t.2 &&& flagNV ≠ 0) ||
    (xs.any (fun x => x.isInf && x.sign) && xs.any (fun x => x.isInf && !x.sign))
  if invalid then ⟨canonicalNan 0, flagNV⟩
  else
    match xs.find? XVal.isInf with
    | some x => .pure (withSign 0 x.sign 0x7F800000)
    | none =>
      let nz := xs.filter fun x => !x.isZero
      match nz with
      | [] => roundTo 0 ((xs.drop 1).foldl (fun x y => (xadd false x y).1) (xs.headD (.zero false))) (.mode 0) ftz sat
      | x :: r =>
        let lg (v : XVal) : Int := match v with | .fin _ m e => expOf m e | _ => 0
        let k := r.foldl (fun e v => max e (lg v)) (lg x) - 60
        let ts := nz.map fun v => truncTo v k
        let t := (ts.map (·.1)).foldl (· + ·) 0
        (roundTo 0 (.fin (t < 0) t.natAbs k) (.mode 0) ftz sat).with (flagIf (ts.any (·.2)) flagNX)

/-- The new value of an accumulator element from the terms of a pass; with none it stays as it is, a NaN with NV (R143 to
R145). -/
def accumulate (g : CtCfg) (pl : Plane) (a : Nat) (terms : List Triad) : Fl :=
  if terms.isEmpty then ⟨a, if !residueCfg g && (decodeFloat 0 a false).isNan then flagNV else 0⟩
  else if residueCfg g then
    let ts := terms.map fun t => Triad.residues t g pl
    let (x, f) := rtRead a
    ⟨rtLane (ts.foldl (fun r t => rtAdd r t.1) x), ts.foldl (fun f t => f ||| t.2) f⟩
  else triSum g.ftz g.sat a (terms.map fun t => t.value g pl)

/-! ## The layout of a stream (R140, R142) -/

/-- k-values of a pass. -/
def Plane.kmax (p : Plane) : Nat := if p.sparse then 32 else 16

/-- Bits of one pass: KMAX elements of P, or of Q under ROWSTREAM; 64 elements under COLSTREAM. -/
def passBits (kmax w : Nat) : Nat := kmax * w

/-- Tokens that one pass spans, at least 1. -/
def passToks (bits : Nat) : Nat := max 1 (bits / 512)

/-- Passes that one token holds, at least 1. -/
def tokPasses (bits : Nat) : Nat := max 1 (512 / max 1 bits)

/-- The terms of column j of a pass: pass r of tokens ps, pass u of tokens qs (R143). -/
def passTerms (g : CtCfg) (pl : Plane) (ps qs : List Token) (r u j : Nat) : List Triad :=
  let kx := pl.kmax
  let pw := fmtWidth g.pfmt
  let qw := fmtWidth g.qfmt
  (List.range kx).filterMap fun k =>
    if pl.krows ≤ k then none
    else
      match pl.physRow k j, runValid ps pw (r * kx + k) with
      | some row, some p =>
        match g.qmode with
        | 0 => some ⟨p, none, row, j⟩
        | 1 => (runValid qs qw (u * kx + k)).map fun q => ⟨p, some (g.qfmt, q), row, j⟩
        | 2 => (runValid qs qw j).map fun q => ⟨p, some (g.qfmt, q), row, j⟩
        | 3 => some ⟨p, some (g.pfmt, nth pl.q (64 * row + j) 0), row, j⟩
        | _ => some ⟨p, some (g.pfmt, nth pl.q k 0), row, j⟩
      | _, _ => none

/-- The row that pass n writes (R143, R232). -/
def passRow (g : CtCfg) (ac : CtAcc) (n : Nat) : Nat := if g.survive ≤ 1 then (ac.row0 + n) % 64 else ac.row0

/-- The file after a pass, the flags it sets: every element it changes in one event (R141, R143). -/
def Arr.pass (a : Arr) (g : CtCfg) (ac : CtAcc) (pl : Plane) (ps qs : List Token) : Arr × Flags :=
  let row := passRow g ac a.n
  let cols := (List.range pl.jcols).map fun j => (j, passTerms g pl ps qs a.pIdx a.qIdx j)
  let jobs : List (Nat × List Triad) :=
    if g.survive = 0 || g.survive = 2 then cols else [(0, (cols.map (·.2)).flatten)]
  let (b, f) := jobs.foldl (fun (acc : Arr × Flags) (j, ts) =>
    let r := accumulate g pl (a.elem a.bank row j) ts
    (if ts.isEmpty then acc.1 else acc.1.setElem a.bank row j r.bits, acc.2 ||| r.flags)) (a, 0)
  (if cols.any fun c => !c.2.isEmpty then b.touch a.bank row else b, f)

/-! ## Taking tokens, and chains (R152, R233) -/

/-- The cluster of the next array of a chain. -/
def State.chainNext (s : State) (cl : Nat) : Option Nat :=
  match (s.cluster cl).ctChain with
  | some h => if h.pos < h.len then neighbour cl 2 else none
  | none => none

/-- The next array of a chain has room for tokens of P and of Q; no chain, room. -/
def State.chainRoom (s : State) (cl np nq : Nat) : Bool :=
  match s.chainNext cl with
  | some d => ((s.cluster d).queue 25).length + np ≤ 4 && ((s.cluster d).queue 26).length + nq ≤ 4
  | none => true

/-- Tokens taken from an input, and passed to the next array of a chain where the chain carries that input. -/
def State.takeArr (s : State) (cl q n : Nat) (chained : Bool) : State :=
  let ts := ((s.cluster cl).queue q).take n
  let s := s.onCluster cl fun c => (List.range n).foldl (fun c _ => c.popQ q) c
  match s.chainNext cl with
  | some d => if chained then s.onCluster d fun c => ts.foldl (fun c t => c.pushQ q t) c else s
  | none => s

/-! ## Ends of records (R148, R149) -/

/-- The tokens of a drained row: FP32, or S32 by rt_dec; VALID 0 beyond JCOLS and in an untouched row (R149). -/
def Arr.rowTokens (a : Arr) (g : CtCfg) (jcols seq row : Nat) : List Token :=
  let out (j : Nat) : Nat :=
    let x := a.elem a.bank row j
    if residueCfg g then (rtDec (rtRead x).1 % 2 ^ 32).toNat else x
  let on := a.isTouched a.bank row
  let one (js : List (Option Nat)) : Token :=
    Token.ofLanes 0 seq (js.map fun j => if on then j.map out else none)
  if g.survive = 1 || g.survive = 3 then [one (some 0 :: List.replicate 15 none)]
  else (List.range ((jcols + 15) / 16)).map fun i =>
    one ((List.range 16).map fun l => if 16 * i + l < jcols then some (16 * i + l) else none)

/-- The end of a record: under DRAIN 1 the rows it used are to be drained and the next record takes the other bank (R149); a
record boundary for the SWAP policy (R148). -/
def Arr.endRecord (a : Arr) (g : CtCfg) (ac : CtAcc) : Arr :=
  let jcols := (a.active.map (·.jcols)).getD 64
  let rows := if g.survive ≤ 1 then (List.range (min a.n 64)).map (passRow g ac) else [ac.row0]
  let ts := (rows.map (a.rowTokens g jcols a.seq)).flatten
  let ts := ts.zipIdx.map fun (t, i) => if i + 1 = ts.length then { t with kind := 1 } else t
  let a := if ac.drain then { a with drain := some ⟨a.bank, ts⟩, bank := 1 - a.bank } else a
  { a with n := 0, pIdx := 0, qIdx := 0, swapDue := a.swapDue || g.swap = 1 }

/-! ## Heads of the array (R188, R229) -/

/-- The array's inputs hold heads of two kinds: a stall, or with a SKIP to carry out, one handling: each MARK of two ends
discarded, else the valued token (R188, R343). -/
def State.arrMismatch (s : State) (cl : Nat) (p q : Token) : Out :=
  let ends := p.isEnd && q.isEnd
  if (s.cluster cl).arr.skip then
    let drop (s : State) (n : Nat) (t : Token) : State :=
      if (if ends then t.kind = 3 else t.valued) then s.takeArr cl n 1 false else s
    .next (((drop (drop s 25 p) 26 q)).onArr cl fun a => { a with skip := false, pIdx := 0, qIdx := 0 })
  else .next (s.arrStall cl .streamLengthMismatch (.array cl) (arrInfo 9 8 p.seq [p.seq + 2 ^ 16 * q.seq]))

/-- A SWITCH or a token of a reserved kind at an input of the array (R106, R119). -/
def badHead (t : Option Token) : Bool := (t.map fun t => t.isSwitch || t.isReserved).getD false

/-- The first RESCALE of arr.q is consumed and ignored (R231). -/
def Cluster.dropRescale (c : Cluster) : Cluster :=
  match (c.queue 26).findIdx? fun t => t.kind = 5 with
  | some i => c.setQueue 26 ((c.queue 26).eraseIdx i)
  | none => c

/-- Where the array's output goes (R207, R231). -/
def Cluster.drainDest (c : Cluster) : Dest := c.codeDest 15 c.accCfg.dout c.accCfg.doq

/-- The end or boundary token at arr.p, with its partner of a Q stream: CLOSE reaches DOUT at once; MARK and EOS end a
record in progress, and go on after its drain; with DOUT 8 the array is a sink (R149, R211, R231, R309). -/
def State.arrEnd (s : State) (cl : Nat) (g : CtCfg) (t : Token) : Out :=
  let c := s.cluster cl
  let a := c.arr
  let ac := c.accCfg
  let nq := if Cluster.qStream g then 1 else 0
  let take (s : State) : State :=
    let s := s.takeArr cl 25 1 true
    if nq = 1 then s.takeArr cl 26 1 (g.qmode = 1) else s
  if !s.chainRoom cl 1 (if g.qmode = 1 then 1 else 0) then .next s
  else if t.kind = 7 then
    if c.room c.drainDest 1 then .next ((take s).onCluster cl fun c => c.send c.drainDest t) else .next s
  else if a.drain.isSome || a.endTok.isSome || (ac.dout ≠ 8 && !c.room c.drainDest 1) then .next s
  else
    let s := take s
    let s := s.onArr cl fun a => if (a.n ≠ 0 || a.pIdx ≠ 0) && t.isEnd then a.endRecord g ac else a
    let s := s.onArr cl fun a => { a with swapDue := a.swapDue || (t.kind = 3 && g.swap = 2) }
    if ac.dout = 8 then .next (s.onArr cl fun a => { a with eos := a.eos || t.kind = 2 })
    else .next (s.onArr cl fun a => { a with endTok := some t })

/-- What the heads of arr.p and of a Q stream say: a valued token at arr.p may be taken when arr.q agrees; a RESCALE at arr.q
counts as valued, and is ignored (R229, R231). A SWITCH or a token of a reserved kind blocks whatever the other holds. -/
def State.arrHeads (s : State) (cl : Nat) (g : CtCfg) (f : Token → State → Out) : Out :=
  let c := s.cluster cl
  if badHead (c.head? 25) || badHead (c.head? 26) then .next (s.arrFail cl .configIllegal)
  else
    match c.head? 25, if Cluster.qStream g then c.head? 26 else c.head? 25 with
    | none, _ | _, none => .next s
    | some p, some q =>
      if p.valued && q.valued then (if Cluster.qStream g && q.kind = 5 then .next (s.setCluster cl c.dropRescale) else f p s)
      else if p.kind = q.kind then s.arrEnd cl g p
      else if p.isBoundary || q.isBoundary then .next s
      else s.arrMismatch cl p q

/-- The heads after what goes first at arr.q: what is left of a Q token that passes have used goes with the record that an end
token at arr.p ends (R142, R149). -/
def State.arrInputs (s : State) (cl : Nat) (g : CtCfg) (f : Token → State → Out) : Out :=
  let c := s.cluster cl
  let partly := g.qmode = 1 && c.arr.qIdx ≠ 0 && ((c.head? 25).map fun t => t.isEnd).getD false
  if partly then .next ((s.takeArr cl 26 1 true).onArr cl fun a => { a with qIdx := 0 })
  else s.arrHeads cl g f

/-! ## Passes and rescales (R143, R232) -/

/-- NV under TRAPINV holds a pass or a rescale back (R133, R144). -/
def State.arrCommit (s : State) (cl : Nat) (g : CtCfg) (f : Flags) (done : State → State) : Out :=
  if g.trapinv && f &&& flagNV ≠ 0 && !(s.cluster cl).arr.skip then
    .next (s.arrStall cl .fpInvalid (.array cl)
      (arrInfo 0 0 (((((s.cluster cl).head? 25).map (·.seq)).getD 0)) []))
  else .next (((done s).onArr cl fun a => { a with skip := false }).raiseFlags cl f)

/-- One pass of the token or tokens at arr.p with its Q (R140 to R144). -/
def State.arrPass (s : State) (cl : Nat) (g : CtCfg) (pl : Plane) : Out :=
  let c := s.cluster cl
  let a := c.arr
  let ac := c.accCfg
  let pb := passBits pl.kmax (fmtWidth g.pfmt)
  let qb := if g.qmode = 1 then passBits pl.kmax (fmtWidth g.qfmt) else passBits 64 (fmtWidth g.qfmt)
  -- The tokens of this pass of P: a last or short record may hold fewer.
  let ps := ((c.queue 25).take (passToks pb))
  let short := (ps.take 1).any Token.isLast || ps.any fun t => !t.valued
  let ps := if (ps.take 1).any Token.isLast then ps.take 1 else ps.takeWhile Token.valued
  let last := ps.any Token.isLast
  -- The Q tokens that the rest of this token of P takes, at most what arr.q holds (R142, R359).
  let left := tokPasses pb - a.pIdx
  let needed :=
    if g.qmode = 1 then (if passToks qb = 1 then (a.qIdx + left + tokPasses qb - 1) / tokPasses qb else passToks qb * left)
    else if g.qmode = 2 then min 4 (passToks qb * left) else 0
  let qs := (c.queue 26).take needed
  let qNow := if g.qmode = 1 && passToks qb = 1 then qs.take 1 else qs.take (passToks qb)
  let endP := a.pIdx + 1 = tokPasses pb
  let popP := if endP then ps.length else 0
  let qTok := g.qmode = 1 && passToks qb = 1
  let qEnd := a.qIdx + 1 = tokPasses qb || (endP && last)
  let popQn := if g.qmode = 0 || 3 ≤ g.qmode then 0 else if qTok then (if qEnd then 1 else 0) else qNow.length
  if passToks pb = 2 && ((c.queue 25)[1]?).any (·.kind = 5) then
    -- A RESCALE inside a pass of two tokens is consumed before it; RT30 accumulators do not change by it (R232).
    .next (s.setCluster cl (c.setQueue 25 (((c.queue 25).drop 1).take 1 ++ (c.queue 25).take 1 ++ (c.queue 25).drop 2)))
  else if qs.any (·.kind = 5) then .next (s.setCluster cl c.dropRescale)
  else if ps.length < passToks pb && !short then .next s
  else if endP && last && (ac.drain && (a.drain.isSome || a.endTok.isSome)) then .next s
  else if a.draining a.bank then .next s
  else if !s.chainRoom cl popP (if g.qmode = 1 then popQn else 0) then .next s
  else
    match qs.find? fun t => !t.valued with
    | some t => if t.isBoundary then .next s else s.arrMismatch cl (ps.headD (bareToken 0 0)) t
    | none =>
      if qs.length < needed then .next s
      else
        let (b, f) := a.pass g ac pl ps qNow
        s.arrCommit cl g f fun s =>
          let s := s.onArr cl fun x =>
            { x with
              acc := b.acc
              touched := b.touched
              n := a.n + 1
              seq := (ps.head?.map (·.seq)).getD a.seq
              pIdx := if endP then 0 else a.pIdx + 1
              qIdx := if qTok then (if qEnd then 0 else a.qIdx + 1) else 0 }
          let s := if popP ≠ 0 then s.takeArr cl 25 popP true else s
          let s := if popQn ≠ 0 then s.takeArr cl 26 popQn (g.qmode = 1) else s
          if endP && last then s.onArr cl fun a => a.endRecord g ac else s

/-- ARRAY_PASS: the array performs the next pass, or takes the end or boundary token at its inputs; it waits for a plane at
a swap point (R140 to R148, R229). -/
def execArrayPass (cl : Nat) (s : State) : Out :=
  match s.arrayAt cl with
  | none => .next s
  | some g =>
    s.arrInputs cl g fun p s =>
      let a := (s.cluster cl).arr
      match a.active with
      | some pl => if a.swapDue || p.kind = 5 then .next s else s.arrPass cl g pl
      | none => .next s

/-- The elements of a row multiplied by x, with their flags (R176, R232). -/
def Arr.rescale (a : Arr) (g : CtCfg) (row x : Nat) : Arr × Flags :=
  (List.range 64).foldl (fun (acc : Arr × Flags) j =>
    let u := decodeFloat 0 (a.elem a.bank row j) g.ftz
    let v := decodeFloat 0 x g.ftz
    let (p, f) := xmul u v
    let r := (roundTo 0 p (.mode 0) g.ftz g.sat).with (f ||| snanFlags [u, v])
    (acc.1.setElem a.bank row j r.bits, acc.2 ||| r.flags)) (a, 0)

/-- ARRAY_RESCALE: a RESCALE token at arr.p between passes (R231, R232). -/
def execArrayRescale (cl : Nat) (s : State) : Out :=
  match s.arrayAt cl with
  | none => .next s
  | some g =>
    s.arrHeads cl g fun p s =>
      let a := (s.cluster cl).arr
      let ac := (s.cluster cl).accCfg
      if p.kind ≠ 5 || a.pIdx ≠ 0 || a.draining a.bank || !s.chainRoom cl 1 0 then .next s
      else
        let (b, f) :=
          if ac.rsc = 1 && (!residueCfg g) && p.isValid 0 then a.rescale g (passRow g ac a.n) (p.lane 0) else (a, 0)
        s.arrCommit cl g f fun s =>
          (s.onArr cl fun x => { x with acc := b.acc }).takeArr cl 25 1 true

/-- ACCUMULATOR_DRAIN: the next token of a drain is sent, the bank cleared with the last; then the end token that waited
behind it (R149, R231). -/
def execAccumulatorDrain (cl : Nat) (s : State) : Out :=
  let c := s.cluster cl
  let a := c.arr
  match s.arrayAt cl with
  | none => .next s
  | some _ =>
    match a.drain with
    | some ⟨bank, ts⟩ =>
      match ts with
      | [] => .next (s.onArr cl fun a => { a.clearBank bank with drain := none })
      | t :: r =>
        if c.room c.drainDest 1 then
          let s := s.setCluster cl (c.send c.drainDest t)
          .next (s.onArr cl fun a =>
            if r.isEmpty then { a.clearBank bank with drain := none } else { a with drain := some ⟨bank, r⟩ })
        else .next s
    | none =>
      match a.endTok with
      | some t =>
        if c.room c.drainDest 1 then .next ((s.setCluster cl (c.send c.drainDest t)).onArr cl fun a => { a with endTok := none })
        else .next s
      | none => .next s

/-! ## Repair (R155) -/

/-- A corrected event at a cluster (R381). -/
def State.logCluster (s : State) (cl kind detail : Nat) : State :=
  s.logEvent ⟨s.towerId (clTower cl), clLayer cl, clX cl, clY cl, kind, detail⟩

/-- COLUMN_REPAIR: a mismatch in a column retires it to the spare; a second one finds no spare and fails the launch, its pass
unwritten. Every pass of this model is written when it is performed, so none is left to replay (R155). -/
def execColumnRepair (cl col : Nat) (s : State) : Out :=
  let c := s.cluster cl
  if c.ctCfg.isNone || 64 ≤ col then .next s
  else
    match c.arr.retired with
    | some _ => .next (s.arrFail cl .arrayNoSpare)
    | none =>
      let s := s.onArr cl fun a => { a with retired := some col }
      let s := { s with regs := { s.regs with columns := s.regs.columns.set cl col } }
      .next (s.logCluster cl 2 col)

end Sys2Proof.Machine
end

