-- ==== Sys2Proof/Machine/Links.lean ====
section
/-!
DEFINITION. Tower links, graft ports and routes (R366, R367), fencing (R368 to R370), and crown banks off line (R63).
-/
namespace Sys2Proof.Machine

/-- A corrected event of a tower of the package, with a number as its detail. -/
def State.logTower (s : State) (tower kind detail : Nat) : State :=
  s.logEvent ⟨s.towerId (tower % 4), 0, 0, 0, kind, detail % 2 ^ 40⟩

/-! ## Graft ports (R367) -/

/-- GPORT of a port; one that has not trained is down, with PEER 0x3FF. -/
def State.gport (s : State) (p : Nat) : Word := s.regs.gport.getD p (BitVec.ofNat 64 (0x3FF * 2 ^ 53))

def State.setGport (s : State) (p : Nat) (v : Word) : State :=
  { s with regs := { s.regs with gport := s.regs.gport.set p v } }

/-- A port's word: UP with PEER and LANES, or down; RETRIES stay. -/
def gportWord (up : Bool) (peer lanes retries : Nat) : Word :=
  BitVec.ofNat 64 ((if up then 2 ^ 63 + peer % 1024 * 2 ^ 53 + lanes % 16 * 2 ^ 49 else 0x3FF * 2 ^ 53) + retries)

/-- A read of GPORT: RETRIES counts the flits resent meanwhile, as many as they are, and saturates (R367). -/
def State.gportRead (s : State) (p : Nat) : Word × State :=
  let v := s.gport p
  let n := if bitAt v 63 then min (bits v 31 0 + Config.retries s.fresh) 0xFFFFFFFF else bits v 31 0
  let v := BitVec.ofNat 64 (v.toNat / 2 ^ 32 * 2 ^ 32 + n)
  (v, State.setGport { s with fresh := s.fresh + 1 } p v)

/-- GRAFT_PORT_DOWN: a port loses training. -/
def execGraftPortDown (port : Nat) (s : State) : Out :=
  let v := s.gport port
  if port < 12 && bitAt v 63 then
    .next ((s.setGport port (gportWord false 0 0 (bits v 31 0))).logTower (port / 3) 6 port)
  else .next s

/-- GRAFT_PORT_UP: a port is trained with 4 to 8 lanes. -/
def execGraftPortUp (port peer lanes : Nat) (s : State) : Out :=
  if port < 12 && 4 ≤ lanes && lanes ≤ 8 then
    .next (s.setGport port (gportWord true peer lanes (bits (s.gport port) 31 0)))
  else .next s

/-! ## Tower links (R366) -/

/-- A link between two towers, by its lower end. -/
def linkOf (t u : Nat) : Nat × Nat := (min t u, max t u)

/-- TOWER_LINK_BYPASS: a link that cannot be repaired is bypassed through a third tower. -/
def execTowerLinkBypass (t u : Nat) (s : State) : Out :=
  if t = u || 4 ≤ t || 4 ≤ u || s.regs.bypass.contains (linkOf t u) then .next s
  else
    .next (State.logTower { s with regs := { s.regs with bypass := linkOf t u :: s.regs.bypass } } t 3 0)

/-- LINK_LANE_REPAIR: a spare takes the place of a failed lane. -/
def execLinkLaneRepair (t u lane : Nat) (s : State) : Out :=
  if t = u || 4 ≤ t || 4 ≤ u then .next s
  else
    let k := 4 * (linkOf t u).1 + (linkOf t u).2
    .next (State.logTower { s with regs := { s.regs with linkLanes := s.regs.linkLanes.set k lane } } t 3 lane)

/-- BANK_OFFLINE: a lane group of a bank needs a second spare; the bank holds no lines from then on. Bank 64·tower + bank. -/
def execBankOffline (bank : Nat) (s : State) : Out :=
  let t := bank / 64 % 4
  let k := bank % 64
  let b := s.bank t k
  if b.offline then .next s
  else
    let s := (s.bankLines t k false).foldl State.leaveHome s
    let s := (s.bankLines t k true).foldl State.leaveRemote s
    .next ((s.setBank t k { b with offline := true }).logTower t 1 k)

/-! ## Fencing (R368 to R370) -/

/-- The other packages that this one reaches: their ROUTE entries name a port that is up, and they are not fenced (R367, R368). -/
def State.reached (s : State) : List Nat :=
  (List.range 256).filter fun k => k ≠ s.pkg && !s.isFenced k && s.routed k

/-- The fence of package k applied: its bit set, and every copy held here of a line homed on k dropped, so that an owned one has no
value but the backing value any more; a fence of the package's own number is ignored (R368, R369). -/
def State.applyFence (s : State) (k : Nat) : State :=
  if k = s.pkg || s.isFenced k then s
  else
    let drop (l : Nat) (li : LineInfo) : LineInfo :=
      if pkgOf (128 * l) ≠ k then li
      else { li with old := [], copy := if li.owned && li.owner / 4 = s.pkg then .lost else li.copy }
    { s with lines := s.lines.map fun (l, li) => (l, drop l li), fenced := k :: s.fenced }

/-- The unfence of package k applied: its bit cleared. Whether it still holds a line that names it is asked at the line's first
access, because a package that a cold reset cleared holds none (R370, log 33). -/
def State.applyUnfence (s : State) (k : Nat) : State :=
  if !s.isFenced k then s
  else
    let ask (li : LineInfo) : LineInfo := if li.owned && li.owner / 4 = k && li.copy = .held then { li with copy := .asked } else li
    { s with lines := s.lines.mapVals ask, fenced := s.fenced.filter (· ≠ k) }

def State.applyFencing (s : State) (k : Nat) (fence : Bool) : State := if fence then s.applyFence k else s.applyUnfence k

/-- Messages about package k go out to every package that this one reaches but k, which ignores one about itself; FENCECTL waits for
those that are its own (R368, R370). -/
def State.sendFences (s : State) (k : Nat) (fence own : Bool) : State :=
  let ms := (s.reached.filter (· ≠ k)).map fun d => (⟨d, k, fence, own⟩ : FenceMsg)
  { s with regs := { s.regs with fences := s.regs.fences ++ ms } }

/-- FENCECTL's request: BUSY with an action, 1 fence or 2 unfence, for a package. -/
def State.fenceRequest (s : State) (act k : Nat) : Bool :=
  let v := s.regs.fencectl
  bitAt v 63 && bits v 61 60 = act && bits v 7 0 = k

/-- BUSY of FENCECTL clears once no package that can be reached has still to acknowledge (R368). -/
def State.fenceDone (s : State) : State :=
  if s.regs.fences.any (·.own) then s
  else { s with regs := { s.regs with fencectl := s.regs.fencectl &&& ~~~(BitVec.ofNat 64 (2 ^ 63)) } }

/-- A move of the fencing of package k: FENCECTL's request is applied here and its messages go out; while some are out, those to
packages that cannot be reached any more are given up and the first of the others is acknowledged. Without such a request, the
first message about k that was passed on is delivered (R368, R370). -/
def State.fenceMove (s : State) (k : Nat) (fence : Bool) : State :=
  let set (s : State) (ms : List FenceMsg) : State := { s with regs := { s.regs with fences := ms } }
  if s.fenceRequest (if fence then 1 else 2) k then
    if s.regs.fences.any (·.own) then
      let ms := s.regs.fences.filter fun m => !m.own || s.routed m.dest
      (set s (match ms.findIdx? (·.own) with | some i => ms.eraseIdx i | none => ms)).fenceDone
    else ((s.applyFencing k fence).sendFences k fence true).fenceDone
  else
    match s.regs.fences.findIdx? fun m => !m.own && m.pkg = k && m.fence = fence with
    | some i => set s (s.regs.fences.eraseIdx i)
    | none => s

/-- PACKAGE_FENCE (R368). -/
def execPackageFence (pkg : Nat) (s : State) : Out := .next (s.fenceMove pkg true)

/-- PACKAGE_UNFENCE (R370). -/
def execPackageUnfence (pkg : Nat) (s : State) : Out := .next (s.fenceMove pkg false)

/-- FENCE_MESSAGE: another package's fence of package `pkg` arrives, or with 256 added its unfence; it is applied and passed on
once (R368, R370; the numbering is the model's own, log 96). -/
def execFenceMessage (pkg : Nat) (s : State) : Out :=
  let k := pkg % 256
  let fence := pkg < 256
  if 512 ≤ pkg || k = s.pkg || s.isFenced k = fence then .next s
  else .next ((s.applyFencing k fence).sendFences k fence false)

end Sys2Proof.Machine
end

