-- ==== Sys2Proof/Machine/Grove.lean ====
section
/-!
DEFINITION. The grove scheduler: the checks of a snapshot (R313, R329 to R331, R334), eligibility and order (R316), bands
and their placement (R49, R52, R61, R317, R318), the end of launches (R319, R320), fault records (R341), drain trees (R118)
and deadlocks (R111).
-/
namespace Sys2Proof.Machine

/-! ## Bands before placement -/

/-- A place for a band: tower, first layer, column and row origin. -/
structure Spot where
  tower : Nat
  layer : Nat
  x : Nat
  y : Nat
  deriving DecidableEq, Repr

/-- The band that a launch gets at a place, its rows unconfigured (R318, R324, R326). -/
def Launch.bandAt (l : Launch) (p : Spot) : Band where
  tower := p.tower
  layer := p.layer
  x := p.x
  y := p.y
  width := l.width
  height := l.height
  scroll := l.scrolls
  images := l.images
  rows := (List.range l.height).map fun r =>
    ⟨if !l.scrolls && r < l.depth then .resident else .empty, r, 0, false, false, false, []⟩
  eosWave := none
  parked := []
  saved := []
  deadlock := 0
  frozen := false
  closing := false
  leaving := false
  context := none
  resume := false
  relatch := none
  holds := []
  asked := []
  ctxNo := 0
  ctxLines := 0
  ctxDone := 0

/-- Squares of the tree that a band can lie in: twig, branch, bough, layer (R8). -/
def squares : List Nat := [2, 4, 8, 16]

/-- The side of the smallest square of the tree that covers a band; 32 for one that folds (R49, R318). -/
def Band.cover (b : Band) : Nat :=
  if 16 < b.height then 32
  else (squares.find? fun n =>
    b.x / n = (b.x + b.width - 1) / n && b.y / n = (b.y + b.height - 1) / n).getD 32

/-- The tree bank of the smallest subtree that covers a band (R49). -/
def Band.treeBank? (b : Band) : Option Nat :=
  let cl := b.cluster 0 0
  match b.cover with
  | 2 => some (treeBank .twig cl)
  | 4 => some (treeBank .branch cl)
  | 8 => some (treeBank .bough cl)
  | _ => none

/-- The places that R318 allows a band of a width and height, by tower, layer, Y and X. -/
def spotsOf (w h : Nat) : List Spot :=
  ((List.range 4).map fun t => ((List.range 3).map fun l =>
    if h ≤ 16 then
      ((List.range (17 - h)).map fun y =>
        ((List.range 16).filter fun x => x % max 1 w = 0 && x + w ≤ 16).map fun x => (⟨t, l, x, y⟩ : Spot)).flatten
    else if w = 16 && l + (h + 15) / 16 ≤ 3 then [⟨t, l, 0, 0⟩] else []).flatten).flatten

/-! ## Images (R313) -/

/-- 32 bytes of an image as an unprivileged load of the job reads them, by the home agent (R313, R321). -/
def State.imageRead (s : State) (j : Job) (va : Nat) : Acc :=
  match s.translate { s.jobCtx j with priv := false } [] 0 needLoad (s.agentCheck false) va with
  | .fault c l => .fault c l
  | .wait s => .wait s
  | .ok pa _ _ s =>
    match windowOf pa with
    | .hbm =>
      let (bs, t, s) := s.homeLoad pa 32
      .ok bs t s
    | .crown => .ok (s.readScratch pa 32) 0 s
    | _ => .ok (leBytes 32 0) 0 (s.logUnbacked pa)

/-- A frame that makes its unit a sink of the launch (R308, R319). -/
def frameSink (f : Frame) : Bool :=
  match Frame.layout f with
  | 0 =>
    if Frame.unit f ≤ 3 then (slotCfgOf f).dst = 0
    else if Frame.unit f = 5 then (ctAccOf f).dout = 8 else false
  | 1 => Frame.unit f = 0 && (muBufOf f).prod = 1 && (muBufOf f).slots ≠ 0
  | 3 => agSink (bits f 239 236) (agCfgOf f)
  | _ => false

/-! ## Distances (R329 to R331, R334) -/

/-- The skip link of a stage and column: its span. -/
def Band.skipOf (b : Band) (t col : Nat) : Option Nat :=
  ((b.stageCol t col).find? fun f => Frame.layout f = 2 && Frame.unit f = 3).map fun f => (swParkOf f).skip

/-- The span of stage t's feedback link in a column: none without one, some none when it has no receiver or another link of
its column lies between (R329). -/
def Band.feedbackSpan (b : Band) (t col : Nat) : Option (Option Nat) :=
  if b.gives t col 0 1 then
    some ((b.feedbackTo t col).bind fun u =>
      if (upFrom (u + 1) (t - u - 1)).any fun v => b.gives v col 0 1 then none else some (t - u))
  else none

/-- A stage and column that break R329, R330 or R334. -/
def Band.distanceFault (b : Band) : Option (Nat × Nat) :=
  (List.range b.depth).findSome? fun t =>
    match stateOverflow b.width (nth b.images t []) with
    | some c => some (t, c)
    | none =>
      (List.range b.width).findSome? fun c =>
        let badSkip := match b.skipOf t c with
          | some k => !(t + k < b.depth && b.takes (t + k) c 4 1)
          | none => false
        if b.feedbackSpan t c = some none || badSkip then some (t, c) else none

/-- The limits of R331 hold: feedback spans, resident skips, and their sum. -/
def Band.spansFit (b : Band) : Bool :=
  let at' {α : Type} (f : Nat → Nat → Option α) : List α :=
    ((List.range b.depth).map fun t => (List.range b.width).filterMap (f t)).flatten
  let f := ((at' b.feedbackSpan).filterMap id).foldl max 0
  let k := ((at' b.skipOf).filter fun n => n + 3 ≤ b.height).foldl max 1
  f + 3 ≤ b.height && (k + 3 ≤ b.height || k = 1) && f + k + 2 ≤ b.height

/-! ## The checks of a snapshot (R313) -/

/-- A counter VA of a snapshot: zero, or 8-byte aligned in a coherent page. -/
def State.counterOk (s : State) (j : Job) (va : Nat) : Found Unit :=
  if va = 0 then .ok () s
  else if va % 8 ≠ 0 then .bad s
  else
    match s.translate (s.jobCtx j) [] 0 needLoad.look counterPage va with
    | .fault _ _ => .bad s
    | .wait s => .wait s
    | .ok _ _ _ s => .ok () s

/-- The rules that the words of a snapshot keep by themselves. -/
def Launch.wordsOk (l : Launch) : Bool :=
  !bitAt (l.word 0) 0 && bits (l.word 0) 50 49 ≠ 3 && [0, 1, 2, 3].all (fun n => l.stream n % 128 = 0) &&
  (if l.isBarrier then
    l.image = 0 && l.depth = 0 && l.wave = 0 && [0, 1, 2, 3].all fun n => l.use n = 0 && l.stream n = 0
  else
    2 ≤ l.height && l.height ≤ 48 && (l.height ≤ 16 || l.width = 16) && l.depth ≠ 0 &&
      (l.scrollMode || l.depth ≤ l.height) && l.image % 32 = 0)

/-- Bytes of context that a launch can need (R321). -/
def Band.contextNeed (b : Band) : Nat := 81920 * b.width * b.height + 72 * sumNat (b.depths.map (·.1))

/-- The rules of R313 that a snapshot's words and counters keep, before its image is read. -/
def State.checkWords (s : State) (j : Job) (l : Launch) : Found Unit :=
  if !l.wordsOk then .bad s
  else
    match s.counterOk j l.waitCounter with
    | .ok _ s => s.counterOk j l.signalCounter
    | r => r

/-- The rules of R313 that an image breaks, with stage and column when a rule names them; none for a good one. -/
def Launch.imageFault (l : Launch) (j : Job) : Option (Option (Nat × Nat)) :=
  let b := l.bandAt ⟨0, 0, 0, 0⟩
  let noState := b.scroll && l.images.any fun fs =>
    !fs.any fun f => Frame.layout f = 1 && Frame.unit f = 4 && Frame.col f = 0
  if l.images.any (fun fs => !fs.any frameSink) || noState || j.ctxper < b.contextNeed then some none
  else
    match b.distanceFault with
    | some p => some (some p)
    | none => if b.scroll && !b.spansFit then some none else none

/-- The barriers of a job that were armed before a launch have completed; one that failed or was cancelled never does
(R316). -/
def State.barriersDone (s : State) (l : Launch) : Bool :=
  !(s.ofJob l.job).any fun x =>
    x.isBarrier && x.order < l.order && (x.st ≠ .ended || x.status ≠ 0 || x.cancelled)

/-- A snapshot becomes ELIGIBLE with the version of its counter that reaches the target, once earlier barriers are done; the start
clock is fixed, and its checks are due (R74, R313, R316). -/
def State.eligible (s : State) (l : Launch) : Launch :=
  match l.reached with
  | some clock =>
    if l.st = .waiting && !l.isBarrier && l.status = 0 && !l.cancelled && s.barriersDone l then
      { l with st := .eligible, start := max l.start clock, eligible := s.time, check := .due }
    else l
  | none => l

/-- The next frame of a snapshot's image read; with the last the image is checked (R313). -/
def State.readFrame (s : State) (j : Job) (l : Launch) (cur : List Frame) : Out :=
  let n := sumNat (l.images.map List.length) + cur.length
  match s.imageRead j ((l.image + 32 * n) % 2 ^ 64) with
  | .fault _ _ => .next (s.failEarly l none)
  | .wait s => .next s
  | .ok bs _ s =>
    let f : Frame := BitVec.ofNat 256 (leNat bs)
    let cur := cur ++ [f]
    if Frame.layout f ≠ 7 then .next (s.setLaunch { l with check := .reading cur })
    else
      let l := { l with images := l.images ++ [cur], check := .reading [] }
      if l.images.length < l.depth then .next (s.setLaunch l)
      else
        match l.imageFault j with
        | some place => .next ((s.setLaunch l).failEarly l place)
        | none => .next (s.setLaunch { l with check := .made })

/-- LAUNCH_ELIGIBLE: what follows a snapshot's becoming ELIGIBLE, one access a move: STATE in the pending queue, the checks of R313,
the frames of its image (R66, R312, R313). -/
def execLaunchEligible (job lid : Nat) (s : State) : Out :=
  match s.live job lid, s.job job with
  | some l, some j =>
    if l.st ≠ .eligible || l.status ≠ 0 || l.cancelled then .next s
    else
      match l.check with
      | .made => .next s
      | .reading cur => s.readFrame j l cur
      | .due =>
        (s.noteSnapshot l).after s fun s =>
          match s.checkWords j l with
          | .bad s => .next (s.failEarly l none)
          | .wait s => .next s
          | .ok _ s => .next (s.setLaunch { l with images := [], check := .reading [] })
  | _, _ => .next s

/-! ## Order (R316) and fit (R317, R318) -/

/-- A snapshot that waits for a place: ELIGIBLE in a pool entry, or pre-empted and to be resumed (R316, R347). -/
def Launch.seeks (l : Launch) : Bool :=
  l.entry.isSome && l.status = 0 && !l.cancelled &&
    ((l.st = .eligible && l.check = .made) || (l.st = .running && (l.band.map fun b => b.context.isSome && b.resume).getD false))

/-- Effective priority, aged by one every 64 µs (R316). -/
def State.effective (s : State) (l : Launch) : Nat :=
  let ceiling := ((s.job l.job).map (·.ceiling)).getD 0
  min (l.priority + (s.time - l.eligible) / 64) (max l.priority ceiling)

/-- x comes before y: by effective priority, then by arm time (R316). -/
def State.precedes (s : State) (x y : Launch) : Bool :=
  s.effective y < s.effective x || (s.effective x = s.effective y && x.order < y.order)

/-- A band lies in the layer or tower that a reservation names: 3·tower + layer, or 12 + tower (R317). -/
def Band.inArea (b : Band) (area : Nat) : Bool :=
  if 12 ≤ area then b.tower = area - 12
  else b.tower = area / 3 && b.layer ≤ area % 3 && area % 3 < b.layer + (b.height + 15) / 16

/-- Every cluster of a band is free, and no reservation of another launch keeps it (R317, R318). -/
def State.bandFree (s : State) (l : Launch) (b : Band) : Bool :=
  (match s.reserved with
   | some (j, i, area) => (j = l.job && i = l.id) || !b.inArea area
   | none => true) &&
  b.clusters.all fun cl => (s.cluster cl).launch.isNone

/-- The band that a launch takes: of those that fit, the one with the smallest covering subtree, then the lowest tower,
layer, Y and X (R318). -/
def State.findBand (s : State) (l : Launch) : Option Band :=
  let fit := ((spotsOf l.width l.height).map l.bandAt).filter (s.bandFree l)
  [2, 4, 8, 16, 32].findSome? fun n => fit.find? fun b => b.cover = n

/-- A launch would be taken now: a band fits, and its reservations do, or never can (R61, R316). -/
def State.placeable (s : State) (l : Launch) : Bool :=
  match s.findBand l with
  | some b => (s.demandFault b.demands).isSome || s.demandFits b.demands
  | none => false

/-- An ELIGIBLE snapshot in a pool entry whose checks are still under way. -/
def Launch.unchecked (l : Launch) : Bool :=
  l.st = .eligible && l.entry.isSome && l.status = 0 && !l.cancelled && l.check ≠ .made

/-- A launch's turn to be placed: every one before it in the order has been checked and is passed over (R313, R316). -/
def State.turnOf (s : State) (l : Launch) : Bool :=
  !s.launches.any fun x => s.precedes x l && (x.unchecked || (x.seeks && s.placeable x))

/-! ## Dispatch (R318) -/

/-- The frames of a stage put at the clusters of a row, to be applied as the image end passes (R116). -/
def State.sendStage (s : State) (b : Band) (r : Nat) (fs : List Frame) : State :=
  (b.rowClusters r).zipIdx.foldl (fun s (cl, c) =>
    s.onCluster cl fun x => { x with kept := fs.filter fun f => Frame.col f = c, done := false }) s

/-- The clusters of a band taken by a launch. -/
def State.takeBand (s : State) (l : Launch) (b : Band) : State :=
  b.clusters.foldl (fun s cl => s.onCluster cl fun c =>
    { c.freed with launch := some (l.job, l.id) }) s

/-- The covering ranges of the streams that a launch declares, in stream order; a stream whose record cannot be read declares
none (R318). -/
def State.streamRanges (s : State) (j : Job) (l : Launch) : List Nat → Found (List (Nat × Nat × Nat))
  | [] => .ok [] s
  | n :: ns =>
    if l.use n = 3 || l.stream n = 0 then s.streamRanges j l ns
    else
      match s.streamRange j l n with
      | .wait s => .wait s
      | .bad s => s.streamRanges j l ns
      | .ok (line, k) s =>
        match s.streamRanges j l ns with
        | .ok rs s => .ok ((n, line, k) :: rs) s
        | r => r

/-- Step 1: the region entries of the declared streams, in stream order, while the table has room. A range whose pages are no
neighbours takes an entry for each run of physical lines, and pages that cannot be translated take none (R49, R318; DESIGN
CHOICE, log 23). -/
def State.enterRegions (s : State) (j : Job) (l : Launch) (bank : Nat) : List (Nat × Nat × Nat) → Found Unit
  | [] => .ok () s
  | (n, line, k) :: rs =>
    match s.lineRuns (s.jobCtx j) line k (k / 32 + 2) with
    | .wait s => .wait s
    | .bad s => s.enterRegions j l bank rs
    | .ok runs s =>
      let new := runs.map fun r => (⟨l.job, l.id, r.1, r.2, l.use n = 1⟩ : Region)
      State.enterRegions { s with regions := s.regions.set bank ((s.regions.getD bank [] ++ new).take 8) } j l bank rs

/-- The ranges of a launch's streams, and their entries in the table of the bank over its band (R49, R318). -/
def State.declare (s : State) (j : Job) (l : Launch) (b : Band) : Found (List (Nat × Nat × Nat)) :=
  match s.streamRanges j l [0, 1, 2, 3] with
  | .ok rs s =>
    match b.treeBank? with
    | none => .ok rs s
    | some bank =>
      match s.enterRegions j l bank rs with
      | .ok _ s => .ok rs s
      | .bad s => .ok rs s
      | .wait s => .wait s
  | r => r

/-- A launch placed on a band for the first time (R318, R324). -/
def State.place (s : State) (j : Job) (l : Launch) (b : Band) : State :=
  match s.declare j l b with
  | .wait s' | .bad s' => { s' with regions := s.regions }
  | .ok ranges s =>
    let b := { b with asked := b.demands }
    let s := (s.reserve b.asked false).takeBand l b
    let s := if b.scroll then s else b.stageRows.foldl (fun s r => s.sendStage b r (nth b.images r [])) s
    let b := if b.scroll then b else b.stageRows.foldl (fun b r => b.onRow r fun x => { x with image := nth b.images r [] }) b
    let s := match s.reserved with
      | some (a, i, _) => if a = l.job && i = l.id then { s with reserved := none } else s
      | none => s
    s.setLaunch { l with st := .running, band := some b, ranges := ranges }

/-- LAUNCH_DISPATCH (R61, R316, R318). -/
def execLaunchDispatch (job lid : Nat) (s : State) : Out :=
  match s.live job lid, s.job job with
  | some l, some j =>
    if l.st ≠ .eligible || !l.seeks || !s.turnOf l then .next s
    else
      match s.findBand l with
      | none => .next s
      | some b =>
        match s.demandFault b.demands with
        | some d => .next (s.failEarly l (some (d.stage, d.cl)))
        | none => if s.demandFits b.demands then .next (s.place j l b) else .next s
  | _, _ => .next s

/-- Free clusters of a layer (3·tower + layer), or of a tower (12 + tower). -/
def State.freeArea (s : State) (area : Nat) : Nat :=
  let cls := if 12 ≤ area then upFrom (768 * (area - 12)) 768 else upFrom (256 * area) 256
  cls.countP fun cl => (s.cluster cl).launch.isNone

/-- STARVATION_RESERVE: the first snapshot in the order has waited 256 µs since it became ELIGIBLE, and gets the layer, or for
a band that folds the tower, with the largest free area (R317). State.time is the microseconds that have passed (log 6). -/
def execStarvationReserve (job lid : Nat) (s : State) : Out :=
  match s.live job lid with
  | some l =>
    let first := !s.launches.any fun x => x.seeks && s.precedes x l
    if l.st ≠ .eligible || !l.seeks || s.reserved.isSome || !first || s.time < l.eligible + 256 then .next s
    else
      let areas := if 16 < l.height then upFrom 12 4 else List.range 12
      let best := areas.foldl (fun m a => if s.freeArea m < s.freeArea a then a else m) (areas.headD 0)
      .next { s with reserved := some (job, lid, best) }
  | none => .next s

/-- WARM_PREFETCH: a line of a warm region enters the covering tree bank with its record and lease unchanged; one that another
tower is home of enters no tree bank (R16, R31, R50, R52). -/
def execWarmPrefetch (job lid line : Nat) (s : State) : Out :=
  let at' := s.regions.find? fun p => p.2.any fun r =>
    r.job = job && r.lid = lid && r.warm && r.line ≤ line && line < r.line + r.len
  match at' with
  | none => .next s
  | some (bank, _) =>
    let li := s.line line
    let pa := 128 * line
    if windowOf pa ≠ .hbm || homeOf pa ≠ s.towerId (bank / 252) then .next s
    else if li.bad then .next (s.logPa 5 pa)
    else if (li.owned && li.owner ≠ homeOf pa) || li.copy ≠ .held || !s.treeRoom bank then .next s
    else
      match li.place with
      | .tree _ => .next s
      | _ => .next (s.setLine line { li with place := .tree bank })

/-! ## Completion (R319, R320) -/

namespace Cluster

/-- Every sink of a cluster holds its EOS (R319). -/
def sinksEnded (c : Cluster) : Bool :=
  (c.sinkBuf.isNone || c.mu.eos) &&
  [0, 1, 2, 3].all (fun u => match c.agCfg? u with
    | some (m, g) => !agSink m g || (c.ag u).eos
    | none => true) &&
  (match c.ctAcc with
   | some a => a.dout ≠ 8 || c.arr.eos
   | none => true) &&
  [0, 1, 2, 3].all (fun k => match c.slotCfg? k with
    | some (op, g) => g.dst ≠ 0 || (eosInputs op g).all fun q => c.ended.contains (4 * k + q)
    | none => true)

/-- No token is in a cluster's queues, routers, spill FIFOs, DELAY FIFOs or units. -/
def noTokens (c : Cluster) : Bool :=
  c.q.all (fun p => p.2.isEmpty) && c.rq.all (fun p => p.2.isEmpty) && c.spill.all (fun p => p.2.toks.isEmpty) &&
  c.mu.outq.isEmpty && c.ags.all (fun p => p.2.outq.isEmpty && p.2.held.isEmpty) && c.arr.load.isEmpty &&
  c.arr.drain.isNone && c.arr.endTok.isNone && c.slots.all fun p => p.2.st.fifo.isEmpty

/-- No unit of a cluster has a record or a request in hand (R118). -/
def idle (c : Cluster) : Bool :=
  c.noTokens && !c.mu.reading && c.mu.wtok = 0 &&
  c.ags.all fun p => p.2.vals.isEmpty && p.2.wlines.isEmpty && p.2.wtok = 0

end Cluster

/-- No write of a cluster's agents is on its way. -/
def State.storesDone (s : State) (cls : List Nat) : Bool :=
  let ids := (cls.map s.agentsOf).flatten
  !(s.posted.any fun p => ids.contains p.agent) && !(s.twig.any fun w => ids.contains w.agent)

/-- The end conditions of a launch on a band (R319, R325, R327). -/
def State.bandDone (s : State) (b : Band) : Bool :=
  b.parked.isEmpty && s.storesDone b.clusters && b.clusters.all (fun cl => (s.cluster cl).noTokens) &&
  (if b.scroll then
    match b.eosWave with
    | some e => b.rows.all fun r => r.st = .empty && e * b.depth + b.depth ≤ r.p
    | none => false
  else b.stageRows.all fun r => s.configured b r && (b.rowClusters r).all fun cl => (s.cluster cl).sinksEnded)

/-- LAUNCH_COMPLETE: a launch whose end conditions hold, that has failed, or that was cancelled begins to end; one that ends takes
the next move of it (R319). -/
def execLaunchComplete (job lid : Nat) (s : State) : Out :=
  match s.launch? job lid with
  | none => .next s
  | some l =>
    match l.ending with
    | some (how, e) => s.endStep l how e
    | none =>
      if l.st = .ended then .next s
      else if l.status ≠ 0 then s.beginEnd l .failed
      else if l.cancelled then s.beginEnd l .cancelled
      else
        match l.placed with
        | some b => if l.st = .running && s.bandDone b then s.beginEnd l .completed else .next s
        | none => .next s

/-- BARRIER_COMPLETE: every launch of the job armed before it has ended and its counter has been reached; it completes at
once with the largest of their clocks (R320), by the moves of R319. -/
def execBarrierComplete (job lid : Nat) (s : State) : Out :=
  match s.live job lid, s.job job with
  | some l, some j =>
    let before := (s.ofJob job).filter fun x => x.order < l.order
    if !l.isBarrier then .next s
    else
      match l.ending with
      | some (how, e) => s.endStep l how e
      | none =>
        if l.reached.isNone || l.status ≠ 0 || l.cancelled || before.any (fun x => x.st ≠ .ended) then .next s
        else
          match s.checkWords j l with
          | .wait s => .next s
          | .bad s => .next (s.failEarly l none)
          | .ok _ s => s.beginEnd { l with start := 0, clock := (before.map (·.clock)).foldl max 0 } .completed
  | _, _ => .next s

/-! ## Fault records (R341, R378) -/

/-- The store of a fault record: a store step of the home agent of the faulting unit's tower; a line of another package is stored
by its own home agent; at an unbacked address it is discarded and logged. The clock it took, and the state; none while a turn
advance must come first (R18, R19, R321, R341, log 75). -/
def State.storeRecord (s : State) (tower pa : Nat) (words : List Word) : Option (Nat × State) :=
  let data := (words.map fun w => leBytes 8 w.toNat).flatten
  let p := pkgOf pa
  if windowOf pa = .unbacked then some (s.homeClock s.pkg, s.logPa 4 pa)
  else
    (s.storeStep (if p = s.pkg then s.towerId tower else homeOf pa) (s.homeClock p) pa data).map fun (t, s) =>
      (t, (s.noSram (lineOf pa)).setHomeClock p t)

/-- The tower within the package that a record names (R340). -/
def recordTower (words : List Word) : Nat := bits (nth words 1 0) 63 54 % 4

/-- The word of the message on c63 for a record in entry n of a job's queue (R341). -/
def recordNotice (words : List Word) (n : Nat) : Word :=
  let w0 := nth words 0 0
  BitVec.ofNat 64 (bits w0 31 0 * 2 ^ 32 + bits w0 39 32 * 2 ^ 24 + n % 2 ^ 16)

/-- The clock of the message on c63: the t of the record's last store; of a copy job's fault at least the t of its PROGRESS write
(R80, R341). -/
def FaultItem.noticeClock (f : FaultItem) (t : Nat) : Nat := if bits (nth f.words 0 0) 62 60 = 6 then max t f.clock else t

/-- The record of fault f of a job is written with clock t: the core is told on c63, the function gets vector 1, and the fault is
done with unless a unit waits on it (R341, R378). -/
def State.recordDone (s : State) (job : Nat) (j : Job) (f : FaultItem) (t : Nat) : State :=
  let s := s.post (.home (s.towerId (recordTower f.words))) f.core 63 (recordNotice f.words (j.faults % max 1 j.fqn))
    (f.noticeClock t)
  let q := match s.faultq.findIdx? fun f => f.job = job && f.n.isNone with
    | some i => if f.unit = .none then s.faultq.eraseIdx i else s.faultq.set i { f with n := some j.faults }
    | none => s.faultq
  { s with
    faultq := q
    jobs := s.jobs.set job { j with faults := j.faults + 1 }
    regs := { s.regs with msix := s.regs.msix.set (4 * j.vf + 1) true } }

/-- FAULT_RECORD_WRITE: the oldest fault of a job whose record is not written takes the next entry of the fault queue, once
that entry's VALID is 0 (R341). -/
def execFaultRecordWrite (job : Nat) (s : State) : Out :=
  match s.job job, s.faultq.find? fun f => f.job = job && f.n.isNone with
  | some j, some f =>
    match s.translate (s.jobCtx j) [] 0 needBoth s.jobCheck (j.fqbase + 64 * (j.faults % max 1 j.fqn)) with
    | .fault _ _ => .next s
    | .wait s => .next s
    | .ok pa _ _ s =>
      if windowOf pa = .hbm && 2 ^ 63 ≤ s.mem.readLe pa 8 then .next s
      else
        match s.storeRecord (recordTower f.words) pa f.words with
        | none => .next (s.stallTurn (recordTower f.words))
        | some (t, s) => .next (s.recordDone job j f t)
  | _, _ => .next s

/-! ## Drain trees and deadlocks -/

/-- QUIESCENCE_REPORT: nothing is busy in a row that a CFGLOAD holds; its inbound links close (R118, R287). -/
def execQuiescenceReport (job lid row : Nat) (s : State) : Out :=
  match s.live job lid with
  | some l =>
    match l.placed with
    | some b =>
      let cls := b.rowClusters row
      if b.held row && s.storesDone cls && cls.all fun cl => (s.cluster cl).idle then
        .next (s.onBand l fun b => { b with holds := b.holds.map fun h => if h.row = row then { h with quiet := true } else h })
      else .next s
    | none => .next s
  | none => .next s

/-- DEADLOCK_DETECTED: a launch's deadlock count has reached its limit (R111). -/
def execDeadlockDetected (job lid : Nat) (s : State) : Out :=
  match s.live job lid with
  | some l =>
    match l.placed with
    | some b =>
      if Config.deadlockLimit ≤ b.deadlock then .next (s.failLaunch l .deadlock none 0 0 { src := 7, tower := some b.tower })
      else .next s
    | none => .next s
  | none => .next s

end Sys2Proof.Machine
end

