-- ==== Sys2Proof/Machine/Scroll.lean ====
section
/-!
DEFINITION. Scrolling (R323 to R328, R334 to R337): scroll ports, loading, draining and saving of rows, the stage-state area,
restoring a stage.
-/
namespace Sys2Proof.Machine

namespace Band

/-- L, when the EOS wave is known (R325). -/
def last (b : Band) : Option Nat := b.eosWave.map fun e => e * b.depth + b.depth - 1

/-- A position that the launch has (R325). -/
def within (b : Band) (p : Nat) : Bool := match b.last with | some l => p ≤ l | none => true

/-- Rows that hold a scroll port (R326). -/
def portsHeld (b : Band) : Nat := b.rows.countP fun r => r.st = .loading || r.st = .saving

/-- No row still holds the stage of position p in the wave before, whose save a load of p restores (R336; DEDUCED, log 31: in
the EOS wave a row may be EMPTY before that). -/
def waveBeforeSaved (b : Band) (p : Nat) : Bool := p < b.depth || b.rows.all fun x => x.p + b.depth ≠ p

/-- The rank of a row that waits for a port: positions that a pre-emption found RESIDENT first, then by position (R326,
R357). -/
def portRank (b : Band) (r : Nat) : Option (Nat × Nat) :=
  let x := b.row r
  match x.st with
  | .drained => some (1, x.p)
  | .empty => if b.within x.p && (x.resumed || b.waveBeforeSaved x.p) then some (if x.resumed then 0 else 1, x.p) else none
  | _ => none

/-- The next port goes to row r: one of the two is free, no save area is exhausted, no pre-emption drains the band (R326,
R337, R356). -/
def granted (b : Band) (r : Nat) : Bool :=
  b.scroll && !b.closing && b.portsHeld < 2 && !b.rows.any (fun x => x.stall = Code.saveAreaExhausted.num) &&
  (match b.portRank r with
   | none => false
   | some (a, p) =>
     (List.range b.height).all fun q =>
       match b.portRank q with
       | some (c, n) => a < c || (a = c && p ≤ n)
       | none => true)

/-- Stage and wave of row r's position. -/
def stageAt (b : Band) (r : Nat) : Nat × Nat := ((b.row r).p % max 1 b.depth, (b.row r).p / max 1 b.depth)

/-- The MU.STATE fields of a stage: its place in the image, SBASE as a VA, and SLEN (R223). -/
def area (b : Band) (stage : Nat) : Option (Nat × Nat × Nat) :=
  (((nth b.images stage []).zipIdx.find? fun f =>
    Frame.layout f.1 = 1 && Frame.unit f.1 = 4 && Frame.col f.1 = 0)).map fun (f, i) =>
      let m := muStateOf f
      (i, (sextNat 57 m.sbase % 2 ^ 64).toNat, m.slen)

/-- The saved state of a stage. -/
def savedOf (b : Band) (stage : Nat) : Option SavedStage := b.saved.find? fun x => x.stage = stage

def keep (b : Band) (x : SavedStage) : Band := { b with saved := x :: b.saved.filter fun y => y.stage ≠ x.stage }

end Band

/-- The launch and band that a row event acts on: running, neither failed nor ending, on the fabric and not frozen. -/
def State.scrolling (s : State) (job lid : Nat) : Option (Launch × Band) :=
  match s.live job lid with
  | some l =>
    match l.placed with
    | some b => if l.st = .running && l.status = 0 && !l.cancelled && l.ending.isNone && b.scroll && !b.frozen then some (l, b) else none
    | none => none
  | none => none

/-! ## Loading (R116, R326, R327) -/

/-- A position begins to load into a row: its stage's frames enter. -/
def State.loadRow (s : State) (l : Launch) (b : Band) (r : Nat) : State :=
  let fs := nth b.images (b.stageAt r).1 []
  let s := s.sendStage b r fs
  s.setLaunch { l with band := some (b.onRow r fun x => { x with st := .loading, stall := 0, wrote := false, image := fs }) }

/-- ROW_LOAD_START: an EMPTY row is granted a port. -/
def execRowLoadStart (job lid row : Nat) (s : State) : Out :=
  match s.scrolling job lid with
  | some (l, b) => if (b.row row).st = .empty && b.granted row then .next (s.loadRow l b row) else .next s
  | none => .next s

/-! ## Saved state (R334, R336) -/

/-- A row that CT.ACC declares persistent: ROW0 to ROW0 + PROWS − 1, modulo 64 (R231). -/
def persistentRow (ac : CtAcc) (row : Nat) : Bool := (row + 64 - ac.row0 % 64) % 64 < ac.prows

/-- The persistent rows of an array in both banks, their TOUCHED bits and the pass counter (R151). -/
def Arr.persist (a old : Arr) (ac : CtAcc) : Arr :=
  let mask := ((List.range 64).map fun r => if persistentRow ac r then 2 ^ r else 0).foldl (· + ·) 0
  { a with
    acc := old.acc.filter fun p => persistentRow ac (p.1 % 4096 / 64)
    touched := old.touched.mapVals fun t => t.land mask
    n := if ac.prows = 0 then a.n else old.n }

/-- A slot with its stage state: what a SWITCH configured, counters, generators (R134, R204). -/
def Slot.persist (x old : Slot) : Slot :=
  { x with frame := if old.switched then old.frame else x.frame, switched := old.switched, st := old.st, gen := old.gen }

/-- An address generator with its traversal position, record count and clock (R74, R211). -/
def Ag.persist (x old : Ag) : Ag :=
  { x with
    pts := old.pts
    tile := old.tile
    lane := old.lane
    elem := old.elem
    seq := old.seq
    sinceMark := old.sinceMark
    ended := old.ended }

/-- A memory unit with its position, record count, SW.VERT index and overflow fill pointer (R101, R211, R227). -/
def Mu.persist (x old : Mu) : Mu :=
  { x with
    seq := old.seq
    slots := old.slots
    sinceMark := old.sinceMark
    ended := old.ended
    vert := old.vert
    cuts := old.cuts
    ovfill := old.ovfill }

/-- A freshly configured cluster with the stage state of a saved one (R336). -/
def Cluster.restore (c old : Cluster) : Cluster :=
  { c with
    slots := c.slots.map fun (k, x) => (k, x.persist (old.slot k))
    ags := c.ags.map fun (u, x) => (u, x.persist (old.ag u))
    mu := c.mu.persist old.mu
    arr := c.arr.persist old.arr c.accCfg
    flags := old.flags }

/-- Queues without the CLOSE tokens of a pre-emption, which are not saved (R346). -/
def Cluster.dropCloses (c : Cluster) : Cluster :=
  let keep (t : Token) : Bool := t.kind ≠ 7
  { c with
    q := c.q.mapVals fun l => l.filter keep
    rq := c.rq.mapVals fun l => l.filter fun t => keep t.2
    spill := c.spill.mapVals fun x => { x with toks := x.toks.filter keep }
    ags := c.ags.mapVals fun a => { a with outq := a.outq.filter keep }
    mu := { c.mu with outq := c.mu.outq.filter keep }
    slots := c.slots.mapVals fun x => { x with st := { x.st with fifo := x.st.fifo.filter keep } }
    closed := [] }

/-- The lines that hold n bytes from an offset. -/
def linesIn (off n : Nat) : List Nat := if n = 0 then [] else upFrom (off / 128) ((off % 128 + n + 127) / 128)

/-- The lines that the units of a cluster keep data in beside its buffers: the table and the bins of BIN, and the words that
SCATADD folds into (R99, R100, R215). -/
def Cluster.unitLines (c : Cluster) : List Nat :=
  (match c.muBintab with
   | some b =>
     linesIn (4 * b.tbase) (8 * b.bincount) ++
     ((List.range b.bincount).map fun i =>
       let e := leNat (c.read (4 * b.tbase + 8 * i) 8)
       linesIn (4 * nbits e 15 0) (4 * nbits e 31 16)).flatten
   | none => []) ++
  ([0, 1, 2, 3].map fun u => match c.agCfg? u with
    | some (4, g) => linesIn (4 * g.lbase.toNat) (4 * g.lwords.toNat)
    | _ => []).flatten

/-- The lines of the four stores of a twig, 2,048 each, in or between which a shape in leaf stores has in-range elements (R86, R93). -/
def Shp.leafLines (sh : Shp) : List Nat :=
  let base := sextNat 64 sh.base
  let ends : List Int := sh.ranks.map fun d =>
    let h : Int := (nth sh.extent d 0 : Int) - 1
    if d = 0 && sh.bitsOf = 4 then h / 2 else h * nth sh.stride d 0
  let lo := ends.foldl (fun m x => m + min 0 x) base
  let hi := ends.foldl (fun m x => m + max 0 x) base + sh.elemBytes
  if sh.ranks.any fun d => nth sh.extent d 0 = 0 then []
  else (List.range 8192).filter fun l => lo < 128 * ((l : Int) + 1) && 128 * (l : Int) < hi

/-- The lines of its twig's stores on which a cluster's generators work: all of them while a generator has its shape record still to
load. -/
def Cluster.leafWork (c : Cluster) : List Nat :=
  firsts (([0, 1, 2, 3].map fun u =>
    match c.agCfg? u with
    | some (m, g) =>
      if needsShape m g && g.tgt = 2 then
        match (c.ag u).shape with
        | some x => (shpOf x).leafLines
        | none => List.range 8192
      else []
    | none => []).flatten)

/-- A line of the leaf store of another cluster, with its bytes and its clock. -/
def Cluster.copyLine (c old : Cluster) (l : Nat) : Cluster :=
  { c with leaf := c.leaf.copyFrom old.leaf (128 * l) 128, lines := c.lines.set l (old.line l) }

/-- A configured cluster with the whole context of a pre-empted one: its units and queues, the slots of its buffers, whose
lines come with them, and the lines its units keep data in; stall records start from zero (R346, R347). The rest of the leaf
store is the new cluster's own. -/
def Cluster.scanIn (c old : Cluster) : Cluster :=
  let old := old.dropCloses
  let slots (x : Buf) : List Nat := upFrom x.first x.slots
  let mine := ((old.bufs.filter fun p => (old.muBuf p.1).isSome).map fun p => slots p.2).flatten
  let c := mine.foldl (fun c k =>
    let t := old.tile k
    ((upFrom t.base t.lcount).foldl (fun c l => c.copyLine old l) c).setTile k t) c
  let c := old.unitLines.foldl (fun c l => c.copyLine old l) c
  { c with
    bufs := (old.bufs.filter fun p => (old.muBuf p.1).isSome).foldl (fun t p => t.set p.1 p.2) c.bufs
    cfg := old.cfg
    slots := old.slots.mapVals fun x => { x with cause := 0, dest := 0, inWait := 0, outWait := 0 }
    ags := old.ags
    mu := old.mu
    arr := { old.arr with retired := c.arr.retired }
    q := old.q
    rq := old.rq
    spill := old.spill
    rblocked := old.rblocked
    flags := old.flags
    marked := old.marked
    ended := old.ended
    kept := old.kept
    done := old.done }

/-- The leaf lines that the generators of a pre-empted band work on, put where the same generators find them on the new band; stores
outside the band take no part (R347, log 59). -/
def State.carryLeaf (s : State) (old new : Band) (ctx : List (List Cluster)) : State :=
  ctx.zipIdx.foldl (fun s (row, r) => row.zipIdx.foldl (fun s (x, c) => x.leafWork.foldl (fun s l =>
    let dest := twigCluster (new.cluster r c) (l / 2048)
    match old.place (twigCluster (old.cluster r c) (l / 2048)), new.place dest with
    | some (r', c'), some _ => s.onCluster dest fun d => d.copyLine (nth (nth ctx r' []) c' d) (l % 2048)
    | _, _ => s) s) s) s

/-- The clusters of a row as they stand. -/
def State.rowState (s : State) (b : Band) (r : Nat) : List Cluster := (b.rowClusters r).map s.cluster

/-- The clusters of a row changed with those of a saved one. -/
def State.overlay (s : State) (b : Band) (r : Nat) (old : List Cluster) (f : Cluster → Cluster → Cluster) : State :=
  ((b.rowClusters r).zip old).foldl (fun s (cl, o) => s.onCluster cl fun c => f c o) s

/-! ## The stage-state area (R223, R335) -/

/-- An access to an area: done, a fault of its translation or of scratch with the VA, a page that R223 does not allow, or a
wait. -/
inductive AreaAcc where
  | ok (pas : List Nat) (s : State)
  | fault (code : Code) (level va : Nat)
  | badPage
  | wait (s : State)
  deriving DecidableEq, Repr

/-- Lines of an area, each translated and checked before any of them is accessed (R43, R59, R223). -/
def State.areaLines (s : State) (ctx : Ctx) (need : Need) (va : Nat) : Nat → AreaAcc
  | 0 => .ok [] s
  | n + 1 =>
    match s.translate ctx [] 0 need (fun _ _ => none) (va % 2 ^ 64) with
    | .fault c lv => .fault c lv va
    | .wait s => .wait s
    | .ok pa x _ s =>
      if windowOf pa ≠ .crown || x.mtype ≠ 1 || pkgOf pa ≠ s.pkg then .badPage
      else if !s.scratchBacked pa then .fault .crownScratchUnbacked 0 va
      else
        match s.areaLines ctx need (va + 128) n with
        | .ok pas s => .ok (pa :: pas) s
        | r => r

/-- The scroll controller's context: the launch's address space, without privilege. -/
def State.areaCtx (s : State) (l : Launch) (b : Band) : Ctx :=
  match s.job l.job with
  | some j => ⟨b.tower, 0, j.asid, j.tbase, false⟩
  | none => ⟨b.tower, 0, 0, 0, false⟩

/-- The VA of stage s's part of its area (R223). -/
def areaVa (sbase stage : Nat) : Nat := (sbase + 0x4000 * stage) % 2 ^ 64

/-- The bytes of a save (R335): header, and an arrangement and check value that are the device's own. -/
def stageImage (n stage wave bytes : Nat) (flags : Flags) : List Byte :=
  let w0 := 2 ^ 63 + wave % 2 ^ 16 * 2 ^ 32 + bytes % 2 ^ 16 * 2 ^ 16 + stage % 1024
  leBytes 8 w0 ++ leBytes 8 flags.toNat ++ leBytes 8 (Config.stageCheck n).toNat ++ leBytes 40 0 ++
    (List.range (bytes - 64)).map (Config.stageByte n)

/-- BYTES of a row's stage state (R334, R335). -/
def State.stageSize (s : State) (b : Band) (r : Nat) : Nat := (s.rowStateBytes (b.rowClusters r) + 63) / 64 * 64

/-- What the save of a row's state comes to. -/
inductive Saved where
  | ok (image : List Byte) (s : State)
  | fault (code : Code) (level va : Nat) (detail : List Nat)
  | badPage
  | wait (s : State)
  deriving DecidableEq, Repr

/-- The save of a row: the area checked, then its bytes posted to crown scratch (R60, R335, R337). -/
def State.saveRow (s : State) (l : Launch) (b : Band) (r : Nat) : Saved :=
  let (stage, wave) := b.stageAt r
  match b.area stage with
  | none => .badPage
  | some (_, sbase, slen) =>
    if slen < 0x4000 * (stage + 1) then .fault .saveAreaExhausted 0 0 [sbase, slen]
    else
      let bytes := s.stageSize b r
      let image := stageImage s.fresh stage wave bytes (s.stageFlags (b.cluster r 0))
      match s.areaLines (s.areaCtx l b) needStore (areaVa sbase stage) ((bytes + 127) / 128) with
      | .fault c lv va => .fault c lv va []
      | .badPage => .badPage
      | .wait s => .wait s
      | .ok pas s =>
        let s := pas.zipIdx.foldl (fun s (pa, i) =>
          s.postScratch (saveAgent (b.cluster r 0)) pa ((image.drop (128 * i)).take 128)) s
        .ok image { s with fresh := s.fresh + 1 }

/-- A row's save or restore waits on a fault, its record queued (R337, R343). -/
def State.rowFault (s : State) (l : Launch) (b : Band) (r : Nat) (code : Code) (level va : Nat) (detail : List Nat) :
    State :=
  let (stage, wave) := b.stageAt r
  let s := s.setLaunch { l with band := some (b.onRow r fun x =>
    { x with stall := code.num, reread := x.reread || code = .saveAreaExhausted }) }
  s.launchFault l code 1 (some (b.cluster r 0)) stage wave (.save l.job l.id r)
    { src := 7, level := level, va := va, detail := detail }

/-- A launch fails at a row: a page that R223 does not allow, or a restore whose check fails (R335). -/
def State.rowFail (s : State) (l : Launch) (b : Band) (r : Nat) (code : Code) : State :=
  let (stage, wave) := b.stageAt r
  s.failLaunch l code (some (b.cluster r 0)) stage wave { src := 7 }

/-- ROW_LOAD_COMPLETE: the image end has passed the row, and its stage is initialised, or restored once its area proves to
hold what the last save wrote (R327, R335, R336, R357). -/
def execRowLoadComplete (job lid row : Nat) (s : State) : Out :=
  match s.scrolling job lid with
  | none => .next s
  | some (l, b) =>
    let x := b.row row
    let (stage, wave) := b.stageAt row
    let resident (s : State) : Out :=
      .next (s.setLaunch { l with band := some (b.onRow row fun x => { x with st := .resident, resumed := false }) })
    if x.st ≠ .loading || x.stall ≠ 0 || !s.configured b row then .next s
    else if wave = 0 && !x.resumed then resident s
    else if !x.resumed && !b.waveBeforeSaved x.p then .next s
    else
      match b.savedOf stage with
      | none => .next (s.rowFail l b row .uncorrectable)
      | some v =>
        let put := if x.resumed then Cluster.scanIn else Cluster.restore
        if !v.check then resident (s.overlay b row v.row put)
        else
          let sbase := ((b.area stage).map fun a => a.2.1).getD 0
          match s.areaLines (s.areaCtx l b) needLoad (areaVa sbase stage) ((v.image.length + 127) / 128) with
          | .fault c lv va => .next (s.rowFault l b row c lv va [])
          | .badPage => .next (s.rowFail l b row .permission)
          | .wait s => .next s
          | .ok pas s =>
            let bs := ((pas.map fun pa => s.readScratch pa 128).flatten).take v.image.length
            let due := if x.resumed then wave else wave - 1
            if bs = v.image && v.wave = due then resident (s.overlay b row v.row put)
            else .next (s.rowFail l b row .uncorrectable)

/-! ## Draining (R327) -/

/-- The inputs and sources of a cluster that a wave's MARK must pass, or the stream's EOS: those of its slots, generators, memory
unit and array, and the outputs of circuits that only cross its router; LOOP takes EOS on a alone (R200, R327). -/
def Cluster.stageInputs (c : Cluster) (eos : Bool) : List Nat :=
  let fed := c.frames.feeds
  ([0, 1, 2, 3].map fun k => match c.slotCfg? k with
    | some (op, g) => (if eos then eosInputs op g else g.inputs).map fun q => 4 * k + q
    | none => []).flatten ++
  ([0, 1, 2, 3].map fun u => match c.agCfg? u with
    | some (m, _) => if m = 0 || m = 7 then [32 + u] else agInputs u m
    | none => []).flatten ++
  (if c.sinkBuf.isSome then [24] else []) ++ (if c.sourceBuf.isSome then [36] else []) ++
  (if c.ctCfg.isSome then [25, 26].filter fed.contains else []) ++
  ((c.pairs.filter fun p => p.2.inp ≤ 5 && p.2.out ≤ 5).map fun p => 64 + p.1) ++
  (match c.swRepl with | some r => if r.inp ≤ 5 && r.br.any (·.1 ≤ 5) then [80] else [] | none => [])

/-- A row is through with a token kind: every input and source has taken or sent one, nothing is left in the row, and its
stores are acknowledged. -/
def State.rowThrough (s : State) (b : Band) (r : Nat) (eos : Bool) : Bool :=
  s.storesDone (b.rowClusters r) &&
  (b.rowClusters r).all fun cl =>
    let c := s.cluster cl
    c.idle && (c.stageInputs eos).all fun k => if eos then c.ended.contains k else c.marked.contains k

/-- Position p − 1 has left RESIDENT, or p is 0: its row has gone on to a later position, or drains it or saves it. -/
def Band.beforeGone (b : Band) (p : Nat) : Bool :=
  let x := b.row ((p - 1) % max 1 b.height)
  p = 0 || p ≤ x.p || (x.p + 1 = p && (x.st = .drained || x.st = .saving))

/-- ROW_DRAINED: every condition of the drain list holds. -/
def execRowDrained (job lid row : Nat) (s : State) : Out :=
  match s.scrolling job lid with
  | some (l, b) =>
    let x := b.row row
    if x.st = .resident && !b.closing && b.eosWave ≠ some (b.stageAt row).2 && b.beforeGone x.p && s.rowThrough b row false then
      .next (s.onBand l fun b => b.onRow row fun x => { x with st := .drained })
    else .next s
  | none => .next s

/-- A row gives up its stage: its clusters have no configuration. -/
def State.unload (s : State) (b : Band) (r : Nat) : State :=
  (b.rowClusters r).foldl (fun s cl => s.onCluster cl Cluster.bare) s

/-- The row takes the position H further on next. -/
def Band.vacate (b : Band) (r : Nat) : Band :=
  b.onRow r fun x => ⟨.empty, x.p + b.height, 0, false, false, false, []⟩

/-- ROW_EOS_RETIRE: in the EOS wave, EOS has passed out of the row; nothing is saved, so that a launch which ends in the drain
window of a pre-emption completes (R325, R327, R348). -/
def execRowEosRetire (job lid row : Nat) (s : State) : Out :=
  match s.scrolling job lid with
  | some (l, b) =>
    let x := b.row row
    if x.st = .resident && b.eosWave = some (b.stageAt row).2 && s.rowThrough b row true then
      let clock := max l.clock (s.rowClock b row)
      .next ((s.unload b row).setLaunch { l with clock := clock, band := some (b.vacate row) })
    else .next s
  | none => .next s

/-! ## Saving (R335, R337) -/

/-- The MU.STATE frame of a stage read again from the image in memory, as the image is read (R313, R337). -/
def State.rereadArea (s : State) (l : Launch) (b : Band) (stage : Nat) : Saved :=
  match s.job l.job, b.area stage with
  | some j, some (i, _, _) =>
    let before := sumNat ((b.images.take stage).map List.length)
    let va := (l.image + 32 * (before + i)) % 2 ^ 64
    match s.imageRead j va with
    | .fault c lv => .fault c lv va []
    | .wait s => .wait s
    | .ok bs _ s => .ok bs s
  | _, _ => .badPage

/-- A stage's MU.STATE frame replaced, in the band's images and at the row; none when what was read is no legal one (R4, R168). -/
def State.putArea (s : State) (l : Launch) (b : Band) (r stage : Nat) (f : Frame) : Option (Launch × Band × State) :=
  match b.area stage with
  | some (i, _, _) =>
    if Frame.layout f = 1 && Frame.unit f = 4 && Frame.col f = 0 && frameCode f = 0 then
      let b := { b with images := b.images.set stage ((nth b.images stage []).set i f) }
      some ({ l with band := some b }, b,
        s.onCluster (b.cluster r 0) fun c => { c with cfg := c.cfg.set (entryKey 1 4 0 0) f })
    else none
  | none => none

/-- The save of a row is tried: SAVING, with its bytes posted and its state kept, or at a fault. -/
def State.trySave (s : State) (l : Launch) (b : Band) (row : Nat) : Out :=
  let b := b.onRow row fun x => { x with st := .saving, reread := false }
  let l := { l with band := some b }
  let (stage, wave) := b.stageAt row
  match s.saveRow l b row with
  | .fault c lv va d => .next ((s.setLaunch l).rowFault l b row c lv va d)
  | .badPage => .next ((s.setLaunch l).rowFail l b row .permission)
  | .wait s => .next s
  | .ok image s =>
    let b := (b.keep ⟨stage, wave, s.rowState b row, image, true⟩).onRow row fun x => { x with wrote := true }
    .next (s.setLaunch { l with band := some b })

/-- A SAVING row tries its save again after a RETRY, with its MU.STATE frame read again when its area was exhausted; a frame that is
no legal one then fails the launch (R4, R337, R343). -/
def State.retrySave (s : State) (l : Launch) (b : Band) (row : Nat) : Out :=
  if (b.row row).reread then
    let stage := (b.stageAt row).1
    match s.rereadArea l b stage with
    | .fault c lv va d => .next (s.rowFault l b row c lv va d)
    | .badPage => .next (s.rowFail l b row .permission)
    | .wait s => .next s
    | .ok bs s =>
      match s.putArea l b row stage (BitVec.ofNat 256 (leNat bs)) with
      | some (l, b, s) => s.trySave l b row
      | none => .next (s.rowFail l b row .configIllegal)
  else s.trySave l b row

/-- ROW_SAVE_START: a DRAINED row is granted a port, or a SAVING row tries its save again (R327, R337, R343). -/
def execRowSaveStart (job lid row : Nat) (s : State) : Out :=
  match s.scrolling job lid with
  | none => .next s
  | some (l, b) =>
    let x := b.row row
    if x.st = .drained && b.granted row then s.trySave l b row
    else if x.st = .saving && !x.wrote && x.stall = 0 then s.retrySave l b row
    else .next s

/-- ROW_SAVE_COMPLETE: every write of the save has arrived; the same port loads position p + H, or the row is EMPTY (R60,
R327, R356). -/
def execRowSaveComplete (job lid row : Nat) (s : State) : Out :=
  match s.scrolling job lid with
  | none => .next s
  | some (l, b) =>
    let x := b.row row
    if x.st ≠ .saving || !x.wrote || s.posted.any (fun p => p.agent = saveAgent (b.cluster row 0)) then .next s
    else
      let s := s.unload b row
      let b := b.vacate row
      if b.within (b.row row).p && !b.closing then .next (s.loadRow l b row)
      else .next (s.setLaunch { l with band := some b })

end Sys2Proof.Machine
end

