-- ==== Sys2Proof/Machine/Preempt.lean ====
section
/-!
DEFINITION. Resuming stalled units (R342, R343), the PREEMPT requests (R242, R344, R345, R349), pre-empting and resuming a job
(R346 to R348, R356, R357), the scan window (R349, R350), and the turn advance (R29).
-/
namespace Sys2Proof.Machine

/-! ## Resuming a stalled unit (R342, R343) -/

/-- The cluster of a unit. -/
def UnitRef.cluster : UnitRef → Option Nat
  | .slot cl _ | .array cl | .plane cl | .ag cl _ | .mu cl | .switch cl => some cl
  | .copy _ _ | .save _ _ _ | .none => Option.none

/-- The same unit of another cluster. -/
def UnitRef.moved (u : UnitRef) (f : Nat → Nat) : UnitRef :=
  match u with
  | .slot cl k => .slot (f cl) k
  | .array cl => .array (f cl)
  | .plane cl => .plane (f cl)
  | .ag cl u => .ag (f cl) u
  | .mu cl => .mu (f cl)
  | .switch cl => .switch (f cl)
  | u => u

/-- A unit of a cluster waits no more, with a SKIP to carry out or not; an address generator's clock is raised. -/
def Cluster.wake (c : Cluster) (u : UnitRef) (skip : Bool) (pts : Nat) : Cluster :=
  match u with
  | .slot _ k => c.setSlot k { c.slot k with stall := false, skip := skip }
  | .array _ => { c with arr := { c.arr with stall := false, skip := skip } }
  | .plane _ => { c with arr := { c.arr with stall := false, loadSkip := skip } }
  | .ag _ k => c.setAg k { c.ag k with stall := false, skip := skip, pts := max (c.ag k).pts pts }
  | .mu _ => { c with mu := { c.mu with stall := false, skip := skip } }
  | .switch _ => { c with mu := { c.mu with vstall := false } }
  | _ => c

/-- A cluster of a launch changed, wherever its state is: on the band, in the context of a pre-empted launch, or in the saved
state of a position that is to be loaded again (R348). -/
def State.onPlaced (s : State) (l : Launch) (cl : Nat) (f : Cluster → Cluster) : State :=
  match l.band with
  | none => s
  | some b =>
    match b.place cl with
    | none => s
    | some (r, c) =>
      let inRow (row : List Cluster) : List Cluster := row.zipIdx.map fun (x, i) => if i = c then f x else x
      if (b.row r).resumed then
        let stage := (b.stageAt r).1
        s.setLaunch { l with band := some { b with
          saved := b.saved.map fun v => if v.stage = stage then { v with row := inRow v.row } else v } }
      else
        match b.context with
        | some ctx =>
          s.setLaunch { l with band := some { b with
            context := some (ctx.zipIdx.map fun (row, i) => if i = r then inRow row else row) } }
        | none => s.onCluster cl f

/-- The unit of a fault resumed with RETRY or SKIP, and a writer's clock. -/
def State.resumeUnit (s : State) (f : FaultItem) (skip : Bool) (pts : Nat) : State :=
  match f.unit with
  | .copy e k =>
    let j := s.copyJob e k
    s.setCopyJob e k { j with stall := false, pts := max j.pts pts }
  | .save job lid row =>
    match s.live job lid with
    | some l => s.onBand l fun b => b.onRow row fun x => { x with stall := 0 }
    | none => s
  | .none => s
  | u =>
    match s.live f.job (bits (nth f.words 0 0) 31 0), u.cluster with
    | some l, some cl => s.onPlaced l cl fun c => c.wake u skip pts
    | _, _ => s

/-- The low word of the record at an entry of a job's fault queue, 0 when it cannot be read, and the state after that access (R18,
log 66). -/
def State.recordId (s : State) (j : Job) (index : Nat) : Nat × State :=
  match s.jobPeek j (s.homeClock s.pkg) (j.fqbase + 64 * index) 8 with
  | .ok bs _ s => (leNat bs % 2 ^ 32, s)
  | .wait s => (0, s)
  | .fault _ _ => (0, s)

/-- The fault of job n with a unit that waits whose record went to entry `index` of the queue and is the latest there, with an ID. -/
def State.faultIn (s : State) (n : Nat) (j : Job) (index id : Nat) : Option FaultItem :=
  s.faultq.find? fun f =>
    f.job = n && f.unit ≠ .none && bits (nth f.words 0 0) 31 0 = id &&
      match f.n with
      | some k => k % max 1 j.fqn = index && j.faults ≤ k + j.fqn
      | none => false

/-- The stalled faults that entry `index` of the queues of some jobs describes, with the given ID. -/
def State.faultsAt (s : State) (index id : Nat) : List Nat → List FaultItem × State
  | [] => ([], s)
  | n :: ns =>
    match (s.job n).bind fun j => (s.faultIn n j index id).map fun f => (j, f) with
    | none => s.faultsAt index id ns
    | some (j, f) =>
      let (x, s) := s.recordId j index
      let (fs, s) := s.faultsAt index id ns
      (if x = id then f :: fs else fs, s)

/-- Who writes FRESUME: the jobs it looks at, and its clock (R342). -/
def State.fresumeJobs (s : State) (w : Writer) : List Nat :=
  match w with
  | .root n => [(s.core n).job]
  | .mgmt _ => s.jobs.keys

def State.writerClock (s : State) (w : Writer) : Nat :=
  match w with
  | .root n => (s.core n).pts
  | .mgmt _ => s.homeClock s.pkg

/-- STAT of a writer (R342). -/
def State.setStat (s : State) (w : Writer) (v : Nat) : State :=
  match w with
  | .root n => s.setCore n { s.core n with frStat := v }
  | .mgmt n => { s with regs := { s.regs with mgmtStat := s.regs.mgmtStat.set n v } }

def State.stat (s : State) (w : Writer) : Nat :=
  match w with
  | .root n => (s.core n).frStat
  | .mgmt n => s.regs.mgmtStat.getD n 0

/-- The earlier accesses of a writing core are performed first (R342). -/
def State.performWriter (s : State) (w : Writer) : State :=
  match w with
  | .root n => s.performAll (s.coreAgent n)
  | .mgmt _ => s

/-- A write of FRESUME with a legal action, 0 RETRY or 1 SKIP (R342). -/
def State.fresume (s : State) (w : Writer) (action index id : Nat) : State :=
  let s := s.performWriter w
  match s.faultsAt index id (s.fresumeJobs w) with
  | ([], s) => s.setStat w 1
  | ([f], s) =>
    if (bits (nth f.words 0 0) 49 48).testBit action then
      let s := { s with faultq := s.faultq.filter fun g => !(g.job = f.job && g.n = f.n) }
      (s.resumeUnit f (action = 1) (s.writerClock w)).setStat w 0
    else s.setStat w 2
  | (_, s) => s.setStat w 3

/-- The writer exists: a root core, or one of the eight management cores (R11). -/
def writerExists : Writer → Bool
  | .root n => n < Config.cores
  | .mgmt n => n < Config.mgmtCores

def execFresumeRetry (w : Writer) (index id : Nat) (s : State) : Out :=
  .next (if writerExists w then s.fresume w 0 index id else s)

def execFresumeSkip (w : Writer) (index id : Nat) (s : State) : Out :=
  .next (if writerExists w then s.fresume w 1 index id else s)

/-! ## PREEMPT requests (R344) -/

/-- The request that PREEMPT holds: BUSY with an action. -/
def State.request (s : State) (act : Nat) : Bool := bitAt s.regs.preempt 63 && bits s.regs.preempt 61 59 = act

def State.requestJob (s : State) : Nat := bits s.regs.preempt 47 32

def State.requestTarget (s : State) : Nat := bits s.regs.preempt 31 0

/-- The request is done: BUSY clears. -/
def State.requestDone (s : State) : State :=
  { s with regs := { s.regs with preempt := s.regs.preempt &&& ~~~(BitVec.ofNat 64 (2 ^ 63)) } }

/-- A request about a core. -/
def State.coreRequest (s : State) (act n : Nat) : Bool := s.request act && s.requestTarget = n

/-- HALT_CORE: the core stops at an instruction boundary, a SIN or SOUT that has begun first completing; a CFGLOAD is given up
with its row held (R295, R345). -/
def execHaltCore (core : Nat) (s : State) : Out :=
  let begun := ((s.core core).burst.map fun b => !b.lines.isEmpty).getD false
  if s.coreRequest 3 core && !begun then
    .next (s.setCore core { s.core core with halted := true, burst := none }).requestDone
  else .next s

/-- A core that leaves its halt: deferred tasks whose notice came meanwhile are resumable (R238, R345). -/
def Core.released (c : Core) : Core :=
  { c with
    halted := false
    chans := c.chans.mapVals fun ch =>
      { ch with deferred := ch.deferred.map fun d => { d with ready := d.ready || d.told, told := false } } }

/-- RELEASE_CORE: the core goes on at its PC, or at the picker (R345); a RELATCH re-executed counts the bands that remain
(R295). -/
def execReleaseCore (core : Nat) (s : State) : Out :=
  let c := s.core core
  if s.coreRequest 4 core then
    .next (s.setCore core { c.released with relatch := c.relatch.map fun _ => s.relatching c.asid }).requestDone
  else .next s

/-- START_CORE: a halted core with no task runs a start task from its PC (R242). -/
def execStartCore (core : Nat) (s : State) : Out :=
  let c := s.core core
  if s.coreRequest 7 core && c.halted && c.task = .none then
    .next (s.setCore core ({ c.released with task := .start }.putList 1 [0, 0])).requestDone
  else .next s

/-- A request about a launch: it is told frozen or not (R349). -/
def State.freeze (s : State) (act job lid : Nat) (v : Bool) : State :=
  if s.request act && s.requestJob = job && s.requestTarget = lid then
    match s.live job lid with
    | some l =>
      -- What the window has written to empty entries goes with the thaw.
      let s := if v then s else
        ((l.band.map Band.clusters).getD []).foldl (fun s cl => s.onCluster cl fun c => { c with scan := [] }) s
      (s.onBand l fun b => { b with frozen := v }).requestDone
    | none => s.requestDone
  else s

def execFreezeLaunch (job lid : Nat) (s : State) : Out := .next (s.freeze 5 job lid true)

def execThawLaunch (job lid : Nat) (s : State) : Out := .next (s.freeze 6 job lid false)

/-! ## Pre-empting a job (R346, R356) -/

/-- A scrolling band at the request: rows that load go back to EMPTY (R338, R356). -/
def State.stopLoads (s : State) (b : Band) : State × Band :=
  (List.range b.height).foldl (fun (s, b) r =>
    if (b.row r).st = .loading then
      (s.unload b r, b.onRow r fun x => { x with st := .empty, stall := 0, wrote := false })
    else (s, b)) (s, b)

/-- The request reaches a band: its sources finish their records and close, its scroll controller stops; the records of standing
faults stand (R346, R348, R356). -/
def State.closeBand (s : State) (l : Launch) : State :=
  match l.placed with
  | some b =>
    if l.st = .running && l.status = 0 then
      let (s, b) := if b.scroll then s.stopLoads b else (s, b)
      s.setLaunch { l with band := some { b with closing := true } }
    else s
  | none => s

/-- PREEMPT_JOB: the request reaches every band and copy engine of the job (R346). -/
def execPreemptJob (job : Nat) (s : State) : Out :=
  if s.request 1 && s.requestJob = job && s.regs.preempting.isNone then
    let s := (s.ofJob job).foldl State.closeBand s
    let s := (s.copyJobsOf job).foldl (fun s (e, k) =>
      let j := s.copyJob e k
      s.setCopyJob e k { j with halt := j.fail = 0 && j.st ≠ .stopped, going := false }) s
    .next { s with regs := { s.regs with preempting := some job } }
  else .next s

/-- What the save of a RESIDENT or DRAINED row at a pre-emption comes to: its state as the next restore takes it (R356). -/
inductive Kept where
  | ok (v : SavedStage) (s : State)
  | badPage
  | wait (s : State)
  deriving DecidableEq, Repr

def State.keepRow (s : State) (l : Launch) (b : Band) (r : Nat) : Kept :=
  let (stage, wave) := b.stageAt r
  let row := s.rowState b r
  match s.saveRow l b r with
  | .ok image s => .ok ⟨stage, wave, row, image, true⟩ (s.performAll (saveAgent (b.cluster r 0)))
  | .fault _ _ _ _ => .ok ⟨stage, wave, row, [], false⟩ s
  | .badPage => .badPage
  | .wait s => .wait s

/-- A row that is still to be saved when its band is scanned out: a RESIDENT or DRAINED one, or one that is SAVING and waits on no
fault (R356). -/
def Band.unkept (b : Band) (r : Nat) : Bool :=
  match (b.row r).st with
  | .resident | .drained => true
  | .saving => (b.row r).wrote || (b.row r).stall = 0
  | _ => false

/-- One row of a scrolling band saved at a pre-emption: a RESIDENT one to be loaded again, a DRAINED one as retired; a SAVING one
completes its save and is EMPTY, or meets a fault and stays SAVING (R356). -/
def State.keepOne (s : State) (l : Launch) (b : Band) (r : Nat) : Out :=
  let put (s : State) (b : Band) : Out := .next (s.setLaunch { l with band := some b })
  if (b.row r).st = .saving then
    if (b.row r).wrote then put (s.performAll (saveAgent (b.cluster r 0))) (b.vacate r) else s.retrySave l b r
  else
    match s.keepRow l b r with
    | .badPage => .next (s.rowFail l b r .permission)
    | .wait s => .next s
    | .ok v s =>
      let b' := b.keep v
      put s (if (b.row r).st = .resident then b'.onRow r fun x => { x with st := .empty, resumed := true } else b'.vacate r)

/-- The rows of a band by ascending position. -/
def Band.byPosition (b : Band) : List Nat :=
  (List.range b.height).foldl (fun l r => l.takeWhile (fun q => (b.row q).p ≤ (b.row r).p) ++
    r :: l.dropWhile fun q => (b.row q).p ≤ (b.row r).p) []

/-- Lines of a launch's context area that its context fills: as many as the device's arrangement takes, at most the launch's need
(R321, R346). -/
def contextLines (s : State) (b : Band) : Nat := min (Config.contextLines s.fresh) ((b.contextNeed + 127) / 128)

/-- The VA of line i of the context area of a launch's pool entry (R321). -/
def contextVa (j : Job) (e i : Nat) : Nat := (j.ctxbase + j.ctxper * e + 128 * i) % 2 ^ 64

/-- The next line of a launch's context read from its area, or written to it with bytes of the device's own, as a home-agent step;
one on a page that no longer serves is passed over (R66, R70, R321, R346, R347). -/
def State.moveContext (s : State) (l : Launch) (b : Band) (write : Bool) : Out :=
  let done (s : State) : Out := .next (s.setLaunch { l with band := some { b with ctxDone := b.ctxDone + 1 } })
  match s.job l.job, l.entry with
  | some j, some e =>
    let va := contextVa j e b.ctxDone
    (if write then s.jobWrite j va ((List.range 128).map fun k => Config.contextByte b.ctxNo (128 * b.ctxDone + k))
      else s.jobRead j s.jobCheck va 128).after s done
  | _, _ => done s

/-- A band begins to be scanned out: its tokens stop; a RELATCH token in it counts as out, its latches invalid (R47, R346). -/
def State.leaveBand (s : State) (l : Launch) (b : Band) : State :=
  let (s, b) := if b.relatch.isSome then (s.dropBases b, b.dropLatches) else (s, b)
  State.setLaunch { s with fresh := s.fresh + 1 } { l with band := some { b with
    leaving := true, relatch := none, ctxNo := s.fresh, ctxLines := contextLines s b, ctxDone := 0 } }

/-- A band that has been scanned out is given up; the launch is pre-empted (R346). -/
def State.suspend (s : State) (l : Launch) (b : Band) : State :=
  let ctx := (List.range b.height).map (s.rowState b)
  (s.releaseBand b).setLaunch { l with band := some { b with
    context := some ctx, leaving := false, closing := false, resume := false, deadlock := 0, holds := [], ctxDone := 0 } }

/-- DRAIN_WINDOW_EXPIRY: a band that is still not done is scanned out, one row and one line of its context a move, and given up
(R66, R346, R348, R356). -/
def execDrainWindowExpiry (job lid : Nat) (s : State) : Out :=
  match s.live job lid with
  | none => .next s
  | some l =>
    match l.band with
    | none => .next s
    | some b =>
      if !b.closing || b.context.isSome || l.status ≠ 0 || l.cancelled || l.ending.isSome then .next s
      else if b.leaving then
        match if b.scroll then b.byPosition.find? b.unkept else none with
        | some r => s.keepOne l b r
        | none => if b.ctxDone < b.ctxLines then s.moveContext l b true else .next (s.suspend l b)
      else
        let s := ((b.clusters.map s.agentsOf).flatten).foldl State.performAll s
        .next (if s.bandDone b then s else s.leaveBand l b)

/-! ## Resuming a job (R347, R357) -/

/-- RESUME_JOB: every pre-empted launch of the job waits to be placed again, and its stopped copy jobs go on after the last of
these (R347). -/
def execResumeJob (job : Nat) (s : State) : Out :=
  if s.request 2 && s.requestJob = job then
    let s := (s.ofJob job).foldl (fun s l => s.onBand l fun b => { b with resume := b.context.isSome }) s
    let s := (s.copyJobsOf job).foldl (fun s (e, k) =>
      let j := s.copyJob e k
      (s.setCopyJob e k { j with going := j.st = .stopped }).copyGoOn e k) s
    .next s.requestDone
  else .next s

/-- The units of standing faults follow their launch to its new band (R348). -/
def State.moveFaults (s : State) (l : Launch) (old new : Band) : State :=
  let go (cl : Nat) : Nat :=
    match old.place cl with
    | some (r, c) => new.cluster r c
    | none => cl
  { s with faultq := s.faultq.map fun f =>
      if f.job = l.job && bits (nth f.words 0 0) 31 0 = l.id then { f with unit := f.unit.moved go } else f }

/-- A launch's ranges entered in the table of the bank over its new band (R49, R347). -/
def State.reenter (s : State) (j : Job) (l : Launch) (b : Band) : Found Unit :=
  match b.treeBank? with
  | none => .ok () s
  | some bank => s.enterRegions j l bank l.ranges

/-- A pre-empted launch on its new band: the context scanned in, the ports as they were (R265, R347, R357). -/
def State.reinstate (s : State) (j : Job) (l : Launch) (old at' : Band) : State :=
  let new := { old with
    tower := at'.tower, layer := at'.layer, x := at'.x, y := at'.y, context := none, resume := false, ctxLines := 0, ctxDone := 0 }
  let new := { new with asked := new.demands }
  match (s.dropRegions l.job l.id).reenter j l new with
  | .wait s' | .bad s' => { s' with regions := s.regions }
  | .ok _ s =>
    let s := (s.reserve new.asked false).takeBand l new
    let back (c old : Cluster) : Cluster := { c with ports := old.ports }
    let s := ((old.context.getD []).zipIdx).foldl (fun s (row, r) =>
      let s := if old.scroll && (old.row r).st ≠ .saving then s else s.overlay new r row Cluster.scanIn
      s.overlay new r row back) s
    ((s.carryLeaf old new (old.context.getD [])).moveFaults l old new).setLaunch { l with band := some new }

/-- LAUNCH_RESUME_PLACE: a pre-empted launch whose turn it is takes a band anywhere, once the lines of its context have been read, one
a move (R66, R316, R318, R347). -/
def execLaunchResumePlace (job lid : Nat) (s : State) : Out :=
  match s.live job lid, s.job job with
  | some l, some j =>
    match l.band with
    | none => .next s
    | some old =>
      if old.context.isNone || !l.seeks || !s.turnOf l then .next s
      else
        match s.findBand l with
        | none => .next s
        | some b =>
          match s.demandFault b.demands with
          | some d => .next (s.failLaunch l .configIllegal (some d.cl) d.stage 0 { src := 7 })
          | none =>
            if !s.demandFits b.demands then .next s
            else if old.ctxDone < old.ctxLines then s.moveContext l old false
            else .next (s.reinstate j l old b)
  | _, _ => .next s

/-! ## The scan window (R349, R350) -/

/-- What an offset of the scan window names: a cluster or a root core of the tower, with an offset in its block. -/
inductive ScanAt where
  | cluster (cl o : Nat)
  | core (n o : Nat)
  | none
  deriving DecidableEq, Repr

def scanOf (tower off : Nat) : ScanAt :=
  let rel := off - 0x20040000000
  let blk := rel / 0x10000
  if off < 0x20040000000 || 0x20080000000 ≤ off then .none
  else if 0x3000 ≤ blk then
    if blk - 0x3000 < 48 then .core (48 * tower + (blk - 0x3000)) (rel % 0x10000) else .none
  else if blk < 768 then .cluster (768 * tower + blk) (rel % 0x10000)
  else .none

/-- A cluster block is open: its launch is frozen, or has taken DEADLOCK and not ended (R349). -/
def State.scanOpen (s : State) (cl : Nat) : Bool :=
  match s.hostOf cl with
  | some (l, b, _, _) => b.frozen || l.status = Code.deadlock.num
  | none => false

/-- A stall record (R110). -/
def Slot.stallWord (x : Slot) : Nat :=
  x.cause % 16 * 2 ^ 60 + x.dest % 16 * 2 ^ 56 + min x.inWait 0xFFFFFFF * 2 ^ 28 + min x.outWait 0xFFFFFFF

/-- The 128 bytes of a token entry, as a number; an empty entry is zero (R349). -/
def tokenNum : Option Token → Nat
  | some t => t.lanes.toNat + 2 ^ 512 * (t.valid.toNat + t.kind % 256 * 2 ^ 16 + t.seq % 2 ^ 16 * 2 ^ 32 + 2 ^ 48)
  | none => 0

/-- The token of an entry whose OCCUPIED bit is set. -/
def tokenAt (n : Nat) : Option Token :=
  let h := n / 2 ^ 512
  if h.testBit 48 then some ⟨h / 2 ^ 16 % 256, h / 2 ^ 32 % 2 ^ 16, BitVec.ofNat 16 h, BitVec.ofNat 512 n⟩ else none

/-- Bytes o to o + 7 of a 128-byte entry replaced. -/
def putBytes (n o v : Nat) : Nat :=
  let lo := 2 ^ (8 * o)
  n % lo + v * lo + n / (lo * 2 ^ 64) * (lo * 2 ^ 64)

/-- Tokens that entries behind a queue's last now hold join it, in order; key is that of entry 0, n the entries it may have. -/
def joinEntries (key : Nat) : Nat → List Token × Table Nat → List Token × Table Nat
  | 0, r => r
  | n + 1, (q, raw) =>
    match tokenAt (raw.getD (key + q.length) 0) with
    | some t => joinEntries key n (q ++ [t], raw.del (key + q.length))
    | none => (q, raw)

/-- Entry e of a queue with 8 bytes of it replaced: a token rewritten or taken out, or the bytes of an entry that holds none,
which becomes a token once it is OCCUPIED and next in the queue (R349). -/
def rewrite (key : Nat) (q : List Token) (raw : Table Nat) (e o v : Nat) : List Token × Table Nat :=
  match q[e]? with
  | some x =>
    match tokenAt (putBytes (tokenNum (some x)) o v) with
    | some t => (q.set e t, raw)
    | none => (q.eraseIdx e, raw)
  | none => joinEntries key 8 (q, raw.set (key + e) (putBytes (raw.getD (key + e) 0) o v))

/-- The queue that an offset of a cluster block names, with the entry: of a slot, or of a router input. -/
def scanQueue (o : Nat) : Option ((Nat ⊕ Nat) × Nat × Nat) :=
  if 0x1000 ≤ o && o < 0x3000 then
    let x := o - 0x1000
    some (.inl (4 * (x / 0x800) + x % 0x800 / 0x200), x % 0x200 / 0x80, x % 0x80)
  else if 0x5000 ≤ o && o < 0x8800 then
    let x := o - 0x5000
    some (.inr (2 * (x / 0x800) + x % 0x800 / 0x400), x % 0x400 / 0x80, x % 0x80)
  else none

/-- The 8 bytes at an offset of a cluster block. -/
def Cluster.scanRead (c : Cluster) (o : Nat) : Nat :=
  if o < 32 then (c.slot (o / 8)).stallWord
  else
    match scanQueue o with
    | some (.inl k, e, x) => entry (8 * k + e) (c.queue k)[e]? / 2 ^ (8 * x) % 2 ^ 64
    | some (.inr k, e, x) => entry (256 + 8 * k + e) (((c.rq.getD k [])[e]?).map (·.2)) / 2 ^ (8 * x) % 2 ^ 64
    | none => 0
where
  entry (key : Nat) (t : Option Token) : Nat := if t.isSome then tokenNum t else c.scan.getD key 0

/-- 8 bytes written at an offset of a cluster block; the stall records and the flag word are RO (R3, R110, R132). -/
def Cluster.scanWrite (c : Cluster) (o v : Nat) : Cluster :=
  match scanQueue o with
  | some (.inl k, e, x) =>
    let (q, raw) := rewrite (8 * k) (c.queue k) c.scan e x v
    { c.setQueue k q with scan := raw }
  | some (.inr k, e, x) =>
    let q := c.rq.getD k []
    let (new, raw) := rewrite (256 + 8 * k) (q.map (·.2)) c.scan e x v
    let tags := if new.length < q.length then (q.map (·.1)).eraseIdx e else q.map (·.1)
    { c with rq := c.rq.set k (new.zipIdx.map fun (t, i) => (nth tags i 0, t)), scan := raw }
  | none => c

/-- The 8 bytes at an offset of a root-core block. -/
def State.coreScan (s : State) (c : Core) (o : Nat) : Nat :=
  if o < 0x100 then (c.getNat (o / 8)).toNat
  else
    match o with
    | 0x100 => c.pc.toNat
    | 0x108 => c.statusWord.toNat
    | 0x110 => c.epc.toNat
    | 0x118 => c.causeWord.toNat
    | 0x120 => c.eval.toNat
    | 0x128 => c.vbase.toNat
    | 0x130 => (s.clockWord c).toNat
    | _ => 0

/-- 8 bytes written at an offset of a root-core block; SYS_CLOCK may be lowered (R350). SYS_CAUSE is RO (R3, R239). The ZERO bits of
SYS_STATUS, SYS_EPC and SYS_VBASE are not kept: R4 names no fault for such a write (DESIGN CHOICE, log 83). -/
def Core.scanWrite (c : Core) (o : Nat) (v : Word) : Core :=
  if o < 0x100 then c.putNat (o / 8) v
  else
    match o with
    | 0x100 => { c with pc := v &&& ~~~7, relatch := none, ahead := [] }
    | 0x108 => { c with priv := bitAt v 0, ppriv := bitAt v 1 }
    | 0x110 => { c with epc := v &&& ~~~7, eahead := [] }
    | 0x120 => { c with eval := v }
    | 0x128 => { c with vbase := v &&& ~~~7 }
    | 0x130 => { c with pts := bits v 23 0 }
    | _ => c

/-- A read of 8 aligned bytes of the scan window; zero outside an open block (R349). The stage flag word, which the scan interface gives
too, stands at +0x20, behind the stall records (R132; DESIGN CHOICE, log 30). -/
def State.scanGet (s : State) (tower off : Nat) : Nat :=
  match scanOf tower off with
  | .cluster cl o =>
    if !s.scanOpen cl then 0
    else if o = 0x20 then (s.stageFlags cl).toNat
    else (s.cluster cl).scanRead o
  | .core n o => if (s.core n).halted then s.coreScan (s.core n) o else 0
  | .none => 0

/-- A write of 8 aligned bytes of the scan window, discarded outside an open block (R349, R350). -/
def State.scanPut (s : State) (tower off : Nat) (v : Word) : State :=
  match scanOf tower off with
  | .cluster cl o => if s.scanOpen cl then s.onCluster cl fun c => c.scanWrite o v.toNat else s
  | .core n o => if (s.core n).halted then (s.setCore n ((s.core n).scanWrite o v)).noteClock ((s.core n).scanWrite o v).pts else s
  | .none => s

/-- SCAN_WRITE: an aligned .D write of the scan window. -/
def execScanWrite (tower off : Nat) (v : Word) (s : State) : Out :=
  .next (if off % 8 = 0 then s.scanPut (tower % 4) off v else s)

/-! ## The turn advance (R29) -/

def Msg.zero (m : Msg) : Msg := { m with clock := 0 }

def Mail.zero (m : Mail) : Mail := { m with msg := m.msg.zero }

/-- A core after a turn advance: its clock and those of its messages 0. -/
def Core.newTurn (c : Core) : Core :=
  { c with
    pts := 0
    chans := c.chans.mapVals fun ch => { ch with queue := ch.queue.map Msg.zero }
    burst := c.burst.map fun b => { b with clk := 0 }
    out := c.out.map Mail.zero }

/-- A line: only its latest version, with clocks 0; a record that the home's caches hold gets the new TURN, another keeps its
old one, so that its clocks read as 0 (R22, R29). -/
def LineInfo.newTurn (turn : Bool) (li : LineInfo) : LineInfo :=
  let li := { li with wts := 0, rts := 0, old := [] }
  if li.place = .none then li else li.stamp turn 0 0

/-- A cluster's line clocks, tile clocks and unit clocks 0. -/
def Cluster.newTurn (c : Cluster) : Cluster :=
  { c with
    lines := c.lines.mapVals fun l => { l with clk := 0 }
    tiles := c.tiles.mapVals fun t => { t with tclk := 0 }
    ags := c.ags.mapVals fun a => { a with pts := 0 } }

/-- A launch's clocks 0, those of its saved contexts with them (R348). -/
def Launch.newTurn (l : Launch) : Launch :=
  let row (cs : List Cluster) : List Cluster := cs.map Cluster.newTurn
  { l with
    start := 0
    clock := 0
    reached := l.reached.map fun _ => 0
    band := l.band.map fun b =>
      { b with saved := b.saved.map fun v => { v with row := row v.row }, context := b.context.map fun x => x.map row } }

/-- A copy job's clocks 0, running or completed. -/
def Engine.newTurn (x : Engine) : Engine :=
  { x with maxFinal := 0, slots := x.slots.mapVals fun j => { j with pts := 0, final := 0 } }

/-- READY after a warm reset, which a turn advance precedes (R352). -/
def State.warmReady (s : State) : State :=
  if bitAt s.regs.rststat 1 && !bitAt s.regs.hstatus 63 && !bitAt s.regs.hstatus 62 then
    { s with regs := { s.regs with hstatus := BitVec.ofNat 64 (2 ^ 63 + s.pkg % 256) } }
  else s

/-- TURN_ADVANCE: requested, and the sweep of the last advance has completed in every tower of the package; that move is also
the agreement of the graft-linked packages, whose turn messages come from outside (R29, log 1). -/
def execTurnAdvance (s : State) : Out :=
  if s.turnReq && [0, 1, 2, 3].all fun t => s.sweepDone (s.towerId t) then
    .next <| State.warmReady { s with
      turn := !s.turn
      turnReq := false
      scrub := [0, 1, 2, 3].map fun t => (s.towerId t, 0)
      clocks := []
      cores := s.cores.mapVals Core.newTurn
      mail := s.mail.map Mail.zero
      lines := s.lines.mapVals (LineInfo.newTurn !s.turn)
      clusters := s.clusters.mapVals Cluster.newTurn
      twig := s.twig.map fun w => { w with pts := 0 }
      engines := s.engines.mapVals Engine.newTurn
      launches := s.launches.map Launch.newTurn
      faultq := s.faultq.map fun f => { f with clock := 0 } }
  else .next s

end Sys2Proof.Machine
end

