-- ==== Sys2Proof/Machine/Host.lean ====
section
/-!
DEFINITION. The host: arming (R377), BAR 2 and NVMe (R376, R380), the event log (R381), attestation (R383, R384), power and
clocks (R12, R385), bring-up and resets (R351 to R353, R382).
-/
namespace Sys2Proof.Machine

/-! ## Requests over PCIe (R376, R377, R380) -/

/-- ARMRES: STAT and ID. -/
def State.setArmres (s : State) (vf stat id : Nat) : State :=
  { s with regs := { s.regs with armres := s.regs.armres.set vf (BitVec.ofNat 64 (stat * 2 ^ 56 + id % 2 ^ 32)) } }

/-- DONE_POP: a read of DONE takes the oldest entry (R377). -/
def execDonePop (vf : Nat) (s : State) : Out :=
  .next { s with regs := { s.regs with donq := s.regs.donq.set vf (s.regs.donq.getD vf []).tail } }

/-- The physical address that an access at offset x of BAR 2 of a function, or of the window of a drive's root port, reaches, n bytes
long; none for an Unsupported Request (R59, R380). -/
def State.inbound (s : State) (f x n : Nat) (wr : Bool) : Option Nat :=
  let a := x / 2 ^ 36
  let d := x % 2 ^ 36
  let w0 := s.regs.iaper.getD (2 * (8 * f + a)) 0
  let w1 := s.regs.iaper.getD (2 * (8 * f + a) + 1) 0
  let pa := bits w0 51 12 * 4096 + d
  let ok := f ≤ 130 && a < 8 && bitAt w1 63 && d + n ≤ 4096 * bits w1 24 0 && (!wr || bitAt w1 62)
  let target := match windowOf pa with
    | .hbm => (s.lineFault pa).isNone
    | .crown => pkgOf pa = s.pkg && s.scratchBacked pa
    | _ => false
  if ok && target then some pa else none

/-- Bytes at an address cut at line boundaries. -/
def linePieces (pa : Nat) (data : List Byte) : List (Nat × List Byte) :=
  (List.range ((pa % 128 + data.length + 127) / 128)).map fun i =>
    if i = 0 then (pa, data.take (128 - pa % 128))
    else (pa / 128 * 128 + 128 * i, (data.drop (128 * i - pa % 128)).take 128)

/-- An access to a line waits for a route or for the turn advance, or goes on (R29, R367). -/
def State.hostTouch (s : State) (pa : Nat) (f : State → Found Unit) : Found Unit :=
  if !s.reachable pa then .wait s
  else
    match s.touch pa with
    | some s => f s
    | none => .wait (s.stallTurn (homeOf pa % 4))

/-- A piece of a posted write: a home-agent store, or a scratch write in its bank's write buffer (R60, R376). -/
def State.inboundWrite (s : State) (f off : Nat) (data : List Byte) : Found Unit :=
  match s.inbound f off data.length true with
  | none => .ok () s
  | some pa =>
    if windowOf pa = .crown then .ok () (s.arrive ⟨0, pa, data⟩)
    else
      s.hostTouch pa fun s =>
        match s.homeStore pa data with
        | some (_, s) => .ok () s
        | none => .wait (s.stallTurn (homeOf pa % 4))

/-- A piece of a read: a home-agent load, or a scratch read; what it returns leaves the package (R60, R376). -/
def State.inboundRead (s : State) (f off n : Nat) : Found Unit :=
  match s.inbound f off n false with
  | none => .ok () s
  | some pa => if windowOf pa = .crown then .ok () s else s.hostTouch pa fun s => .ok () (s.homeLoad pa n).2.2

/-- A write to ARM: as LARM without .RES, with start clock 0 (R377). -/
def State.hostArm (s : State) (vf : Nat) (v : Word) : Found Unit :=
  let n := bits v 47 32
  let own : Bool := match s.job n with | some j => j.vf == vf | none => false
  if bits v 63 48 ≠ 0 || !own then .ok () (s.setArmres vf 3 0)
  else
    match s.arm n (bits v 31 0) false 0 none with
    | .noTemplate => .ok () (s.setArmres vf 3 0)
    | .full => .ok () (s.setArmres vf 2 0)
    | .wait s => .wait s
    | .ok id virt s => .ok () (s.setArmres vf (if virt then 1 else 0) id)

/-- What a request does when its turn has come. -/
def State.hostReq (s : State) (f : Nat) (r : HostReq) : Found Unit :=
  match r with
  | .write off data => s.inboundWrite f off data
  | .read off n => s.inboundRead f off n
  | .arm v => s.hostArm f v

/-- The oldest waiting request of a function or drive is performed, or waits on; requests of one are performed in the order in which
they come (R376). -/
def State.hostTurn (s : State) (f : Nat) : Out :=
  match s.hostq.findIdx? fun p => p.1 = f with
  | none => .next s
  | some i =>
    match (s.hostq[i]?).map fun p => s.hostReq f p.2 with
    | some (.ok _ t) => .next { t with hostq := t.hostq.eraseIdx i }
    | some (.wait t) => .next t
    | some (.bad t) => .next t
    | none => .next s

/-- Requests of a function join the others; then its oldest has its turn, one access a move: an access of no bytes gives the next
one its turn (R66, R376; the model's own form of what comes in, log 63). -/
def State.hostRequest (s : State) (f : Nat) (rs : List HostReq) : Out :=
  State.hostTurn { s with hostq := s.hostq ++ rs.map fun r => (f, r) } f

/-- HOST_ARM: a write to ARM, after the function's earlier posted writes (R377). -/
def execHostArm (vf : Nat) (v : Word) (s : State) : Out := s.hostRequest vf [.arm v]

/-- HOST_BAR2_ACCESS by function f at offset x, or by the drive on root port f − 129 at bus address x. -/
def execHostBar2Access (f x : Nat) (acc : HostAccess) (s : State) : Out :=
  s.hostRequest f (match acc with
    | .read n => (linePieces x (List.replicate n 0)).map fun p => .read p.1 p.2.length
    | .write data => (linePieces x data).map fun p => .write p.1 p.2)

/-- NVME_DMA_WRITE: a drive on root port 0 or 1 writes through that port's bus window. -/
def execNvmeDmaWrite (port addr : Nat) (data : List Byte) (s : State) : Out :=
  if port < 2 then s.hostRequest (129 + port) ((linePieces addr data).map fun p => .write p.1 p.2) else .next s

/-! ## The event log (R381) -/

/-- An entry as a read of CELOG gives it. -/
def CeEntry.word (e : CeEntry) : Word :=
  BitVec.ofNat 64 (2 ^ 63 + e.tower % 1024 * 2 ^ 53 + e.layer % 4 * 2 ^ 51 + e.x % 16 * 2 ^ 47 + e.y % 16 * 2 ^ 43 +
    e.kind % 8 * 2 ^ 40 + e.detail % 2 ^ 40)

def State.celogPop (s : State) : Word × State :=
  match s.celog with
  | [] => (0, s)
  | e :: r => (e.word, { s with celog := r })

/-- CELOG_POP: a read of CELOG. -/
def execCelogPop (s : State) : Out := .next s.celogPop.2

/-! ## Attestation (R383, R384) -/

/-- A write of GO: refused while BUSY; else the nonce is copied. -/
def State.attest (s : State) : State :=
  let v := s.regs.attctl
  if bitAt v 63 then { s with regs := { s.regs with attctl := v ||| BitVec.ofNat 64 (2 ^ 61) } }
  else
    { s with regs := { s.regs with
      attctl := BitVec.ofNat 64 (2 ^ 63)
      attcopy := (List.range 8).map fun i => s.regs.attnonce.getD i 0 } }

/-- ATTESTATION_REQUEST. -/
def execAttestationRequest (s : State) : Out := .next s.attest

/-- The repair-log entries that the state holds: bus groups with a repaired lane and arrays with a retired column (R63, R155,
R383). -/
def State.repairs (s : State) : Nat :=
  s.regs.repairLog.length + (s.clusters.filter fun p => p.2.arr.retired.isSome).length

/-- The 512 bytes of a report: the hash of the running image, the device's key hash and version, and the signature are free values;
all but the last are the same in every report until the next bring-up (R384). -/
def State.report (s : State) : List Byte :=
  (s.regs.attcopy.map fun w => leBytes 8 w.toNat).flatten ++ (upFrom 0 64).map (Config.imageHash s.regs.boot) ++
    (upFrom 0 72).map Config.identity ++ leBytes 1 s.pkg ++ leBytes 1 (bits s.regs.rststat 0 0) ++ leBytes 2 0 ++
    leBytes 4 s.repairs ++ leBytes 48 0 ++ (upFrom 256 132).map (Config.attestByte s.fresh) ++ leBytes 124 0

/-- ATTESTATION_COMPLETE: the report is readable, BUSY clears, DONE is set, vector 3 of the PF is raised. -/
def execAttestationComplete (s : State) : Out :=
  if bitAt s.regs.attctl 63 then
    let ws := wordsOf 64 s.report
    .next { s with
      fresh := s.fresh + 1
      regs := { s.regs with
        attctl := BitVec.ofNat 64 (2 ^ 62 + (if bitAt s.regs.attctl 61 then 2 ^ 61 else 0))
        attrep := ws.zipIdx.map fun (w, i) => (i, w)
        msix := s.regs.msix.set 3 true } }
  else .next s

/-! ## Power (R12, R385) -/

/-- A layer that the power manager lowers first: of those above 1.0 GHz one with the highest activity in the sample (R385). -/
def State.busiest (s : State) (layer : Nat) : Bool :=
  let up (i : Nat) : Bool := 10 < nth s.regs.layclk i 10
  up layer && (List.range 12).all fun i => !up i || Config.activity s.fresh i ≤ Config.activity s.fresh layer

/-- POWER_SAMPLE: above the cap, the clock of a layer with the highest activity goes down a step, not below 1.0 GHz; else that of a
layer goes up a step (R385). -/
def execPowerSample (watts layer : Nat) (s : State) : Out :=
  let c := nth s.regs.layclk layer 19
  let new := if watts ≤ s.regs.pwrcap then min 19 (c + 1) else if s.busiest layer then c - 1 else c
  .next { s with fresh := s.fresh + 1, regs := { s.regs with layclk := s.regs.layclk.set layer new } }

/-- THERMAL_CLOCK_STEP: a layer at its junction limit lowers its own clock a step (R12). No step raises it again before a cold
reset: the spec gives none (DESIGN CHOICE, log 29). -/
def execThermalClockStep (layer : Nat) (s : State) : Out :=
  let c := max 10 (nth s.regs.thermal layer 19 - 1)
  .next { s with regs := { s.regs with thermal := s.regs.thermal.set layer c } }

/-! ## Resets (R351 to R353, R382) -/

/-- The state of a package after a cold reset, the model's own fields kept. -/
def State.cleared (s : State) (pkg : Nat) : State :=
  { State.reset with
    sched := s.sched
    actor := s.actor
    site := s.site
    fresh := s.fresh
    time := s.time
    ticks := s.ticks
    pkg := pkg }

/-- HSTATUS: READY, or RECOVERY with the step that failed (R382). -/
def BringUp.code (b : BringUp) : Nat :=
  if !b.calibrated then 1 else if b.pkg % 256 = 255 then 4 else if !b.memoryOk then 2 else if !b.signatureOk then 3 else 0

def bringUpStatus (code pkg : Nat) : Word :=
  BitVec.ofNat 64 (if code = 0 then 2 ^ 63 + pkg % 256 else 2 ^ 62 + code * 256 + (if code = 1 || code = 4 then 0 else pkg % 256))

/-- A failed lane that the repair scan finds or the log names: the spare of its group replaces it; the bank of a group that needs a
second spare goes offline. Group 32·bank + g (R63, R382). -/
def State.repairLane (s : State) (group lane : Nat) : State :=
  let lane := lane % 64
  let s := { s with regs := { s.regs with
    failedLanes := if s.regs.failedLanes.contains (group, lane) then s.regs.failedLanes else s.regs.failedLanes ++ [(group, lane)] } }
  match s.regs.repairLanes.get group with
  | none => { s with regs := { s.regs with
      repairLanes := s.regs.repairLanes.set group lane
      repairLog := s.regs.repairLog.set group lane } }
  | some old =>
    let k := group / 32 % 256
    let b := s.bank (k / 64) (k % 64)
    if old = lane || b.offline then s
    else (s.setBank (k / 64) (k % 64) { b with offline := true }).logTower (k / 64) 1 (k % 64)

def State.repairAll (s : State) (ls : List (Nat × Nat)) : State := ls.foldl (fun s l => s.repairLane l.1 l.2) s

/-- Power-on: the steps of R382, the repair log of before merged with what the scan finds; with READY the first sweep starts (R30). -/
def State.powerOn (s : State) (b : BringUp) : State :=
  let code := BringUp.code b
  let pkg := if code = 1 || code = 4 then 0 else b.pkg % 256
  let log := s.regs.repairLog
  let new := s.cleared pkg
  let new := { new with fresh := s.fresh + 1, regs := { new.regs with repairLog := log, boot := s.fresh } }
  let new := if code = 1 then new else new.repairAll (log ++ b.lanes)
  { new with
    scrub := if code = 0 then [0, 1, 2, 3].map fun t => (new.towerId t, 0) else []
    regs := { new.regs with hstatus := bringUpStatus code pkg } }

def execPowerOn (b : BringUp) (s : State) : Out := .next (s.powerOn b)

/-- COLD_RESET: every state cleared, and the power-on sequence with the same board, whose scan finds every lane that has been found
before (R352). -/
def execColdReset (s : State) : Out := .next (s.powerOn ⟨true, s.pkg, true, true, s.regs.failedLanes⟩)

/-- The copy that a line's owner or home cache holds does not survive a warm reset (R352). -/
def State.copyLost (s : State) (crownOk : Bool) (l : Nat) : Bool :=
  let li := s.line l
  let home := homeOf (128 * l)
  let inTree := match li.place with | .tree _ => true | _ => false
  if li.owned && li.owner / 4 = s.pkg then
    if li.owner = home then (if li.place = .home then !crownOk else true) else !crownOk
  else if home / 4 = s.pkg && !li.owned then inTree || (li.place = .home && !crownOk)
  else false

/-- A line after a warm reset: a copy that did not survive is lost, so that the line reverts at its first access, and the tree banks
and, unless RETAINED, the crown ways hold nothing (R352). -/
def State.afterWarm (s : State) (crownOk : Bool) (l : Nat) (li : LineInfo) : LineInfo :=
  let place : Place := match li.place with
    | .tree _ => .none
    | .home => if crownOk then .home else .none
    | .none => .none
  { li with place := place, copy := if s.copyLost crownOk l then .lost else li.copy }

/-- How a warm reset's bring-up ends: 0, or the code of the step that fails, self-calibration or the signature (R382). -/
def State.warmCode (s : State) : Nat × State :=
  let (k, s) := s.choose 3
  (if k = 0 then 0 else if k = 1 then 1 else 3, s)

/-- WARM_RESET: fabric, root cores, tree banks and translation caches are cleared, HBM and the crown kept; the lane repairs of the log
are applied again, and what a new scan finds; a turn advance follows, and then READY, or RECOVERY when a step has failed (R63,
R351, R352, R382). -/
def execWarmReset (crownOk : Bool) (s : State) : Out :=
  let (code, s) := s.warmCode
  let n := s.fresh
  let s := { s with
    fresh := n + 1
    cores := []
    mail := []
    lines := s.lines.map fun (l, li) => (l, s.afterWarm crownOk l li)
    banks := s.banks.mapVals fun b => { b with reserved := 0 }
    scratch := if crownOk then s.scratch else []
    posted := []
    regions := []
    l2 := []
    walks := []
    clusters := Table.mapVals (s.clusters.filter fun p => p.2.arr.retired.isSome) fun c =>
      { Cluster.reset with arr := { Arr.reset with retired := c.arr.retired } }
    twig := []
    engines := []
    jobs := []
    launches := []
    faultq := []
    reserved := none
    hostq := []
    turnReq := true
    regs := { s.regs with
      rststat := BitVec.ofNat 64 (2 + if crownOk then 1 else 0)
      mgmtStat := []
      preempt := 0
      preempting := none
      jobdesc := 0
      jobctl := 0
      admitting := none
      boot := n
      repairLanes := []
      hstatus := BitVec.ofNat 64 ((if code = 0 then 0 else 2 ^ 62 + code * 256) + s.pkg % 256) } }
  .next (if code = 1 then s else s.repairAll (s.regs.repairLog ++ Config.warmScan n))

/-- A root core that a function-level reset halts and clears (R353). -/
def Core.halted' : Core := { Core.reset with halted := true }

/-- FUNCTION_LEVEL_RESET: CANCEL.JOB on each job of the function, and its root cores halted and cleared. It changes no line; the ends
of its launches, with their steps of R319, follow move by move (R30, R353; DESIGN CHOICE, log 85). -/
def execFunctionLevelReset (vf : Nat) (s : State) : Out :=
  let ns : List Nat := (s.jobs.filter fun p => p.2.vf = vf).map (·.1)
  let s := ns.foldl (fun s n => (s.cancel n .job 0).2) s
  .next { s with cores := s.cores.mapVals fun c => if ns.contains c.job then Core.halted' else c }

end Sys2Proof.Machine
end

