-- ==== Sys2Proof/Machine/Device.lean ====
section
/-!
DEFINITION. Device registers in the towers' device windows: scheduler registers (R322, R342, R344, R351), graft registers
(R367), apertures (R379, R380), the PF block (R381, R384), the scan window (R349).
-/
namespace Sys2Proof.Machine

/-- A register of a tower's device window, by its offset. -/
inductive DevReg where
  | fresume | preempt | rststat | jobdesc | jobctl
  | gport (p : Nat)
  | fencemap (n : Nat)
  | fencectl
  | route (k : Nat)
  /-- Word i of the apertures: 2n + w of OAPER_n, 2(8f + a) + w of an IAPER. -/
  | oaper (i : Nat)
  | iaper (i : Nat)
  | hstatus | celog | pwrcap | layclk | attctl
  | attnonce (i : Nat)
  | attrep (i : Nat)
  | scan (off : Nat)
  | none
  deriving DecidableEq, Repr

/-- Offset o lies in n registers of 8 bytes from lo on. -/
def inRegs (o lo n : Nat) : Bool := lo ≤ o && o < lo + 8 * n

/-- The register that holds a byte of a tower's device window (R322, R342, R349, R367, R379 to R381, R384). -/
def devRegAt (tower off : Nat) : DevReg :=
  let o := off - 0x20000000000
  let at0 (r : DevReg) : DevReg := if tower = 0 then r else .none
  if o / 8 = 0x1000 / 8 then .fresume
  else if o / 8 = 0x1008 / 8 then .preempt
  else if o / 8 = 0x1010 / 8 then .rststat
  else if o / 8 = 0x1018 / 8 then .jobdesc
  else if o / 8 = 0x1020 / 8 then .jobctl
  else if inRegs o 0x2000 12 then .gport ((o - 0x2000) / 8)
  else if inRegs o 0x2100 4 then .fencemap ((o - 0x2100) / 8)
  else if o / 8 = 0x2120 / 8 then .fencectl
  else if inRegs o 0x3000 256 then .route ((o - 0x3000) / 8)
  else if inRegs o 0x4000 128 then at0 (.oaper ((o - 0x4000) / 8))
  else if inRegs o 0x8000 2096 then at0 (.iaper ((o - 0x8000) / 8))
  else if o / 8 = 0x10000 / 8 then at0 .hstatus
  else if o / 8 = 0x10008 / 8 then at0 .celog
  else if o / 8 = 0x10010 / 8 then at0 .pwrcap
  else if o / 8 = 0x10018 / 8 then at0 .layclk
  else if o / 8 = 0x10020 / 8 then at0 .attctl
  else if inRegs o 0x10100 8 then at0 (.attnonce ((o - 0x10100) / 8))
  else if inRegs o 0x10200 64 then at0 (.attrep ((o - 0x10200) / 8))
  else if 0x40000000 ≤ o && o < 0x80000000 then .scan (off / 8 * 8)
  else .none

/-- A register of the PF block (R381, R384). -/
def DevReg.pf : DevReg → Bool
  | .hstatus | .celog | .pwrcap | .layclk | .attctl | .attnonce _ | .attrep _ => true
  | _ => false

/-- The register that a writer finds at an offset. The PF block is reachable only by the host and by sapwood: a management core, or a
root core in privileged mode; for others nothing is there (R381; DESIGN CHOICE, log 94). -/
def State.regAt (s : State) (w : Writer) (tower off : Nat) : DevReg :=
  let r := devRegAt tower off
  let sapwood := match w with
    | .mgmt _ => true
    | .root n => (s.core n).priv
  if r.pf && !sapwood then .none else r

/-- LAYCLK: each layer runs at the lower of its two clocks (R381, R385). -/
def DevRegs.layclkWord (r : DevRegs) : Nat :=
  ((r.layclk.zip r.thermal).zipIdx.map fun (p, i) => min p.1 p.2 * 2 ^ (5 * i)).sum

/-- FENCEMAP_n (R367). -/
def State.fencemap (s : State) (n : Nat) : Nat :=
  ((s.fenced.filter fun k => k / 64 = n).map fun k => 2 ^ (k % 64)).sum

/-- The value of a register of a tower that a core reads. -/
def State.regRead (s : State) (w : Writer) (tower : Nat) (r : DevReg) : Nat × State :=
  match r with
  | .fresume => (s.stat w, s)
  | .preempt => (s.regs.preempt.toNat, s)
  | .rststat => (s.regs.rststat.toNat, s)
  | .jobdesc => (s.regs.jobdesc.toNat, s)
  | .jobctl => (s.regs.jobctl.toNat, s)
  | .gport p => ((s.gportRead p).1.toNat, (s.gportRead p).2)
  | .fencemap n => (s.fencemap n, s)
  | .fencectl => (s.regs.fencectl.toNat, s)
  | .route k => (s.regs.route.getD k 15, s)
  | .oaper i => ((s.regs.oaper.getD i 0).toNat, s)
  | .iaper i => ((s.regs.iaper.getD i 0).toNat, s)
  | .hstatus => (s.regs.hstatus.toNat, s)
  | .celog => (s.celogPop.1.toNat, s.celogPop.2)
  | .pwrcap => (s.regs.pwrcap, s)
  | .layclk => (s.regs.layclkWord, s)
  | .attctl => (s.regs.attctl.toNat, s)
  | .attnonce _ => (0, s)
  | .attrep i => (if bitAt s.regs.attctl 63 then 0 else (s.regs.attrep.getD i 0).toNat, s)
  | .scan off => (s.scanGet tower off, s)
  | .none => (0, s)

/-- A read of n bytes of the device window, 8 or 4: a .W read gives bits 31:0 (R342, R367); an offset with no register
reads as zero (log 12). -/
def State.devRead (s : State) (w : Writer) (pa n : Nat) : List Byte × State :=
  let tower := homeOf pa % 4
  let (v, s) := s.regRead w tower (s.regAt w tower (offOf pa))
  (leBytes n (v % 2 ^ 64), s)

/-! ## Writes -/

/-- A PREEMPT write is refused: reserved ACT, nonzero ZERO, unknown target (R344). -/
def State.preemptRefused (s : State) (v : Word) : Bool :=
  let act := bits v 61 59
  let job := bits v 47 32
  let target := bits v 31 0
  let launch : Bool := match s.live job target with | some l => l.placed.isSome | none => false
  bits v 58 48 ≠ 0 ||
  (match act with
   | 0 => true
   | 1 | 2 => target ≠ 0 || (s.job job).isNone
   | 5 | 6 => !launch
   | 7 => !(target < Config.cores && (s.core target).halted && (s.core target).task = .none)
   | _ => !(target < Config.cores))

/-- A write of PREEMPT; while BUSY the request in progress keeps its fields (R344, log 13). -/
def State.writePreempt (s : State) (v : Word) : State :=
  let old := s.regs.preempt
  let fields := v.toNat % 2 ^ 62 - bits v 58 48 * 2 ^ 48
  let new : Word :=
    if bitAt old 63 then old ||| BitVec.ofNat 64 (2 ^ 62)
    else if s.preemptRefused v then BitVec.ofNat 64 (2 ^ 62 + fields)
    else BitVec.ofNat 64 (2 ^ 63 + fields)
  { s with regs := { s.regs with preempt := new } }

/-- A write of JOBCTL; what JOB_ADMIT or JOB_RETIRE find is theirs to refuse (R322). -/
def State.writeJobctl (s : State) (v : Word) : State :=
  let old := s.regs.jobctl
  let fields := bits v 61 60 * 2 ^ 60 + bits v 15 0
  let err := 2 ^ 62 + 2 ^ 56
  let new : Word :=
    if bitAt old 63 then BitVec.ofNat 64 (2 ^ 63 + bits old 61 60 * 2 ^ 60 + bits old 15 0 + err)
    else if bits v 61 60 = 0 || bits v 61 60 = 3 || bits v 55 16 ≠ 0 || bits v 15 0 = 0xFFFF then
      BitVec.ofNat 64 (fields + err)
    else BitVec.ofNat 64 (2 ^ 63 + fields)
  { s with regs := { s.regs with jobctl := new } }

/-- A write of FENCECTL (R367, R368). -/
def State.writeFencectl (s : State) (v : Word) : State :=
  let old := s.regs.fencectl
  let fields := bits v 61 60 * 2 ^ 60 + bits v 7 0
  let new : Word :=
    if bitAt old 63 then old ||| BitVec.ofNat 64 (2 ^ 62)
    else if bits v 61 60 = 0 || bits v 61 60 = 3 || bits v 59 8 ≠ 0 || bits v 7 0 = s.pkg then
      BitVec.ofNat 64 (2 ^ 62 + fields)
    else BitVec.ofNat 64 (2 ^ 63 + fields)
  { s with regs := { s.regs with fencectl := new } }

/-- A write of FRESUME: ACTION 2 or 3 or a nonzero ZERO is refused (R342). -/
def State.writeFresume (s : State) (w : Writer) (v : Word) : State :=
  if bits v 63 62 ≥ 2 || bits v 61 48 ≠ 0 then s.setStat w 3 else s.fresume w (bits v 63 62) (bits v 47 32) (bits v 31 0)

/-- A write of 8 bytes to a register; read-only registers discard it, a checked field that is not zero discards it whole. -/
def State.regWrite (s : State) (w : Writer) (tower : Nat) (r : DevReg) (v : Word) : State :=
  match r with
  | .fresume => s.writeFresume w v
  | .preempt => s.writePreempt v
  | .jobdesc => if bits v 63 52 ≠ 0 || bits v 6 0 ≠ 0 then s else { s with regs := { s.regs with jobdesc := v } }
  | .jobctl => s.writeJobctl v
  | .fencectl => s.writeFencectl v
  | .route k => if v.toNat < 16 then { s with regs := { s.regs with route := s.regs.route.set k v.toNat } } else s
  | .oaper i =>
    if (if i % 2 = 0 then bits v 11 0 ≠ 0 else bits v 60 23 ≠ 0) then s
    else { s with regs := { s.regs with oaper := s.regs.oaper.set i v } }
  | .iaper i =>
    if (if i % 2 = 0 then bits v 63 52 ≠ 0 || bits v 11 0 ≠ 0 else bits v 61 25 ≠ 0) then s
    else { s with regs := { s.regs with iaper := s.regs.iaper.set i v } }
  | .pwrcap =>
    if 600 ≤ v.toNat && v.toNat ≤ 2400 then { s with regs := { s.regs with pwrcap := v.toNat } } else s
  | .attctl => if bitAt v 0 then s.attest else s
  | .attnonce i => { s with regs := { s.regs with attnonce := s.regs.attnonce.set i v } }
  | .scan off => s.scanPut tower off v
  | .rststat | .gport _ | .fencemap _ | .hstatus | .celog | .layclk | .attrep _ | .none => s

/-- A write of the device window: of 8 bytes; a .W write is discarded (R342, R367). -/
def State.devWrite (s : State) (w : Writer) (pa : Nat) (data : List Byte) : State :=
  let tower := homeOf pa % 4
  if data.length = 8 then s.regWrite w tower (s.regAt w tower (offOf pa)) (BitVec.ofNat 64 (leNat data)) else s

/-- DEVICE_REGISTER_WRITE: sapwood, on management core n of the eight, writes a register of tower t with .D; `tower` is
4·n + t (R11). -/
def execDeviceRegisterWrite (tower off : Nat) (v : Word) (s : State) : Out :=
  let n := tower / 4
  .next (if off % 8 = 0 && n < Config.mgmtCores then s.regWrite (.mgmt n) (tower % 4) (devRegAt (tower % 4) off) v else s)

end Sys2Proof.Machine
end

