-- ==== Sys2Proof/Machine/EndTokens.lean ====
section
/-!
DEFINITION. END_TOKEN_AT_UNIT: end and boundary tokens, and the RESCALE of a sink, at a unit that is no slot (R211, R219,
R231, R308). Units are numbered 4 array, 8 + u address generator u, 12 memory-unit sink.
-/
namespace Sys2Proof.Machine

def execEndTokenAtUnit (cl unit : Nat) (s : State) : Out :=
  if 8 ≤ unit && unit ≤ 11 then s.agEnds cl (unit - 8)
  else if unit = 12 then
    match (s.cluster cl).head? 24 with
    | some t => if t.isEnd || t.isBoundary || t.kind = 5 then execMuSinkRecord cl s else .next s
    | none => .next s
  else if unit = 4 then
    match s.arrayAt cl with
    | some g => s.arrInputs cl g fun _ s => .next s
    | none => .next s
  else .next s

end Sys2Proof.Machine
end

