-- ==== Sys2Proof/Machine/RootInt.lean ====
section
/-!
DEFINITION. Root-core integer, immediate and branch instructions (R243 to R247).
-/
namespace Sys2Proof.Machine

/-! ## Results -/

/-- Leading zero bits of the low n bits. -/
def clzNat : Nat → Nat → Nat
  | 0, _ => 0
  | n + 1, x => if x.testBit n then 0 else clzNat n x + 1

/-- Trailing zero bits of the low n bits, from bit i. -/
def ctzNat : Nat → Nat → Nat → Nat
  | 0, _, _ => 0
  | n + 1, i, x => if x.testBit i then 0 else ctzNat n (i + 1) x + 1

/-- Number of 1 bits among the low n. -/
def popcNat : Nat → Nat → Nat
  | 0, _ => 0
  | n + 1, x => (if x.testBit n then 1 else 0) + popcNat n x

/-- The upper half of the product (R244). -/
def mulhWord (sg : Sign) (a b : Word) : Word := wrap (val sg a * val sg b / 2 ^ 64)

/-- The quotient of R245. -/
def divWord (sg : Sign) (a b : Word) : Word :=
  if b = 0 then BitVec.allOnes 64
  else if sg = .s ∧ a = 0x8000000000000000 ∧ b = BitVec.allOnes 64 then 0x8000000000000000
  else wrap ((val sg a).tdiv (val sg b))

/-- The remainder of R245. -/
def remWord (sg : Sign) (a b : Word) : Word :=
  if b = 0 then a
  else if sg = .s ∧ a = 0x8000000000000000 ∧ b = BitVec.allOnes 64 then 0
  else wrap (val sg a - (val sg a).tdiv (val sg b) * val sg b)

def shrWord (sg : Sign) (a : Word) (n : Nat) : Word :=
  match sg with
  | .n => a >>> n
  | .s => a.sshiftRight n

def sltWord (sg : Sign) (a b : Word) : Word := if val sg a < val sg b then 1 else 0

def minWord (sg : Sign) (a b : Word) : Word := if val sg b < val sg a then b else a

def maxWord (sg : Sign) (a b : Word) : Word := if val sg a < val sg b then b else a

def sextWord (wd : Width) (a : Word) : Word := wrap (sextNat wd.bits a.toNat)

def zextWord (wd : Width) (a : Word) : Word := BitVec.ofNat 64 (a.toNat % 2 ^ wd.bits)

/-- IMM in the upper half, the lower half kept (R246). -/
def lihWord (imm : BitVec 32) (old : Word) : Word := imm ++ old.extractLsb' 0 32

/-- gA + u(gB)·2^C + sext(IMM) (R246). -/
def leaWord (a b : Word) (n : BitVec 5) (imm : BitVec 32) : Word := a + (b <<< n.toNat) + sext32 imm

/-! ## Three registers (R244) -/

/-- gD := f(gA, gB). -/
def State.alu2 (s : State) (d a b : Reg) (f : Word → Word → Word) : Out := s.result d (f (s.me.get a) (s.me.get b))

/-- gD := f(gA). -/
def State.alu1 (s : State) (d a : Reg) (f : Word → Word) : Out := s.result d (f (s.me.get a))

def execAdd (d a b : Reg) (s : State) : Out := s.alu2 d a b (· + ·)
def execSub (d a b : Reg) (s : State) : Out := s.alu2 d a b (· - ·)
def execMul (d a b : Reg) (s : State) : Out := s.alu2 d a b (· * ·)
def execMulh (sg : Sign) (d a b : Reg) (s : State) : Out := s.alu2 d a b (mulhWord sg)
def execDiv (sg : Sign) (d a b : Reg) (s : State) : Out := s.alu2 d a b (divWord sg)
def execRem (sg : Sign) (d a b : Reg) (s : State) : Out := s.alu2 d a b (remWord sg)
def execAnd (d a b : Reg) (s : State) : Out := s.alu2 d a b (· &&& ·)
def execOr (d a b : Reg) (s : State) : Out := s.alu2 d a b (· ||| ·)
def execXor (d a b : Reg) (s : State) : Out := s.alu2 d a b (· ^^^ ·)
def execAndn (d a b : Reg) (s : State) : Out := s.alu2 d a b fun x y => x &&& ~~~y
def execShl (d a b : Reg) (s : State) : Out := s.alu2 d a b fun x y => x <<< count6 y
def execShr (sg : Sign) (d a b : Reg) (s : State) : Out := s.alu2 d a b fun x y => shrWord sg x (count6 y)
def execRol (d a b : Reg) (s : State) : Out := s.alu2 d a b fun x y => x.rotateLeft (count6 y)
def execSlt (sg : Sign) (d a b : Reg) (s : State) : Out := s.alu2 d a b (sltWord sg)
def execMin (sg : Sign) (d a b : Reg) (s : State) : Out := s.alu2 d a b (minWord sg)
def execMax (sg : Sign) (d a b : Reg) (s : State) : Out := s.alu2 d a b (maxWord sg)
def execClz (d a : Reg) (s : State) : Out := s.alu1 d a fun x => BitVec.ofNat 64 (clzNat 64 x.toNat)
def execCtz (d a : Reg) (s : State) : Out := s.alu1 d a fun x => BitVec.ofNat 64 (ctzNat 64 0 x.toNat)
def execPopc (d a : Reg) (s : State) : Out := s.alu1 d a fun x => BitVec.ofNat 64 (popcNat 64 x.toNat)
def execSext (wd : Width) (d a : Reg) (s : State) : Out := s.alu1 d a (sextWord wd)
def execZext (wd : Width) (d a : Reg) (s : State) : Out := s.alu1 d a (zextWord wd)

/-! ## Immediates (R246) -/

def execAddi (d a : Reg) (imm : BitVec 32) (s : State) : Out := s.alu1 d a (· + sext32 imm)
def execAndi (d a : Reg) (imm : BitVec 32) (s : State) : Out := s.alu1 d a (· &&& zext32 imm)
def execOri (d a : Reg) (imm : BitVec 32) (s : State) : Out := s.alu1 d a (· ||| zext32 imm)
def execXori (d a : Reg) (imm : BitVec 32) (s : State) : Out := s.alu1 d a (· ^^^ zext32 imm)
def execShli (d a : Reg) (n : BitVec 6) (s : State) : Out := s.alu1 d a (· <<< n.toNat)
def execShri (sg : Sign) (d a : Reg) (n : BitVec 6) (s : State) : Out := s.alu1 d a (shrWord sg · n.toNat)
def execSlti (sg : Sign) (d a : Reg) (imm : BitVec 32) (s : State) : Out := s.alu1 d a (sltWord sg · (sext32 imm))
def execLi (d : Reg) (imm : BitVec 32) (s : State) : Out := s.result d (sext32 imm)
/-- LIH reads gD as a source (R246). -/
def execLih (d : Reg) (imm : BitVec 32) (s : State) : Out := s.alu1 d d (lihWord imm)
def execLea (d a b : Reg) (n : BitVec 5) (imm : BitVec 32) (s : State) : Out :=
  s.alu2 d a b fun x y => leaWord x y n imm

/-! ## Branches (R247) -/

/-- To the target when the condition holds, else the next word. -/
def State.branch (s : State) (cond : Bool) (off : BitVec 32) : Out :=
  if cond then .next (s.setMe (s.me.jump (s.me.target off))) else s.skip

def execBeq (a b : Reg) (off : BitVec 32) (s : State) : Out := s.branch (s.me.get a = s.me.get b) off
def execBne (a b : Reg) (off : BitVec 32) (s : State) : Out := s.branch (s.me.get a ≠ s.me.get b) off
def execBlt (sg : Sign) (a b : Reg) (off : BitVec 32) (s : State) : Out :=
  s.branch (val sg (s.me.get a) < val sg (s.me.get b)) off
def execBge (sg : Sign) (a b : Reg) (off : BitVec 32) (s : State) : Out :=
  s.branch (val sg (s.me.get b) ≤ val sg (s.me.get a)) off
def execJmp (off : BitVec 32) (s : State) : Out := s.branch true off
/-- g31 := pc + 8, then to the target (R247). -/
def execJal (off : BitVec 32) (s : State) : Out :=
  .next (s.setMe ((s.me.put 31 (s.me.pc + 8)).jump (s.me.target off)))
/-- To gA; MISALIGNED with SYS_EVAL = gA when gA[2:0] is not zero (R247). -/
def execJr (a : Reg) (s : State) : Out :=
  let x := s.me.get a
  if x.toNat % 8 = 0 then .next (s.setMe (s.me.jump x)) else .next (s.trap .misaligned 0 x)

end Sys2Proof.Machine
end

