-- ==== Sys2Proof/Machine/RootMem.lean ====
section
/-!
DEFINITION. Root-core loads, stores, atomics and range instructions (R248 to R262), and the fetch of a word (R251).
-/
namespace Sys2Proof.Machine

/-! ## Checks after the walk (R248 steps 5 to 7) -/

/-- Which page types a form accepts beside coherent pages (R249). -/
inductive Reach where
  /-- LD and ST of an access size. -/
  | any (n : Nat)
  /-- AMO and CAS: uncached pages of an HBM window. -/
  | atomic
  /-- LDL, DISCARD, CRWB: coherent pages alone. -/
  | coherent
  /-- Counters: coherent pages alone, an unbacked target too (R282). -/
  | counter
  deriving DecidableEq, Repr

/-- Page type, window, scratch and line (R248 steps 5 to 7, R249); an unbacked target passes (R18), but for a
counter on a page that is not coherent (R282). -/
def State.typeCheck (s : State) (r : Reach) (lines : Bool) (x : Xlate) (pa : Nat) : Option (Code × Nat) :=
  let deny : Option (Code × Nat) := some (.permission, x.level)
  let line : Option (Code × Nat) := if lines then (s.lineFault pa).map fun c => (c, 0) else none
  match windowOf pa with
  | .unbacked => if r = .counter && x.mtype ≠ 0 then deny else none
  | .hbm =>
    if x.mtype = 0 then line
    else if x.mtype = 1 then (match r with | .coherent | .counter => deny | _ => line)
    else deny
  | .crown =>
    match r with
    | .any _ =>
      if x.mtype ≠ 1 || pkgOf pa ≠ s.pkg then deny
      else if s.scratchBacked pa then none
      else some (.crownScratchUnbacked, 0)
    | _ => deny
  | .device =>
    match r with
    | .any n => if x.mtype = 2 && pkgOf pa = s.pkg && 4 ≤ n then none else deny
    | _ => deny
  | .host => deny

/-- Translation of ea for the acting core with the checks of R248; on success the L1 TLB is kept. -/
def State.access (s : State) (need : Need) (r : Reach) (lines : Bool) (ea : Word) (k : Nat → Xlate → State → Out) :
    Out :=
  match s.translate s.coreCtx s.me.tlb 256 need (s.typeCheck r lines) ea.toNat with
  | .fault code lv => .next (s.trap code lv ea)
  | .wait s => .next s
  | .ok pa x tlb s => k pa x (s.setMe { s.me with tlb := tlb })

/-- Canonical form, then alignment, then the rest (R248 steps 1 to 7). -/
def State.sized (s : State) (need : Need) (r : Reach) (n : Nat) (ea : Word) (k : Nat → Xlate → State → Out) : Out :=
  if !canonical ea.toNat then .next (s.trap .pageNotPresent 5 ea)
  else if ea.toNat % n ≠ 0 then .next (s.trap .misaligned 0 ea)
  else s.access need r true ea k

/-- The tower id of the acting core. -/
def State.myTower (s : State) : Nat := s.towerId (coreTower s.actor)

/-- A cluster of the acting core's branch. -/
def State.myCluster (s : State) : Nat := clusterAt s.actor 0

/-- A step that must wait for the turn advance: the instruction stands (R29, R68). -/
def State.waitTurn (s : State) : Out := .next (s.stallTurn (coreTower s.actor))

/-! ## Loads and stores (R250, R252) -/

/-- The bytes a load returns, by target (R249); the clock is raised only by a load step of the core (R262). -/
def State.loadTarget (s : State) (x : Xlate) (pa n : Nat) : List Byte × State :=
  match windowOf pa with
  | .unbacked => (leBytes n 0, s.logPa 4 pa)
  | .hbm =>
    if x.mtype = 0 then
      let (bs, t, s) := s.loadStep s.myTower s.me.pts pa n
      (bs, (s.setMe (s.me.raise t)).placeLine s.myCluster false pa)
    else
      let (bs, _, s) := s.homeLoad pa n
      (bs, s)
  | .crown => (s.readScratch pa n, s)
  | _ => s.devRead (.root s.actor) pa n

/-- The effect of a store, by target (R249); none when it must wait for the turn advance. -/
def State.storeTarget (s : State) (x : Xlate) (pa : Nat) (data : List Byte) : Option State :=
  match windowOf pa with
  | .unbacked => some (s.logPa 4 pa)
  | .hbm =>
    if x.mtype = 0 then
      (s.storeStep s.myTower s.me.pts pa data).map fun (t, s) =>
        (s.setMe (s.me.raise t)).placeLine s.myCluster false pa
    else (s.homeStore pa data).map (·.2)
  | .crown => some (s.postScratch (s.coreAgent s.actor) pa data)
  | _ => some (s.devWrite (.root s.actor) pa data)

def execLd (sz : Size) (sx : Bool) (d a : Reg) (imm : BitVec 32) (s : State) : Out :=
  s.sized needLoad (.any sz.bytes) sz.bytes (s.me.ea a imm) fun pa x s =>
    let (bs, s) := s.loadTarget x pa sz.bytes
    s.result d (extend sx bs)

def execSt (sz : Size) (a b : Reg) (imm : BitVec 32) (s : State) : Out :=
  s.sized needStore (.any sz.bytes) sz.bytes (s.me.ea a imm) fun pa x s =>
    match s.storeTarget x pa (s.me.bytes b sz.bytes) with
    | some s => s.skip
    | none => s.waitTurn

/-- The load of R54, then the discard of the line, as two steps together (R252). -/
def execLdl (sz : Size) (d a : Reg) (imm : BitVec 32) (s : State) : Out :=
  s.sized needBoth .coherent sz.bytes (s.me.ea a imm) fun pa _ s =>
    if windowOf pa = .unbacked then (s.logPa 4 pa).result d 0
    else
      let (bs, t, s') := s.loadStep s.myTower s.me.pts pa sz.bytes
      match s'.discardStep t pa with
      | some (t, s') => (s'.setMe (s'.me.raise t)).result d (extend false bs)
      | none => s.waitTurn

/-! ## Ranges (R253 to R256) -/

/-- end := min(ea + gB, the end of ea's 4 KiB block) (R253). -/
def rangeEnd (ea len : Nat) : Nat := min (ea + len) (ea / 4096 * 4096 + 4096)

/-- The physical lines of a range at physical address pa, n bytes long: those it touches, or those inside it (R253). -/
def rangeLines (whole : Bool) (pa n : Nat) : List Nat :=
  if n = 0 then []
  else if whole then
    let lo := (pa + 127) / 128
    let hi := (pa + n) / 128
    upFrom lo (hi - lo)
  else
    let lo := pa / 128
    upFrom lo ((pa + n - 1) / 128 + 1 - lo)

/-- PREF never traps and takes no step; it logs an uncorrectable line (R31, R254). -/
def execPref (a b : Reg) (imm : BitVec 32) (s : State) : Out :=
  let ea := s.me.ea a imm
  let len := (s.me.get b).toNat
  if len = 0 then s.skip
  else
    match s.translate s.coreCtx s.me.tlb 256 needLoad.look (fun _ _ => none) ea.toNat with
    | .ok pa x _ _ =>
      if x.mtype = 0 && windowOf pa = .hbm then
        let ls := rangeLines false pa (rangeEnd ea.toNat len - ea.toNat)
        (ls.foldl (fun s l => if (s.line l).bad then s.logPa 5 (128 * l) else s) s).skip
      else s.skip
    | _ => s.skip

/-- The first line of a range at pa, n bytes long, that is at fault (R253, R255). -/
def State.badLine (s : State) (whole : Bool) (pa n : Nat) : Option Nat :=
  (rangeLines whole pa n).find? fun l => windowOf (128 * l) = .hbm && (s.lineFault (128 * l)).isSome

/-- The checks of a range of n bytes after its walk: those of its page, then those of every line (R253, R255). -/
def State.rangeCheck (s : State) (whole : Bool) (n : Nat) (x : Xlate) (pa : Nat) : Option (Code × Nat) :=
  match s.typeCheck .coherent false x pa with
  | some r => some r
  | none => (s.badLine whole pa n).map fun l => ((s.lineFault (128 * l)).getD .uncorrectable, 0)

/-- Lines that must revert before they are accessed do so; none when one must wait (R29, R352, R370). -/
def State.touchLines (s : State) : List Nat → Option State
  | [] => some s
  | l :: ls =>
    match s.touch (128 * l) with
    | some s => s.touchLines ls
    | none => none

/-- A range instruction that traps: with gB = 0 no check and no effect; otherwise the page's checks, then every line's,
before any line changes (R253, R255, R256). -/
def State.rangeOp (s : State) (need : Need) (whole : Bool) (a b : Reg) (imm : BitVec 32)
    (act : List Nat → State → Out) : Out :=
  let ea := s.me.ea a imm
  let len := (s.me.get b).toNat
  if len = 0 then s.skip
  else if !canonical ea.toNat then .next (s.trap .pageNotPresent 5 ea)
  else
    let n := rangeEnd ea.toNat len - ea.toNat
    match s.translate s.coreCtx s.me.tlb 256 need (s.rangeCheck whole n) ea.toNat with
    | .fault code lv =>
      -- A line's own fault names the line's address, every other fault names ea (R248, R255).
      let at_ : Word :=
        if code = .uncorrectable || code = .ownerFenced then
          match s.translate s.coreCtx s.me.tlb 256 need (s.typeCheck .coherent false) ea.toNat with
          | .ok pa _ _ _ =>
            match s.badLine whole pa n with
            | some l => ea + BitVec.ofNat 64 (128 * l) - BitVec.ofNat 64 pa
            | none => ea
          | _ => ea
        else ea
      .next (s.trap code lv at_)
    | .wait s => .next s
    | .ok pa _ tlb s =>
      let s := s.setMe { s.me with tlb := tlb }
      if windowOf pa = .unbacked then (s.logPa 4 pa).skip
      else
        let ls := rangeLines whole pa n
        match s.touchLines ls with
        | some s => act ls s
        | none => s.waitTurn

/-- The lines discarded in ascending order, each with the clock of the one before; none when one must wait (R255). -/
def State.discardLines (s : State) : List Nat → Option State
  | [] => some s
  | l :: ls =>
    match s.discardStep s.me.pts (128 * l) with
    | some (t, s) => (s.setMe (s.me.raise t)).discardLines ls
    | none => none

def execDiscard (a b : Reg) (imm : BitVec 32) (s : State) : Out :=
  s.rangeOp needStore true a b imm fun ls s =>
    match s.discardLines ls with
    | some s => s.skip
    | none => s.waitTurn

def execCrwb (a b : Reg) (imm : BitVec 32) (s : State) : Out :=
  s.rangeOp needLoad false a b imm fun ls s => (ls.foldl State.writeBackLine s).skip

/-! ## Atomics (R258, R259) -/

/-- An atomic on n bytes at ea, f giving the new bytes: the old value in gD (R258, R259). -/
def State.atomic (s : State) (d : Reg) (n : Nat) (ea : Word) (f : List Byte → Option (List Byte)) : Out :=
  s.sized needBoth .atomic n ea fun pa x s =>
    if windowOf pa = .unbacked then (s.logPa 4 pa).result d 0
    else if x.mtype = 0 then
      match s.amoStep s.myTower s.me.pts pa n f with
      | some (bs, t, s) => ((s.setMe (s.me.raise t)).placeLine s.myCluster false pa).result d (extend false bs)
      | none => s.waitTurn
    else
      match s.homeAmo pa n f with
      | some (bs, _, s) => s.result d (extend false bs)
      | none => s.waitTurn

def execAmo (fn : AmoFn) (dbl : Bool) (d a b : Reg) (imm : BitVec 32) (s : State) : Out :=
  let n := if dbl then 8 else 4
  let x := (s.me.get b).toNat % 2 ^ (8 * n)
  s.atomic d n (s.me.ea a imm) fun old => some (leBytes n (amoCombine fn (8 * n) (leNat old) x))

def execCas (dbl : Bool) (d a b c : Reg) (imm : BitVec 32) (s : State) : Out :=
  let n := if dbl then 8 else 4
  let want := (s.me.get c).toNat % 2 ^ (8 * n)
  let new := s.me.bytes b n
  s.atomic d n (s.me.ea a imm) fun old => if leNat old = want then some new else none

/-- Every scratch write the core made has arrived (R60, R260). -/
def execLfence (s : State) : Out := (s.drainPosted (s.coreAgent s.actor)).skip

/-! ## Fetch (R161 step 1, R251) -/

inductive Fetched where
  | word (w : Word) (s : State)
  | trap (s : State)
  | wait (s : State)
  deriving DecidableEq, Repr

/-- The word at the acting core's PC, or the trap its fetch takes. The PC is a word address (R156). -/
def State.fetch (s : State) : Fetched :=
  let pc := s.me.pc
  let post (x : Xlate) (pa : Nat) : Option (Code × Nat) :=
    if x.mtype ≠ 0 || windowOf pa ≠ .hbm then some (.permission, x.level)
    else (s.lineFault pa).map fun c => (c, 0)
  match s.translate s.coreCtx s.me.tlb 256 needFetch post pc.toNat with
  | .fault code lv => .trap (s.trap code lv pc)
  | .wait s => .wait s
  | .ok pa _ tlb s =>
    let s := s.setMe { s.me with tlb := tlb }
    let (bs, _, s) := s.peek s.me.pts (pa / 8 * 8) 8
    .word (BitVec.ofNat 64 (leNat bs)) s

end Sys2Proof.Machine
end

