-- ==== Sys2Proof/Machine/RootJob.lean ====
section
/-!
DEFINITION. Root-core instructions on copy jobs (R274, R275).
-/
namespace Sys2Proof.Machine

/-- The engine of a kind in the branch of the acting core (R80). -/
def State.myEngine (s : State) (e : Eng) : Nat :=
  2 * s.actor + (match e with | .x => 0 | .p => 1)

/-- −1 as a result. -/
def minusOne : Word := BitVec.ofNat 64 (2 ^ 64 - 1)

/-- The lowest free slot of an engine. -/
def State.freeSlot (s : State) (e : Nat) : Option Nat := (List.range 64).find? fun k => (s.copyJob e k).st = .free

/-- The earlier jobs of a core, on both engines of its branch, that have not completed and that a new job must wait for
(R75). -/
def State.jobEdges (s : State) (core : Nat) (new : CopyJob) : List Nat :=
  ([2 * core, 2 * core + 1].map fun e =>
    (List.range 64).filterMap fun k =>
      let j := s.copyJob e k
      if j.st ≠ .free && edgeOf j new then some (64 * e + k) else none).flatten

/-- XJOB and PJOB: the card's line checked, then one load step on it and a copy into the lowest free slot, or −1 with every
slot held (R75, R274). -/
def State.issueJob (s : State) (e : Eng) (d a : Reg) : Out :=
  let va := s.me.get a
  let n := s.myEngine e
  if va.toNat % 64 ≠ 0 then .next (s.trap .misaligned 0 va)
  else
    s.sized needLoad (.any 8) 8 va fun pa x s =>
      match s.freeSlot n with
      | none => s.result d minusOne
      | some k =>
        let (bs, s) := s.loadTarget x pa 64
        let c := s.me
        let old := s.copyJob n k
        let card : Card := BitVec.ofNat 512 (leNat bs)
        let j := { CopyJob.reset with
          card := card
          cardPa := pa
          st := .waiting
          progress := bits card 479 448
          pts := c.pts
          core := s.actor
          job := c.job
          asid := c.asid
          tbase := c.tbase
          admitted := (s.job c.job).isSome
          final := old.final
          status := old.status }
        let j := { j with edges := s.jobEdges s.actor j }
        (s.setCopyJob n k j).result d (BitVec.ofNat 64 k)

def execXjob (d a : Reg) (s : State) : Out := s.issueJob .x d a

def execPjob (d a : Reg) (s : State) : Out := s.issueJob .p d a

/-- The state of a slot as JSTAT gives it (R275). -/
def JobSt.num : JobSt → Nat
  | .free => 0
  | .waiting => 1
  | .running => 2
  | .stopped => 3

/-- The state of the job in a slot: one that has not started its first tile because another job claims a buffer of it is
waiting (R88, R275). -/
def State.jobStat (s : State) (e k : Nat) : Nat :=
  let j := s.copyJob e k
  if j.st = .running && j.kind ≤ 2 && !s.claimFree e k then JobSt.num .waiting else j.st.num

def execJstat (e : Eng) (d : Reg) (n : BitVec 6) (s : State) : Out :=
  let j := s.copyJob (s.myEngine e) n.toNat
  s.result d (BitVec.ofNat 64 (j.progress % 2 ^ 32 * 2 ^ 32 + j.status * 256 + s.jobStat (s.myEngine e) n.toNat))

/-- No slot of an engine holds a job. -/
def State.engineIdle (s : State) (e : Nat) : Bool := (s.freeSlot e).isSome && (s.engine e).slots.all fun p => p.2.st = .free

/-- JWAIT: met when the slot is free, or with .ALL when no job of the engine is incomplete; else the task defers (R275). -/
def execJwait (e : Eng) (all : Bool) (d : Reg) (n : BitVec 6) (s : State) : Out :=
  let k := s.myEngine e
  if all then
    if s.engineIdle k then
      let x := s.engine k
      let s := s.setEngine k { x with maxFinal := 0, failures := 0 }
      (s.setMe (s.me.raise x.maxFinal)).result d (BitVec.ofNat 64 x.failures)
    else s.defer (.jobs e)
  else
    let j := s.copyJob k n.toNat
    if j.st = .free then (s.setMe (s.me.raise j.final)).result d (BitVec.ofNat 64 j.status)
    else s.defer (.job e n.toNat)

end Sys2Proof.Machine
end

