-- ==== Sys2Proof/Machine/RootLaunch.lean ====
section
/-!
DEFINITION. Root-core instructions on counters, launches and configuration (R281 to R289), TLBINV (R292), and writes that
are still on their way (R60, R77).
-/
namespace Sys2Proof.Machine

/-! ## Counters (R281 to R283) -/

/-- The 8 bytes at a counter's address as the latest version holds them. -/
def State.counterValue (s : State) (pa : Nat) : Word := BitVec.ofNat 64 (s.mem.readLe pa 8)

/-- A load step on a counter that takes the latest version, with the value as the result (R283). -/
def State.counterLoad (s : State) (d : Reg) (pa : Nat) : Out :=
  if windowOf pa = .unbacked then (s.logPa 4 pa).result d 0
  else
    let (bs, t, s) := s.loadLatest s.myTower s.me.pts pa 8
    ((s.setMe (s.me.raise t)).placeLine s.myCluster false pa).result d (BitVec.ofNat 64 (leNat bs))

def execCntrd (d a : Reg) (s : State) : Out :=
  s.sized needLoad .counter 8 (s.me.get a) fun pa _ s => s.counterLoad d pa

/-- CNTWAIT: the load, or a watch and a deferral (R283). -/
def execCntwait (d a b : Reg) (s : State) : Out :=
  s.sized needLoad .counter 8 (s.me.get a) fun pa _ s =>
    if (s.me.get b).toNat ≤ (s.counterValue pa).toNat then s.counterLoad d pa
    else (s.logUnbacked pa).defer (.counter pa (s.me.get b))

/-- CNTADD: the step of AMO.ADD.D on a coherent page (R282, R283). -/
def execCntadd (d a b : Reg) (s : State) : Out :=
  s.sized needBoth .counter 8 (s.me.get a) fun pa _ s =>
    if windowOf pa = .unbacked then (s.logPa 4 pa).result d 0
    else
      let x := (s.me.get b).toNat
      match s.amoStep s.myTower s.me.pts pa 8 fun old => some (leBytes 8 (amoCombine .add 64 (leNat old) x)) with
      | some (bs, t, s) => ((s.setMe (s.me.raise t)).placeLine s.myCluster false pa).result d (BitVec.ofNat 64 (leNat bs))
      | none => s.waitTurn

/-- CNTNOTE: the message at once, or a watch, of which a core holds 16 (R281). -/
def execCntnote (d a b : Reg) (k : BitVec 6) (s : State) : Out :=
  s.sized needLoad .counter 8 (s.me.get a) fun pa _ s =>
    let v := s.counterValue pa
    let target := s.me.get b
    let s := s.logUnbacked pa
    if target.toNat ≤ v.toNat then (s.post (.home (homeOf pa)) s.actor k.toNat v (s.line (lineOf pa)).wts).result d 1
    else if 16 ≤ s.me.watches.length then s.result d 2
    else (s.setMe { s.me with watches := s.me.watches ++ [⟨s.me.job, pa, target, k.toNat⟩] }).result d 0

/-! ## Launches (R284, R285) -/

/-- LPATCH: word w of template gA[31:0] (R284). -/
def execLpatch (d a b : Reg) (w : BitVec 4) (s : State) : Out :=
  let (r, s') := s.patch s.me.job (bits (s.me.get a) 31 0) w.toNat (s.me.get b)
  s'.result d (BitVec.ofNat 64 r)

/-- LARM: a snapshot of template gA[31:0], with the core's clock as start clock (R284). -/
def execLarm (res : Bool) (d a : Reg) (s : State) : Out :=
  match s.arm s.me.job (bits (s.me.get a) 31 0) res s.me.pts (some s.actor) with
  | .noTemplate => s.result d (BitVec.ofInt 64 (-1))
  | .full => s.result d (BitVec.ofInt 64 (-2))
  | .wait s => .next s
  | .ok id virt s => s.result d (armWord id virt)

/-- CANCEL: the launches are stopped, and the word holds the core until each has ended; gD counts them (R264, R285). -/
def execCancel (lv : CancelLevel) (d a : Reg) (s : State) : Out :=
  let (n, s) := match s.me.burst with
    | some b => (leNat b.data, s.setMe { s.me with burst := none })
    | none => s.cancel s.me.job lv (s.me.get a)
  if s.cancelling s.me.job lv (s.me.get a) then s.between ⟨.cancel lv d a, [], leBytes 8 n, 0, 0⟩
  else s.result d (BitVec.ofNat 64 n)

/-! ## Bands and rows (R286, R288) -/

/-- A launch of the acting core's job with its band, when it is placed. -/
def State.myBand (s : State) (id : Word) : Option (Launch × Band) :=
  (s.live s.me.job (bits id 31 0)).bind fun l => l.placed.map fun b => (l, b)

/-- NONE of BAND and SCROLLST: bit 63 alone. -/
def notPlaced : Word := BitVec.ofNat 64 (2 ^ 63)

/-- The result of BAND for a placed band (R286). -/
def Band.word (b : Band) : Word :=
  BitVec.ofNat 64 ((if b.scroll then 2 ^ 31 else 0) + b.height % 64 * 2 ^ 25 + b.width % 32 * 2 ^ 20 + b.y % 16 * 2 ^ 12 +
    b.x % 16 * 2 ^ 8 + b.layer % 4 * 2 ^ 6 + b.tower % 4 * 2 ^ 4)

def execBand (d a : Reg) (s : State) : Out :=
  match s.myBand (s.me.get a) with
  | some (_, b) => s.result d b.word
  | none => s.result d notPlaced

/-- The number of a row's state as SCROLLST gives it (R288). -/
def RowSt.num : RowSt → Nat
  | .empty => 0
  | .loading => 1
  | .resident => 2
  | .drained => 3
  | .saving => 4

/-- The result of SCROLLST for a row of a placed band (R288). -/
def Band.rowWord (b : Band) (r : Nat) : Word :=
  let x := b.row r
  let (wave, stage) :=
    if b.scroll then (x.p / max 1 b.depth, x.p % max 1 b.depth) else (0, if r < b.depth then r else 0)
  BitVec.ofNat 64 (wave % 2 ^ 16 * 2 ^ 32 + stage % 2 ^ 16 * 2 ^ 16 + RowSt.num x.st)

def execScrollst (d a : Reg) (row : BitVec 6) (s : State) : Out :=
  match s.myBand (s.me.get a) with
  | some (_, b) => s.result d (if row.toNat < b.height then b.rowWord row.toNat else notPlaced)
  | none => s.result d notPlaced

/-! ## CFGLOAD (R118, R287) -/

/-- Who holds a row: a core in a task of a channel. A start task holds none: it ends where it would defer (R242). -/
def Core.holder (c : Core) (n : Nat) : Nat :=
  match c.task with
  | .chan k => 65 * n + k
  | _ => 65 * n + 64

/-- A row is held no more: its sources and links go on. -/
def Band.unhold (b : Band) (row : Nat) : Band := { b with holds := b.holds.filter (·.row ≠ row) }

/-- A CFGLOAD stands between two of its loads, which raise a clock of its own: a word that traps later changes none of the core's
(R161, R287). -/
def State.cfgBetween (s : State) (d a b : Reg) (row : BitVec 6) (data : List Byte) (pts : Nat) : Out :=
  State.between (s.setMe { s.me with pts := pts }) ⟨.cfgload d a b row, [], data, 0, s.me.pts⟩

/-- The image of a CFGLOAD enters the row: it is the row's from now on, and its frames are sent (R116, R118, R287). The generators
that it replaces leave their clocks to the launch (R74). -/
def State.cfgEnter (s : State) (l : Launch) (bd : Band) (r : Nat) (fs : List Frame) : State :=
  let l := { l with clock := max l.clock (s.rowClock bd r) }
  let s := s.onBand l fun x => Band.onRow { x with
    images := x.images.set r fs
    holds := x.holds.map fun h => if h.row = r then { h with sent := true } else h } r fun y => { y with image := fs }
  s.sendStage bd r fs

/-- The next frame of a CFGLOAD read as a load step at clock clk, behind those in data; with the first LAYOUT 7 frame the image
enters the row, and without one among 4,096 the row is held no more (R66, R287). -/
def State.cfgFrame (s : State) (d a b : Reg) (row : BitVec 6) (l : Launch) (bd : Band) (data : List Byte) (clk : Nat) : Out :=
  let r := row.toNat
  let pts := s.me.pts
  let va := s.me.get a + BitVec.ofNat 64 data.length
  let s := s.setMe (s.me.raise clk)
  match s.translate s.coreCtx s.me.tlb 256 needLoad (s.typeCheck .atomic true) va.toNat with
  | .fault code lv => .next ((s.setMe { s.me with pts := pts }).trap code lv va)
  | .wait s => s.cfgBetween d a b row data pts
  | .ok pa x tlb s =>
    let (bs, s) := (s.setMe { s.me with tlb := tlb }).loadTarget x pa 32
    let data := data ++ bs
    if Frame.layout (BitVec.ofNat 256 (leNat bs)) = 7 then
      .next (s.cfgEnter l bd r
        ((List.range (data.length / 32)).map fun i => BitVec.ofNat 256 (leNat ((data.drop (32 * i)).take 32))))
    else if 32 * 4096 ≤ data.length then (s.onBand l fun x => x.unhold r).result d (BitVec.ofInt 64 (-2))
    else s.cfgBetween d a b row data pts

/-- CFGLOAD: the row is held and the task deferred; after its quiescence the frames are read and sent; when the image has
passed the row's last cluster the instruction completes (R118, R287). -/
def execCfgload (d a b : Reg) (row : BitVec 6) (s : State) : Out :=
  let va := s.me.get a
  let r := row.toNat
  let who := s.me.holder s.actor
  let data := (s.me.burst.map (·.data)).getD []
  let clk := (s.me.burst.map (·.clk)).getD 0
  let s := if s.me.burst.isSome then s.setMe { s.me with burst := none } else s
  if va.toNat % 32 ≠ 0 then .next (s.trap .misaligned 0 va)
  else
    match s.myBand (s.me.get b) with
    | none => s.result d (BitVec.ofInt 64 (-1))
    | some (l, bd) =>
      if bd.scroll || bd.height ≤ r then s.result d (BitVec.ofInt 64 (-1))
      else
        match bd.holds.find? (·.row = r) with
        | none =>
          match s.me.task with
          | .chan _ => (s.onBand l fun x => { x with holds := x.holds ++ [⟨r, who, false, false⟩] }).defer (.quiet l.id r)
          | _ => s.defer (.quiet l.id r)
        | some h =>
          if h.core ≠ who then s.result d (BitVec.ofInt 64 (-1))
          else if !h.quiet then s.defer (.quiet l.id r)
          else if h.sent then
            if s.configured bd r then (s.onBand l fun x => x.unhold r).result d 0 else .next s
          else s.cfgFrame d a b row l bd data clk

/-! ## RELATCH (R47, R289) -/

/-- No walk reads a version of the line older than the latest any more (R45). -/
def LineInfo.invalidated (li : LineInfo) : LineInfo := { li with old := li.old.map fun v => { v with walks := false } }

/-- The token enters the bands of an address space; the latches of a pre-empted band, or of one that is being scanned out, are
marked invalid. -/
def State.startRelatch (s : State) (asid : Nat) : State :=
  (s.bandsOf asid).foldl (fun s l =>
    let s := match l.band with
      | some b => if b.leaving then s.dropBases b else s
      | none => s
    s.onBand l fun b => if b.context.isSome || b.leaving then b.dropLatches else { b with relatch := some 0 }) s

/-- RELATCH: a token into every band of the address space; complete when it has left them all (R47, R289). It too is an
invalidation: a walk that begins later reads no older version (R45; log 21). -/
def execRelatch (d : Reg) (s : State) : Out :=
  let asid := s.me.asid
  let (n, s) := match s.me.relatch with
    | some n => (n, s)
    | none => ((s.bandsOf asid).length, s.startRelatch asid)
  if s.relatching asid = 0 then
    (State.setMe { s with lines := s.lines.mapVals LineInfo.invalidated } { s.me with relatch := none }).result d
      (BitVec.ofNat 64 n)
  else .next (s.setMe { s.me with relatch := some n })

/-! ## TLBINV (R292) -/

/-- Translations dropped from every translation cache of the package; a walk that begins later reads an entry's latest version
or a later one, of an address outside the scope too (R45; DESIGN CHOICE, log 21). -/
def State.invalidate (s : State) (scope : TlbScope) (asid va : Nat) : State :=
  let keep (l : List Xlate) : List Xlate := l.filter fun x => !invalidates scope asid va x
  { s with
    cores := s.cores.mapVals fun c => { c with tlb := keep c.tlb }
    engines := s.engines.mapVals fun e => { e with tlb := keep e.tlb }
    l2 := s.l2.mapVals keep
    lines := s.lines.mapVals LineInfo.invalidated
    walks := s.walks.mapVals fun l => l.filter fun w => !walkInvalid scope asid w }

def execTlbinv (a : Reg) (scope : TlbScope) (s : State) : Out :=
  if s.me.priv then (s.invalidate scope s.me.asid ((s.me.get a).toNat % 2 ^ 57)).skip
  else .next (s.trap .privileged)

/-! ## Writes on their way (R60, R77) -/

/-- Entry i of a list is the first that satisfies p. -/
def firstOf {α : Type} (l : List α) (i : Nat) (p : α → Bool) : Bool := !(l.take i).any p

/-- SCRATCH_WRITE_ARRIVAL: a posted scratch write arrives in its bank, after the earlier ones of its agent to that bank (R60). -/
def execScratchWriteArrival (i : Nat) (s : State) : Out :=
  match s.posted[i]? with
  | some p =>
    if firstOf s.posted i fun q => q.agent = p.agent && homeOf q.pa = homeOf p.pa && scratchBank q.pa = scratchBank p.pa then
      .next (State.arrive { s with posted := s.posted.eraseIdx i } p)
    else .next s
  | none => .next s

/-- TWIG_SWITCH_WRITE: a write in the twig switch is performed at its leaf store, after the earlier ones of its agent there
(R77). -/
def execTwigSwitchWrite (i : Nat) (s : State) : Out :=
  match s.twig[i]? with
  | some w =>
    if firstOf s.twig i fun v => v.agent = w.agent && v.cl = w.cl then
      .next (State.twigArrive { s with twig := s.twig.eraseIdx i } w)
    else .next s
  | none => .next s

end Sys2Proof.Machine
end

