-- ==== Sys2Proof/Machine/RootLeaf.lean ====
section
/-!
DEFINITION. LLD, LST and FENCE.LEAF: the root core's access to the leaf stores of its branch (R257, R260).
-/
namespace Sys2Proof.Machine

/-- The checks of a leaf address: la[63:22] zero, then alignment (R257). -/
def leafFault (la n : Nat) : Option Code :=
  if la / 2 ^ 22 ≠ 0 then some .coordRange
  else if la % n ≠ 0 then some .misaligned
  else none

/-- A consuming read, after the core's earlier writes to that store; on an empty line the task defers (R77, R238, R257). -/
def execLld (sz : Size) (d a : Reg) (imm : BitVec 32) (s : State) : Out :=
  let c := s.me
  let la := (c.ea a imm).toNat
  match leafFault la sz.bytes with
  | some code => .next (s.trap code 0 (if code = .coordRange then c.ea a imm else 0))
  | none =>
    let pos := la / 2 ^ 18
    let off := la % 2 ^ 18
    let s := s.myDrain (clusterAt s.actor pos)
    let cl := s.cluster (clusterAt s.actor pos)
    let li := cl.line (off / 128)
    if li.full then
      .next (s.setMe (((c.raise li.clk).put d (extend false (cl.read off sz.bytes))).advance))
    else s.defer (.leaf pos (off / 128))

/-- A write on its way to its store, where it sets the line full and raises its clock to pts; those to one store arrive in
order (R77, R78, R257). -/
def execLst (sz : Size) (a b : Reg) (imm : BitVec 32) (s : State) : Out :=
  let c := s.me
  let la := (c.ea a imm).toNat
  match leafFault la sz.bytes with
  | some code => .next (s.trap code 0 (if code = .coordRange then c.ea a imm else 0))
  | none =>
    let w : TwigWrite := ⟨s.coreAgent s.actor, clusterAt s.actor (la / 2 ^ 18), la % 2 ^ 18, c.bytes b sz.bytes, none, c.pts⟩
    State.skip { s with twig := s.twig ++ [w] }

/-- Every earlier leaf access of the core is performed; its earlier coherent accesses have been, since each is performed no later
than its word runs, and no access behind this word is performed before it (R78, R260). -/
def execFenceLeaf (s : State) : Out := (s.twigPerform fun w => w.agent = s.coreAgent s.actor).skip

/-! ## Accesses performed before earlier words (R77, R78) -/

/-- How a word stands to an access behind it: it works on registers alone; it accesses a leaf store of the branch; or it accesses
memory, at an address, with needs, each of its bytes aligned to n. -/
inductive Reaches where
  | regs
  | leaf (cl : Nat)
  | memory (ea : Word) (need : Need) (n : Nat)
  deriving DecidableEq, Repr

/-- A word that an access behind it may pass, or that may pass others: what it reaches, the registers it reads, and the one it
writes (g0 for none). -/
structure Form where
  at_ : Reaches
  reads : List Reg
  writes : Reg
  deriving DecidableEq, Repr

/-- The store of the branch that a leaf address selects (R257). -/
def State.leafAt (s : State) (a : Reg) (imm : BitVec 32) : Reaches := .leaf (clusterAt s.actor ((s.me.ea a imm).toNat / 2 ^ 18 % 16))

/-- The form of a word; none for one that no access passes: branches, fences, streams, tasks and the system words. -/
def State.form (s : State) (i : Instr) : Option Form :=
  let c := s.me
  match i with
  | .add d a b | .sub d a b | .mul d a b | .mulh _ d a b | .div _ d a b | .rem _ d a b | .and d a b | .or d a b | .xor d a b
  | .andn d a b | .shl d a b | .shr _ d a b | .rol d a b | .slt _ d a b | .min _ d a b | .max _ d a b | .lea d a b _ _ =>
    some ⟨.regs, [a, b], d⟩
  | .clz d a | .ctz d a | .popc d a | .sext _ d a | .zext _ d a | .addi d a _ | .andi d a _ | .ori d a _ | .xori d a _
  | .shli d a _ | .shri _ d a _ | .slti _ d a _ => some ⟨.regs, [a], d⟩
  | .li d _ => some ⟨.regs, [], d⟩
  | .lih d _ => some ⟨.regs, [d], d⟩
  | .nop => some ⟨.regs, [], 0⟩
  | .lld _ d a imm => some ⟨s.leafAt a imm, [a], d⟩
  | .lst _ a b imm => some ⟨s.leafAt a imm, [a, b], 0⟩
  | .ld sz _ d a imm => some ⟨.memory (c.ea a imm) needLoad sz.bytes, [a], d⟩
  | .st sz a b imm => some ⟨.memory (c.ea a imm) needStore sz.bytes, [a, b], 0⟩
  | .ldl sz d a imm => some ⟨.memory (c.ea a imm) needBoth sz.bytes, [a], d⟩
  | .discard a b imm => some ⟨.memory (c.ea a imm) needStore 1, [a, b], 0⟩
  | .amo _ dbl d a b imm => some ⟨.memory (c.ea a imm) needBoth (if dbl then 8 else 4), [a, b], d⟩
  | .cas dbl d a b x imm => some ⟨.memory (c.ea a imm) needBoth (if dbl then 8 else 4), [a, b, x], d⟩
  | _ => none

/-- The run of such an access. -/
def State.runAccess (s : State) (i : Instr) : Option Out :=
  match i with
  | .lld sz d a imm => some (execLld sz d a imm s)
  | .lst sz a b imm => some (execLst sz a b imm s)
  | .ld sz sx d a imm => some (execLd sz sx d a imm s)
  | .st sz a b imm => some (execSt sz a b imm s)
  | .ldl sz d a imm => some (execLdl sz d a imm s)
  | .discard a b imm => some (execDiscard a b imm s)
  | .amo fn dbl d a b imm => some (execAmo fn dbl d a b imm s)
  | .cas dbl d a b x imm => some (execCas dbl d a b x imm s)
  | _ => none

/-- The state after an access that completes: it neither traps nor defers nor waits. -/
def State.completes (s : State) (i : Instr) : Option State :=
  match s.runAccess i with
  | some (.next t) => if t.me.pc = s.me.pc + 8 && t.me.task = s.me.task then some t else none
  | _ => none

/-- The two words name no register that one writes and the other names. -/
def apart (xs : List Reg) (x : Reg) (ys : List Reg) (y : Reg) : Bool :=
  (x = 0 || (x ≠ y && !ys.contains x)) && (y = 0 || !xs.contains y)

/-- An access reaches a coherent page. -/
def State.coherentNow (s : State) (ea : Word) (need : Need) (n : Nat) : Bool :=
  canonical ea.toNat && ea.toNat % n = 0 &&
  match s.translate s.coreCtx s.me.tlb 256 need (s.typeCheck .coherent true) ea.toNat with
  | .ok pa _ _ _ => windowOf pa = .hbm
  | _ => false

/-- No rule orders an access of form y behind a word of form x: they share no register, and they are leaf accesses of different
stores, or a leaf access and a coherent access, or x works on registers alone (R66, R77, R78). -/
def Form.passes (x y : Form) : Bool :=
  apart x.reads x.writes y.reads y.writes &&
  match x.at_, y.at_ with
  | .regs, _ => true
  | .leaf a, .leaf b => a ≠ b
  | .leaf _, .memory _ _ _ | .memory _ _ _, .leaf _ => true
  | .memory _ _ _, .memory _ _ _ | .leaf _, .regs | .memory _ _ _, .regs => false

/-- A word that stays behind takes no trap: its address stands, ws being the registers that words before it have still to write,
and its page is coherent. -/
def State.staysGood (s : State) (i : Instr) (x : Form) (ws : List Reg) : Bool :=
  match x.at_ with
  | .regs => true
  | .leaf _ =>
    (x.reads.all fun r => !ws.contains r) &&
      match i with
      | .lld sz _ a imm | .lst sz a _ imm => (leafFault (s.me.ea a imm).toNat sz.bytes).isNone
      | _ => false
  | .memory ea need n => (x.reads.all fun r => !ws.contains r) && s.coherentNow ea need n && (s.completes i).isSome

/-- An access of form y may be performed before these words, of which those at the addresses in c.ahead have been performed
already; pc is the address of the first, ws the registers that earlier ones have still to write. -/
def State.mayPass (s : State) (y : Form) (pc : Word) (ws : List Reg) : List Instr → Bool
  | [] => true
  | i :: is =>
    if s.me.ahead.contains pc then s.mayPass y (pc + 8) ws is
    else
      match s.form i with
      | none => false
      | some x => x.passes y && s.staysGood i x ws && s.mayPass y (pc + 8) (if x.writes = 0 then ws else x.writes :: ws) is

/-- The access y, which follows the words xs at the PC, performed before them; nothing where a rule orders it behind one of them,
where its page is not coherent, or where it does not complete (R77, R78). -/
def State.runAhead (s : State) (xs : List Instr) (y : Instr) : State :=
  let pc := s.me.pc
  let ypc := pc + 8 * BitVec.ofNat 64 xs.length
  match s.form y with
  | some f =>
    let good := match f.at_ with
      | .regs => false
      | .leaf _ => true
      | .memory ea need n => s.coherentNow ea need n
    if good && !s.me.ahead.contains ypc && s.mayPass f pc [] xs then
      match (s.setMe { s.me with pc := ypc }).completes y with
      | some t => t.setMe { t.me with pc := pc, ahead := ypc :: t.me.ahead }
      | none => s
    else s
  | none => s

end Sys2Proof.Machine
end

