-- ==== Sys2Proof/Machine/RootStream.lean ====
section
/-!
DEFINITION. Root-core instructions on ports, buffers, tiles and accumulators (R265 to R273, R280).
-/
namespace Sys2Proof.Machine

/-- −1, −2, −3 as results (R265). -/
def minus (n : Nat) : Word := BitVec.ofNat 64 (2 ^ 64 - n)

/-- Cluster and buffer of handle, source port or sink port n of the acting core (R158, R235). -/
def State.handle (s : State) (n : BitVec 6) : Nat × Nat := handleOf s.actor n.toNat

namespace Cluster

/-- The lines of a slot (R94). -/
def slotLines (c : Cluster) (k : Nat) : List Nat := upFrom (c.tile k).base (c.tile k).lcount

end Cluster

/-- The status of a port, when it keeps a stream instruction from acting (R265). -/
def State.portStatus (s : State) (n : BitVec 6) (k : PortKind) : Option Word :=
  let (cl, b) := s.handle n
  match s.binding cl b k with
  | .unbound => some (minus 1)
  | .suspended => some (minus 2)
  | .bound => if k = .src && ((s.cluster cl).port b).seos then some (minus 3) else none

/-! ## Whole slots (R266) -/

/-- Lines checked for an access, before any step (R266). -/
inductive Lines where
  | ok (xs : List (Nat × Xlate)) (s : State)
  | trap (s : State)
  | wait (s : State)
  deriving DecidableEq, Repr

/-- The lines at the given addresses checked as an aligned 8-byte access would be, device pages denied (R248, R266). -/
def State.checkLines (s : State) (need : Need) : List Word → Lines
  | [] => .ok [] s
  | va :: vas =>
    if !canonical va.toNat then .trap (s.trap .pageNotPresent 5 va)
    else if va.toNat % 128 ≠ 0 then .trap (s.trap .misaligned 0 va)
    else
      match s.translate s.coreCtx s.me.tlb 256 need (s.typeCheck (.any 0) true) va.toNat with
      | .fault code lv => .trap (s.trap code lv va)
      | .wait s => .wait s
      | .ok pa x tlb s =>
        match State.checkLines (s.setMe { s.me with tlb := tlb }) need vas with
        | .ok xs s => .ok ((pa, x) :: xs) s
        | r => r

/-- The addresses of n lines from gA. -/
def lineVas (va : Word) (n : Nat) : List Word := (List.range n).map fun i => va + BitVec.ofNat 64 (128 * i)

/-- Bytes written to a slot's lines, SWZ set from the tile's entry (R76, R91). -/
def Cluster.writeSlot (c : Cluster) (k : Nat) (data : List Byte) (pts : Nat) : Cluster :=
  let t := c.tile k
  let c := (c.slotLines k).zipIdx.foldl (fun c (l, i) => c.write (128 * l) ((data.drop (128 * i)).take 128) pts) c
  c.setSwz t.base t.lcount t.swz

/-- A bound slot k written, then made READY and counted at its port while it is still the EMPTY slot at PIDX (R96, R266,
R268). -/
def State.fillPort (s : State) (cl b k : Nat) (data : List Byte) : State :=
  (s.myDrain cl).onCluster cl fun c =>
    let c := c.writeSlot k data s.me.pts
    if (c.tile k).st = .empty && (c.buf b).pSlot 0 = k then (c.advanceP b).countReady b 1 else c

/-- The slot at PIDX of a source port, when it is EMPTY: its number and its tile entry (R266). -/
def State.emptySlot (s : State) (cl b : Nat) : Option (Nat × Tile) :=
  let c := s.cluster cl
  let k := (c.buf b).pSlot 0
  if (c.buf b).slots ≠ 0 && (c.tile k).st = .empty then some (k, c.tile k) else none

/-- The next load step of a SIN; with the last line the slot is written (R66, R266). -/
def State.sinLine (s : State) (d a : Reg) (n : BitVec 6) (k : Nat) (xs : List (Nat × Xlate)) (data : List Byte) : Out :=
  let (cl, b) := s.handle n
  match xs with
  | [] => (s.fillPort cl b k data).result d (BitVec.ofNat 64 data.length)
  | (pa, x) :: r =>
    let (bs, s) := s.loadTarget x pa 128
    let data := data ++ bs
    if r.isEmpty then
      ((s.setMe { s.me with burst := none }).fillPort cl b k data).result d (BitVec.ofNat 64 data.length)
    else s.between ⟨.sin d a n, r, data, k, 0⟩

def execSin (d a : Reg) (n : BitVec 6) (s : State) : Out :=
  match s.me.burst with
  | some b => s.sinLine d a n b.slot b.lines b.data
  | none =>
    match s.portStatus n .src with
    | some v => s.result d v
    | none =>
      let (cl, b) := s.handle n
      match s.emptySlot cl b with
      | none => s.result d 0
      | some (k, t) =>
        match s.checkLines needLoad (lineVas (s.me.get a) t.lcount) with
        | .trap s => .next s
        | .wait s => .next s
        | .ok xs s => s.sinLine d a n k xs []

def execSconst (d a : Reg) (n : BitVec 6) (s : State) : Out :=
  match s.portStatus n .src with
  | some v => s.result d v
  | none =>
    let (cl, b) := s.handle n
    match s.emptySlot cl b with
    | none => s.result d 0
    | some (k, t) =>
      let data := (List.replicate (32 * t.lcount) (leBytes 4 (s.me.get a).toNat)).flatten
      (s.fillPort cl b k data).result d (BitVec.ofNat 64 (128 * t.lcount))

/-- A bound slot k emptied by SOUT and counted at its port while it is still the READY slot at CIDX (R96, R266, R268). -/
def State.emptyPort (s : State) (cl b k : Nat) : State :=
  (s.myDrain cl).onCluster cl fun c =>
    if (c.tile k).st = .ready && (c.buf b).cSlot 0 = k then
      let c := c.advanceC b
      c.setPort b { c.port b with recs := (c.port b).recs + 1 }
    else c

/-- The next store step of a SOUT, which may have to wait for the turn advance; with the last line the slot is emptied. data
holds the whole slot (R29, R66, R266). -/
def State.soutLine (s : State) (d a : Reg) (n : BitVec 6) (k : Nat) (xs : List (Nat × Xlate)) (data : List Byte) : Out :=
  let (cl, b) := s.handle n
  match xs with
  | [] => (s.emptyPort cl b k).result d (BitVec.ofNat 64 data.length)
  | (pa, x) :: r =>
    match s.storeTarget x pa ((data.drop (data.length - 128 * xs.length)).take 128) with
    | none => s.waitTurn
    | some s =>
      if r.isEmpty then ((s.setMe { s.me with burst := none }).emptyPort cl b k).result d (BitVec.ofNat 64 data.length)
      else s.between ⟨.sout d a n, r, data, k, 0⟩

/-- SOUT reads the slot, once its lines have passed their checks, after the core's own writes to that store (R77, R266). -/
def execSout (d a : Reg) (n : BitVec 6) (s : State) : Out :=
  match s.me.burst with
  | some b => s.soutLine d a n b.slot b.lines b.data
  | none =>
    match s.portStatus n .sink with
    | some v => s.result d v
    | none =>
      let (cl, b) := s.handle n
      let c := s.cluster cl
      let k := (c.buf b).cSlot 0
      let t := c.tile k
      if (c.buf b).slots = 0 || t.st ≠ .ready then s.result d 0
      else
        match s.checkLines needStore (lineVas (s.me.get a) t.lcount) with
        | .trap s => .next s
        | .wait s => .next s
        | .ok xs s =>
          let s := s.myDrain cl
          (s.setMe (s.me.raise t.tclk)).soutLine d a n k xs ((s.cluster cl).read (128 * t.base) (128 * t.lcount))

/-! ## Cuts and port state (R267, R268) -/

/-- A cut after every slot made READY so far: the number of slots the source will then have begun (R267). -/
def Cluster.addCut (c : Cluster) (b : Nat) (eos : Bool) : Cluster :=
  let x := c.buf b
  let k := if c.mu.reading then 1 else 0
  let ahead := c.runOf .ready x.cSlot (x.slots - k) k
  { c with mu := { c.mu with cuts := c.mu.cuts ++ [(c.mu.slots + ahead, eos)] } }

def execSeos (d : Reg) (n : BitVec 6) (s : State) : Out :=
  match s.portStatus n .src with
  | some v => s.result d v
  | none =>
    let (cl, b) := s.handle n
    (s.onCluster cl fun c => (c.addCut b true).setPort b { c.port b with seos := true }).result d 0

def execSmark (d : Reg) (n : BitVec 6) (s : State) : Out :=
  match s.portStatus n .src with
  | some v => s.result d v
  | none =>
    let (cl, b) := s.handle n
    (s.onCluster cl fun c => c.addCut b false).result d 0

def execPstat (k : PortKind) (d : Reg) (n : BitVec 6) (s : State) : Out :=
  let (cl, b) := s.handle n
  let c := s.cluster cl
  let x := c.buf b
  let bind := s.binding cl b k
  -- A pre-empted launch keeps its counts and marks in its context.
  let p := s.portCluster cl
  let eosh := match k with
    | .src => (p.port b).seos
    | .sink => p.mu.eos
  let v := (if bind = .unbound then 0 else 2 ^ 63) + (if bind = .suspended then 2 ^ 62 else 0) +
    (if bind ≠ .unbound && eosh then 2 ^ 61 else 0) +
    (if bind = .unbound then 0 else (p.port b).recs % 2 ^ 16 * 2 ^ 32) +
    c.emptyRun x * 2 ^ 16 + c.readyRun x
  s.result d (BitVec.ofNat 64 v)

/-! ## Buffers (R269 to R271, R280) -/

/-- A buffer of a cluster is configured by the image of a dispatched launch (R269). -/
def State.imageBuf (s : State) (cl b : Nat) : Bool :=
  match s.hostOf cl with
  | some (_, band, r, c) =>
    let stages := if band.scroll then List.range band.depth else (match band.hosts r with
      | some (st, _) => [st]
      | none => [])
    stages.any fun st => (nth band.images st []).any fun f =>
      Frame.layout f = 1 && Frame.unit f = 0 && Frame.seq f = b && Frame.col f = c
  | none => false

def execBinit (d a : Reg) (h : BitVec 6) (s : State) : Out :=
  let (cl, b) := s.handle h
  let v := s.me.get a
  let slots := bits v 10 6
  let first := bits v 5 0
  let c := s.cluster cl
  if bits v 63 32 ≠ 0 || bitAt v 21 || bits v 15 11 ≠ 0 || 16 < slots || 64 < first + slots ||
      (upFrom first slots).any fun k => (c.tile k).bad then s.result d 1
  else if s.imageBuf cl b then s.result d 2
  else (s.onCluster cl fun c => c.initBuf b (bitAt v 20) (bits v 19 16) slots first).result d 0

/-- READY or FREE of a buffer (R268). -/
def Cluster.bufCount (c : Cluster) (b : Nat) (dir : BufDir) : Nat :=
  match dir with
  | .f => c.readyRun (c.buf b)
  | .e => c.emptyRun (c.buf b)

/-- min(n, SLOTS) (R270, R280). -/
def Cluster.clampSlots (c : Cluster) (b n : Nat) : Nat := min n (c.buf b).slots

def execBwaitf (d : Reg) (h : BitVec 6) (n : BitVec 5) (s : State) : Out :=
  let (cl, b) := s.handle h
  let c := s.cluster cl
  if c.clampSlots b n.toNat ≤ c.bufCount b .f then s.result d (BitVec.ofNat 64 (c.bufCount b .f))
  else s.defer (.full h.toNat n.toNat)

def execBwaite (d : Reg) (h : BitVec 6) (n : BitVec 5) (s : State) : Out :=
  let (cl, b) := s.handle h
  let c := s.cluster cl
  if c.clampSlots b n.toNat ≤ c.bufCount b .e then s.result d (BitVec.ofNat 64 (c.bufCount b .e))
  else s.defer (.free h.toNat n.toNat)

/-- f repeated n times. -/
def times {α : Type} (f : α → α) : Nat → α → α
  | 0, x => x
  | n + 1, x => times f n (f x)

/-- BADVP: slots made READY once the core's own writes to the store are performed (R77, R79, R271). -/
def execBadvp (d : Reg) (h : BitVec 6) (n : BitVec 5) (s : State) : Out :=
  let (cl, b) := s.handle h
  let s := s.myDrain cl
  let c := s.cluster cl
  let k := min n.toNat (c.emptyRun (c.buf b))
  (s.setCluster cl ((times (fun c => c.advanceP b) k c).countReady b k)).result d (BitVec.ofNat 64 k)

def execBadvc (d : Reg) (h : BitVec 6) (n : BitVec 5) (s : State) : Out :=
  let (cl, b) := s.handle h
  let s := s.myDrain cl
  let c := s.cluster cl
  let x := c.buf b
  let k := min n.toNat (c.readyRun x)
  let t := (List.range k).foldl (fun m i => max m (c.tile (x.cSlot i)).tclk) 0
  let s := s.setCluster cl (times (fun c => c.advanceC b) k c)
  (s.setMe (s.me.raise t)).result d (BitVec.ofNat 64 k)

/-- The word of a buffer message (R280). -/
def noteWord (dir : BufDir) (h count : Nat) : Word :=
  BitVec.ofNat 64 (count * 2 ^ 16 + (match dir with | .f => 0 | .e => 2 ^ 8) + h)

def execBnote (dir : BufDir) (d : Reg) (h k : BitVec 6) (n : BitVec 5) (s : State) : Out :=
  let (cl, b) := s.handle h
  let c := s.cluster cl
  let m := c.clampSlots b n.toNat
  let count := c.bufCount b dir
  let x := c.buf b
  let note (o : Option Note) : Buf :=
    match dir with
    | .f => { x with noteF := o }
    | .e => { x with noteE := o }
  if m ≤ count then
    ((s.setCluster cl (c.setBuf b (note none))).post (.buffer cl b) s.actor k.toNat (noteWord dir h.toNat count) 0).result d 1
  else (s.setCluster cl (c.setBuf b { note (some ⟨s.actor, k.toNat, m⟩) with moved := false })).result d 0

/-! ## Tile entries (R272) -/

def execTstat (hi : Bool) (d : Reg) (t : BitVec 6) (q : BitVec 4) (s : State) : Out :=
  let w := ((s.cluster (clusterAt s.actor q.toNat)).tile t.toNat).word
  s.result d (BitVec.ofNat 64 (if hi then w / 2 ^ 64 else w))

/-- The entry that TSET writes from gA (bits 63:0) and gB (bits 127:64), EMPTY with TCLK 0 (R94, R272). -/
def tileOf (a b : Word) : Tile :=
  { st := .empty, tclk := 0, due := false, ord := bitAt b 37, swz := bitAt b 36, fmt := bits b 35 32, tbytes := bits b 31 13
    rlines := bits b 12 1, lcount := bits a 22 11, base := bits a 10 0 }

def execTset (d a b : Reg) (t : BitVec 6) (q : BitVec 4) (s : State) : Out :=
  let cl := clusterAt s.actor q.toNat
  let old := (s.cluster cl).tile t.toNat
  let x := s.me.get a
  let y := s.me.get b
  if old.st = .filling || old.st = .draining then s.result d 2
  else if (tileOf x y).bad || bits x 63 23 ≠ 0 || bitAt y 0 then s.result d 1
  else (s.onCluster cl fun c => c.setTile t.toNat (tileOf x y)).result d 0

/-! ## Accumulators (R273) -/

/-- Cluster and bank of accumulator aN (R158). -/
def State.accumulator (s : State) (n : BitVec 5) : Nat × Nat := (clusterAt s.actor (n.toNat / 2), n.toNat % 2)

/-- The bank cleared; on a bank that is draining ACLR follows the drain, which leaves the same zeros (R149, R273). -/
def execAclr (n : BitVec 5) (s : State) : Out :=
  let (cl, bank) := s.accumulator n
  (s.onCluster cl fun c => if c.arr.draining bank then c else { c with arr := c.arr.clearBank bank }).skip

/-- Two columns of a row, or their residues decoded (R126, R273). -/
def execAread (rt : Bool) (d a : Reg) (n : BitVec 5) (s : State) : Out :=
  let (cl, bank) := s.accumulator n
  let v := s.me.get a
  let arr := (s.cluster cl).arr
  let read (col : Nat) : Nat :=
    let x := arr.elem bank (bits v 5 0) col
    if rt then (rtDec (rtRead x).1 % 2 ^ 32).toNat else x
  let col := 2 * bits v 10 6
  s.result d (BitVec.ofNat 64 (read (col + 1) * 2 ^ 32 + read col))

/-- TOUCHED bits, or the pass counter with whether the bank drains and receives passes (R273). -/
def execAstat (pass : Bool) (d : Reg) (n : BitVec 5) (s : State) : Out :=
  let (cl, bank) := s.accumulator n
  let c := s.cluster cl
  let current := c.ctCfg.isSome && c.arr.bank = bank
  let v :=
    if pass then
      (if current then c.arr.n % 2 ^ 16 else 0) + (if c.arr.draining bank then 2 ^ 16 else 0) +
        (if current then 2 ^ 17 else 0)
    else c.arr.touchBits bank
  s.result d (BitVec.ofNat 64 v)

end Sys2Proof.Machine
end

