-- ==== Sys2Proof/Machine/Dispatch.lean ====
section
/-!
DEFINITION. The meaning of every instruction: one arm for each constructor of Instr.
-/
namespace Sys2Proof.Machine

def exec (i : Instr) (s : State) : Host.Outcome State Fault Refusal :=
  match i with
  | .add d a b => Sys2Proof.Machine.execAdd d a b s
  | .sub d a b => Sys2Proof.Machine.execSub d a b s
  | .mul d a b => Sys2Proof.Machine.execMul d a b s
  | .mulh sg d a b => Sys2Proof.Machine.execMulh sg d a b s
  | .div sg d a b => Sys2Proof.Machine.execDiv sg d a b s
  | .rem sg d a b => Sys2Proof.Machine.execRem sg d a b s
  | .and d a b => Sys2Proof.Machine.execAnd d a b s
  | .or d a b => Sys2Proof.Machine.execOr d a b s
  | .xor d a b => Sys2Proof.Machine.execXor d a b s
  | .andn d a b => Sys2Proof.Machine.execAndn d a b s
  | .shl d a b => Sys2Proof.Machine.execShl d a b s
  | .shr sg d a b => Sys2Proof.Machine.execShr sg d a b s
  | .rol d a b => Sys2Proof.Machine.execRol d a b s
  | .slt sg d a b => Sys2Proof.Machine.execSlt sg d a b s
  | .min sg d a b => Sys2Proof.Machine.execMin sg d a b s
  | .max sg d a b => Sys2Proof.Machine.execMax sg d a b s
  | .clz d a => Sys2Proof.Machine.execClz d a s
  | .ctz d a => Sys2Proof.Machine.execCtz d a s
  | .popc d a => Sys2Proof.Machine.execPopc d a s
  | .sext wd d a => Sys2Proof.Machine.execSext wd d a s
  | .zext wd d a => Sys2Proof.Machine.execZext wd d a s
  | .addi d a imm => Sys2Proof.Machine.execAddi d a imm s
  | .andi d a imm => Sys2Proof.Machine.execAndi d a imm s
  | .ori d a imm => Sys2Proof.Machine.execOri d a imm s
  | .xori d a imm => Sys2Proof.Machine.execXori d a imm s
  | .shli d a n => Sys2Proof.Machine.execShli d a n s
  | .shri sg d a n => Sys2Proof.Machine.execShri sg d a n s
  | .slti sg d a imm => Sys2Proof.Machine.execSlti sg d a imm s
  | .li d imm => Sys2Proof.Machine.execLi d imm s
  | .lih d imm => Sys2Proof.Machine.execLih d imm s
  | .lea d a b n imm => Sys2Proof.Machine.execLea d a b n imm s
  | .beq a b off => Sys2Proof.Machine.execBeq a b off s
  | .bne a b off => Sys2Proof.Machine.execBne a b off s
  | .blt sg a b off => Sys2Proof.Machine.execBlt sg a b off s
  | .bge sg a b off => Sys2Proof.Machine.execBge sg a b off s
  | .jmp off => Sys2Proof.Machine.execJmp off s
  | .jal off => Sys2Proof.Machine.execJal off s
  | .jr a => Sys2Proof.Machine.execJr a s
  | .ld sz sext d a imm => Sys2Proof.Machine.execLd sz sext d a imm s
  | .st sz a b imm => Sys2Proof.Machine.execSt sz a b imm s
  | .ldl sz d a imm => Sys2Proof.Machine.execLdl sz d a imm s
  | .pref a b imm => Sys2Proof.Machine.execPref a b imm s
  | .discard a b imm => Sys2Proof.Machine.execDiscard a b imm s
  | .crwb a b imm => Sys2Proof.Machine.execCrwb a b imm s
  | .lld sz d a imm => Sys2Proof.Machine.execLld sz d a imm s
  | .lst sz a b imm => Sys2Proof.Machine.execLst sz a b imm s
  | .amo fn dbl d a b imm => Sys2Proof.Machine.execAmo fn dbl d a b imm s
  | .cas dbl d a b c imm => Sys2Proof.Machine.execCas dbl d a b c imm s
  | .fenceLeaf => Sys2Proof.Machine.execFenceLeaf s
  | .lfence => Sys2Proof.Machine.execLfence s
  | .sin d a n => Sys2Proof.Machine.execSin d a n s
  | .sout d a n => Sys2Proof.Machine.execSout d a n s
  | .sconst d a n => Sys2Proof.Machine.execSconst d a n s
  | .seos d n => Sys2Proof.Machine.execSeos d n s
  | .smark d n => Sys2Proof.Machine.execSmark d n s
  | .pstat k d n => Sys2Proof.Machine.execPstat k d n s
  | .binit d a n => Sys2Proof.Machine.execBinit d a n s
  | .bwaitf d h n => Sys2Proof.Machine.execBwaitf d h n s
  | .bwaite d h n => Sys2Proof.Machine.execBwaite d h n s
  | .badvp d h n => Sys2Proof.Machine.execBadvp d h n s
  | .badvc d h n => Sys2Proof.Machine.execBadvc d h n s
  | .bnote dir d h c n => Sys2Proof.Machine.execBnote dir d h c n s
  | .tstat hi d t q => Sys2Proof.Machine.execTstat hi d t q s
  | .tset d a b t q => Sys2Proof.Machine.execTset d a b t q s
  | .aclr acc => Sys2Proof.Machine.execAclr acc s
  | .aread rt d a acc => Sys2Proof.Machine.execAread rt d a acc s
  | .astat pass d acc => Sys2Proof.Machine.execAstat pass d acc s
  | .xjob d a => Sys2Proof.Machine.execXjob d a s
  | .pjob d a => Sys2Proof.Machine.execPjob d a s
  | .jstat e d n => Sys2Proof.Machine.execJstat e d n s
  | .jwait e all d n => Sys2Proof.Machine.execJwait e all d n s
  | .lpatch d a b w => Sys2Proof.Machine.execLpatch d a b w s
  | .larm res d a => Sys2Proof.Machine.execLarm res d a s
  | .cancel lv d a => Sys2Proof.Machine.execCancel lv d a s
  | .cntrd d a => Sys2Proof.Machine.execCntrd d a s
  | .cntwait d a b => Sys2Proof.Machine.execCntwait d a b s
  | .cntadd d a b => Sys2Proof.Machine.execCntadd d a b s
  | .cntnote d a b c => Sys2Proof.Machine.execCntnote d a b c s
  | .tend => Sys2Proof.Machine.execTend s
  | .hold d => Sys2Proof.Machine.execHold d s
  | .cbind c a => Sys2Proof.Machine.execCbind c a s
  | .csend d a b c => Sys2Proof.Machine.execCsend d a b c s
  | .cpri c p => Sys2Proof.Machine.execCpri c p s
  | .cmask c m => Sys2Proof.Machine.execCmask c m s
  | .timer c a => Sys2Proof.Machine.execTimer c a s
  | .cfgload d a b row => Sys2Proof.Machine.execCfgload d a b row s
  | .band d a => Sys2Proof.Machine.execBand d a s
  | .scrollst d a row => Sys2Proof.Machine.execScrollst d a row s
  | .relatch d => Sys2Proof.Machine.execRelatch d s
  | .trap code => Sys2Proof.Machine.execTrap code s
  | .brk code => Sys2Proof.Machine.execBrk code s
  | .eret => Sys2Proof.Machine.execEret s
  | .sysrd d r => Sys2Proof.Machine.execSysrd d r s
  | .syswr r a => Sys2Proof.Machine.execSyswr r a s
  | .tlbinv a scope => Sys2Proof.Machine.execTlbinv a scope s
  | .nop => Sys2Proof.Machine.execNop s
  | .clock d a => Sys2Proof.Machine.execClock d a s
  | .forfeit d a => Sys2Proof.Machine.execForfeit d a s
  | .waypartSelect a => Sys2Proof.Machine.execWaypartSelect a s
  | .waypartRepartition a => Sys2Proof.Machine.execWaypartRepartition a s
  | .repartitionComplete bank => Sys2Proof.Machine.execRepartitionComplete bank s
  | .sysClockWrite a => Sys2Proof.Machine.execSysClockWrite a s
  | .sysCycleWrite a => Sys2Proof.Machine.execSysCycleWrite a s
  | .taskStart core => Sys2Proof.Machine.execTaskStart core s
  | .taskResume core => Sys2Proof.Machine.execTaskResume core s
  | .channelMessageArrival src => Sys2Proof.Machine.execChannelMessageArrival src s
  | .timerExpiry core chan => Sys2Proof.Machine.execTimerExpiry core chan s
  | .faultRecordWrite job => Sys2Proof.Machine.execFaultRecordWrite job s
  | .iadd c => Sys2Proof.Machine.execIadd c s
  | .isub c => Sys2Proof.Machine.execIsub c s
  | .iadds c => Sys2Proof.Machine.execIadds c s
  | .imul c => Sys2Proof.Machine.execImul c s
  | .imulh c => Sys2Proof.Machine.execImulh c s
  | .imad c => Sys2Proof.Machine.execImad c s
  | .ineg c => Sys2Proof.Machine.execIneg c s
  | .iabs c => Sys2Proof.Machine.execIabs c s
  | .imin c => Sys2Proof.Machine.execImin c s
  | .imax c => Sys2Proof.Machine.execImax c s
  | .ishl c => Sys2Proof.Machine.execIshl c s
  | .ishr c => Sys2Proof.Machine.execIshr c s
  | .irol c => Sys2Proof.Machine.execIrol c s
  | .cellAnd c => Sys2Proof.Machine.execCellAnd c s
  | .cellOr c => Sys2Proof.Machine.execCellOr c s
  | .cellXor c => Sys2Proof.Machine.execCellXor c s
  | .cellAndn c => Sys2Proof.Machine.execCellAndn c s
  | .cellPopc c => Sys2Proof.Machine.execCellPopc c s
  | .cellClz c => Sys2Proof.Machine.execCellClz c s
  | .cellCtz c => Sys2Proof.Machine.execCellCtz c s
  | .brev c => Sys2Proof.Machine.execBrev c s
  | .bfx c => Sys2Proof.Machine.execBfx c s
  | .bfi c => Sys2Proof.Machine.execBfi c s
  | .icmp c => Sys2Proof.Machine.execIcmp c s
  | .padd c => Sys2Proof.Machine.execPadd c s
  | .psub c => Sys2Proof.Machine.execPsub c s
  | .pmin c => Sys2Proof.Machine.execPmin c s
  | .pmax c => Sys2Proof.Machine.execPmax c s
  | .pmulH c => Sys2Proof.Machine.execPmulH c s
  | .pdot4 c => Sys2Proof.Machine.execPdot4 c s
  | .pdot2 c => Sys2Proof.Machine.execPdot2 c s
  | .fadd c => Sys2Proof.Machine.execFadd c s
  | .fsub c => Sys2Proof.Machine.execFsub c s
  | .fmul c => Sys2Proof.Machine.execFmul c s
  | .ffma c => Sys2Proof.Machine.execFfma c s
  | .ffms c => Sys2Proof.Machine.execFfms c s
  | .fnma c => Sys2Proof.Machine.execFnma c s
  | .ftriad c => Sys2Proof.Machine.execFtriad c s
  | .fmin c => Sys2Proof.Machine.execFmin c s
  | .fmax c => Sys2Proof.Machine.execFmax c s
  | .fminp c => Sys2Proof.Machine.execFminp c s
  | .fmaxp c => Sys2Proof.Machine.execFmaxp c s
  | .fabs c => Sys2Proof.Machine.execFabs c s
  | .fneg c => Sys2Proof.Machine.execFneg c s
  | .fsgn c => Sys2Proof.Machine.execFsgn c s
  | .fcmp c => Sys2Proof.Machine.execFcmp c s
  | .fclass c => Sys2Proof.Machine.execFclass c s
  | .frcp c => Sys2Proof.Machine.execFrcp c s
  | .frsq c => Sys2Proof.Machine.execFrsq c s
  | .fsqrt c => Sys2Proof.Machine.execFsqrt c s
  | .fexp2 c => Sys2Proof.Machine.execFexp2 c s
  | .flog2 c => Sys2Proof.Machine.execFlog2 c s
  | .ftanh c => Sys2Proof.Machine.execFtanh c s
  | .fsigm c => Sys2Proof.Machine.execFsigm c s
  | .fsinpi c => Sys2Proof.Machine.execFsinpi c s
  | .fcospi c => Sys2Proof.Machine.execFcospi c s
  | .bfma2 c => Sys2Proof.Machine.execBfma2 c s
  | .hfma2 c => Sys2Proof.Machine.execHfma2 c s
  | .fdot2b c => Sys2Proof.Machine.execFdot2b c s
  | .cvt c => Sys2Proof.Machine.execCvt c s
  | .cvtsr c => Sys2Proof.Machine.execCvtsr c s
  | .cvti c => Sys2Proof.Machine.execCvti c s
  | .cvtf c => Sys2Proof.Machine.execCvtf c s
  | .pack c => Sys2Proof.Machine.execPack c s
  | .unpack c => Sys2Proof.Machine.execUnpack c s
  | .rtenc c => Sys2Proof.Machine.execRtenc c s
  | .rtdec c => Sys2Proof.Machine.execRtdec c s
  | .lperm c => Sys2Proof.Machine.execLperm c s
  | .lrot c => Sys2Proof.Machine.execLrot c s
  | .lbcast c => Sys2Proof.Machine.execLbcast c s
  | .lscan c => Sys2Proof.Machine.execLscan c s
  | .lred c => Sys2Proof.Machine.execLred c s
  | .lpack c => Sys2Proof.Machine.execLpack c s
  | .lexpand c => Sys2Proof.Machine.execLexpand c s
  | .lidx c => Sys2Proof.Machine.execLidx c s
  | .lsort c => Sys2Proof.Machine.execLsort c s
  | .lmatch c => Sys2Proof.Machine.execLmatch c s
  | .pass c => Sys2Proof.Machine.execPass c s
  | .const c => Sys2Proof.Machine.execConst c s
  | .sel c => Sys2Proof.Machine.execSel c s
  | .steer c => Sys2Proof.Machine.execSteer c s
  | .merge c => Sys2Proof.Machine.execMerge c s
  | .gate c => Sys2Proof.Machine.execGate c s
  | .loop c => Sys2Proof.Machine.execLoop c s
  | .accrun c => Sys2Proof.Machine.execAccrun c s
  | .rmaxs c => Sys2Proof.Machine.execRmaxs c s
  | .count c => Sys2Proof.Machine.execCount c s
  | .delay c => Sys2Proof.Machine.execDelay c s
  | .drop c => Sys2Proof.Machine.execDrop c s
  | .onmark c => Sys2Proof.Machine.execOnmark c s
  | .endTokenAlign cl unit => Sys2Proof.Machine.execEndTokenAlign cl unit s
  | .endTokenAtUnit cl unit => Sys2Proof.Machine.execEndTokenAtUnit cl unit s
  | .switchApply cl slot => Sys2Proof.Machine.execSwitchApply cl slot s
  | .configFrame f => Sys2Proof.Machine.execConfigFrame f s
  | .imageEnd => Sys2Proof.Machine.execImageEnd s
  | .routerTokenHop cl key parity => Sys2Proof.Machine.execRouterTokenHop cl key parity s
  | .swReplToken cl => Sys2Proof.Machine.execSwReplToken cl s
  | .linkSpill cl pair back => Sys2Proof.Machine.execLinkSpill cl pair back s
  | .skipPark cl => Sys2Proof.Machine.execSkipPark cl s
  | .parkedTokenRelease job lid => Sys2Proof.Machine.execParkedTokenRelease job lid s
  | .relatchToken job lid row => Sys2Proof.Machine.execRelatchToken job lid row s
  | .agRead c => Sys2Proof.Machine.execAgRead c s
  | .agWrite c => Sys2Proof.Machine.execAgWrite c s
  | .agGather c => Sys2Proof.Machine.execAgGather c s
  | .agScatter c => Sys2Proof.Machine.execAgScatter c s
  | .agScatadd c => Sys2Proof.Machine.execAgScatadd c s
  | .agBin c => Sys2Proof.Machine.execAgBin c s
  | .agAtom c => Sys2Proof.Machine.execAgAtom c s
  | .agConv c => Sys2Proof.Machine.execAgConv c s
  | .muSourceRecord cl => Sys2Proof.Machine.execMuSourceRecord cl s
  | .muSinkRecord cl => Sys2Proof.Machine.execMuSinkRecord cl s
  | .swVertTile cl => Sys2Proof.Machine.execSwVertTile cl s
  | .slotFillComplete cl buf => Sys2Proof.Machine.execSlotFillComplete cl buf s
  | .slotDrainComplete cl buf => Sys2Proof.Machine.execSlotDrainComplete cl buf s
  | .planeLoad cl => Sys2Proof.Machine.execPlaneLoad cl s
  | .planeSwap cl => Sys2Proof.Machine.execPlaneSwap cl s
  | .arrayPass cl => Sys2Proof.Machine.execArrayPass cl s
  | .arrayRescale cl => Sys2Proof.Machine.execArrayRescale cl s
  | .accumulatorDrain cl => Sys2Proof.Machine.execAccumulatorDrain cl s
  | .columnRepair cl col => Sys2Proof.Machine.execColumnRepair cl col s
  | .copyJobStart eng slot => Sys2Proof.Machine.execCopyJobStart eng slot s
  | .copyJobTile eng slot => Sys2Proof.Machine.execCopyJobTile eng slot s
  | .drainTile eng slot => Sys2Proof.Machine.execDrainTile eng slot s
  | .copyJobComplete eng slot => Sys2Proof.Machine.execCopyJobComplete eng slot s
  | .ownerForward line tower pts store => Sys2Proof.Machine.execOwnerForward line tower pts store s
  | .writeBack line => Sys2Proof.Machine.execWriteBack line s
  | .evictionNotice line => Sys2Proof.Machine.execEvictionNotice line s
  | .leaseRenewal line wts pts => Sys2Proof.Machine.execLeaseRenewal line wts pts s
  | .treeBankEviction line => Sys2Proof.Machine.execTreeBankEviction line s
  | .warmPrefetch job lid line => Sys2Proof.Machine.execWarmPrefetch job lid line s
  | .scrubVisit line => Sys2Proof.Machine.execScrubVisit line s
  | .turnAdvance => Sys2Proof.Machine.execTurnAdvance s
  | .quiescenceReport job lid row => Sys2Proof.Machine.execQuiescenceReport job lid row s
  | .deadlockDetected job lid => Sys2Proof.Machine.execDeadlockDetected job lid s
  | .launchEligible job lid => Sys2Proof.Machine.execLaunchEligible job lid s
  | .launchDispatch job lid => Sys2Proof.Machine.execLaunchDispatch job lid s
  | .starvationReserve job lid => Sys2Proof.Machine.execStarvationReserve job lid s
  | .launchComplete job lid => Sys2Proof.Machine.execLaunchComplete job lid s
  | .barrierComplete job lid => Sys2Proof.Machine.execBarrierComplete job lid s
  | .rowLoadStart job lid row => Sys2Proof.Machine.execRowLoadStart job lid row s
  | .rowLoadComplete job lid row => Sys2Proof.Machine.execRowLoadComplete job lid row s
  | .rowDrained job lid row => Sys2Proof.Machine.execRowDrained job lid row s
  | .rowSaveStart job lid row => Sys2Proof.Machine.execRowSaveStart job lid row s
  | .rowSaveComplete job lid row => Sys2Proof.Machine.execRowSaveComplete job lid row s
  | .rowEosRetire job lid row => Sys2Proof.Machine.execRowEosRetire job lid row s
  | .fresumeRetry w index id => Sys2Proof.Machine.execFresumeRetry w index id s
  | .fresumeSkip w index id => Sys2Proof.Machine.execFresumeSkip w index id s
  | .preemptJob job => Sys2Proof.Machine.execPreemptJob job s
  | .drainWindowExpiry job lid => Sys2Proof.Machine.execDrainWindowExpiry job lid s
  | .resumeJob job => Sys2Proof.Machine.execResumeJob job s
  | .launchResumePlace job lid => Sys2Proof.Machine.execLaunchResumePlace job lid s
  | .haltCore core => Sys2Proof.Machine.execHaltCore core s
  | .releaseCore core => Sys2Proof.Machine.execReleaseCore core s
  | .freezeLaunch job lid => Sys2Proof.Machine.execFreezeLaunch job lid s
  | .thawLaunch job lid => Sys2Proof.Machine.execThawLaunch job lid s
  | .startCore core => Sys2Proof.Machine.execStartCore core s
  | .scanWrite tower off v => Sys2Proof.Machine.execScanWrite tower off v s
  | .jobAdmit job => Sys2Proof.Machine.execJobAdmit job s
  | .jobRetire job => Sys2Proof.Machine.execJobRetire job s
  | .packageFence pkg => Sys2Proof.Machine.execPackageFence pkg s
  | .packageUnfence pkg => Sys2Proof.Machine.execPackageUnfence pkg s
  | .fenceMessage pkg => Sys2Proof.Machine.execFenceMessage pkg s
  | .graftPortDown port => Sys2Proof.Machine.execGraftPortDown port s
  | .towerLinkBypass t u => Sys2Proof.Machine.execTowerLinkBypass t u s
  | .bankOffline bank => Sys2Proof.Machine.execBankOffline bank s
  | .hostArm vf v => Sys2Proof.Machine.execHostArm vf v s
  | .donePop vf => Sys2Proof.Machine.execDonePop vf s
  | .hostBar2Access f x acc => Sys2Proof.Machine.execHostBar2Access f x acc s
  | .nvmeDmaWrite port addr data => Sys2Proof.Machine.execNvmeDmaWrite port addr data s
  | .celogPop => Sys2Proof.Machine.execCelogPop s
  | .attestationRequest => Sys2Proof.Machine.execAttestationRequest s
  | .attestationComplete => Sys2Proof.Machine.execAttestationComplete s
  | .powerSample watts layer => Sys2Proof.Machine.execPowerSample watts layer s
  | .thermalClockStep layer => Sys2Proof.Machine.execThermalClockStep layer s
  | .deviceRegisterWrite tower off v => Sys2Proof.Machine.execDeviceRegisterWrite tower off v s
  | .functionLevelReset vf => Sys2Proof.Machine.execFunctionLevelReset vf s
  | .powerOn b => Sys2Proof.Machine.execPowerOn b s
  | .coldReset => Sys2Proof.Machine.execColdReset s
  | .warmReset crownOk => Sys2Proof.Machine.execWarmReset crownOk s
  | .scratchWriteArrival k => Sys2Proof.Machine.execScratchWriteArrival k s
  | .twigSwitchWrite k => Sys2Proof.Machine.execTwigSwitchWrite k s
  | .graftPortUp port peer lanes => Sys2Proof.Machine.execGraftPortUp port peer lanes s
  | .linkLaneRepair t u lane => Sys2Proof.Machine.execLinkLaneRepair t u lane s

end Sys2Proof.Machine
end

