-- ==== Sys2Proof/Machine/Select.lean ====
section
/-!
DEFINITION. What a step runs: the next move of State.sched, or the acting core (R66, R161, R237; log 1).
-/
namespace Sys2Proof.Machine

/-- What a step does: run an instruction, or end in a state without one, or find no such agent. -/
inductive Chosen where
  | run (i : Instr) (s : State)
  | done (s : State)
  | noAgent
  deriving DecidableEq, Repr

/-! ## Root cores -/

/-- The acting core's next word: fetch, decode, and the traps of both (R161 steps 1 to 5). -/
def State.nextWord (s : State) : Chosen :=
  match s.fetch with
  | .trap s => .done s
  | .wait s => .done s
  | .word w s =>
    match decodeWord w with
    | .instr i => .run i s
    | .illegal => .done (s.trap .illegalInstruction 0 w)
    | .reserved p =>
      if p && !s.me.priv then .done (s.trap .privileged) else .done (s.trap .reservedField 0 w)

/-- A core's turn: halted, nothing; between tasks, the picker; in a task, the instruction it is in the middle of, or its next
word (R66, R237, R345). -/
def State.coreTurn (s : State) (n : Nat) : Chosen :=
  if n < Config.cores then
    let s := { s with actor := n }
    let c := s.me
    if c.halted then .done s
    else if c.task.running then
      match c.burst with
      | some b => .run b.instr s
      | none =>
        -- An access that has been performed already is passed over (R78).
        if c.ahead.contains c.pc then .done (s.setMe { c.advance with ahead := c.ahead.filter (· ≠ c.pc) }) else s.nextWord
    else
      match c.pickChannel with
      | some k => if (c.chan k).resumable then .run (.taskResume n) s else .run (.taskStart n) s
      | none => .done s
  else .noAgent

/-- The n words from the acting core's PC on, where they can be fetched and are instructions, and the state with the PC behind
them. -/
def State.wordsOn (s : State) : Nat → Option (List Instr × State)
  | 0 => some ([], s)
  | n + 1 =>
    match s.fetch with
    | .word w s =>
      match decodeWord w with
      | .instr i => ((s.setMe s.me.advance).wordsOn n).map fun (is, s) => (i :: is, s)
      | _ => none
    | _ => none

/-- An access of a core performed before the k words at its PC (R77, R78). -/
def State.aheadTurn (s : State) (n k : Nat) : Chosen :=
  if n < Config.cores then
    let s := { s with actor := n }
    let c := s.me
    if c.halted || !c.task.running || c.burst.isSome then .done s
    else
      match s.wordsOn (k + 1) with
      | some (is, t) => .done ((t.setMe { t.me with pc := c.pc }).runAhead (is.take k) (nth is k .nop))
      | none => .done s
  else .noAgent

/-! ## Units of a cluster -/

/-- What a configured slot or generator runs. -/
def frameInstr (f : Frame) : Option Instr :=
  match decodeFrame f with
  | .instr i => some i
  | .blocked _ => none

/-- The turn of slot k: its operation, SWITCH_APPLY, or END_TOKEN_ALIGN. -/
def Cluster.slotTurn (c : Cluster) (cl k : Nat) : Option Instr :=
  let x := c.slot k
  match x.frame, c.slotCfg? k with
  | some f, some (op, g) =>
    if c.slotFires k op g x then frameInstr f
    else
      match c.heads k g with
      | .switch => some (.switchApply cl k)
      | _ => some (.endTokenAlign cl k)
  | _, _ => none

/-- The turn of generator u: its operation, or the end token at its inputs once it is ready. -/
def Cluster.agTurn (c : Cluster) (cl u : Nat) : Option Instr :=
  match (c.ag u).frame, c.agCfg? u with
  | some f, some (mode, g) =>
    match c.agHeads u mode g with
    | .ends _ | .rescale _ =>
      if (c.ag u).outq.isEmpty && !(c.ag u).unready then some (.endTokenAtUnit cl (8 + u)) else frameInstr f
    | _ => frameInstr f
  | _, _ => none

/-- The turn of the array: a swap that is due, a RESCALE, a pass, or the end token at its inputs. -/
def Cluster.arrTurn (c : Cluster) (cl : Nat) : Instr :=
  if c.arr.shadow.isSome && ((c.ctCfg.map c.swapPoint).getD false) then .planeSwap cl
  else
    match c.head? 25 with
    | some t => if t.kind = 5 then .arrayRescale cl else if t.valued then .arrayPass cl else .endTokenAtUnit cl 4
    | none => .arrayPass cl

/-- What unit u of a cluster runs: 0 to 3 slots, 4 the array's passes, 5 its drain, 6 its plane load, 8 to 11 generators, 12
the sink, 13 the source, 14 SW.VERT, 15 SW.REPL, 16 and up the router's inputs (log 1). -/
def Cluster.unitTurn (c : Cluster) (cl u : Nat) : Option Instr :=
  if u < 4 then c.slotTurn cl u
  else
    match u with
    | 4 => some (c.arrTurn cl)
    | 5 => some (.accumulatorDrain cl)
    | 6 => some (.planeLoad cl)
    | 7 => none
    | 12 => some (.muSinkRecord cl)
    | 13 => some (.muSourceRecord cl)
    | 14 => some (.swVertTile cl)
    | 15 => some (.swReplToken cl)
    | _ => if u < 12 then c.agTurn cl (u - 8) else if u ≤ 29 then some (.routerTokenHop cl (u - 16) .good) else none

/-- A unit's turn. -/
def State.unitTurn (s : State) (cl u : Nat) : Chosen :=
  if cl < Config.clusters then
    match (s.cluster cl).unitTurn cl u with
    | some i => .run i { s with site := (cl, u) }
    | none => .done s
  else .noAgent

/-- The next move. -/
def State.select (s : State) : Chosen :=
  match s.sched with
  | [] => s.coreTurn s.actor
  | .core n :: r => { s with sched := r }.coreTurn n
  | .ahead n k :: r => { s with sched := r }.aheadTurn n k
  | .unit cl u :: r => { s with sched := r }.unitTurn cl u
  | .event i :: r => .run i { s with sched := r }

end Sys2Proof.Machine
end

