-- ==== Sys2Proof/Machine/Place.lean ====
section
/-!
DEFINITION. An instruction stored where the machine fetches its next one (log 11).
-/
namespace Sys2Proof.Machine

/-- Translation tables for one page: 4 KiB of code at virtual and physical address 0x10000, tables at 0x1000 to 0x5000;
the leaf is readable, writable, executable, for both views as mode needs, and has been used (R37). -/
def codeTables (user : Bool) : List (Nat × Nat) :=
  [(0x1000, 0x2001), (0x2000, 0x3001), (0x3000, 0x4001), (0x4000, 0x5001),
    (0x5000 + 8 * 16, 0x10000 + (if user then 0xFF else 0xDF))]

/-- A word at 0x10000 of core 0's address space, and core 0 in a start task there (R242). -/
def State.placeWord (s : State) (w : Nat) : State :=
  let mem := (codeTables !(s.core 0).priv).foldl (fun m e => m.writeLe e.1 8 e.2) s.mem
  let c := s.core 0
  { s.setCore 0 { c with task := .start, halted := false, pc := 0x10000, tbase := 0x1000, burst := none, ahead := [], eahead := [], tlb := [] } with
    mem := mem.writeLe 0x10000 8 w
    sched := [.core 0] }

/-- A slot or generator of cluster 0 configured with a frame; other frames configure nothing yet. -/
def State.placeFrame (s : State) (f : Frame) : State :=
  let s := { s with site := (0, Frame.unit f) }
  let u := Frame.unit f
  match Frame.layout f with
  | 0 => if u ≤ 3 then s.onCluster 0 fun c => c.setSlot u (freshSlot 0 0 u f) else s
  | 3 => s.onCluster 0 fun c => c.setAg u { Ag.reset with frame := some f }
  | _ => s

/-- The next step runs a root-core word of core 0, or a frame at cluster 0. -/
def State.placeTable (s : State) (nbits w : Nat) : State :=
  if nbits ≤ 64 then s.placeWord w
  else
    let f : Frame := BitVec.ofNat 256 w
    match decodeFrame f with
    | .instr i => { s.placeFrame f with sched := [.event i] }
    | .blocked _ => s

end Sys2Proof.Machine
end

