-- ==== Sys2Proof/Machine/Settle.lean ====
section
/-!
DEFINITION. What follows every step at once: buffer notices (R280), watches of counters (R281, R316), deadlock counts (R111),
the end of a pre-emption (R346), deferred tasks that become resumable (R238, R294).
-/
namespace Sys2Proof.Machine

/-! ## Buffer notices (R280) -/

/-- The notice of a direction, when a slot of the buffer has changed and its condition holds. -/
def Cluster.noteDue (c : Cluster) (b : Nat) (dir : BufDir) : Option Note :=
  let x := c.buf b
  let note := match dir with | .f => x.noteF | .e => x.noteE
  note.filter fun n => x.moved && c.clampSlots b n.count ≤ c.bufCount b dir

/-- The notices of a buffer that are due are sent and disarmed. -/
def State.sendNotes (s : State) (cl b : Nat) : State :=
  [BufDir.f, BufDir.e].foldl (fun s dir =>
    let c := s.cluster cl
    match c.noteDue b dir with
    | some n =>
      let x := c.buf b
      let x := match dir with | .f => { x with noteF := none } | .e => { x with noteE := none }
      (s.setCluster cl (c.setBuf b x)).post (.buffer cl b) n.core n.chan (noteWord dir (4 * clPos cl + b) (c.bufCount b dir)) 0
    | none => s) s

/-- The buffers of which a slot has changed state, as (cluster, buffer). -/
def State.movedBufs (s : State) : List (Nat × Nat) :=
  (s.clusters.map fun p => (p.2.bufs.filter (·.2.moved)).map fun b => (p.1, b.1)).flatten

/-- The buffers that have changed are looked at, and count as unchanged again. -/
def State.bufferNotes (s : State) : State :=
  s.movedBufs.foldl (fun s (cl, b) =>
    (s.sendNotes cl b).onCluster cl fun c => c.setBuf b { c.buf b with moved := false }) s

/-! ## Watches of counters (R281, R316) -/

/-- The versions of a counter that a step made, oldest first, as value and wts, with the latest last. -/
def State.newVersions (before s : State) (pa : Nat) : List (Word × Nat) :=
  let li := s.line (lineOf pa)
  let n := li.old.length - (before.line (lineOf pa)).old.length
  ((li.old.take (n - 1)).reverse.map fun v => (BitVec.ofNat 64 (v.cells.readLe pa 8), v.wts)) ++ [(s.counterValue pa, li.wts)]

/-- The first of them that reaches a target (R281, R283, R316). -/
def State.reaching (before s : State) (pa target : Nat) : Option (Word × Nat) :=
  (before.newVersions s pa).find? fun v => target ≤ v.1.toNat

/-- The watches of CNTNOTE that are met are removed, each with its message. -/
def State.counterNotes (before s : State) : State :=
  let met (w : Watch) : Option (Word × Nat) := before.reaching s w.pa w.target.toNat
  let due := (s.cores.map fun p => (p.2.watches.filterMap fun w => (met w).map fun v => (p.1, w, v))).flatten
  if due.isEmpty then s
  else
    let s := due.foldl (fun s (n, w, v) => s.post (.home (homeOf w.pa)) n w.chan v.1 v.2) s
    { s with cores := s.cores.mapVals fun c => { c with watches := c.watches.filter fun w => (met w).isNone } }

/-- The counter that a launch waits for reaches its target: the clock of the version that did is kept (R74, R316). -/
def State.launchWatch (before s : State) (l : Launch) : Launch :=
  match l.watch, l.reached with
  | some pa, none => { l with reached := (before.reaching s pa l.waitTarget).map (·.2) }
  | _, _ => l

/-! ## Deferred tasks (R238, R294) -/

/-- A slot of buffer b of a cluster has turned READY or EMPTY in the step; a write of the descriptor is no such turn (R96,
R269). -/
def State.slotTurned (before s : State) (moved : List (Nat × Nat)) (cl b : Nat) (st : TileSt) : Bool :=
  moved.contains (cl, b) &&
  (upFrom ((s.cluster cl).buf b).first ((s.cluster cl).buf b).slots).any fun k =>
    ((s.cluster cl).tile k).st = st && ((before.cluster cl).tile k).st ≠ st

/-- The notice of a deferred task of core n comes with the step: a message on its channel, the leaf line full, a slot that turns
READY or EMPTY, the version that reaches the watch's target, a job that completes, the drain tree's report or a launch that is
placed no more (R238, R283, R294). -/
def State.noticed (before s : State) (moved : List (Nat × Nat)) (n : Nat) (ch : Channel) (w : Wait) : Bool :=
  let turned (h : Nat) (st : TileSt) : Bool := before.slotTurned s moved (handleOf n h).1 (handleOf n h).2 st
  let eng (e : Eng) : Nat := 2 * n + (match e with | .x => 0 | .p => 1)
  match w with
  | .message => !ch.queue.isEmpty
  | .leaf pos line => ((s.cluster (clusterAt n pos)).line line).full
  | .full h _ => turned h .ready
  | .free h _ => turned h .empty
  | .counter pa target => (before.reaching s pa target.toNat).isSome
  | .job e k => (s.copyJob (eng e) k).st = .free
  | .jobs e => (before.engine (eng e)).slots.any fun p => p.2.st ≠ .free && (s.copyJob (eng e) p.1).st = .free
  | .quiet lid row =>
    match (s.live (s.core n).job lid).bind Launch.placed with
    | some b => b.holds.any (fun h => h.row = row && h.quiet) || !b.held row
    | none => true

/-- A channel's deferred task becomes resumable at its notice; a halted core keeps the task as it is until its release (R238,
R345). -/
def State.wakeChan (before s : State) (moved : List (Nat × Nat)) (n : Nat) (halted : Bool) (ch : Channel) : Channel :=
  match ch.deferred with
  | some d =>
    if !d.ready && before.noticed s moved n ch d.wait then
      { ch with deferred := some (if halted then { d with told := true } else { d with ready := true }) }
    else ch
  | none => ch

/-- The cores with their deferred tasks looked at. -/
def State.wakeTasks (s before : State) (moved : List (Nat × Nat)) : State :=
  { s with cores := s.cores.map fun p =>
      (p.1, { p.2 with chans := p.2.chans.mapVals (before.wakeChan s moved p.1 p.2.halted) }) }

/-! ## Pre-emptions (R346) -/

/-- Nothing of a job is still on its way into a pre-emption. -/
def State.preempted (s : State) (job : Nat) : Bool :=
  !((s.ofJob job).any fun l => (l.band.map (·.closing)).getD false) &&
  !((s.copyJobsOf job).any fun (e, k) => (s.copyJob e k).halt)

/-- BUSY of PREEMPT clears when a pre-emption has completed. -/
def State.preemptEnd (s : State) : State :=
  match s.regs.preempting with
  | some job =>
    if s.preempted job then
      let s := s.requestDone
      { s with regs := { s.regs with preempting := none } }
    else s
  | none => s

/-! ## Deadlock counts (R111) -/

/-- The tokens in a cluster, and whether its configuration is complete. -/
structure ClusterTokens where
  q : Table (List Token)
  rq : Table (List (Nat × Token))
  spill : Table Spill
  outq : List (List Token)
  done : Bool
  deriving DecidableEq, Repr

/-- The tokens in the clusters of a band, as data to compare. -/
def State.bandTokens (s : State) (b : Band) : List ClusterTokens :=
  b.clusters.map fun cl =>
    let c := s.cluster cl
    ⟨c.q, c.rq, c.spill, c.mu.outq :: c.ags.vals.map (·.outq), c.done⟩

/-- A unit of a cluster waits for a slot that only the outside can move (R111, R218). -/
def Cluster.waitsOutside (c : Cluster) : Bool :=
  [0, 1, 2, 3].any fun b =>
    match c.muBuf b with
    | some m => m.slots ≠ 0 && ((m.prod = 0 && c.readyRun (c.buf b) = 0) || (m.cons = 0 && c.emptyRun (c.buf b) = 0))
    | none => false

/-- Replies of memory are outstanding for generator u of a cluster: it has a shape record or a page still to be loaded, or what it does
next is an access to memory, which may have to wait for the turn advance or for a route (R104, R111, R367). -/
def State.awaitsReply (s : State) (cl u : Nat) (a : Ag) : Bool :=
  let c := s.cluster cl
  match c.agCfg? u with
  | some (mode, g) =>
    let room := !a.between || s.agRoom cl u g
    let valued := match c.agHeads u mode g with | .valued _ _ => true | _ => false
    !a.stall && !a.blocked && a.outq.isEmpty &&
    (a.unready || (g.tgt = 0 &&
      match mode with
      | 0 | 7 => !a.ended && room && !(a.between && s.wavePause cl (32 + u))
      | 2 | 6 => valued && room
      | 1 | 3 => valued
      | 5 => !a.wlines.isEmpty
      | _ => false))
  | none => false

/-- A unit of a launch waits on something outside it: a slot, a reply of memory, a store, a scroll-in that can go on, the turn
advance, a fault (R111). -/
def State.waitsOutside (s : State) (l : Launch) (b : Band) : Bool :=
  b.clusters.any (fun cl => (s.cluster cl).waitsOutside || (s.cluster cl).ags.any fun p => s.awaitsReply cl p.1 p.2) ||
  !s.storesDone b.clusters || s.turnReq ||
  (b.scroll && (List.range b.height).any fun r =>
    (b.row r).st = .loading || (b.row r).st = .saving || b.granted r) ||
  s.faultq.any fun f => f.job = l.job && f.unit ≠ .none && bits (nth f.words 0 0) 31 0 = l.id

/-- The deadlock count of a launch after a step: 0 when a token moved; one more after a turn of one of its units in which none
did, with no outside wait and no frame on its way into a row of a pinned band (R111, log 7). -/
def State.deadlockCount (before after : State) (turn : Option Nat) (l : Launch) : Launch :=
  match l.placed with
  | some b =>
    if l.st ≠ .running || l.status ≠ 0 || l.ending.isSome || b.frozen || (!b.scroll && b.stageRows.any fun r => !after.configured b r) then l
    else if (b.deadlock ≠ 0 || turn.isSome) && !(before.bandTokens b == after.bandTokens b) then
      { l with band := some { b with deadlock := 0 } }
    else
      match turn with
      | some cl =>
        if (b.place cl).isSome && !after.waitsOutside l b then { l with band := some { b with deadlock := b.deadlock + 1 } }
        else l
      | none => l
  | none => l

/-- The cluster whose unit has the turn. -/
def State.turnCluster (s : State) : Option Nat :=
  match s.sched with
  | .unit cl _ :: _ => some cl
  | _ => none

/-- What follows a step from one state to another; time passes (R316, log 6). -/
def State.settle (before after : State) : State :=
  let moved := after.movedBufs
  let s := before.counterNotes after.bufferNotes
  let turn := before.turnCluster
  let s := { s with launches := s.launches.map fun l => before.launchWatch s (before.deadlockCount s turn l) }
  let s := { s with launches := s.launches.map s.eligible }
  let s := { s with time := s.time + Config.elapsed s.ticks, ticks := s.ticks + 1 }
  (s.wakeTasks before moved).preemptEnd

end Sys2Proof.Machine
end

