-- ==== Sys2Proof/Machine/Step.lean ====
section
/-!
DEFINITION. One step of the package: the next move's instruction, then the notices it gives rise to.
-/
namespace Sys2Proof.Machine

def step (s : State) : Host.Outcome State Fault Refusal :=
  match s.select with
  | .noAgent => .fault .noSuchAgent
  | .done t => .next (s.settle t)
  | .run i t =>
    match exec i t with
    | .next t => .next (s.settle t)
    | .fault f => .fault f
    | .refused r => .refused r

/-- The same instruction stored where step fetches its next one (log 11). -/
def State.withFetchWord (s : State) (nbits w : Nat) : State := s.placeTable nbits w

end Sys2Proof.Machine
end

