-- ==== Sys2Proof/Safety.lean ====
section
/-!
DEFINITION. A safe run: no step ends in a fault or a refusal.
-/
namespace Sys2Proof.Machine

/-- The step from s has a next state. -/
def steps (s t : State) : Prop := step s = .next t

/-- k steps from s all have a next state. -/
def safeFor : Nat → State → Prop
  | 0, _ => True
  | k + 1, s => ∃ t, steps s t ∧ safeFor k t

end Sys2Proof.Machine
end

