-- ==== Sys2Proof/WellFormed.lean ====
section
/-!
DEFINITION. Well-formed instructions: the operands that a word or frame of the spec can carry (R156 to R168, R209, R263),
and objects the package has (R8, R9, R80).
-/
namespace Sys2Proof

/-- A slot count of 0 to 16 (R263). -/
def countOk (n : BitVec 5) : Bool := n.toNat ≤ 16

def clusterOk (cl : Nat) : Bool := cl < Config.clusters

def coreOk (n : Nat) : Bool := n < Config.cores

/-- A copy engine: 2·branch + engine, package-wide, and a queue slot (R65, R80). -/
def engineOk (eng slot : Nat) : Bool := eng < 2 * Config.cores && slot < 64

/-- A line of a home tower's HBM data window (R17). -/
def lineOk (line : Nat) : Bool := line < 2 ^ 45 && line % 2 ^ 35 < 2 ^ 30

namespace Instr

/-- The checks of the words whose operands do not fill their fields. -/
def wfWord : Instr → Bool
  | .ld sz sx _ _ _ => !(sz = .d && sx)
  | .amo fn dbl _ _ _ _ => !(fn = .fadd && dbl)
  | .bwaitf _ _ n | .bwaite _ _ n | .badvp _ _ n | .badvc _ _ n | .bnote _ _ _ _ n => countOk n
  | .jwait _ all _ n => !all || n == 0
  | .cancel lv _ a => lv = .launch || lv = .graph || a == 0
  | .syswr r _ => !(r = .clock || r = .cycle)
  | _ => true

/-- The objects a step without an encoding names exist. -/
def wfEvent : Instr → Bool
  | .repartitionComplete bank | .bankOffline bank => bank < 256
  | .taskStart n | .taskResume n | .haltCore n | .releaseCore n | .startCore n => coreOk n
  | .timerExpiry n c => coreOk n && c < 64
  | .endTokenAlign cl u | .endTokenAtUnit cl u => clusterOk cl && u < 16
  | .switchApply cl k => clusterOk cl && k < 4
  | .routerTokenHop cl key _ => clusterOk cl && key < 55
  | .swReplToken cl | .skipPark cl | .muSourceRecord cl | .muSinkRecord cl | .swVertTile cl | .planeLoad cl
  | .planeSwap cl | .arrayPass cl | .arrayRescale cl | .accumulatorDrain cl => clusterOk cl
  | .linkSpill cl pair _ => clusterOk cl && pair < 16
  | .slotFillComplete cl b | .slotDrainComplete cl b => clusterOk cl && b < 4
  | .columnRepair cl col => clusterOk cl && col < 64
  | .copyJobStart e k | .copyJobTile e k | .drainTile e k | .copyJobComplete e k => engineOk e k
  | .ownerForward line tower _ _ => lineOk line && tower < 1023
  | .writeBack line | .evictionNotice line | .treeBankEviction line | .scrubVisit line => lineOk line
  | .leaseRenewal line wts pts => lineOk line && wts ≤ Config.maxClock && pts ≤ Config.maxClock
  | .warmPrefetch _ _ line => lineOk line
  | .fresumeRetry w index id | .fresumeSkip w index id =>
    index < 2 ^ 16 && id < 2 ^ 32 && (match w with | .root n => coreOk n | .mgmt n => n < Config.mgmtCores)
  | .scanWrite t off _ => t < 4 && off < 2 ^ 42
  | .deviceRegisterWrite t off _ => t < 4 * Config.mgmtCores && off < 2 ^ 42
  | .packageFence p | .packageUnfence p => p < 256
  | .fenceMessage p => p < 512
  | .graftPortDown p => p < 12
  | .graftPortUp p peer lanes => p < 12 && peer < 1024 && lanes < 16
  | .towerLinkBypass t u | .linkLaneRepair t u _ => t < 4 && u < 4 && t ≠ u
  | .hostArm vf _ | .donePop vf | .functionLevelReset vf => 1 ≤ vf && vf ≤ 128
  | .hostBar2Access f _ _ => f ≤ 130
  | .nvmeDmaWrite p _ _ => p < 2
  | .thermalClockStep l => l < 12
  | .powerSample _ l => l < 12
  | _ => true

/-- A well-formed instruction. -/
def wf (i : Instr) : Bool :=
  match cellOp i with
  | some (op, c) => slotLegal op.toNat c
  | none =>
    match agOp i with
    | some (m, c) => agLegal m.toNat c
    | none =>
      match i with
      | .configFrame f => decodeFrame f = .instr (.configFrame f)
      | i => wfWord i && wfEvent i

end Instr

end Sys2Proof
end

