-- ==== Sys2Proof/Certificates/Slice0/Obligations.lean ====
section
/-!
DEFINITION. Statements about the machine, from the numbered rules of the spec.
-/

open Sys2Proof Sys2Proof.Machine

namespace Sys2Proof.Claims

/-- gD := v and the next word, on the acting core. -/
def wrote (s : State) (d : Reg) (v : Word) : State := s.setMe ((s.me.put d v).advance)

/-- The next word, and nothing else. -/
def moved (s : State) : State := s.setMe s.me.advance

/-- t differs from s at most in the acting core's PC and in its registers ds. -/
def onlyRegs (s t : State) (ds : List Reg) : Prop :=
  { t with cores := s.cores } = s ∧
  (∀ n, n ≠ s.actor → t.core n = s.core n) ∧
  { t.me with pc := s.me.pc, g := s.me.g } = s.me ∧
  ∀ r, r ∉ ds → t.me.get r = s.me.get r

/-- t is s after a trap on the acting core, with code, level and SYS_EVAL as given: the pc and the privilege saved, the
core privileged, the PC at SYS_VBASE, an instruction in progress given up, what has been performed behind the word kept for
the return (R78, log 10), and nothing else changed. -/
def trapped (s t : State) (code level : Nat) (eval : Word) : Prop :=
  { t with cores := s.cores } = s ∧
  (∀ n, n ≠ s.actor → t.core n = s.core n) ∧
  t.me.epc = s.me.pc ∧ t.me.code = code ∧ t.me.level = level ∧ t.me.eval = eval ∧
  t.me.ppriv = s.me.priv ∧ t.me.priv = true ∧ t.me.pc = s.me.vbase ∧ t.me.burst = none ∧
  t.me.ahead = [] ∧ t.me.eahead = s.me.ahead ∧
  { t.me with
    epc := s.me.epc, code := s.me.code, level := s.me.level, eval := s.me.eval, ppriv := s.me.ppriv, priv := s.me.priv,
    pc := s.me.pc, burst := s.me.burst, ahead := s.me.ahead, eahead := s.me.eahead } = s.me

/-- The word ADD, SUB and so on give gD, by bit-vector arithmetic of the standard library (R244). -/
def aluValue : Instr → Word → Word → Option Word
  | .add _ _ _, x, y => some (x + y)
  | .sub _ _ _, x, y => some (x - y)
  | .mul _ _ _, x, y => some (x * y)
  | .mulh .n _ _ _, x, y => some ((x.setWidth 128 * y.setWidth 128).extractLsb' 64 64)
  | .mulh .s _ _ _, x, y => some ((x.signExtend 128 * y.signExtend 128).extractLsb' 64 64)
  | .and _ _ _, x, y => some (x &&& y)
  | .or _ _ _, x, y => some (x ||| y)
  | .xor _ _ _, x, y => some (x ^^^ y)
  | .andn _ _ _, x, y => some (x &&& ~~~y)
  | .shl _ _ _, x, y => some (x <<< (y.toNat % 64))
  | .shr .n _ _ _, x, y => some (x >>> (y.toNat % 64))
  | .shr .s _ _ _, x, y => some (x.sshiftRight (y.toNat % 64))
  | .rol _ _ _, x, y => some (x.rotateLeft (y.toNat % 64))
  | .slt .n _ _ _, x, y => some (if x.ult y then 1 else 0)
  | .slt .s _ _ _, x, y => some (if x.slt y then 1 else 0)
  | .min .n _ _ _, x, y => some (if x.ule y then x else y)
  | .min .s _ _ _, x, y => some (if x.sle y then x else y)
  | .max .n _ _ _, x, y => some (if x.ule y then y else x)
  | .max .s _ _ _, x, y => some (if x.sle y then y else x)
  | .clz _ _, x, _ => some x.clz
  | .ctz _ _, x, _ => some x.ctz
  | .popc _ _, x, _ => some x.cpop
  | .sext .b _ _, x, _ => some ((x.setWidth 8).signExtend 64)
  | .sext .h _ _, x, _ => some ((x.setWidth 16).signExtend 64)
  | .sext .w _ _, x, _ => some ((x.setWidth 32).signExtend 64)
  | .zext .b _ _, x, _ => some ((x.setWidth 8).setWidth 64)
  | .zext .h _ _, x, _ => some ((x.setWidth 16).setWidth 64)
  | .zext .w _ _, x, _ => some ((x.setWidth 32).setWidth 64)
  | _, _, _ => none

/-- Destination and sources of the register forms of R244 and R245; a one-source form names its source twice. -/
def aluRegs : Instr → Option (Reg × Reg × Reg)
  | .add d a b | .sub d a b | .mul d a b | .mulh _ d a b | .div _ d a b | .rem _ d a b | .and d a b | .or d a b
  | .xor d a b | .andn d a b | .shl d a b | .shr _ d a b | .rol d a b | .slt _ d a b | .min _ d a b
  | .max _ d a b => some (d, a, b)
  | .clz d a | .ctz d a | .popc d a | .sext _ d a | .zext _ d a => some (d, a, a)
  | _ => none

/-- Destination of the immediate forms of R246. -/
def immDest : Instr → Option Reg
  | .addi d _ _ | .andi d _ _ | .ori d _ _ | .xori d _ _ | .shli d _ _ | .shri _ d _ _ | .slti _ d _ _ | .li d _
  | .lih d _ | .lea d _ _ _ _ => some d
  | _ => none

/-- The branches and jumps of R247 but JR, with the register they write. -/
def branchDest : Instr → Option (List Reg)
  | .beq _ _ _ | .bne _ _ _ | .blt _ _ _ _ | .bge _ _ _ _ | .jmp _ => some []
  | .jal _ => some [31]
  | _ => none

end Sys2Proof.Claims

open Sys2Proof.Claims

/-- The register results of the integer instructions (R244). -/
def Obligations.IntegerResults : Prop :=
  ∀ (s : State) (i : Instr) (d a b : Reg) (v : Word), aluRegs i = some (d, a, b) →
    aluValue i (s.me.get a) (s.me.get b) = some v → exec i s = .next (wrote s d v)

/-- DIV and REM: the quotient toward zero, the two special rows, and the identity between them (R245). -/
def Obligations.DivRemResults : Prop :=
  ∀ (s : State) (d a b : Reg) (sg : Sign), ∃ q r : Word,
    exec (.div sg d a b) s = .next (wrote s d q) ∧ exec (.rem sg d a b) s = .next (wrote s d r) ∧
    (let x := s.me.get a
     let y := s.me.get b
     (y = 0 → q = BitVec.allOnes 64 ∧ r = x) ∧
     (y ≠ 0 → sg = .n → q = x.udiv y ∧ r = x.umod y) ∧
     (sg = .s → x = BitVec.intMin 64 → y = BitVec.allOnes 64 → q = BitVec.intMin 64 ∧ r = 0) ∧
     (y ≠ 0 → sg = .s → ¬ (x = BitVec.intMin 64 ∧ y = BitVec.allOnes 64) →
        q.toInt = x.toInt.tdiv y.toInt ∧ r.toInt = x.toInt.tmod y.toInt) ∧
     q * y + r = x ∧ (sg = .s → r ≠ 0 → r.msb = x.msb))

/-- The register results of the immediate instructions, and branches and jumps (R246, R247). -/
def Obligations.ImmediatesAndBranches : Prop :=
  (∀ (s : State) (d a b : Reg) (n : BitVec 6) (k : BitVec 5) (imm hi : BitVec 32),
    let x := s.me.get a
    let si := imm.signExtend 64
    let zi := imm.setWidth 64
    exec (.addi d a imm) s = .next (wrote s d (x + si)) ∧
    exec (.andi d a imm) s = .next (wrote s d (x &&& zi)) ∧
    exec (.ori d a imm) s = .next (wrote s d (x ||| zi)) ∧
    exec (.xori d a imm) s = .next (wrote s d (x ^^^ zi)) ∧
    exec (.shli d a n) s = .next (wrote s d (x <<< n.toNat)) ∧
    exec (.shri .n d a n) s = .next (wrote s d (x >>> n.toNat)) ∧
    exec (.shri .s d a n) s = .next (wrote s d (x.sshiftRight n.toNat)) ∧
    exec (.slti .n d a imm) s = .next (wrote s d (if x.ult si then 1 else 0)) ∧
    exec (.slti .s d a imm) s = .next (wrote s d (if x.slt si then 1 else 0)) ∧
    exec (.li d imm) s = .next (wrote s d si) ∧
    exec (.lih d imm) s = .next (wrote s d (imm ++ (s.me.get d).setWidth 32)) ∧
    exec (.lea d a b k imm) s = .next (wrote s d (x + (s.me.get b) * 2 ^ k.toNat + si)) ∧
    (∀ t, exec (.li d imm) s = .next t → exec (.lih d hi) t = .next (wrote (wrote s d si) d (hi ++ if d = 0 then 0 else imm)))) ∧
  (∀ (s : State) (a b : Reg) (off : BitVec 32),
    let x := s.me.get a
    let y := s.me.get b
    let target := s.me.pc + 8 * off.signExtend 64
    let go (c : Bool) : State := s.setMe { s.me with pc := if c then target else s.me.pc + 8 }
    exec (.beq a b off) s = .next (go (x == y)) ∧
    exec (.bne a b off) s = .next (go (x != y)) ∧
    exec (.blt .n a b off) s = .next (go (x.ult y)) ∧
    exec (.blt .s a b off) s = .next (go (x.slt y)) ∧
    exec (.bge .n a b off) s = .next (go (y.ule x)) ∧
    exec (.bge .s a b off) s = .next (go (y.sle x)) ∧
    exec (.jmp off) s = .next (go true) ∧
    exec (.jal off) s = .next (s.setMe { s.me.put 31 (s.me.pc + 8) with pc := target }) ∧
    (x.toNat % 8 = 0 → exec (.jr a) s = .next (s.setMe { s.me with pc := x })) ∧
    (x.toNat % 8 ≠ 0 → ∃ t, exec (.jr a) s = .next t ∧ trapped s t 3 0 x))

/-- What integer, immediate and branch words leave unchanged, and g0 (R156, R158, R234, R243, R246, R247). -/
def Obligations.IntegerFrame : Prop :=
  (∀ (s t : State) (i : Instr), exec i s = .next t →
    (∀ d a b, aluRegs i = some (d, a, b) → onlyRegs s t [d]) ∧
    (∀ d, immDest i = some d → onlyRegs s t [d]) ∧
    (∀ ds, branchDest i = some ds → onlyRegs s t ds)) ∧
  (∀ (c : Core) (d : Reg) (v : Word), c.get 0 = 0 ∧ c.put 0 v = c ∧
    ∀ r, (c.put d v).get r = if r = d ∧ d ≠ 0 then v else c.get r)

/-- TRAP and BRK take the exception BREAK (R290). -/
def Obligations.TrapWordsTakeBreak : Prop :=
  ∀ (s : State) (code : BitVec 32),
    (∃ t, exec (.trap code) s = .next t ∧ trapped s t 8 0 (BitVec.ofNat 64 (2 ^ 32 + code.toNat))) ∧
    (∃ t, exec (.brk code) s = .next t ∧ trapped s t 8 0 (BitVec.ofNat 64 code.toNat))

/-- ERET restores the PC and the privilege, and needs privilege (R161, R239).
The model's own choices in it: log 10. -/
def Obligations.ReturnFromTrap : Prop :=
  ∀ s : State,
    (s.me.priv = true → exec .eret s = .next (s.setMe
      { s.me with pc := s.me.epc, priv := s.me.ppriv, ahead := s.me.eahead, eahead := [] })) ∧
    (s.me.priv = false → ∃ t, exec .eret s = .next t ∧ trapped s t 7 0 0) ∧
    (∀ code lv ev, ∃ t, exec .eret (s.trap code lv ev) = .next t ∧ t.me.pc = s.me.pc ∧ t.me.priv = s.me.priv ∧
      t.me.ahead = s.me.ahead ∧ t.me.g = s.me.g ∧ t.me.task = s.me.task ∧ t.mem = s.mem)

/-- Privileged words in user mode take PRIVILEGED and change nothing else (R159, R161, R291, R292, R33). -/
def Obligations.UserModeTrapsPrivileged : Prop :=
  ∀ (s : State) (i : Instr), s.me.priv = false →
    (match i with
     | .eret | .tlbinv _ _ | .forfeit _ _ | .sysClockWrite _ | .sysCycleWrite _ | .waypartSelect _
     | .waypartRepartition _ => True
     | .sysrd _ r => r = .status ∨ r = .cause ∨ r = .epc ∨ r = .eval ∨ r = .vbase ∨ r = .asid ∨ r = .tbase ∨ r = .waypart
     | .syswr r _ => r ≠ .chpri
     | _ => False) →
    ∃ t, exec i s = .next t ∧ trapped s t 7 0 0

/-- What SYSRD reads from each system register (R29, R35, R56, R159, R238, R239, R241, R291).
The model's own choices in it: log 6. -/
def Obligations.SystemRegisterReads : Prop :=
  ∀ (s : State) (d : Reg),
    let c := s.me
    (c.priv = true →
      exec (.sysrd d .status) s = .next (wrote s d
        (BitVec.ofNat 64 ((if c.task = .none then 0 else 4) + (if c.ppriv then 2 else 0) + if c.priv then 1 else 0))) ∧
      exec (.sysrd d .cause) s = .next (wrote s d (BitVec.ofNat 64 (256 * c.level + c.code))) ∧
      exec (.sysrd d .epc) s = .next (wrote s d c.epc) ∧
      exec (.sysrd d .eval) s = .next (wrote s d c.eval) ∧
      exec (.sysrd d .vbase) s = .next (wrote s d c.vbase) ∧
      exec (.sysrd d .asid) s = .next (wrote s d (BitVec.ofNat 64 c.asid)) ∧
      exec (.sysrd d .tbase) s = .next (wrote s d (BitVec.ofNat 64 c.tbase)) ∧
      exec (.sysrd d .waypart) s = .next (wrote s d (s.waypartWord c))) ∧
    exec (.sysrd d .job) s = .next (wrote s d (BitVec.ofNat 64 c.job)) ∧
    exec (.sysrd d .clock) s = .next (wrote s d (BitVec.ofNat 64 ((if s.turn then 2 ^ 24 else 0) + c.pts))) ∧
    exec (.sysrd d .chpri) s = .next (wrote s d c.chpriWord) ∧
    exec (.sysrd d .turnstall) s = .next (wrote s d (BitVec.ofNat 64 (s.stalls.getD (s.actor / 48) 0))) ∧
    (∃ t n, exec (.sysrd d .cycle) s = .next t ∧ t.me.cycle = (c.cycle + n) % 2 ^ 64 ∧
      (d ≠ 0 → t.me.get d = BitVec.ofNat 64 t.me.cycle) ∧ t.mem = s.mem ∧ t.me.pc = c.pc + 8)

/-- What SYSWR writes in each system register, and its reserved fields (R4, R29, R35, R239, R240, R241, R291).
The model's own choices in it: log 10. -/
def Obligations.SystemRegisterWrites : Prop :=
  (∀ (s : State) (a : Reg),
    let v := s.me.get a
    let c := s.me
    let put (c : Core) : Host.Outcome State Fault Refusal := .next (s.setMe { c with pc := c.pc + 8 })
    exec (.syswr .chpri a) s = put c ∧
    (c.priv = true →
      exec (.syswr .cause a) s = put c ∧
      (v.toNat < 8 → exec (.syswr .status a) s = put { c with priv := v.getLsbD 0, ppriv := v.getLsbD 1 }) ∧
      (v.toNat % 8 = 0 → exec (.syswr .epc a) s = put { c with epc := v, eahead := [] }) ∧
      exec (.syswr .eval a) s = put { c with eval := v } ∧
      (v.toNat % 8 = 0 → exec (.syswr .vbase a) s = put { c with vbase := v }) ∧
      (v.toNat < 2 ^ 16 → exec (.syswr .asid a) s = put { c with asid := v.toNat }) ∧
      (v.toNat < 2 ^ 52 → v.toNat % 4096 = 0 → exec (.syswr .tbase a) s = put { c with tbase := v.toNat }) ∧
      (v.toNat < 2 ^ 16 → exec (.syswr .job a) s = put { c with job := v.toNat }) ∧
      exec (.syswr .turnstall a) s =
        .next (moved { s with stalls := s.stalls.set (s.actor / 48) v.toNat }) ∧
      (∃ t, exec (.sysClockWrite a) s = .next t ∧ t.me.pts = max c.pts (v.toNat % 2 ^ 24) ∧
        t.turnReq = (s.turnReq || decide (0xFFF000 ≤ t.me.pts)) ∧
        { t.me with pts := c.pts, pc := c.pc } = c ∧ t.me.pc = c.pc + 8 ∧
        { t with cores := s.cores, turnReq := s.turnReq } = s) ∧
      (∃ t, exec (.sysCycleWrite a) s = .next t ∧ t.me.cycle = v.toNat ∧ t.me.pc = c.pc + 8 ∧
        (∀ k n, (c.chan k).timer = some n → c.cycle ≤ n → (t.me.chan k).timer = some (v.toNat + (n - c.cycle))) ∧
        { t.me with cycle := c.cycle, pc := c.pc, chans := c.chans } = c ∧ { t with cores := s.cores } = s))) ∧
  (∀ (s : State) (a : Reg) (r : SysReg), s.me.priv = true →
    (let v := (s.me.get a).toNat
     match r with
     | .status => 8 ≤ v
     | .epc | .vbase => v % 8 ≠ 0
     | .asid | .job => 2 ^ 16 ≤ v
     | .tbase => 2 ^ 52 ≤ v ∨ v % 4096 ≠ 0
     | .waypart => v / 2 ^ 50 % 2 ^ 12 ≠ 0 ∨ v / 2 ^ 20 % 2 ^ 22 ≠ 0
     | _ => False) →
    ∃ t, exec (.syswr r a) s = .next t ∧ trapped s t 2 0 0)

/-- Selecting and repartitioning a crown bank (R56, R57). -/
def Obligations.CrownBankPartition : Prop :=
  ∀ (s : State) (a : Reg), s.me.priv = true →
    let v := (s.me.get a).toNat
    v / 2 ^ 50 % 2 ^ 12 = 0 → v / 2 ^ 20 % 2 ^ 22 = 0 →
    let tower := v / 2 ^ 48 % 4
    let bank := v / 2 ^ 42 % 64
    let n (i : Nat) := v / 2 ^ (5 * i) % 32
    let b := s.bank tower bank
    (exec (.waypartSelect a) s =
      .next (moved (s.setMe { s.me with wayTower := tower, wayBank := bank, wayErr := false }))) ∧
    (∃ t, exec (.waypartRepartition a) s = .next t ∧ t.me.wayTower = tower ∧ t.me.wayBank = bank ∧ t.me.pc = s.me.pc + 8 ∧
      (n 0 + n 1 + n 2 + n 3 = 0 → t.me.wayErr = false ∧ t.banks = s.banks) ∧
      (n 0 + n 1 + n 2 + n 3 ≠ 0 → (n 0 + n 1 + n 2 + n 3 ≠ 16 ∨ b.next.isSome ∨ (n 2 < b.spill ∧ b.reserved ≠ 0)) → t.me.wayErr = true ∧ t.banks = s.banks) ∧
      (n 0 + n 1 + n 2 + n 3 = 16 → b.next = none → (n 2 < b.spill → b.reserved = 0) →
        t.me.wayErr = false ∧ t.bank tower bank = { b with next := some (n 0, n 1, n 2, n 3) } ∧
        ∀ d, exec (.sysrd d .waypart) t = .next (wrote t d (BitVec.ofNat 64 (2 ^ 63 + v % 2 ^ 50))))) ∧
    (∀ q < 256, ∀ h r sp sc, (s.bank (q / 64) (q % 64)).next = some (h, r, sp, sc) →
      ∃ t, exec (.repartitionComplete q) s = .next t ∧
        t.bank (q / 64) (q % 64) =
          { s.bank (q / 64) (q % 64) with home := h, remote := r, spill := sp, scratch := sc, next := none } ∧
        (∀ off < 0x100000 * (16 - min sc (s.bank (q / 64) (q % 64)).scratch),
          t.scratch.read (s.towerId (q / 64) * 2 ^ 42 + 0x10000000000 + 0x1000000 * (q % 64) + off) = 0))

/-- TLBINV leaves no covered translation in any cache and keeps every other (R45, R292).
The model's own choices in it: log 21. -/
def Obligations.InvalidatedTranslations : Prop :=
  ∀ (s : State) (a : Reg) (scope : TlbScope), s.me.priv = true →
    let va := (s.me.get a).toNat % 2 ^ 57
    let covered (x : Xlate) : Prop := match scope with
      | .all => True
      | .asid => x.glob = false ∧ x.asid = s.me.asid
      | .page => (x.glob = true ∨ x.asid = s.me.asid) ∧ va / 2 ^ x.size = x.va / 2 ^ x.size
    let dropped (w : WalkEntry) : Prop := scope = .all ∨ w.asid = s.me.asid
    ∃ t, exec (.tlbinv a scope) s = .next t ∧
      (∀ n x, x ∈ (t.core n).tlb ↔ x ∈ (s.core n).tlb ∧ ¬ covered x) ∧
      (∀ e x, x ∈ (t.engines.getD e Engine.reset).tlb ↔ x ∈ (s.engines.getD e Engine.reset).tlb ∧ ¬ covered x) ∧
      (∀ k x, x ∈ t.l2Of k ↔ x ∈ s.l2Of k ∧ ¬ covered x) ∧
      (∀ k w, w ∈ t.walksOf k ↔ w ∈ s.walksOf k ∧ ¬ dropped w) ∧
      (∀ l, (∀ v ∈ (t.line l).old, v.walks = false) ∧ { t.line l with old := (s.line l).old } = s.line l ∧
        ((t.line l).old.map fun v => (v.cells, v.wts, v.rts)) = (s.line l).old.map fun v => (v.cells, v.wts, v.rts)) ∧
      { t with cores := s.cores, engines := s.engines, l2 := s.l2, walks := s.walks, lines := s.lines } = s ∧
      { t.me with tlb := s.me.tlb, pc := s.me.pc } = s.me ∧ t.me.pc = s.me.pc + 8

/-- NOP has no effect, and CLOCK raises pts and reads SYS_CLOCK (R293). -/
def Obligations.NopAndClock : Prop :=
  ∀ (s : State) (d a : Reg),
    exec .nop s = .next (moved s) ∧
    (let p := max s.me.pts ((s.me.get a).toNat % 2 ^ 24)
     exec (.clock d a) s =
       .next (wrote { s.setMe { s.me with pts := p } with
           turnReq := s.turnReq || decide (0xFFF000 ≤ p) } d
         (BitVec.ofNat 64 ((if s.turn then 2 ^ 24 else 0) + p)))) ∧
    (s.me.pts < 0xFFF000 → ∃ v, exec (.clock d 0) s = .next (wrote s d v))

namespace Sys2Proof.Claims

/-- ea of the memory instructions with an offset (R248). -/
def eaOf (s : State) (a : Reg) (imm : BitVec 32) : Word := s.me.get a + imm.signExtend 64

/-- ea is canonical and aligned for an access of n bytes, and translates for it to pa, with x, tlb and s' (R248). -/
def reaches (s : State) (need : Need) (r : Reach) (n : Nat) (ea : Word) (pa : Nat) (x : Xlate) (tlb : List Xlate)
    (s' : State) : Prop :=
  canonical ea.toNat = true ∧ ea.toNat % n = 0 ∧
  s.translate s.coreCtx s.me.tlb 256 need (s.typeCheck r true) ea.toNat = .ok pa x tlb s'

/-- The bytes of memory in the n bytes from pa are those of v, little-endian, and every other byte is as in m. -/
def stored (m m' : Memory) (pa n : Nat) (v : Nat) : Prop :=
  ∀ b, m'.read b = if pa ≤ b ∧ b < pa + n then BitVec.ofNat 8 (v / 256 ^ (b - pa)) else m.read b

/-- A load returns the latest version of the line at this clock: no older version may still be taken (R67). -/
def latest (s : State) (pts pa : Nat) : Prop := (s.line (lineOf pa)).choices pts = []

/-- On a core: one register and the clock may differ, and the PC is at the next word. -/
def coreStep (c c' : Core) (d : Reg) (tlb : List Xlate) : Prop :=
  { c' with g := c.g, pc := c.pc, pts := c.pts, tlb := c.tlb } = c ∧ c'.tlb = tlb ∧ c'.pc = c.pc + 8 ∧
  ∀ r, r ≠ d → c'.get r = c.get r

/-- Every byte of HBM is as before, or the line's latest version has been written back to it (R25). -/
def backed (s t : State) : Prop := ∀ q, t.hbm.read q = s.hbm.read q ∨ t.hbm.read q = s.mem.read q

/-- A cluster once writes from the twig switch have been performed on its store, in order (R77). -/
def performedOn (ws : List TwigWrite) (c : Cluster) : Cluster := ws.foldl (fun c w => c.write w.off (w.bytes c) w.pts) c

/-- A task that ends deferred at its word, with what it waits for and what has been performed behind the word (R78); a start task just ends (R238, R242). -/
def deferredAt (s t : State) (w : Wait) : Prop :=
  { t with cores := s.cores } = s ∧ (∀ n, n ≠ s.actor → t.core n = s.core n) ∧ t.me.task = .none ∧
  { t.me with task := s.me.task, chans := s.me.chans, ahead := s.me.ahead, eahead := s.me.eahead } = s.me ∧
  (∀ k, s.me.task = .chan k →
    (t.me.chan k).deferred =
      some ⟨s.me.pc, (List.range 15).map fun i => s.me.get (BitVec.ofNat 5 (i + 1)), w, false, false, s.me.ahead⟩ ∧
    { t.me.chan k with deferred := (s.me.chan k).deferred } = s.me.chan k ∧ ∀ j, j ≠ k → t.me.chan j = s.me.chan j) ∧
  ((∀ k, s.me.task ≠ .chan k) → t.me.chans = s.me.chans)

end Sys2Proof.Claims

/-- What LD writes, from each kind of target (R18, R60, R67, R248, R249, R250, R262, R322, R351, R367, R381, R384).
The model's own choices in it: logs 12, 94. -/
def Obligations.LoadResults : Prop :=
  ∀ (s s' : State) (sz : Size) (sx : Bool) (d a : Reg) (imm : BitVec 32) (pa : Nat) (x : Xlate) (tlb : List Xlate),
    reaches s needLoad (.any sz.bytes) sz.bytes (eaOf s a imm) pa x tlb s' →
    let n := sz.bytes
    let value (m : Nat) : Word := if sx then (BitVec.ofNat (8 * n) m).signExtend 64 else BitVec.ofNat 64 m
    ∃ t, exec (.ld sz sx d a imm) s = .next t ∧ coreStep s.me t.me d tlb ∧
      t.mem = s'.mem ∧ backed s' t ∧ t.scratch = s'.scratch ∧
      (windowOf pa = .hbm → x.mtype = 0 → latest s' s.me.pts pa →
        (d ≠ 0 → t.me.get d = value (s'.mem.readLe pa n)) ∧
        t.me.pts = max s.me.pts (s'.line (lineOf pa)).wts) ∧
      (windowOf pa = .hbm → x.mtype ≠ 0 → latest s' (s'.homeClock (pkgOf pa)) pa →
        (d ≠ 0 → t.me.get d = value (s'.mem.readLe pa n)) ∧ t.me.pts = s.me.pts) ∧
      (windowOf pa = .crown → (d ≠ 0 → t.me.get d = value (s'.scratch.readLe pa n)) ∧ t.me.pts = s.me.pts) ∧
      (windowOf pa = .unbacked → t.me.get d = 0 ∧ t.me.pts = s.me.pts) ∧
      (windowOf pa = .device → d ≠ 0 → t.me.pts = s.me.pts ∧
        let o := offOf pa - 0x20000000000
        let gives (m : Nat) : Prop := t.me.get d = value (m % 2 ^ (8 * n))
        let pf (off m : Nat) : Prop := o = off → homeOf pa % 4 = 0 → gives (if s.me.priv then m else 0)
        (o = 0x1018 → gives s'.regs.jobdesc.toNat) ∧ (o = 0x1010 → gives s'.regs.rststat.toNat) ∧
        (∀ k, k < 256 → o = 0x3000 + 8 * k → gives (s'.regs.route.getD k 15)) ∧
        (o = 0x2120 → gives s'.regs.fencectl.toNat) ∧
        pf 0x10000 s'.regs.hstatus.toNat ∧ pf 0x10010 s'.regs.pwrcap ∧
        pf 0x10008 ((s'.celog.head?.map fun e => e.word.toNat).getD 0) ∧
        (o = 0x10008 → homeOf pa % 4 = 0 → s.me.priv = true → t.celog = s'.celog.tail) ∧
        (∀ k, k < 8 → o = 0x10100 + 8 * k → gives 0) ∧ (o = 0x5000 → gives 0))

/-- What ST stores, and that it stores nothing else (R18, R60, R68, R70, R248, R249, R250, R262, R322, R351, R367, R381).
The model's own choices in it: log 94. -/
def Obligations.StoreResults : Prop :=
  ∀ (s s' : State) (sz : Size) (a b : Reg) (imm : BitVec 32) (pa : Nat) (x : Xlate) (tlb : List Xlate),
    reaches s needStore (.any sz.bytes) sz.bytes (eaOf s a imm) pa x tlb s' →
    let n := sz.bytes
    let v := (s.me.get b).toNat
    let l := lineOf pa
    (windowOf pa = .hbm → x.mtype = 0 → max s.me.pts ((s'.line l).rts + 1) ≤ 0xFFFFFF →
      ∃ t, exec (.st sz a b imm) s = .next t ∧ coreStep s.me t.me 0 tlb ∧ stored s'.mem t.mem pa n v ∧
        t.me.pts = max s.me.pts ((s'.line l).rts + 1) ∧ (t.line l).wts = t.me.pts ∧ (t.line l).rts = t.me.pts ∧
        t.scratch = s'.scratch) ∧
    (windowOf pa = .hbm → x.mtype ≠ 0 → max (s'.homeClock (pkgOf pa)) ((s'.line l).rts + 1) ≤ 0xFFFFFF →
      ∃ t, exec (.st sz a b imm) s = .next t ∧ coreStep s.me t.me 0 tlb ∧ stored s'.mem t.mem pa n v ∧
        t.me.pts = s.me.pts ∧ t.scratch = s'.scratch) ∧
    (windowOf pa = .crown →
      ∃ t, exec (.st sz a b imm) s = .next t ∧ coreStep s.me t.me 0 tlb ∧ t.mem = s'.mem ∧ t.scratch = s'.scratch ∧
        t.me.pts = s.me.pts ∧ t.posted = s'.posted ++ [⟨s'.coreAgent s.actor, pa, leBytes n v⟩]) ∧
    (windowOf pa = .unbacked →
      ∃ t, exec (.st sz a b imm) s = .next t ∧ coreStep s.me t.me 0 tlb ∧ t.mem = s'.mem ∧ t.scratch = s'.scratch ∧
        t.posted = s'.posted ∧ t.me.pts = s.me.pts) ∧
    (windowOf pa = .device →
      ∃ t, exec (.st sz a b imm) s = .next t ∧
        let o := offOf pa - 0x20000000000
        let w := s.me.get b
        let sets (r : DevRegs) : Prop := coreStep s.me t.me 0 tlb ∧ t.me.pts = s.me.pts ∧
          { t with cores := s'.cores, regs := s'.regs } = s' ∧ t.regs = if n = 8 then r else s'.regs
        (o = 0x1018 → sets (if bits w 63 52 = 0 ∧ bits w 6 0 = 0 then { s'.regs with jobdesc := w } else s'.regs)) ∧
        (∀ k, k < 256 → o = 0x3000 + 8 * k →
          sets (if w.toNat < 16 then { s'.regs with route := s'.regs.route.set k w.toNat } else s'.regs)) ∧
        (o = 0x10010 → homeOf pa % 4 = 0 →
          sets (if s.me.priv = true ∧ 600 ≤ w.toNat ∧ w.toNat ≤ 2400 then { s'.regs with pwrcap := w.toNat } else s'.regs)) ∧
        (o = 0x1010 ∨ o = 0x5000 ∨ (∃ p, p < 12 ∧ o = 0x2000 + 8 * p) → sets s'.regs))

/-- The first checks of a memory access, in their order (R34, R43, R248). -/
def Obligations.MemoryAddressTraps : Prop :=
  ∀ (s : State) (i : Instr) (need : Need) (r : Reach) (n : Nat) (ea : Word),
    (match i with
     | .ld sz _ _ a imm => need = needLoad ∧ r = .any sz.bytes ∧ n = sz.bytes ∧ ea = eaOf s a imm
     | .st sz a _ imm => need = needStore ∧ r = .any sz.bytes ∧ n = sz.bytes ∧ ea = eaOf s a imm
     | .ldl sz _ a imm => need = needBoth ∧ r = .coherent ∧ n = sz.bytes ∧ ea = eaOf s a imm
     | .amo _ dbl _ a _ imm => need = needBoth ∧ r = .atomic ∧ n = (if dbl then 8 else 4) ∧ ea = eaOf s a imm
     | .cas dbl _ a _ _ imm => need = needBoth ∧ r = .atomic ∧ n = (if dbl then 8 else 4) ∧ ea = eaOf s a imm
     | .cntrd _ a | .cntwait _ a _ | .cntnote _ a _ _ => need = needLoad ∧ r = .counter ∧ n = 8 ∧ ea = s.me.get a
     | .cntadd _ a _ => need = needBoth ∧ r = .counter ∧ n = 8 ∧ ea = s.me.get a
     | _ => False) →
    (canonical ea.toNat = false → ∃ t, exec i s = .next t ∧ trapped s t 4 5 ea) ∧
    (canonical ea.toNat = true → ea.toNat % n ≠ 0 → ∃ t, exec i s = .next t ∧ trapped s t 3 0 ea) ∧
    (∀ code lv, canonical ea.toNat = true → ea.toNat % n = 0 →
      s.translate s.coreCtx s.me.tlb 256 need (s.typeCheck r true) ea.toNat = .fault code lv →
      ∃ t, exec i s = .next t ∧ trapped s t code.num lv ea)

/-- AMO and CAS load and store, LDL loads and discards the line (R53, R54, R69, R252, R258, R259). -/
def Obligations.AtomicsAndLastUse : Prop :=
  (∀ (s s' : State) (dbl : Bool) (d a b c : Reg) (imm : BitVec 32) (fn : AmoFn) (pa : Nat) (x : Xlate) (tlb : List Xlate),
    let n := if dbl then 8 else 4
    reaches s needBoth .atomic n (eaOf s a imm) pa x tlb s' → windowOf pa = .hbm →
    let l := lineOf pa
    let clk := if x.mtype = 0 then s.me.pts else s'.homeClock (pkgOf pa)
    max clk ((s'.line l).rts + 1) ≤ 0xFFFFFF →
    let old := s'.mem.readLe pa n
    let y := (s.me.get b).toNat % 2 ^ (8 * n)
    let after (t : State) : Prop := coreStep s.me t.me d tlb ∧ (d ≠ 0 → t.me.get d = BitVec.ofNat 64 old) ∧
      t.me.pts = (if x.mtype = 0 then max s.me.pts ((s'.line l).rts + 1) else s.me.pts) ∧
      (t.line l).rts = max clk ((s'.line l).rts + 1)
    (∃ t, exec (.amo fn dbl d a b imm) s = .next t ∧ after t ∧ stored s'.mem t.mem pa n (amoCombine fn (8 * n) old y)) ∧
    (∃ t, exec (.cas dbl d a b c imm) s = .next t ∧ after t ∧
      (old = (s.me.get c).toNat % 2 ^ (8 * n) → stored s'.mem t.mem pa n y) ∧
      (old ≠ (s.me.get c).toNat % 2 ^ (8 * n) → t.mem = s'.mem ∧ (t.line l).wts = (s'.line l).wts)) ∧
    (let o : BitVec (8 * n) := BitVec.ofNat _ old
     let z : BitVec (8 * n) := BitVec.ofNat _ y
     amoCombine .add (8 * n) old y = (o + z).toNat ∧ amoCombine .and (8 * n) old y = (o &&& z).toNat ∧
     amoCombine .or (8 * n) old y = (o ||| z).toNat ∧ amoCombine .xor (8 * n) old y = (o ^^^ z).toNat ∧
     amoCombine .minS (8 * n) old y = (if o.sle z then o else z).toNat ∧
     amoCombine .maxS (8 * n) old y = (if o.sle z then z else o).toNat ∧
     amoCombine .minN (8 * n) old y = (if o.ule z then o else z).toNat ∧
     amoCombine .maxN (8 * n) old y = (if o.ule z then z else o).toNat ∧
     amoCombine .swap (8 * n) old y = z.toNat)) ∧
  (∀ (s s' : State) (sz : Size) (d a : Reg) (imm : BitVec 32) (pa : Nat) (x : Xlate) (tlb : List Xlate),
    reaches s needBoth .coherent sz.bytes (eaOf s a imm) pa x tlb s' → windowOf pa = .hbm →
    latest s' s.me.pts pa →
    let l := lineOf pa
    max (max s.me.pts (s'.line l).wts) (min (max (s'.line l).rts (max s.me.pts (s'.line l).wts + 256)) 0xFFFFFF + 1) ≤ 0xFFFFFF →
    ∃ t, exec (.ldl sz d a imm) s = .next t ∧ coreStep s.me t.me d tlb ∧
      (d ≠ 0 → t.me.get d = BitVec.ofNat 64 (s'.mem.readLe pa sz.bytes)) ∧
      (∀ b, t.mem.read b = if lineOf b = l then s'.hbm.read b else s'.mem.read b) ∧ backed s' t ∧
      (∀ q, lineOf q = l → t.hbm.read q = s'.hbm.read q) ∧
      (t.line l).st = .i ∧ (t.line l).owner = 0x3FF ∧ (t.line l).rts = t.me.pts ∧ (s'.line l).rts < t.me.pts)

/-- PREF, DISCARD and CRWB over their range (R53, R253, R254, R255, R256). -/
def Obligations.RangeInstructions : Prop :=
  ∀ (s : State) (a b : Reg) (imm : BitVec 32),
    let ea := eaOf s a imm
    let len := (s.me.get b).toNat
    (len = 0 → exec (.pref a b imm) s = .next (moved s) ∧ exec (.discard a b imm) s = .next (moved s) ∧
      exec (.crwb a b imm) s = .next (moved s)) ∧
    (∃ t, exec (.pref a b imm) s = .next t ∧ t.me = s.me.advance ∧
      { t with cores := s.cores, celog := s.celog, regs := s.regs } = s) ∧
    (len ≠ 0 → canonical ea.toNat = false →
      (∃ t, exec (.discard a b imm) s = .next t ∧ trapped s t 4 5 ea) ∧
      (∃ t, exec (.crwb a b imm) s = .next t ∧ trapped s t 4 5 ea)) ∧
    (len ≠ 0 → canonical ea.toNat = true → ∀ pa x tlb s', windowOf pa = .hbm →
      let n := min len (4096 - ea.toNat % 4096)
      (s.translate s.coreCtx s.me.tlb 256 needLoad (s.rangeCheck false n) ea.toNat = .ok pa x tlb s' →
        (∀ l, (s'.line l).copy = .held) →
        ∃ t, exec (.crwb a b imm) s = .next t ∧ coreStep s.me t.me 0 tlb ∧ t.me.pts = s.me.pts ∧ t.mem = s'.mem ∧
          (∀ l, (t.line l).wts = (s'.line l).wts ∧ (t.line l).rts = (s'.line l).rts) ∧
          ∀ q, t.hbm.read q =
            if pa / 128 ≤ lineOf q ∧ lineOf q * 128 < pa + n ∧
              ((s'.line (lineOf q)).st = .m ∨ (s'.line (lineOf q)).st = .o) then s'.mem.read q else s'.hbm.read q) ∧
      (s.translate s.coreCtx s.me.tlb 256 needStore (s.rangeCheck true n) ea.toNat = .ok pa x tlb s' →
        let inside (l : Nat) : Prop := pa ≤ 128 * l ∧ 128 * l + 128 ≤ pa + n
        (∀ l, inside l → (s'.line l).copy = .held) →
        s.me.pts ≤ 0xFFFFFF → (∀ l, inside l → (s'.line l).rts < 0xFFFFFF) →
        ∃ t, exec (.discard a b imm) s = .next t ∧ coreStep s.me t.me 0 tlb ∧ t.hbm = s'.hbm ∧
          s.me.pts ≤ t.me.pts ∧ (∀ l, inside l → (s'.line l).rts < t.me.pts) ∧
          (∀ q, inside (lineOf q) → t.mem.read q = s'.hbm.read q) ∧
          ∀ q, ¬ inside (lineOf q) → t.mem.read q = s'.mem.read q))

/-- LLD and LST on the leaf stores of the branch, and LFENCE after scratch writes (R60, R76, R77, R78, R91, R93, R238, R257, R260).
The model's own choices in it: log 10. -/
def Obligations.LeafAccessAndFence : Prop :=
  (∀ (s : State) (sz : Size) (d a b : Reg) (imm : BitVec 32),
    let la := (eaOf s a imm).toNat
    let n := sz.bytes
    let pos := la / 2 ^ 18
    let off := la % 2 ^ 18
    let cl := clusterAt s.actor pos
    let u := s.myDrain cl
    let c := u.cluster cl
    (2 ^ 22 ≤ la →
      (∃ t, exec (.lld sz d a imm) s = .next t ∧ trapped s t 12 0 (eaOf s a imm)) ∧
      (∃ t, exec (.lst sz a b imm) s = .next t ∧ trapped s t 12 0 (eaOf s a imm))) ∧
    (la < 2 ^ 22 → la % n ≠ 0 →
      (∃ t, exec (.lld sz d a imm) s = .next t ∧ trapped s t 3 0 0) ∧
      (∃ t, exec (.lst sz a b imm) s = .next t ∧ trapped s t 3 0 0)) ∧
    (la < 2 ^ 22 → la % n = 0 →
      exec (.lst sz a b imm) s = .next
        { moved s with twig := s.twig ++ [⟨s.coreAgent s.actor, cl, off, leBytes n (s.me.get b).toNat, none, s.me.pts⟩] } ∧
      u.cores = s.cores ∧ u.mem = s.mem ∧
      u.twig = s.twig.filter (fun w => !(w.agent = s.coreAgent s.actor && w.cl = cl)) ∧
      c = performedOn (s.twig.filter fun w => w.agent = s.coreAgent s.actor && w.cl = cl) (s.cluster cl) ∧
      ((c.line (off / 128)).full = true →
        ∃ t, exec (.lld sz d a imm) s = .next t ∧ coreStep s.me t.me d s.me.tlb ∧
          t.me.pts = max s.me.pts (c.line (off / 128)).clk ∧
          (d ≠ 0 → t.me.get d = BitVec.ofNat 64 (c.leaf.readLe off n)) ∧ { t with cores := s.cores } = u) ∧
      ((c.line (off / 128)).full = false →
        ∃ t, exec (.lld sz d a imm) s = .next t ∧ deferredAt u t (.leaf pos (off / 128)))) ∧
    (∃ t, exec .fenceLeaf s = .next t ∧ t.me = s.me.advance ∧
      t.twig = s.twig.filter (fun w => !(w.agent = s.coreAgent s.actor)) ∧
      { t with cores := s.cores, clusters := s.clusters, twig := s.twig } = s ∧
      ∀ k, t.cluster k = performedOn (s.twig.filter fun w => w.agent = s.coreAgent s.actor && w.cl = k) (s.cluster k))) ∧
  (∀ s : State,
    (∃ t, exec .lfence s = .next t ∧ t.me = s.me.advance ∧ t.mem = s.mem ∧ t.hbm = s.hbm ∧
      t.posted = s.posted.filter fun p => p.agent ≠ s.coreAgent s.actor) ∧
    (∀ p r, s.posted = p :: r → s.scratchBacked p.pa = true →
      ∃ t, exec (.scratchWriteArrival 0) s = .next t ∧ t.posted = r ∧
        (∀ q, t.scratch.read q =
          if p.pa ≤ q ∧ q < p.pa + p.data.length then p.data.getD (q - p.pa) 0 else s.scratch.read q) ∧
        { t with posted := s.posted, scratch := s.scratch } = s))

namespace Sys2Proof.Claims

/-- The bytes of slot k of a cluster, in order (R94). -/
def slotBytesAt (c : Cluster) (k i : Nat) : Byte := c.leaf.read (128 * (c.tile k).base + i)

/-- The registers of the acting core but gD, its PC at the next word, and everything on it but its registers, PC and
TLB as before. -/
def resultStep (s t : State) (d : Reg) (v : Word) : Prop :=
  { t.me with g := s.me.g, pc := s.me.pc, tlb := s.me.tlb, pts := s.me.pts } = s.me ∧ t.me.pc = s.me.pc + 8 ∧
  (d ≠ 0 → t.me.get d = v) ∧ ∀ r, r ≠ d → t.me.get r = s.me.get r

/-- The word that says −n. -/
def negative (n : Nat) : Word := BitVec.ofInt 64 (-n)

end Sys2Proof.Claims

/-- SIN and SCONST fill a slot, SOUT empties one (R66, R96, R265, R266).
The model's own choices in it: log 78. -/
def Obligations.WholeSlots : Prop :=
  (∀ (s : State) (d a : Reg) (n : BitVec 6),
    let cl := clusterAt s.actor (n.toNat / 4)
    let b := n.toNat % 4
    let c := s.cluster cl
    let k := (c.buf b).pSlot 0
    let size := 128 * (c.tile k).lcount
    let vas := (List.range (c.tile k).lcount).map fun i => s.me.get a + BitVec.ofNat 64 (128 * i)
    s.binding cl b .src = .bound → (c.port b).seos = false →
    ((c.tile k).st ≠ .empty → s.me.burst = none →
      exec (.sin d a n) s = .next (wrote s d 0) ∧ exec (.sconst d a n) s = .next (wrote s d 0)) ∧
    ((c.buf b).slots ≠ 0 → (c.tile k).st = .empty → (c.tile k).base + (c.tile k).lcount ≤ 2048 →
      let filled (t : State) (m : Memory) (f : Nat → Byte) : Prop :=
        t.mem = m ∧ s.me.pts ≤ t.me.pts ∧ ((t.cluster cl).tile k).st = .ready ∧
        ((t.cluster cl).buf b).pidx = ((c.buf b).pidx + 1) % (2 * (c.buf b).slots) ∧
        ((c.muBuf b).all (fun m => m.prod = 0) = true → ((t.cluster cl).port b).recs = (c.port b).recs + 1) ∧
        ∀ i, i < size → slotBytesAt (t.cluster cl) k i = f i
      (∃ t, exec (.sconst d a n) s = .next t ∧ t.me = (s.me.put d (BitVec.ofNat 64 size)).advance ∧
        filled t s.mem fun i => BitVec.ofNat 8 ((s.me.get a).toNat / 256 ^ (i % 4))) ∧
      (∀ xs s0, s.me.burst = none → s.checkLines needLoad vas = .ok xs s0 →
        (∀ pa x y r, xs = (pa, x) :: y :: r → ∃ t, exec (.sin d a n) s = .next t ∧ t.me.pc = s.me.pc ∧ t.me.g = s.me.g ∧
          t.me.burst = some ⟨.sin d a n, y :: r, (s0.loadTarget x pa 128).1, k, 0⟩ ∧ t.clusters = s.clusters ∧ t.mem = s0.mem) ∧
        (∀ pa x, xs = [(pa, x)] → (c.tile k).lcount = 1 → ∃ t, exec (.sin d a n) s = .next t ∧
          resultStep s t d (BitVec.ofNat 64 size) ∧ filled t s0.mem fun i => (s0.loadTarget x pa 128).1.getD i 0)) ∧
      (∀ pa x bs r, windowOf pa = .hbm ∨ windowOf pa = .crown ∨ windowOf pa = .unbacked →
        s.me.burst = some ⟨.sin d a n, (pa, x) :: r, bs, k, 0⟩ →
        let got := bs ++ (s.loadTarget x pa 128).1
        (r ≠ [] → ∃ t, exec (.sin d a n) s = .next t ∧ t.me.pc = s.me.pc ∧ t.me.g = s.me.g ∧
          t.me.burst = some ⟨.sin d a n, r, got, k, 0⟩ ∧ t.clusters = s.clusters ∧ t.mem = s.mem) ∧
        (r = [] → bs.length + 128 = size → ∃ t, exec (.sin d a n) s = .next t ∧ t.me.burst = none ∧
          resultStep (s.setMe { s.me with burst := none }) t d (BitVec.ofNat 64 size) ∧ filled t s.mem fun i => got.getD i 0))) ∧
    (∀ pa x bs h, windowOf pa = .hbm ∨ windowOf pa = .crown ∨ windowOf pa = .unbacked →
      s.me.burst = some ⟨.sin d a n, [(pa, x)], bs, h, 0⟩ → ((c.tile h).st ≠ .empty ∨ h ≠ k) →
      ∃ t, exec (.sin d a n) s = .next t ∧ t.me.burst = none ∧
        resultStep (s.setMe { s.me with burst := none }) t d (BitVec.ofNat 64 (bs.length + 128)) ∧
        (t.cluster cl).tiles = c.tiles ∧ (t.cluster cl).bufs = c.bufs ∧ (t.cluster cl).ports = c.ports)) ∧
  (∀ (s : State) (d a : Reg) (n : BitVec 6),
    let cl := clusterAt s.actor (n.toNat / 4)
    let b := n.toNat % 4
    let c := s.cluster cl
    let k := (c.buf b).cSlot 0
    let size := 128 * (c.tile k).lcount
    let vas := (List.range (c.tile k).lcount).map fun i => s.me.get a + BitVec.ofNat 64 (128 * i)
    s.binding cl b .sink = .bound →
    ((c.tile k).st ≠ .ready → s.me.burst = none → exec (.sout d a n) s = .next (wrote s d 0)) ∧
    ((c.buf b).slots ≠ 0 →
      let emptied (t u : State) : Prop :=
        t.mem = u.mem ∧ t.posted = u.posted ∧ t.me.burst = none ∧
        resultStep (s.setMe { s.me with burst := none }) t d (BitVec.ofNat 64 size) ∧
        ((t.cluster cl).tile k).st = .empty ∧ ((t.cluster cl).tile k).tclk = 0 ∧
        ((t.cluster cl).buf b).cidx = ((c.buf b).cidx + 1) % (2 * (c.buf b).slots)
      let between (t u : State) (r : List (Nat × Xlate)) (data : List Byte) : Prop :=
        t.mem = u.mem ∧ t.posted = u.posted ∧ t.me.pc = s.me.pc ∧ t.me.g = s.me.g ∧
        t.me.burst = some ⟨.sout d a n, r, data, k, 0⟩ ∧ t.clusters = u.clusters
      (∀ xs s0 pa x r u, s.me.burst = none → (c.tile k).st = .ready → s.checkLines needStore vas = .ok xs s0 →
        xs = (pa, x) :: r → xs.length = (c.tile k).lcount →
        let s1 := s0.myDrain cl
        let data := (s1.cluster cl).leaf.readN (128 * (c.tile k).base) size
        (s1.setMe (s1.me.raise (c.tile k).tclk)).storeTarget x pa (data.take 128) = some u →
        ∃ t, exec (.sout d a n) s = .next t ∧ (c.tile k).tclk ≤ t.me.pts ∧
          (r = [] → emptied t u) ∧ (r ≠ [] → between t u r data)) ∧
      (∀ pa x r data u, windowOf pa = .hbm ∨ windowOf pa = .crown ∨ windowOf pa = .unbacked →
        s.me.burst = some ⟨.sout d a n, (pa, x) :: r, data, k, 0⟩ → (c.tile k).st = .ready → data.length = size → r.length < (c.tile k).lcount →
        s.storeTarget x pa ((data.drop (size - 128 * (r.length + 1))).take 128) = some u →
        ∃ t, exec (.sout d a n) s = .next t ∧ (r = [] → emptied t u) ∧ (r ≠ [] → between t u r data))) ∧
    (∀ pa x data h u, windowOf pa = .hbm ∨ windowOf pa = .crown ∨ windowOf pa = .unbacked →
      s.me.burst = some ⟨.sout d a n, [(pa, x)], data, h, 0⟩ → ((c.tile h).st ≠ .ready ∨ h ≠ k) →
      s.storeTarget x pa ((data.drop (data.length - 128)).take 128) = some u →
      ∃ t, exec (.sout d a n) s = .next t ∧ t.me.burst = none ∧ t.mem = u.mem ∧
        resultStep (s.setMe { s.me with burst := none }) t d (BitVec.ofNat 64 data.length) ∧
        (t.cluster cl).tiles = c.tiles ∧ (t.cluster cl).bufs = c.bufs ∧ (t.cluster cl).ports = c.ports))

/-- Stream instructions on ports that cannot pass, and the cuts of SMARK and SEOS (R265, R267). -/
def Obligations.StreamPorts : Prop :=
  (∀ (s : State) (d a : Reg) (n : BitVec 6) (i : Instr) (k : PortKind), s.me.burst = none →
    (match i with
     | .sin d' a' n' | .sconst d' a' n' => d' = d ∧ a' = a ∧ n' = n ∧ k = .src
     | .seos d' n' | .smark d' n' => d' = d ∧ n' = n ∧ k = .src
     | .sout d' a' n' => d' = d ∧ a' = a ∧ n' = n ∧ k = .sink
     | _ => False) →
    let cl := clusterAt s.actor (n.toNat / 4)
    let b := n.toNat % 4
    (s.binding cl b k = .unbound → exec i s = .next (wrote s d (negative 1))) ∧
    (s.binding cl b k = .suspended → exec i s = .next (wrote s d (negative 2))) ∧
    (s.binding cl b k = .bound → k = .src → ((s.cluster cl).port b).seos = true →
      exec i s = .next (wrote s d (negative 3)))) ∧
  (∀ (s : State) (d : Reg) (n : BitVec 6),
    let cl := clusterAt s.actor (n.toNat / 4)
    let b := n.toNat % 4
    let c := s.cluster cl
    s.binding cl b .src = .bound → (c.port b).seos = false →
    (∀ eos, ∃ t at', exec (if eos then .seos d n else .smark d n) s = .next t ∧ resultStep s t d 0 ∧
      (t.cluster cl).mu.cuts = c.mu.cuts ++ [(at', eos)] ∧ c.mu.slots ≤ at' ∧
      (c.mu.reading = false → at' = c.mu.slots + c.readyRun (c.buf b)) ∧
      { t.cluster cl with mu := c.mu, ports := c.ports } = c ∧
      { t with cores := s.cores, clusters := s.clusters } = s ∧ t.me.pts = s.me.pts) ∧
    (∀ t a e, s.me.burst = none → exec (.seos d n) s = .next t → exec (.sin e a n) t = .next (wrote t e (negative 3)) ∧
      exec (.smark e n) t = .next (wrote t e (negative 3))))

/-- The result of PSTAT (R268). -/
def Obligations.PortState : Prop :=
  ∀ (s : State) (k : PortKind) (d : Reg) (n : BitVec 6),
    let cl := clusterAt s.actor (n.toNat / 4)
    let b := n.toNat % 4
    let c := s.cluster cl
    let bd := s.binding cl b k
    let bound := if bd = .unbound then 0 else 1
    let susp := if bd = .suspended then 1 else 0
    let p := s.portCluster cl
    let eosh := if match k with | .src => (p.port b).seos | .sink => p.mu.eos then bound else 0
    let recs := bound * ((p.port b).recs % 2 ^ 16)
    let free := c.runOf .empty (c.buf b).pSlot (c.buf b).slots 0
    let ready := c.runOf .ready (c.buf b).cSlot (c.buf b).slots 0
    exec (.pstat k d n) s = .next (wrote s d (BitVec.ofNat 64
      (bound * 2 ^ 63 + susp * 2 ^ 62 + eosh * 2 ^ 61 + recs * 2 ^ 32 + free * 2 ^ 16 + ready)))

/-- BINIT, the waits and notices, and the advances of a buffer (R77, R94, R95, R96, R238, R269, R270, R271, R280). -/
def Obligations.BufferInstructions : Prop :=
  (∀ (s : State) (d a : Reg) (h : BitVec 6),
    let cl := clusterAt s.actor (h.toNat / 4)
    let b := h.toNat % 4
    let c := s.cluster cl
    let v := (s.me.get a).toNat
    let slots := v / 64 % 32
    let first := v % 64
    let bad := v / 2 ^ 32 ≠ 0 ∨ v / 2 ^ 21 % 2 ≠ 0 ∨ v / 2 ^ 11 % 2 ^ 5 ≠ 0 ∨ 16 < slots ∨ 64 < first + slots ∨
      ∃ k, first ≤ k ∧ k < first + slots ∧
        ((c.tile k).lcount = 0 ∨ 2048 < (c.tile k).base + (c.tile k).lcount ∨ 128 * (c.tile k).lcount < (c.tile k).tbytes)
    (bad → exec (.binit d a h) s = .next (wrote s d 1)) ∧
    (¬ bad → s.imageBuf cl b = true → exec (.binit d a h) s = .next (wrote s d 2)) ∧
    (¬ bad → s.imageBuf cl b = false →
      ∃ t, exec (.binit d a h) s = .next t ∧ resultStep s t d 0 ∧ t.me.pts = s.me.pts ∧
        { t with cores := s.cores, clusters := s.clusters } = s ∧
        (let x := (t.cluster cl).buf b
         x.slots = slots ∧ x.first = first ∧ x.fmt = v / 2 ^ 16 % 16 ∧ x.swz = v.testBit 20 ∧ x.pidx = 0 ∧ x.cidx = 0 ∧
           x.noteF = none ∧ x.noteE = none) ∧
        (∀ k, (t.cluster cl).tile k =
          if first ≤ k ∧ k < first + slots then { c.tile k with st := .empty, tclk := 0, due := false } else c.tile k) ∧
        { t.cluster cl with tiles := c.tiles, bufs := c.bufs } = c)) ∧
  (∀ (s : State) (d : Reg) (h k : BitVec 6) (n : BitVec 5),
    let cl := clusterAt s.actor (h.toNat / 4)
    let b := h.toNat % 4
    let c := s.cluster cl
    let m := min n.toNat (c.buf b).slots
    let ready := c.runOf .ready (c.buf b).cSlot (c.buf b).slots 0
    let free := c.runOf .empty (c.buf b).pSlot (c.buf b).slots 0
    (m ≤ ready → exec (.bwaitf d h n) s = .next (wrote s d (BitVec.ofNat 64 ready))) ∧
    (ready < m → ∃ t, exec (.bwaitf d h n) s = .next t ∧ deferredAt s t (.full h.toNat n.toNat)) ∧
    (m ≤ free → exec (.bwaite d h n) s = .next (wrote s d (BitVec.ofNat 64 free))) ∧
    (free < m → ∃ t, exec (.bwaite d h n) s = .next t ∧ deferredAt s t (.free h.toNat n.toNat)) ∧
    (∀ dir : BufDir, ∃ t,
      let run := if dir = .f then ready else free
      exec (.bnote dir d h k n) s = .next t ∧ resultStep s t d (if m ≤ run then 1 else 0) ∧
        t.me.pts = s.me.pts ∧ { t with cores := s.cores, clusters := s.clusters, mail := s.mail } = s ∧
        (m ≤ run → t.mail = s.mail ++ [⟨.buffer cl b, s.actor, k.toNat,
          ⟨BitVec.ofNat 64 (run * 2 ^ 16 + (if dir = .e then 2 ^ 8 else 0) + h.toNat), 0⟩⟩]) ∧
        (run < m → t.mail = s.mail ∧
          (if dir = .f then ((t.cluster cl).buf b).noteF else ((t.cluster cl).buf b).noteE) = some ⟨s.actor, k.toNat, m⟩) ∧
        { t.cluster cl with bufs := c.bufs } = c)) ∧
  (∀ (s : State) (d : Reg) (h : BitVec 6) (n : BitVec 5),
    let cl := clusterAt s.actor (h.toNat / 4)
    let b := h.toNat % 4
    let u := s.myDrain cl
    let c := u.cluster cl
    let x := c.buf b
    (let k := min n.toNat (c.runOf .empty x.pSlot x.slots 0)
     ∃ t, exec (.badvp d h n) s = .next t ∧ resultStep s t d (BitVec.ofNat 64 k) ∧ t.me.pts = s.me.pts ∧
       { t with cores := u.cores, clusters := u.clusters } = u ∧
       ((t.cluster cl).buf b).pidx % (2 * x.slots) = (x.pidx + k) % (2 * x.slots) ∧
       (∀ j, ((t.cluster cl).tile j).st =
         if ∃ i, i < k ∧ j = x.first + (x.pidx + i) % x.slots then .ready else (c.tile j).st) ∧
       (t.cluster cl).leaf = c.leaf) ∧
    (let k := min n.toNat (c.runOf .ready x.cSlot x.slots 0)
     ∃ t, exec (.badvc d h n) s = .next t ∧ resultStep s t d (BitVec.ofNat 64 k) ∧
       { t with cores := u.cores, clusters := u.clusters } = u ∧
       ((t.cluster cl).buf b).cidx % (2 * x.slots) = (x.cidx + k) % (2 * x.slots) ∧
       (∀ i, i < k → (c.tile (x.cSlot i)).tclk ≤ t.me.pts) ∧ s.me.pts ≤ t.me.pts ∧
       (∀ j, ((t.cluster cl).tile j).st =
         if ∃ i, i < k ∧ j = x.first + (x.cidx + i) % x.slots then .empty else (c.tile j).st) ∧
       (t.cluster cl).leaf = c.leaf))

/-- TSTAT and TSET of a tile entry (R272). -/
def Obligations.TileEntries : Prop :=
  ∀ (s : State) (d a b : Reg) (tn : BitVec 6) (q : BitVec 4),
    let cl := clusterAt s.actor q.toNat
    let old := (s.cluster cl).tile tn.toNat
    let x := (s.me.get a).toNat
    let y := (s.me.get b).toNat
    let busy := old.st = .filling ∨ old.st = .draining
    let lcount := x / 2 ^ 11 % 2 ^ 12
    let bad := lcount = 0 ∨ 2048 < x % 2 ^ 11 + lcount ∨ 128 * lcount < y / 2 ^ 13 % 2 ^ 19 ∨ x / 2 ^ 23 ≠ 0 ∨ y % 2 ≠ 0
    exec (.tstat false d tn q) s = .next (wrote s d (BitVec.ofNat 64 old.word)) ∧
    exec (.tstat true d tn q) s = .next (wrote s d (BitVec.ofNat 64 (old.word / 2 ^ 64))) ∧
    (busy → exec (.tset d a b tn q) s = .next (wrote s d 2)) ∧
    (¬ busy → bad → exec (.tset d a b tn q) s = .next (wrote s d 1)) ∧
    (¬ busy → ¬ bad → ∃ t, exec (.tset d a b tn q) s = .next t ∧ resultStep s t d 0 ∧ t.me.pts = s.me.pts ∧
      { t with cores := s.cores, clusters := s.clusters } = s ∧ (∀ k, k ≠ cl → t.cluster k = s.cluster k) ∧
      { t.cluster cl with tiles := (s.cluster cl).tiles } = s.cluster cl ∧
      (∀ k, k ≠ tn.toNat → (t.cluster cl).tile k = (s.cluster cl).tile k) ∧
      ((t.cluster cl).tile tn.toNat).st = .empty ∧ ((t.cluster cl).tile tn.toNat).tclk = 0 ∧
      ∀ e, exec (.tstat false e tn q) t = .next (wrote t e (s.me.get a)) ∧
        exec (.tstat true e tn q) t = .next (wrote t e (BitVec.ofNat 64 (y % 2 ^ 38))))

/-- ACLR, AREAD and ASTAT on the accumulator file (R126, R149, R158, R273). -/
def Obligations.AccumulatorWords : Prop :=
  ∀ (s : State) (d a : Reg) (n : BitVec 5),
    let cl := clusterAt s.actor (n.toNat / 2)
    let bank := n.toNat % 2
    let arr := (s.cluster cl).arr
    let v := (s.me.get a).toNat
    let e (col : Nat) : Nat := arr.elem bank (v % 64) (2 * (v / 64 % 32) + col)
    let cur := (s.cluster cl).ctCfg.isSome ∧ arr.bank = bank
    (arr.draining bank = false → ∃ t, exec (.aclr n) s = .next t ∧ t.me = s.me.advance ∧
      (∀ row col, row < 64 → col < 64 → (t.cluster cl).arr.elem bank row col = 0) ∧
      (t.cluster cl).arr.touchBits bank = 0 ∧
      (∀ k row col, k ≠ bank → row < 64 → col < 64 → (t.cluster cl).arr.elem k row col = arr.elem k row col) ∧
      (∀ k, k ≠ bank → (t.cluster cl).arr.touchBits k = arr.touchBits k) ∧
      { t with cores := s.cores, clusters := s.clusters } = s ∧ ∀ k, k ≠ cl → t.cluster k = s.cluster k) ∧
    (arr.draining bank = true → ∃ t, exec (.aclr n) s = .next t ∧ t.me = s.me.advance ∧
      { t with cores := s.cores, clusters := s.clusters } = s ∧ ∀ k, t.cluster k = s.cluster k) ∧
    exec (.aread false d a n) s = .next (wrote s d (BitVec.ofNat 64 (e 1 * 2 ^ 32 + e 0))) ∧
    (∃ w, exec (.aread true d a n) s = .next (wrote s d w) ∧
      w.toNat % 2 ^ 32 = (rtDec (rtRead (e 0)).1 % 2 ^ 32).toNat ∧
      w.toNat / 2 ^ 32 = (rtDec (rtRead (e 1)).1 % 2 ^ 32).toNat) ∧
    exec (.astat false d n) s = .next (wrote s d (BitVec.ofNat 64 (arr.touchBits bank))) ∧
    (∃ w, exec (.astat true d n) s = .next (wrote s d w) ∧
      (cur → w.toNat % 2 ^ 16 = arr.n % 2 ^ 16) ∧ (¬ cur → w.toNat % 2 ^ 16 = 0) ∧
      w.getLsbD 16 = arr.draining bank ∧ (w.getLsbD 17 = true ↔ cur) ∧ w.toNat < 2 ^ 18)

/-- XJOB and PJOB issue a job, JSTAT and JWAIT read its record (R75, R80, R88, R90, R238, R241, R274, R275). -/
def Obligations.CopyJobInstructions : Prop :=
  (∀ (s : State) (e : Eng) (d a : Reg),
    let va := s.me.get a
    let i : Instr := match e with | .x => .xjob d a | .p => .pjob d a
    let n := 2 * s.actor + (match e with | .x => 0 | .p => 1)
    (va.toNat % 64 ≠ 0 → ∃ t, exec i s = .next t ∧ trapped s t 3 0 va) ∧
    (∀ pa x tlb s', va.toNat % 64 = 0 → reaches s needLoad (.any 8) 8 va pa x tlb s' →
      ((∀ k, k < 64 → (s.copyJob n k).st ≠ .free) →
        ∃ t, exec i s = .next t ∧ resultStep s t d (negative 1) ∧ t.engines = s.engines) ∧
      (∀ k, k < 64 → (s.copyJob n k).st = .free → (∀ j, j < k → (s.copyJob n j).st ≠ .free) →
        ∃ t, exec i s = .next t ∧ resultStep s t d (BitVec.ofNat 64 k) ∧ s.me.pts ≤ t.me.pts ∧
          (let j := t.copyJob n k
           j.st = .waiting ∧ (j.admitted = true ↔ s.job s.me.job ≠ none) ∧ j.pts = t.me.pts ∧ j.core = s.actor ∧ j.job = s.me.job ∧ j.asid = s.me.asid ∧
             j.tbase = s.me.tbase ∧ j.progress = bits j.card 479 448 ∧ j.fail = 0 ∧
             (windowOf pa = .hbm → x.mtype = 0 → latest s' s.me.pts pa → j.card = BitVec.ofNat 512 (s'.mem.readLe pa 64)) ∧
             ∀ o, o ∈ j.edges ↔ ∃ q m, (q = 2 * s.actor ∨ q = 2 * s.actor + 1) ∧ m < 64 ∧ o = 64 * q + m ∧
               (s.copyJob q m).st ≠ .free ∧ edgeOf (s.copyJob q m) j = true) ∧
          ∀ q m, (q, m) ≠ (n, k) → t.copyJob q m = s.copyJob q m))) ∧
  (∀ (s : State) (e : Eng) (d : Reg) (n : BitVec 6),
    let q := 2 * s.actor + (match e with | .x => 0 | .p => 1)
    let j := s.copyJob q n.toNat
    exec (.jstat e d n) s = .next (wrote s d (BitVec.ofNat 64 (j.progress % 2 ^ 32 * 2 ^ 32 + j.status * 2 ^ 8 +
      (match j.st with
       | .free => 0
       | .waiting => 1
       | .running => if 2 < j.kind ∨ s.claimFree q n.toNat = true then 2 else 1
       | .stopped => 3)))) ∧
    (j.st = .free → exec (.jwait e false d n) s =
      .next (wrote (s.setMe { s.me with pts := max s.me.pts j.final }) d (BitVec.ofNat 64 j.status))) ∧
    (j.st ≠ .free → ∃ t, exec (.jwait e false d n) s = .next t ∧ deferredAt s t (.job e n.toNat)) ∧
    ((∃ p ∈ (s.engine q).slots, p.2.st ≠ .free) → ∃ t, exec (.jwait e true d n) s = .next t ∧ deferredAt s t (.jobs e)) ∧
    ((∀ p ∈ (s.engine q).slots, p.2.st = .free) → ∃ t, exec (.jwait e true d n) s = .next t ∧
      resultStep s t d (BitVec.ofNat 64 (s.engine q).failures) ∧ t.me.pts = max s.me.pts (s.engine q).maxFinal ∧
      t.engine q = { s.engine q with maxFinal := 0, failures := 0 } ∧ (∀ p, p ≠ q → t.engine p = s.engine p) ∧
      { t with cores := s.cores, engines := s.engines } = s))

/-- CNTRD, CNTWAIT, CNTADD and CNTNOTE on a counter (R281, R282, R283). -/
def Obligations.CompletionCounters : Prop :=
  ∀ (s s' : State) (d a b : Reg) (k : BitVec 6) (pa : Nat) (x : Xlate) (tlb : List Xlate),
    windowOf pa = .hbm →
    let v := BitVec.ofNat 64 (s'.mem.readLe pa 8)
    let target := s.me.get b
    let l := lineOf pa
    (reaches s needLoad .counter 8 (s.me.get a) pa x tlb s' →
      let load (t : State) : Prop := resultStep s t d v ∧ t.mem = s'.mem ∧ t.me.pts = max s.me.pts (s'.line l).wts
      (∃ t, exec (.cntrd d a) s = .next t ∧ load t) ∧
      (target.toNat ≤ v.toNat → ∃ t, exec (.cntwait d a b) s = .next t ∧ load t) ∧
      (v.toNat < target.toNat → ∃ t, exec (.cntwait d a b) s = .next t ∧
        deferredAt (s'.setMe { s.me with tlb := tlb }) t (.counter pa target)) ∧
      (∃ t, exec (.cntnote d a b k) s = .next t ∧ t.mem = s'.mem ∧ t.lines = s'.lines ∧ t.me.pts = s.me.pts ∧
        (target.toNat ≤ v.toNat → t.me.watches = s.me.watches ∧ (d ≠ 0 → t.me.get d = 1) ∧
          t.mail = s'.mail ++ [⟨.home (homeOf pa), s.actor, k.toNat, ⟨v, (s'.line l).wts⟩⟩]) ∧
        (v.toNat < target.toNat → 16 ≤ s.me.watches.length →
          t.me.watches = s.me.watches ∧ (d ≠ 0 → t.me.get d = 2) ∧ t.mail = s'.mail) ∧
        (v.toNat < target.toNat → s.me.watches.length < 16 →
          t.me.watches = s.me.watches ++ [⟨s.me.job, pa, target, k.toNat⟩] ∧ (d ≠ 0 → t.me.get d = 0) ∧
          t.mail = s'.mail))) ∧
    (reaches s needBoth .counter 8 (s.me.get a) pa x tlb s' → max s.me.pts ((s'.line l).rts + 1) ≤ 0xFFFFFF →
      ∃ t, exec (.cntadd d a b) s = .next t ∧ resultStep s t d v ∧
        stored s'.mem t.mem pa 8 (v + target).toNat ∧ t.me.pts = max s.me.pts ((s'.line l).rts + 1))

/-- LPATCH and LARM (R241, R284, R312, R314, R316). -/
def Obligations.TemplatesAndArming : Prop :=
  ∀ (s : State) (d a b : Reg) (w : BitVec 4) (res : Bool),
    let n := s.me.job
    let i := (s.me.get a).toNat % 2 ^ 32
    (s.job n = none → exec (.lpatch d a b w) s = .next (wrote s d 2) ∧ exec (.larm res d a) s = .next (wrote s d (negative 1))) ∧
    (∀ j, s.job n = some j → j.templates[i]? = none →
      exec (.lpatch d a b w) s = .next (wrote s d 2) ∧ exec (.larm res d a) s = .next (wrote s d (negative 1))) ∧
    (∀ j ws, s.job n = some j → j.templates[i]? = some ws →
      ((nth ws 0 0).getLsbD w.toNat = false → exec (.lpatch d a b w) s = .next (wrote s d 1)) ∧
      ((nth ws 0 0).getLsbD w.toNat = true →
        ∃ t, exec (.lpatch d a b w) s = .next t ∧ resultStep s t d 0 ∧ t.launches = s.launches ∧
          t.job n = some { j with templates := j.templates.set i (ws.set w.toNat (s.me.get b)) } ∧
          ∀ m, m ≠ n → t.job m = s.job m) ∧
      (bits (nth ws 0 0) 56 51 ≠ 0 → nth ws 6 0 = 0 → s.poolDue n j + (if res then 0 else j.reserve) < j.pooln →
        ∃ t l, exec (.larm res d a) s = .next t ∧ resultStep s t d (BitVec.ofNat 64 j.nextId) ∧
          t.launches = (s.launches.filter fun x => !(x.job = n && x.id = j.nextId && x.st == .ended)) ++ [l] ∧ l.id = j.nextId ∧ l.job = n ∧ l.st = .waiting ∧ l.start = s.me.pts ∧
          l.core = some s.actor ∧ l.res = res ∧ l.pq = none ∧ l.band = none ∧ l.reached = some 0 ∧ l.check = .due ∧
          l.cancelled = false ∧ l.ending = none ∧
          l.words.drop 1 = ws.drop 1 ∧ l.word 0 = nth ws 0 0 &&& 0x1FFFFFFFFFFFFFFF ∧
          (∃ q, l.entry = some q ∧ ∀ m ∈ s.launches, m.job = n → m.st ≠ .ended → m.entry ≠ some q) ∧
          t.job n = some { j with nextId := (j.nextId + 1) % 2 ^ 32 } ∧ t.mem = s.mem))

/-- CANCEL stops the launches that its level names (R241, R285, R319).
The model's own choices in it: log 97. -/
def Obligations.CancelStopsLaunches : Prop :=
  ∀ (s : State) (lv : CancelLevel) (d a : Reg),
    let n := s.me.job
    let v := s.me.get a
    (s.me.burst = none → s.job n = none → exec (.cancel lv d a) s = .next (wrote s d 0)) ∧
    (∀ j, s.job n = some j →
      let named (l : Launch) : Bool := l.job == n && l.st != .ended && l.status == 0 &&
        (match l.ending with | none => true | some e => e.1 == .cancelled) &&
        (match lv with
         | .launch => l.id == v.toNat % 2 ^ 32
         | .graph => l.signalCounter != 0 && l.signalCounter == v.toNat
         | .phase => decide (j.barrier ≤ l.order)
         | .job => true)
      let count := s.launches.countP named
      (s.me.burst = none → (∀ l ∈ s.launches, named l = false) →
        (lv ≠ .job → exec (.cancel lv d a) s = .next (wrote s d 0)) ∧
        ∃ t, exec (.cancel lv d a) s = .next t ∧ t.me.pc = s.me.pc + 8 ∧ t.launches = s.launches ∧ t.me.get d = 0) ∧
      (s.me.burst = none → (∃ l ∈ s.launches, named l = true) → (s.launches.map fun l => (l.job, l.id)).Nodup →
        ∃ t, exec (.cancel lv d a) s = .next t ∧ t.me.pc = s.me.pc ∧ t.me.g = s.me.g ∧
          t.me.burst = some ⟨.cancel lv d a, [], leBytes 8 count, 0, 0⟩ ∧
          t.launches = s.launches.map fun l => if named l then { l with cancelled := true } else l) ∧
      (∀ k, k < 2 ^ 64 → s.me.burst = some ⟨.cancel lv d a, [], leBytes 8 k, 0, 0⟩ →
        ((∀ l ∈ s.launches, named l = true → l.cancelled = false) →
          exec (.cancel lv d a) s = .next (wrote (s.setMe { s.me with burst := none }) d (BitVec.ofNat 64 k))) ∧
        ((∃ l ∈ s.launches, named l = true ∧ l.cancelled = true) → ∃ t, exec (.cancel lv d a) s = .next t ∧ t.me = s.me ∧
          t.launches = s.launches)))

/-- BAND and SCROLLST report, CFGLOAD replaces a row (R118, R161, R238, R241, R286, R287, R288).
The model's own choices in it: log 68. -/
def Obligations.BandsAndRows : Prop :=
  (∀ (s : State) (d a : Reg) (row : BitVec 6),
    let l? := s.live s.me.job ((s.me.get a).toNat % 2 ^ 32)
    let none63 : Word := BitVec.ofNat 64 (2 ^ 63)
    ((∀ l b, l? = some l → l.band = some b → b.context.isSome = true ∨ b.leaving = true) →
      exec (.band d a) s = .next (wrote s d none63) ∧ exec (.scrollst d a row) s = .next (wrote s d none63)) ∧
    (∀ l b, l? = some l → l.band = some b → b.context = none → b.leaving = false →
      exec (.band d a) s = .next (wrote s d (BitVec.ofNat 64
        ((if b.scroll then 2 ^ 31 else 0) + b.height % 64 * 2 ^ 25 + b.width % 32 * 2 ^ 20 + b.y % 16 * 2 ^ 12 +
          b.x % 16 * 2 ^ 8 + b.layer % 4 * 2 ^ 6 + b.tower % 4 * 2 ^ 4))) ∧
      (b.height ≤ row.toNat → exec (.scrollst d a row) s = .next (wrote s d none63)) ∧
      (row.toNat < b.height → ∃ w, exec (.scrollst d a row) s = .next (wrote s d w) ∧ w.getLsbD 63 = false ∧
        (b.scroll = true → b.depth ≠ 0 → w.toNat / 2 ^ 32 % 2 ^ 16 = (b.row row.toNat).p / b.depth % 2 ^ 16 ∧
          w.toNat / 2 ^ 16 % 2 ^ 16 = (b.row row.toNat).p % b.depth % 2 ^ 16) ∧
        (b.scroll = false → w.toNat / 2 ^ 32 = 0 ∧
          w.toNat / 2 ^ 16 = (if row.toNat < b.depth then row.toNat else 0)) ∧
        w.toNat % 2 ^ 16 = (match (b.row row.toNat).st with
          | .empty => 0 | .loading => 1 | .resident => 2 | .drained => 3 | .saving => 4)))) ∧
  (∀ (s : State) (d a b : Reg) (row : BitVec 6),
    let va := s.me.get a
    let l? := s.live s.me.job ((s.me.get b).toNat % 2 ^ 32)
    let r := row.toNat
    let me := match s.me.task with | .chan k => 65 * s.actor + k | _ => 65 * s.actor + 64
    (s.me.burst = none → va.toNat % 32 ≠ 0 → ∃ t, exec (.cfgload d a b row) s = .next t ∧ trapped s t 3 0 va) ∧
    (s.me.burst = none → va.toNat % 32 = 0 →
      ((∀ l bd, l? = some l → l.band = some bd →
          bd.context.isSome = true ∨ bd.leaving = true ∨ bd.scroll = true ∨ bd.height ≤ r ∨
          ∃ h, bd.holds.find? (·.row = r) = some h ∧ h.core ≠ me) →
        exec (.cfgload d a b row) s = .next (wrote s d (negative 1))) ∧
      (∀ l bd, l? = some l → l.band = some bd → bd.context = none → bd.leaving = false → bd.scroll = false → r < bd.height →
        (bd.holds.find? (·.row = r) = none →
          ∃ t, exec (.cfgload d a b row) s = .next t ∧
            deferredAt (match s.me.task with
              | .chan _ => s.onBand l fun x => { x with holds := x.holds ++ [⟨r, me, false, false⟩] }
              | _ => s) t (.quiet l.id r)) ∧
        (∀ h, bd.holds.find? (·.row = r) = some h → h.core = me → h.quiet = true → h.sent = true →
          s.configured bd r = true →
          exec (.cfgload d a b row) s =
            .next (wrote (s.onBand l fun x => { x with holds := x.holds.filter (·.row ≠ r) }) d 0)))) ∧
    (∀ l bd h data clk, va.toNat % 32 = 0 → l? = some l → l.band = some bd → bd.context = none → bd.leaving = false →
      bd.scroll = false → r < bd.height →
      bd.holds.find? (·.row = r) = some h → h.core = me → h.quiet = true → h.sent = false →
      (s.me.burst = none ∧ data = [] ∧ clk = 0) ∨ s.me.burst = some ⟨.cfgload d a b row, [], data, 0, clk⟩ →
      let u := s.setMe { s.me with burst := none, pts := max s.me.pts clk }
      let at_ := va + BitVec.ofNat 64 data.length
      (∀ code lv, u.translate u.coreCtx u.me.tlb 256 needLoad (u.typeCheck .atomic true) at_.toNat = .fault code lv →
        ∃ t, exec (.cfgload d a b row) s = .next t ∧ trapped (s.setMe { s.me with burst := none }) t code.num lv at_) ∧
      (∀ pa x tlb s', u.translate u.coreCtx u.me.tlb 256 needLoad (u.typeCheck .atomic true) at_.toNat = .ok pa x tlb s' →
        windowOf pa = .hbm → x.mtype = 0 → latest s' u.me.pts pa →
        let f : Frame := BitVec.ofNat 256 (s'.mem.readLe pa 32)
        let loads := max u.me.pts (s'.line (lineOf pa)).wts
        (Frame.layout f ≠ 7 → data.length + 32 < 32 * 4096 →
          ∃ t, exec (.cfgload d a b row) s = .next t ∧ t.me.pc = s.me.pc ∧ t.me.g = s.me.g ∧ t.me.pts = s.me.pts ∧
            t.launches = s.launches ∧
            t.me.burst = some ⟨.cfgload d a b row, [], data ++ s'.mem.readN pa 32, 0, loads⟩) ∧
        (Frame.layout f = 7 → r < bd.rows.length → (s.launches.map fun l => (l.job, l.id)).Nodup →
          ∃ t l' b', exec (.cfgload d a b row) s = .next t ∧ t.me.pc = s.me.pc ∧ t.me.g = s.me.g ∧ t.me.burst = none ∧
            t.me.pts = loads ∧ t.launch? l.job l.id = some l' ∧ l'.band = some b' ∧
            (b'.row r).image = (List.range ((data.length + 32) / 32)).map (fun i =>
              BitVec.ofNat 256 (leNat (((data ++ s'.mem.readN pa 32).drop (32 * i)).take 32))) ∧
            b'.holds = bd.holds.map fun h => if h.row = r then { h with sent := true } else h))))

/-- RELATCH sends a token into every band of the address space and completes when all have left (R45, R47, R289).
The model's own choices in it: log 21. -/
def Obligations.RelatchCompletes : Prop :=
  ∀ (s : State) (d : Reg),
    let bands := s.bandsOf s.me.asid
    let barred : State := { s with lines := s.lines.mapVals fun li => { li with old := li.old.map fun v => { v with walks := false } } }
    (bands = [] → s.me.relatch = none → exec (.relatch d) s = .next (wrote barred d 0)) ∧
    (s.me.relatch = none → (∃ l ∈ bands, ∃ b, l.band = some b ∧ b.context = none ∧ b.leaving = false) →
      (s.launches.map fun l => (l.job, l.id)).Nodup →
      ∃ t, exec (.relatch d) s = .next t ∧ t.me = { s.me with relatch := some bands.length } ∧ t.mem = s.mem ∧
        ∀ l ∈ bands, ∀ b, l.band = some b → ∃ x y, t.launch? l.job l.id = some x ∧ x.band = some y ∧
          (b.context = none → b.leaving = false → y.relatch = some 0) ∧
          (b.context.isSome = true ∨ b.leaving = true →
            (∀ row ∈ (y.context.getD []).flatten, ∀ g ∈ row.ags, g.2.bases = []) ∧
            (∀ v ∈ y.saved, ∀ c ∈ v.row, ∀ g ∈ c.ags, g.2.bases = []) ∧ y.relatch = b.relatch) ∧
          (b.leaving = true → ∀ cl ∈ b.clusters, ∀ g ∈ (t.cluster cl).ags, g.2.bases = [])) ∧
    (∀ n, s.me.relatch = some n → s.relatching s.me.asid = 0 →
      exec (.relatch d) s = .next (wrote (barred.setMe { s.me with relatch := none }) d (BitVec.ofNat 64 n)))

/-- TEND, HOLD, CBIND, CPRI, CMASK, CSEND and TIMER (R73, R236, R238, R276, R277, R278, R279). -/
def Obligations.TaskInstructions : Prop :=
  ∀ (s : State) (d a b : Reg) (k : BitVec 6) (p : BitVec 3) (m : Bool),
    let c := s.me
    let ch := c.chan k.toNat
    let v := c.get a
    let set (x : Channel) : Host.Outcome State Fault Refusal := .next (moved (s.setMe (c.setChan k.toNat x)))
    exec .tend s = .next (s.setMe { c with task := .none, ahead := [], eahead := [] }) ∧
    (∀ n x q, c.task = .chan n → (c.chan n).queue = x :: q →
      exec (.hold d) s = .next (wrote (s.setMe
        { c.setChan n { c.chan n with queue := q } with pts := max c.pts x.clock }) d x.word)) ∧
    ((∀ n, c.task = .chan n → (c.chan n).queue = []) → ∃ t, exec (.hold d) s = .next t ∧ deferredAt s t .message) ∧
    (v.toNat % 8 ≠ 0 → ∃ t, exec (.cbind k a) s = .next t ∧ trapped s t 3 0 v) ∧
    (v.toNat % 8 = 0 → v ≠ 0 → exec (.cbind k a) s = set { ch with entry := some v }) ∧
    (v = 0 → exec (.cbind k a) s = set { ch with entry := none, deferred := none }) ∧
    exec (.cpri k p) s = set { ch with pri := p.toNat } ∧
    exec (.cmask k m) s = set { ch with mask := m } ∧
    (let n := v.toNat % 2 ^ 32
     exec (.timer k a) s = set { ch with timer := if n = 0 then none else some (c.cycle + n) }) ∧
    (192 ≤ v.toNat % 256 → exec (.csend d a b k) s = .next (wrote s d 2)) ∧
    (v.toNat % 256 < 192 → 8 ≤ c.out.length → exec (.csend d a b k) s = .next (wrote s d 1)) ∧
    (v.toNat % 256 < 192 → c.out.length < 8 → exec (.csend d a b k) s =
      .next (wrote (s.setMe { c with out := c.out ++ [⟨.core s.actor, v.toNat % 256, k.toNat, ⟨c.get b, c.pts⟩⟩] }) d 0))

/-- Messages arrive, the picker chooses, tasks start and resume (R73, R234, R236, R237, R238, R278, R279, R345).
The model's own choices in it: logs 3, 6. -/
def Obligations.PickingAndStartingTasks : Prop :=
  (∀ c : Core,
    let ok (k : Nat) : Prop := k < 64 ∧ (c.chan k).pri ≤ 7 ∧ (c.chan k).entry.isSome = true ∧ (c.chan k).mask = false ∧
      (match (c.chan k).deferred with | some x => x.ready = true | none => (c.chan k).queue ≠ [])
    (∀ k, c.pickChannel = some k → ok k ∧ ∀ j, ok j → (c.chan j).pri ≤ (c.chan k).pri ∧
      ((c.chan j).pri = (c.chan k).pri →
        let last := c.lastAt.getD (c.chan k).pri 63
        (k + 64 - (last + 1) % 64) % 64 ≤ (j + 64 - (last + 1) % 64) % 64)) ∧
    (c.pickChannel = none ↔ ∀ k, ¬ ok k)) ∧
  (∀ (s : State) (n k : Nat), (s.core n).pickChannel = some k → (s.core n).task = .none → (s.core n).halted = false →
    let c := s.core n
    let ch := c.chan k
    (∀ m q pc, ch.deferred = none → ch.queue = m :: q → ch.entry = some pc →
      ∃ t, exec (.taskStart n) s = .next t ∧
        (let u := t.core n
         u.task = .chan k ∧ u.pc = pc ∧ u.pts = max c.pts m.clock ∧ u.get 1 = m.word ∧ u.get 2 = BitVec.ofNat 64 k ∧
           (∀ r : Reg, 3 ≤ r.toNat → r.toNat ≤ 15 → u.get r = c.get r ∨ u.get r = 0) ∧
           (∀ r : Reg, 16 ≤ r.toNat → u.get r = c.get r) ∧ u.chan k = { ch with queue := q } ∧
           (∀ j, j ≠ k → u.chan j = c.chan j) ∧ u.priv = c.priv) ∧
        (∀ j, j ≠ n → t.core j = s.core j) ∧ t.mem = s.mem) ∧
    (∀ x, ch.deferred = some x → x.ready = true →
      ∃ t, exec (.taskResume n) s = .next t ∧
        (let u := t.core n
         u.task = .chan k ∧ u.pc = x.pc ∧ u.ahead = x.ahead ∧ u.pts = c.pts ∧
           (∀ i w, i < 15 → x.regs[i]? = some w → u.get (BitVec.ofNat 5 (i + 1)) = w) ∧
           (∀ r : Reg, 16 ≤ r.toNat → u.get r = c.get r) ∧ u.chan k = { ch with deferred := none }) ∧
        { t with cores := s.cores } = s)) ∧
  (∀ (s : State),
    (∀ n m r, (s.core n).out = m :: r → (s.core n).halted = false →
      (((s.core m.core).chan m.chan).queue.length < 8 →
        ∃ t, exec (.channelMessageArrival (.core n)) s = .next t ∧ (t.core n).out = r ∧
          ((t.core m.core).chan m.chan).queue = ((s.core m.core).chan m.chan).queue ++ [m.msg] ∧ t.mem = s.mem) ∧
      (8 ≤ ((s.core m.core).chan m.chan).queue.length → exec (.channelMessageArrival (.core n)) s = .next s)) ∧
    (∀ i m, s.mail[i]? = some m → (∀ x ∈ s.mail.take i, x.src ≠ m.src) →
      (((s.core m.core).chan m.chan).queue.length < 8 →
        ∃ t, exec (.channelMessageArrival (.held i)) s = .next t ∧ t.mail = s.mail.eraseIdx i ∧
          ((t.core m.core).chan m.chan).queue = ((s.core m.core).chan m.chan).queue ++ [m.msg]) ∧
      (8 ≤ ((s.core m.core).chan m.chan).queue.length → exec (.channelMessageArrival (.held i)) s = .next s)) ∧
    (∀ i m, s.mail[i]? = some m → (∃ x ∈ s.mail.take i, x.src = m.src) →
      exec (.channelMessageArrival (.held i)) s = .next s) ∧
    (∀ n, (s.core n).halted = true → exec (.channelMessageArrival (.core n)) s = .next s) ∧
    (∀ n k x, ((s.core n).chan k).timer = some x → (s.core n).halted = false →
      ∃ t, exec (.timerExpiry n k) s = .next t ∧ ((t.core n).chan k).timer = none ∧
        (t.core n).cycle = max (s.core n).cycle x ∧
        t.mail = s.mail ++ [⟨.timer n k, n, k, ⟨BitVec.ofNat 64 (t.core n).cycle, 0⟩⟩]))

namespace Sys2Proof.Claims

/-- The slot that g configures with op may fire: the token of each input, the inputs it consumes, and the token that
gives KIND and SEQ (R186, R188). -/
def mayFire (s : State) (op : BitVec 8) (g : SlotCfg) (x : Slot) (toks : List (Nat × Token)) (pop : List Nat)
    (base : Token) : Prop :=
  s.slotFor op g = some (s.site.1, g.unit.toNat, x) ∧ (s.cluster s.site.1).heads g.unit.toNat g = .fire toks pop base

/-- The tokens that go to a queue of the cluster. -/
def tokensTo (c : Cluster) (k : Nat) (g : SlotCfg) (sends : List (Nat × Token)) (q : Nat) : List Token :=
  (sends.filter fun p => (c.slotDests k g p.1).any (·.2 = .queue q)).map (·.2)

/-- The tokens that go to the router, each with its circuit. -/
def tokensOut (c : Cluster) (k : Nat) (g : SlotCfg) (sends : List (Nat × Token)) : List (Nat × Token) :=
  sends.flatMap fun p => (c.slotDests k g p.1).filterMap fun d =>
    match d.2 with
    | .router tag => some (tag, p.2)
    | _ => none

/-- t is s after slot k of cluster cl has acted in one event: one head of each input in pop consumed, each token of sends at
every destination of its mask, the flags raised, the slot's state changed; nothing else but the notes of MARK and EOS
(R109, R165, R172, R189). -/
def acted (s t : State) (cl k : Nat) (g : SlotCfg) (x : Slot) (pop : List Nat) (sends : List (Nat × Token)) (st : SlotSt)
    (gen : List Lane) (f : Flags) : Prop :=
  let c := s.cluster cl
  let c' := t.cluster cl
  { t with clusters := s.clusters } = s ∧ (∀ n, n ≠ cl → t.cluster n = s.cluster n) ∧
  (∀ q, c'.queue q = (c.queue q).drop (if q ∈ pop.map (4 * k + ·) then 1 else 0) ++ tokensTo c k g sends q) ∧
  (∀ p v, v < 2 → c'.rqueue p v =
    c.rqueue p v ++ if p = 6 then (tokensOut c k g sends).filter fun x => c.localVc x.1 = v else []) ∧
  c'.slot k = { x with st := st, gen := gen, skip := false, cut := [] } ∧ (∀ j, j ≠ k → c'.slot j = c.slot j) ∧
  c'.flags = c.flags ||| f ∧
  { c' with
    q := c.q, rq := c.rq, slots := c.slots, flags := c.flags, marked := c.marked, ended := c.ended } = c

/-- The acting slot has fired on valued tokens: no MARK or EOS is noted. -/
def fired (s t : State) (g : SlotCfg) (x : Slot) (pop : List Nat) (sends : List (Nat × Token)) (st : SlotSt)
    (gen : List Lane) (f : Flags) : Prop :=
  acted s t s.site.1 g.unit.toNat g x pop sends st gen f ∧
  (t.cluster s.site.1).marked = (s.cluster s.site.1).marked ∧ (t.cluster s.site.1).ended = (s.cluster s.site.1).ended

/-- Lane by lane, the result of an operation of n operands whose value on present operands is f: fires, or waits for
room, or under TRAPINV is held back by NV; an invalid lane gives VALID 0 and value 0 (R108, R109, R133, R172). -/
def laneFires (s : State) (i : Instr) (op : BitVec 8) (g : SlotCfg) (n : Nat) (f : List Nat → Fl) : Prop :=
  ∀ x toks pop base, mayFire s op g x toks pop base →
    let k := g.unit.toNat
    let c := s.cluster s.site.1
    let args (l : Nat) := laneArgs g n toks l
    let full := c.fullDest k g [(g.dst.toNat, base)]
    (∀ b d, full = some (b, d) →
      ∃ t, exec i s = .next t ∧ { t with clusters := s.clusters } = s ∧
        t.cluster s.site.1 = c.setSlot k (x.waitOut b (s.scrollHeld s.site.1 d))) ∧
    (full = none → g.trapinv = true → x.skip = false →
      (∃ l, ∃ vs : List Nat, l < 16 ∧ args l = some (vs.map some) ∧ (f vs).flags &&& flagNV ≠ 0) →
      ∃ t, exec i s = .next t ∧ ((t.cluster s.site.1).slot k).stall = true ∧
        (∀ q, (t.cluster s.site.1).queue q = c.queue q) ∧ (t.cluster s.site.1).flags = c.flags) ∧
    (full = none →
      (g.trapinv = true → x.skip = false → ∀ l, l < 16 → ∀ as, args l = some as →
        ∃ vs : List Nat, as = vs.map some ∧ (f vs).flags &&& flagNV = 0) →
      ∃ t r fl, exec i s = .next t ∧ fired s t g x pop [(g.dst.toNat, r)] x.st x.gen fl ∧
        r.kind = base.kind ∧ r.seq = base.seq ∧
        (∀ l, l < 16 →
          (args l = none → r.isValid l = false ∧ r.lane l = 0) ∧
          (∀ vs : List Nat, args l = some (vs.map some) → r.isValid l = true ∧ r.lane l = (f vs).bits % 2 ^ 32)) ∧
        ((∀ l, l < 16 → ∀ as, args l = some as → ∃ vs : List Nat, as = vs.map some) →
          ∀ b, fl.getLsbD b = true ↔ ∃ l, ∃ vs : List Nat, l < 16 ∧ args l = some (vs.map some) ∧ (f vs).flags.getLsbD b = true))

/-- The value of an operand under FMT 8 (signed) or 9. -/
def signedness (g : SlotCfg) (a : Lane) : Int := if g.fmt = 8 then a.toInt else (a.toNat : Int)

/-- An RT30 lane channel by channel, NV when an operand has a field outside its channel's range (R125, R173). -/
def channels (h : Int → Int → Int → Int) (xs : List Lane) : Fl :=
  let at' (p : Nat) (i : Nat) : Int := (nth xs i 0).toNat / 2 ^ p % 1024
  let one (p : Nat) (m : Int) : Nat := ((h (at' p 0) (at' p 1) (at' p 2)) % m).toNat
  ⟨one 0 1024 + one 10 1023 * 2 ^ 10 + one 20 1021 * 2 ^ 20,
    if xs.any fun x => 1023 ≤ x.toNat / 2 ^ 10 % 1024 || 1021 ≤ x.toNat / 2 ^ 20 % 1024 then flagNV else 0⟩

/-- n limited to a range, OF when it was outside (R173, R175). -/
def limited (lo hi n : Int) : Int × Flags := if n < lo then (lo, flagOF) else if hi < n then (hi, flagOF) else (n, 0)

/-- A lane of whole-lane elements, by bit-vector arithmetic of the standard library. -/
def intLane (i : Instr) (g : SlotCfg) (xs : List Lane) : Fl :=
  let a := nth xs 0 0
  let b := nth xs 1 0
  let c := nth xs 2 0
  let v := signedness g
  let rt := g.fmt = 10
  let word (r : Lane) : Fl := ⟨r.toNat, 0⟩
  let mask (p : Bool) : Fl := word (if p then -1 else 0)
  match i with
  | .iadd _ => if rt then channels (fun x y _ => x + y) xs else word (a + b)
  | .isub _ => if rt then channels (fun x y _ => x - y) xs else word (a - b)
  | .iadds _ =>
    let (r, f) := if g.fmt = 8 then limited (-2 ^ 31) (2 ^ 31 - 1) (v a + v b) else limited 0 (2 ^ 32 - 1) (v a + v b)
    ⟨(BitVec.ofInt 32 r).toNat, f⟩
  | .imul _ => if rt then channels (fun x y _ => x * y) xs else word (a * b)
  | .imulh _ => word ((BitVec.ofInt 64 (v a * v b)).extractLsb' 32 32)
  | .imad _ => if rt then channels (fun x y z => x * y + z) xs else word (a * b + c)
  | .ineg _ => if rt then channels (fun x _ _ => -x) xs else word (-a)
  | .iabs _ => word (if a.msb then -a else a)
  | .imin _ => word (if v b < v a then b else a)
  | .imax _ => word (if v a < v b then b else a)
  | .ishl _ => word (a <<< (b.toNat % 32))
  | .ishr _ => word (if g.fmt = 8 then a.sshiftRight (b.toNat % 32) else a >>> (b.toNat % 32))
  | .irol _ => word (a.rotateLeft (b.toNat % 32))
  | .cellAnd _ => word (a &&& b)
  | .cellOr _ => word (a ||| b)
  | .cellXor _ => word (a ^^^ b)
  | .cellAndn _ => word (a &&& ~~~b)
  | .cellPopc _ => word a.cpop
  | .cellClz _ => word a.clz
  | .cellCtz _ => word a.ctz
  | .brev _ => word a.reverse
  | .bfx _ =>
    let p := b.toNat % 32
    let len := min (b.toNat / 32 % 32 + 1) (32 - p)
    let f := a.extractLsb' p len
    word (if g.fmt = 8 then f.signExtend 32 else f.setWidth 32)
  | .bfi _ =>
    let p := c.toNat % 32
    let m : Lane := ((BitVec.allOnes (min (c.toNat / 32 % 32 + 1) (32 - p))).setWidth 32) <<< p
    word ((a &&& ~~~m) ||| ((b <<< p) &&& m))
  | _ => mask (match g.sub.toNat with
      | 0 => v a = v b
      | 1 => v a ≠ v b
      | 2 => v a < v b
      | 3 => v a ≤ v b
      | 4 => v b < v a
      | _ => v b ≤ v a)

/-- OP and number of operands of the operations of R173 and R174. -/
def intOps (g : SlotCfg) : List (Instr × BitVec 8 × Nat) :=
  [(.iadd g, 0x00, 2), (.isub g, 0x01, 2), (.iadds g, 0x02, 2), (.imul g, 0x03, 2), (.imulh g, 0x04, 2),
   (.imad g, 0x05, 3), (.ineg g, 0x06, 1), (.iabs g, 0x07, 1), (.imin g, 0x08, 2), (.imax g, 0x09, 2),
   (.ishl g, 0x0A, 2), (.ishr g, 0x0B, 2), (.irol g, 0x0C, 2), (.cellAnd g, 0x0D, 2), (.cellOr g, 0x0E, 2),
   (.cellXor g, 0x0F, 2), (.cellAndn g, 0x10, 2), (.cellPopc g, 0x11, 1), (.cellClz g, 0x12, 1), (.cellCtz g, 0x13, 1),
   (.brev g, 0x14, 1), (.bfx g, 0x15, 2), (.bfi g, 0x16, 3), (.icmp g, 0x17, 2)]

/-- Element n of width w. -/
def element (w : Nat) (x : Lane) (n : Nat) : BitVec w := x.extractLsb' (w * n) w

/-- A lane made of the elements of width w that h gives, with the flags of every element. -/
def ofElements (w : Nat) (h : Nat → BitVec w × Flags) : Fl :=
  let ns := List.range (32 / w)
  ⟨(ns.map fun n => (h n).1.toNat * 2 ^ (w * n)).sum, ns.foldl (fun f n => f ||| (h n).2) 0⟩

/-- A packed lane (R175), by the element width and signedness that FMT names. -/
def packedLane (i : Instr) (g : SlotCfg) (xs : List Lane) : Fl :=
  let w := if g.fmt = 6 ∨ g.fmt = 13 then 8 else 16
  let signed : Bool := g.fmt = 6 ∨ g.fmt = 11
  let a := nth xs 0 0
  let b := nth xs 1 0
  let c := nth xs 2 0
  let v (x : Lane) (n : Nat) : Int := if signed then (element w x n).toInt else ((element w x n).toNat : Int)
  let fit (m : Nat) (n : Int) : Int × Flags :=
    if g.sat then (if signed then limited (-2 ^ (m - 1)) (2 ^ (m - 1) - 1) n else limited 0 (2 ^ m - 1) n) else (n, 0)
  let each (h : Nat → Int × Flags) : Fl := ofElements w fun n => (BitVec.ofInt w (h n).1, (h n).2)
  let dot : Int := ((List.range (32 / w)).map fun n => v a n * v b n).sum + (if signed then c.toInt else (c.toNat : Int))
  match i with
  | .padd _ => each fun n => fit w (v a n + v b n)
  | .psub _ => each fun n => fit w (v a n - v b n)
  | .pmin _ => each fun n => (min (v a n) (v b n), 0)
  | .pmax _ => each fun n => (max (v a n) (v b n), 0)
  | .pmulH _ => each fun n =>
    ((((BitVec.ofInt 32 (v a n * v b n)).extractLsb' (if g.sub = 1 then 16 else 0) 16).toNat : Int), 0)
  | _ => ⟨(BitVec.ofInt 32 (fit 32 dot).1).toNat, (fit 32 dot).2⟩

/-- OP and number of operands of the operations of R175. -/
def packedOps (g : SlotCfg) : List (Instr × BitVec 8 × Nat) :=
  [(.padd g, 0x20, 2), (.psub g, 0x21, 2), (.pmin g, 0x22, 2), (.pmax g, 0x23, 2), (.pmulH g, 0x24, 2),
   (.pdot4 g, 0x25, 3), (.pdot2 g, 0x26, 3)]

/-- The exact value of an expression rounded once (R176): NaN operands, Inf times 0, opposite infinities first. -/
def fused (mode : Nat) (ftz sat : Bool) (xs : List XVal) (terms : List XVal) (bad : Bool) : Fl :=
  if xs.any XVal.isNan then ⟨0x7FC00000, if xs.any XVal.isSnan then flagNV else 0⟩
  else if bad || (terms.any fun t => t = .inf false) && (terms.any fun t => t = .inf true) then ⟨0x7FC00000, flagNV⟩
  else
    match terms with
    | [v] => roundTo 0 v (.mode mode) ftz sat
    | _ => roundTo 0 (xsum (mode = 3) terms).1 (.mode mode) ftz sat

/-- A lane of the FP32 operations of R176 to R179: exact values, one rounding. -/
def floatLane (i : Instr) (g : SlotCfg) (xs : List Lane) : Fl :=
  let d (n : Nat) : XVal := decodeFloat 0 (nth xs n 0).toNat g.ftz
  let a := d 0
  let b := d 1
  let c := d 2
  let e := d 3
  let ab := (xmul a b).1
  let bad2 := a.isInf && b.isZero || a.isZero && b.isInf
  let abc := (xmul a (xmul b c).1).1
  let bad3 := (a.isInf || b.isInf || c.isInf) && (a.isZero || b.isZero || c.isZero)
  let sum := fused g.rnd.toNat g.ftz g.sat
  let exact (v : XVal) : Nat := (roundTo 0 v (.mode 0) false false).bits
  let nv (vs : List XVal) : Flags := if vs.any XVal.isSnan then flagNV else 0
  let sign (v : XVal) : Fl := ⟨exact (if a.isNan then .nan false else v), nv [a]⟩
  let extreme (mx prop : Bool) : Fl :=
    ⟨exact (if a.isNan && b.isNan || prop && (a.isNan || b.isNan) then .nan false
      else if a.isNan then b else if b.isNan then a else if xlt true a b = mx then b else a), nv [a, b]⟩
  let nan := a.isNan || b.isNan
  let mask (p : Bool) : Nat := if p then 0xFFFFFFFF else 0
  match i with
  | .fadd _ => sum [a, b] [a, b] false
  | .fsub _ => sum [a, b] [a, b.neg] false
  | .fmul _ => sum [a, b] [ab] bad2
  | .ffma _ => sum [a, b, c] [ab, c] bad2
  | .ffms _ => sum [a, b, c] [ab, c.neg] bad2
  | .fnma _ => sum [a, b, c] [ab.neg, c] bad2
  | .ftriad _ => sum [a, b, c, e] [abc, e] bad3
  | .fmin _ => extreme false false
  | .fmax _ => extreme true false
  | .fminp _ => extreme false true
  | .fmaxp _ => extreme true true
  | .fabs _ => sign a.abs
  | .fneg _ => sign a.neg
  | .fsgn _ => sign (if (nth xs 1 0).msb then a.abs.neg else a.abs)
  | .fclass _ =>
    let x := nth xs 0 0
    let big := x.extractLsb' 23 8 = 255
    let sub := x.extractLsb' 23 8 = 0
    let m := x.extractLsb' 0 23
    ⟨2 ^ (if big then (if m = 0 then (if x.msb then 0 else 7) else if x.getLsbD 22 then 9 else 8)
      else if sub then (if m = 0 then (if x.msb then 3 else 4) else (if x.msb then 2 else 5))
      else (if x.msb then 1 else 6)), 0⟩
  | _ =>
    ⟨mask (match g.sub.toNat with
      | 0 => !nan && !xlt false a b && !xlt false b a
      | 1 => nan || xlt false a b || xlt false b a
      | 2 => !nan && xlt false a b
      | 3 => !nan && !xlt false b a
      | 4 => !nan && xlt false b a
      | 5 => !nan && !xlt false a b
      | 6 => nan
      | _ => !nan),
     if 2 ≤ g.sub.toNat ∧ g.sub.toNat ≤ 5 then (if nan then flagNV else 0) else nv [a, b]⟩

/-- OP and number of operands of the operations of R176 to R179. -/
def floatOps (g : SlotCfg) : List (Instr × BitVec 8 × Nat) :=
  [(.fadd g, 0x30, 2), (.fsub g, 0x31, 2), (.fmul g, 0x32, 2), (.ffma g, 0x33, 3), (.ffms g, 0x34, 3), (.fnma g, 0x35, 3),
   (.ftriad g, 0x36, 4), (.fmin g, 0x37, 2), (.fmax g, 0x38, 2), (.fminp g, 0x39, 2), (.fmaxp g, 0x3A, 2), (.fabs g, 0x3B, 1),
   (.fneg g, 0x3C, 1), (.fsgn g, 0x3D, 2), (.fcmp g, 0x3E, 2), (.fclass g, 0x3F, 1)]

/-- A lane of the special functions, packed floats, conversions, RTENC and RTDEC. -/
def otherLane (i : Instr) (g : SlotCfg) (xs : List Lane) : Fl :=
  let x (n : Nat) : Nat := (nth xs n 0).toNat
  let special (op : Nat) : Fl :=
    let (v, f) := Special.value op (decodeFloat 0 (x 0) g.ftz)
    (roundTo 0 v (.mode 0) g.ftz (if v.isInf then false else g.sat)).with f
  let half (f n h : Nat) : XVal := decodeFloat f (x n / 2 ^ (16 * h) % 2 ^ 16) g.ftz
  let two (f : Nat) : Fl := ofElements 16 fun h =>
    let vs := [some (half f 0 h), some (half f 1 h), some (half f 2 h)]
    let r := (fexpr f g.rnd.toNat g.ftz g.sat [(false, vs.take 2), (false, vs.drop 2)]).getD ⟨0, 0⟩
    (BitVec.ofNat 16 r.bits, r.flags)
  match i with
  | .frcp _ => special 0x40
  | .frsq _ => special 0x41
  | .fsqrt _ => special 0x42
  | .fexp2 _ => special 0x43
  | .flog2 _ => special 0x44
  | .ftanh _ => special 0x45
  | .fsigm _ => special 0x46
  | .fsinpi _ => special 0x47
  | .fcospi _ => special 0x48
  | .bfma2 _ => two 1
  | .hfma2 _ => two 2
  | .fdot2b _ =>
    (fexpr 0 g.rnd.toNat g.ftz g.sat [(false, [some (half 1 0 0), some (half 1 1 0)]),
      (false, [some (half 1 0 1), some (half 1 1 1)]), (false, [some (decodeFloat 0 (x 2) g.ftz)])]).getD ⟨0, 0⟩
  | .rtenc _ => ⟨rtEnc (nth xs 0 0).toInt, 0⟩
  | .rtdec _ => ⟨(BitVec.ofInt 32 (rtDec (rtRead (x 0)).1)).toNat, (rtRead (x 0)).2⟩
  | _ =>
    let ws := fmtWidth g.sub.toNat
    let wt := fmtWidth g.fmt.toNat
    let one (j : Nat) : Fl :=
      let e := j % (32 / ws)
      roundTo g.fmt.toNat (decodeVal g.sub.toNat (x (j / (32 / ws)) / 2 ^ (ws * e) % 2 ^ ws) g.ftz)
        (.mode g.rnd.toNat) g.ftz g.sat
    ofElements wt fun j => (BitVec.ofNat wt (one j).bits, (one j).flags)

/-- OP and number of operands of the operations of R180 to R183 and R185, but CVTSR. -/
def otherOps (g : SlotCfg) : List (Instr × BitVec 8 × Nat) :=
  let n := max 1 (fmtWidth g.sub.toNat / fmtWidth g.fmt.toNat)
  [(.frcp g, 0x40, 1), (.frsq g, 0x41, 1), (.fsqrt g, 0x42, 1), (.fexp2 g, 0x43, 1), (.flog2 g, 0x44, 1), (.ftanh g, 0x45, 1),
   (.fsigm g, 0x46, 1), (.fsinpi g, 0x47, 1), (.fcospi g, 0x48, 1), (.bfma2 g, 0x49, 3), (.hfma2 g, 0x4A, 3),
   (.fdot2b g, 0x4B, 3), (.cvt g, 0x50, n), (.cvti g, 0x52, n), (.cvtf g, 0x53, n), (.rtenc g, 0x56, 1), (.rtdec g, 0x57, 1)]

end Sys2Proof.Claims
open Sys2Proof.Claims

/-- Integer and packed integer cell operations fire (R108, R109, R125, R133, R172, R173, R174, R175, R188). -/
def Obligations.IntegerLanes : Prop :=
  ∀ (s : State) (g : SlotCfg),
    (∀ p ∈ intOps g, p.1.wf = true →
      laneFires s p.1 p.2.1 g p.2.2 fun xs => intLane p.1 g (xs.map (BitVec.ofNat 32))) ∧
    (∀ p ∈ packedOps g, p.1.wf = true →
      laneFires s p.1 p.2.1 g p.2.2 fun xs => packedLane p.1 g (xs.map (BitVec.ofNat 32)))

/-- FP32 cell operations fire (R108, R109, R133, R137, R172, R176, R177, R178, R179, R188).
The model's own choices in it: log 8. -/
def Obligations.FloatLanes : Prop :=
  ∀ (s : State) (g : SlotCfg), ∀ p ∈ floatOps g, p.1.wf = true →
    laneFires s p.1 p.2.1 g p.2.2 fun xs => floatLane p.1 g (xs.map (BitVec.ofNat 32))

/-- Special functions, packed floats and conversions fire (R108, R138, R172, R180, R181, R182, R183, R185, R188).
The model's own choices in it: logs 9, 14. -/
def Obligations.SpecialAndConvertLanes : Prop :=
  ∀ (s : State) (g : SlotCfg), ∀ p ∈ otherOps g, p.1.wf = true →
    laneFires s p.1 p.2.1 g p.2.2 fun xs => otherLane p.1 g (xs.map (BitVec.ofNat 32))

namespace Sys2Proof.Claims

/-- The slot fires with these results when there is room and, under TRAPINV, no NV holds it back (R109, R133). -/
def firesWith (s : State) (i : Instr) (g : SlotCfg) (x : Slot) (pop : List Nat) (sends : List (Nat × Token))
    (st : SlotSt) (gen : List Lane) (f : Flags) : Prop :=
  (s.cluster s.site.1).fullDest g.unit.toNat g sends = none →
    (g.trapinv = true → x.skip = false → f &&& flagNV = 0) →
    ∃ t, exec i s = .next t ∧ fired s t g x pop sends st gen f

/-- The token of operand i among the heads. -/
def operandTok (g : SlotCfg) (toks : List (Nat × Token)) (i : Nat) : Option Token :=
  (toks.find? fun t => t.1 = g.src i).map (·.2)

/-- A token of the KIND and SEQ of another, lane by lane. -/
def lanesToken (base : Token) (h : Nat → Option Nat) : Token :=
  Token.ofLanes base.kind base.seq ((List.range 16).map h)

/-- The lanes of an operation that moves lanes, from the resolved lanes of its operands (R184, R191, R192, R194). -/
def movedLane (i : Instr) (g : SlotCfg) (n : Nat) (a : Nat → Nat → Option Nat) (l : Nat) : Option Nat :=
  let w := fmtWidth g.fmt.toNat
  let e := 32 / w
  match i with
  | .lperm _ =>
    if g.sub = 1 then (a 2 l).bind fun x => if x / 16 % 2 = 0 then a 0 (x % 16) else a 1 (x % 16)
    else (a 1 l).bind fun x => a 0 (x % 16)
  | .lrot _ => a 0 ((l + g.cst.toNat % 16) % 16)
  | .lbcast _ => a 0 (g.cst.toNat % 16)
  | .lidx _ => (a 0 l).map fun _ => (g.cst.toNat + (if g.sub = 1 then 16 * n else 0) + l) % 2 ^ 32
  | .lpack _ => ((List.range 16).filterMap (a 0))[l]?
  | .lexpand _ =>
    let marked (m : Nat) : Bool := (a 1 m).getD 0 ≠ 0
    if marked l then a 0 ((List.range l).countP marked) else none
  | .lmatch _ =>
    (a 0 l).map fun x =>
      let same (m : Nat) : Bool := a 0 m = some x
      let low := ((List.range 16).find? same).getD 0
      ((List.range 16).map fun m => if same m then 2 ^ m else 0).sum + low * 2 ^ 16 + (if low = l then 2 ^ 31 else 0)
  | .pack _ =>
    let part (m : Nat) : Option Nat := a ((e * l + m) / 16) ((e * l + m) % 16)
    if (List.range e).any fun m => (part m).isSome then
      some ((List.range e).map fun m => (part m).getD 0 % 2 ^ w * 2 ^ (w * m)).sum
    else none
  | .unpack _ =>
    let p := 16 * g.sub.toNat + l
    (a 0 (p / e)).map fun x => x / 2 ^ (w * (p % e)) % 2 ^ w
  | _ =>
    -- LSORT: the lane whose key has l keys before it, earlier lanes first among equal ones (R195)
    let before (m j : Nat) : Bool :=
      match a 0 m, a 0 j with
      | some x, some y => keyAfter g y x || (!keyAfter g x y && m < j)
      | _, _ => false
    let at? := (List.range 16).find? fun j => (a 0 j).isSome && (List.range 16).countP (before · j) = l
    at?.bind fun j => if g.sub.toNat / 2 % 2 = 1 then a 1 j else a 0 j

/-- OP of the moving operations. -/
def moveOps (g : SlotCfg) : List (Instr × BitVec 8) :=
  [(.pack g, 0x54), (.unpack g, 0x55), (.lperm g, 0x60), (.lrot g, 0x61), (.lbcast g, 0x62), (.lpack g, 0x65),
   (.lexpand g, 0x66), (.lidx g, 0x67), (.lsort g, 0x68), (.lmatch g, 0x69)]

/-- The fold of R193 over the first lanes: s, dead and the flags so far. -/
def foldTo (g : SlotCfg) (a : Nat → Option Nat) (fwd : Nat → Bool) : Nat → Option Nat × Bool × Flags
  | 0 => (none, false, 0)
  | l + 1 =>
    let (v, dead, f) := foldTo g a fwd l
    let dead := dead || fwd l
    match a l, v with
    | some x, none => (if dead then none else some x, dead, f)
    | some x, some y => if dead then (v, dead, f) else (some (laneCombine g y x).bits, dead, f ||| (laneCombine g y x).flags)
    | none, _ => (v, dead, f)

/-- A generator after n draws (R134). -/
def draws (n : Nat) (x : Lane) : Lane := n.repeat srDraw x

/-- Element j of a lane of CVTSR, all of whose operands are present: the mode SR with the generator's draw j (R135). -/
def srElement (g : SlotCfg) (xs : List Nat) (gen : Lane) (j : Nat) : Fl :=
  let ws := fmtWidth g.sub.toNat
  let e := j % (32 / ws)
  let v := decodeFloat g.sub.toNat (nth xs (j / (32 / ws)) 0 / 2 ^ (ws * e) % 2 ^ ws) g.ftz
  roundTo g.fmt.toNat v (.sr (draws (j + 1) gen).toNat (ulpExp g.sub.toNat v)) g.ftz g.sat

end Sys2Proof.Claims
open Sys2Proof.Claims

/-- PACK, UNPACK, CVTSR and the lane operations fire (R108, R134, R135, R183, R184, R188, R191, R192, R193, R194, R195, R196). -/
def Obligations.LaneMoves : Prop :=
  ∀ (s : State) (g : SlotCfg) (x : Slot) (toks : List (Nat × Token)) (pop : List Nat) (base : Token) (op : BitVec 8),
    mayFire s op g x toks pop base →
    let a (i l : Nat) : Option Nat := resLane g (operandTok g toks) i l
    let fold := foldTo g (a 0) (fun l => fwdLane g (operandTok g toks) 0 l)
    (∀ p ∈ moveOps g, p.2 = op → p.1.wf = true →
      firesWith s p.1 g x pop [(g.dst.toNat, lanesToken base (movedLane p.1 g x.st.n a))]
        (if op = 0x67 ∧ g.sub = 1 then { x.st with n := if base.kind = 1 then 0 else (x.st.n + 1) % 2 ^ 16 } else x.st)
        x.gen 0) ∧
    (op = 0x63 → (Instr.lscan g).wf = true →
      firesWith s (.lscan g) g x pop [(g.dst.toNat, lanesToken base fun l =>
        if (a 0 l).isSome && !(fold (l + 1)).2.1 then (fold (l + 1)).1 else none)] x.st x.gen (fold 16).2.2) ∧
    (op = 0x64 → (Instr.lred g).wf = true →
      firesWith s (.lred g) g x pop [(g.dst.toNat, lanesToken base fun l =>
        if l = 0 ∧ (fold 16).2.1 = false then (fold 16).1 else none)] x.st x.gen (fold 16).2.2) ∧
    (op = 0x51 → (Instr.cvtsr g).wf = true →
      let wt := fmtWidth g.fmt.toNat
      let args (l : Nat) := laneArgs g (max 1 (fmtWidth g.sub.toNat / wt)) toks l
      (∀ l, l < 16 → ∀ as, args l = some as → ∃ vs : List Nat, as = vs.map some) →
      let vals (l : Nat) : List Nat := ((args l).getD []).filterMap id
      let old (l : Nat) : Lane := nth x.gen l 0
      let lane (l : Nat) : Fl := ofElements wt fun j =>
        (BitVec.ofNat wt (srElement g (vals l) (old l) j).bits, (srElement g (vals l) (old l) j).flags)
      let on (l : Nat) : Bool := (args l).isSome
      firesWith s (.cvtsr g) g x pop
        [(g.dst.toNat, lanesToken base fun l => if on l then some (lane l).bits else none)] x.st
        ((List.range 16).map fun l => if on l then draws (32 / wt) (old l) else old l)
        ((List.range 16).foldl (fun f l => if on l then f ||| (lane l).flags else f) 0))

/-- PASS, CONST, SEL, GATE, DROP, ONMARK, ACCRUN, RMAXS and COUNT fire (R187, R188, R197, R201, R202, R203, R204). -/
def Obligations.StreamOperations : Prop :=
  ∀ (s : State) (g : SlotCfg) (x : Slot) (toks : List (Nat × Token)) (pop : List Nat) (base : Token) (op : BitVec 8),
    mayFire s op g x toks pop base →
    let a := (opToken g toks 0)
    let as : Token := { a with kind := base.kind, seq := base.seq }
    let dst := g.dst.toNat
    let st := x.st
    let sends (i : Instr) (ts : List (Nat × Token)) : Prop := i.wf = true → firesWith s i g x pop ts st x.gen 0
    let last := base.kind = 1
    let rescale := base.kind = 5
    (op = 0x70 → sends (.pass g) [(dst, as)]) ∧
    (op = 0x7C → sends (.onmark g) [(dst, as)]) ∧
    (op = 0x71 → sends (.const g) [(dst, ⟨base.kind, base.seq, if g.sub = 1 then a.valid else 0xFFFF,
      (lanesToken base fun _ => some g.cst.toNat).lanes⟩)]) ∧
    (op = 0x72 → sends (.sel g) [(dst, lanesToken base fun l =>
      match laneArgs g 3 toks l with
      | some [u, v, some c] => if c = 0 then v else u
      | _ => none)]) ∧
    (op = 0x75 →
      let on : Prop := ∃ c, resLane g (operandTok g toks) 1 0 = some c ∧ c ≠ 0
      (on → sends (.gate g) [(dst, as)]) ∧ (¬ on → last → sends (.gate g) [(dst, bareToken 1 base.seq)]) ∧
        (¬ on → ¬ last → sends (.gate g) [])) ∧
    (op = 0x7B →
      let gone : Prop := if g.sub = 1 then rescale else base.kind = 0 ∧ a.valid = 0
      (gone → sends (.drop g) []) ∧ (¬ gone → sends (.drop g) [(dst, as)])) ∧
    (op = 0x77 → (Instr.accrun g).wf = true →
      let xs := oneOperand g toks
      let old (l : Nat) : Nat := nth (laneVals st.acc) l 0
      let r (l : Nat) : Option Fl := (nth xs l none).map fun v =>
        if rescale then (if g.fmt = 0 then accScale g (old l) v else ⟨old l, 0⟩) else accCombine g (old l) v
      let acc := (lanesToken base fun l => some (((r l).map (·.bits)).getD (old l))).lanes
      let touch := st.accValid ||| presentMask xs
      let records := if last then (st.n + 1) % 2 ^ 32 else st.n
      let flags : Flags := (List.range 16).foldl (fun f l => f ||| ((r l).map (·.flags)).getD 0) 0
      let goes (ts : List (Nat × Token)) (t : SlotSt) : Prop := firesWith s (.accrun g) g x pop ts t x.gen flags
      (rescale → goes [] (if g.fmt = 0 then { st with acc := acc } else st)) ∧
      (¬ rescale → g.sub.toNat / 4 = 0 →
        goes [(dst, ⟨base.kind, base.seq, a.valid, acc⟩)] { st with acc := acc, accValid := touch, n := records }) ∧
      (¬ rescale → g.sub.toNat / 4 = 1 → last →
        goes [(dst, ⟨1, base.seq, touch, acc⟩)]
          { st with acc := (lanesToken base fun _ => some g.cst.toNat).lanes, accValid := 0, n := records }) ∧
      (¬ rescale → g.sub.toNat / 4 ≠ 0 → (g.sub.toNat / 4 = 1 → ¬ last) →
        goes [] { st with acc := acc, accValid := touch, n := records })) ∧
    (op = 0x78 → (Instr.rmaxs g).wf = true →
      let xs (l : Nat) : Option XVal := (nth (oneOperand g toks) l none).map fun v => decodeFloat 0 v g.ftz
      let m := decodeFloat 0 st.n false
      let up (m : XVal) (v : Option XVal) : XVal := (v.bind fun v => if xlt true m v then some v else none).getD m
      let t := (List.range 16).foldl (fun m l => up m (xs l)) (.inf true)
      let mn := up m (some t)
      let d : Fl := if m = .inf true then ⟨0xFF800000, 0⟩ else fsub32 g m mn
      let rise := st.flag = false ∧ xlt false m mn = true
      let out (v : XVal) : Fl :=
        if mn = .inf true ∨ v = .inf true then ⟨0xFF800000, 0⟩
        else if v.isNan then ⟨0x7FC00000, if v.isSnan then flagNV else 0⟩
        else fsub32 g v mn
      let flags : Flags := (List.range 16).foldl (fun f l => f ||| ((xs l).map fun v => (out v).flags).getD 0) 0
      let data := lanesToken base fun l => (xs l).map fun v => (out v).bits
      let t' : SlotSt := if last then { st with n := 0xFF800000, flag := true }
        else { st with n := (roundTo 0 mn (.mode 0) false false).bits, flag := false }
      (rescale → firesWith s (.rmaxs g) g x pop [] st x.gen 0) ∧
      (¬ rescale → ¬ rise → firesWith s (.rmaxs g) g x pop [(dst, data)] t' x.gen flags) ∧
      (¬ rescale → rise →
        firesWith s (.rmaxs g) g x pop
          [(dst ||| g.cst.toNat % 2 ^ 16, ⟨5, base.seq, 0xFFFF, (lanesToken base fun _ => some d.bits).lanes⟩), (dst, data)]
          t' x.gen (flags ||| d.flags))) ∧
    (op = 0x79 → (Instr.count g).wf = true →
      let v := (st.n + (List.range 16).countP fun l => a.isValid l) % 2 ^ 32
      let t := (st.m + 1) % 2 ^ 32
      let r := (st.acc.toNat + if last then 1 else 0) % 2 ^ 32
      (rescale → firesWith s (.count g) g x pop [] st x.gen 0) ∧
      (¬ rescale → g.sub = 0 → last →
        firesWith s (.count g) g x pop
          [(dst, lanesToken base fun l => if l = 0 then some v else if l = 1 then some t else none)]
          { st with n := 0, m := 0, acc := 0 } x.gen 0) ∧
      (¬ rescale → (g.sub = 0 → ¬ last) →
        firesWith s (.count g) g x pop [] { st with n := v, m := t, acc := BitVec.ofNat 512 r } x.gen 0))

/-- STEER, MERGE, LOOP and DELAY move whole records (R188, R198, R199, R200). -/
def Obligations.RecordOperations : Prop :=
  ∀ (s : State) (g : SlotCfg) (x : Slot),
    let c := s.cluster s.site.1
    let k := g.unit.toNat
    let st := x.st
    let head (i : Nat) : Option Token := c.operand k g i
    let q (i : Nat) : List Nat := if g.src i = 4 then [] else [g.src i]
    let valued (t : Token) : Prop := t.kind = 0 ∨ t.kind = 1 ∨ t.kind = 5
    let go (i : Instr) (pop : List Nat) (mask : Nat) (t : Token) (st : SlotSt) : Prop :=
      i.wf = true → firesWith s i g x pop [(mask, t)] st x.gen 0
    let ready (op : BitVec 8) : Prop := s.slotFor op g = some (s.site.1, k, x)
    let on2 (c : Token) : Prop := ∃ v, resLane g (fun _ => some c) 2 0 = some v ∧ v ≠ 0
    let els := g.cst.toNat % 2 ^ 16
    (ready 0x73 → ∀ a, head 0 = some a → valued a →
      let m := if a.kind = 1 then 0 else 1
      (st.m = 1 → go (.steer g) (q 0) (if st.flag then g.dst.toNat else els) a { st with m := m }) ∧
      (st.m ≠ 1 → ∀ toks pop base, mayFire s 0x73 g x toks pop base → operandTok g toks 0 = some a →
        ((∃ v, resLane g (operandTok g toks) 1 0 = some v ∧ v ≠ 0) → go (.steer g) pop g.dst.toNat a { st with m := m, flag := true }) ∧
        ((∀ v, resLane g (operandTok g toks) 1 0 = some v → v = 0) → go (.steer g) pop els a { st with m := m, flag := false }))) ∧
    (ready 0x74 →
      let take (i : Nat) (t : Token) : Prop :=
        go (.merge g) (q (i - 1)) g.dst.toNat t { st with
          m := if t.kind = 1 then 0 else i
          flag := decide (i = 2)
          n := if t.kind = 1 ∧ g.sub = 0 then (t.seq + 1) % 2 ^ 16 else st.n }
      let dist (t : Token) : Int := ((t.seq : Int) - st.n) % 2 ^ 16
      (∀ i t, st.m = i → (i = 1 ∨ i = 2) → head (i - 1) = some t → valued t → take i t) ∧
      (st.m = 0 →
        (∀ a b, head 0 = some a → head 1 = some b → valued a → valued b →
          (g.sub = 0 → dist b < dist a → take 2 b) ∧ (g.sub = 0 → dist a ≤ dist b → take 1 a) ∧
          (g.sub = 1 → st.flag = true → take 1 a) ∧ (g.sub = 1 → st.flag = false → take 2 b)) ∧
        (∀ a b, head 0 = some a → head 1 = some b → valued a → b.kind = 2 ∨ b.kind = 3 → take 1 a) ∧
        (∀ a b, head 0 = some a → head 1 = some b → valued b → a.kind = 2 ∨ a.kind = 3 → take 2 b) ∧
        (g.sub = 1 → ∀ a, head 0 = some a → valued a → head 1 = none → take 1 a) ∧
        (g.sub = 1 → ∀ b, head 1 = some b → valued b → head 0 = none → take 2 b))) ∧
    (ready 0x76 →
      let dst := g.dst.toNat
      let exit := g.cst.toNat / 2 ^ 16
      let fromB (t : Token) (out : Bool) (pop : List Nat) : Prop :=
        go (.loop g) pop (if out then exit else dst) t { st with
          m := if t.kind = 1 then 0 else 2
          flag := out
          n := if t.kind = 1 ∧ out = true then st.n - 1 else st.n }
      let fromA (t : Token) (n : Nat) : Prop := go (.loop g) (q 0) dst t { st with m := if t.kind = 1 then 0 else 1, n := n }
      (st.m = 1 → ∀ a, head 0 = some a → valued a → fromA a st.n) ∧
      (st.m = 2 → ∀ b, head 1 = some b → valued b → fromB b st.flag (q 1)) ∧
      (st.m = 0 →
        (∀ b d, head 1 = some b → valued b → head 2 = some d → valued d →
          (on2 d → fromB b false (q 1 ++ q 2)) ∧ (¬ on2 d → fromB b true (q 1 ++ q 2))) ∧
        (∀ a, head 1 = none → head 0 = some a → valued a → (∀ t, head 2 = some t → t.kind ≠ 2 ∧ t.kind ≠ 3) →
          st.n < g.cst.toNat % 256 → fromA a (st.n + 1)))) ∧
    (ready 0x7A →
      let d := g.cst.toNat % 64
      let ends (t : Token) : Bool := t.kind = 2 || t.kind = 3 || t.kind = 6 || t.kind = 7
      let may : Prop := g.sub = 0 ∨ d ≤ st.fifo.length ∨ st.fifo.any ends = true ∨ ∃ t, head 0 = some t ∧ ends t = true
      (∀ t r, st.fifo = t :: r → may → go (.delay g) [] g.dst.toNat t { st with fifo := r }) ∧
      (∀ t, head 0 = some t → t.kind ≠ 4 → t.kind < 8 → st.fifo.length < d →
        (st.fifo = [] ∨ ¬ may) → (Instr.delay g).wf = true →
        ∃ u, exec (.delay g) s = .next u ∧ (u.cluster s.site.1).slot k = { x with st := { st with fifo := st.fifo ++ [t] } } ∧
          (∀ n, (u.cluster s.site.1).queue n = (c.queue n).drop (if n ∈ (q 0).map (4 * k + ·) then 1 else 0)) ∧
          (u.cluster s.site.1).flags = c.flags ∧ { u with clusters := s.clusters } = s))

/-- End tokens, SWITCH tokens and configuration at the slots of a cluster (R116, R119, R188, R197, R198, R201, R203, R307).
The model's own choices in it: logs 71, 92. -/
def Obligations.TokensAtSlots : Prop :=
  ∀ (s : State) (cl k : Nat) (op : Nat) (g : SlotCfg) (x : Slot),
    let c := s.cluster cl
    (s.slotAt cl k = some (op, g, x) →
      (op ≠ 0x7A → op ≠ 0x76 → endsRecord c k op g x.st = false → ¬ (op = 0x73 ∧ x.st.m = 1) →
        (op = 0x73 ∨ op = 0x74 → c.slotFires k op g x = false) →
        (∀ kind t, c.heads k g = .align kind → c.head? (4 * k + g.primary) = some t →
          let last : Token := ⟨1, 0xFFFF, 0, 0⟩
          let before : List Token :=
            if t.kind ≠ 3 then []
            else if op = 0x77 ∧ g.sub.toNat / 4 = 2 then [⟨1, 0xFFFF, x.st.accValid, x.st.acc⟩]
            else if op = 0x79 ∧ g.sub = 1 then [lanesToken last fun l => [x.st.acc.toNat % 2 ^ 32, x.st.m, x.st.n][l]?]
            else if op = 0x7C ∧ g.sub = 0 then [lanesToken last fun _ => some g.cst.toNat]
            else if op = 0x7C then [lanesToken last fun l => if l = 0 then some (s.stageFlags cl).toNat else none]
            else []
          let mask := if op = 0x73 then g.dst.toNat ||| g.cst.toNat % 2 ^ 16 else g.dst.toNat
          let sends := before.map (fun a => (g.dst.toNat, a)) ++ [(mask, ⟨t.kind, t.seq % 2 ^ 16, 0, 0⟩)]
          c.fullDest k g sends = none →
          ∃ u st, exec (.endTokenAlign cl k) s = .next u ∧ acted s u cl k g x g.inputs sends st x.gen 0 ∧
            (op < 0x67 → st = x.st) ∧
            (before ≠ [] → (op = 0x77 → st.accValid = 0 ∧ ∀ l, l < 16 → bits st.acc (32 * l + 31) (32 * l) = g.cst.toNat) ∧
              (op = 0x79 → st.n = 0 ∧ st.m = 0 ∧ st.acc = 0))) ∧
        (∀ qs : List Nat, c.heads k g = .discard qs → qs.Nodup →
          ∃ u, exec (.endTokenAlign cl k) s = .next u ∧ (u.cluster cl).flags = c.flags ∧
            ∀ q, (u.cluster cl).queue q = (c.queue q).drop (if q ∈ qs.map (4 * k + ·) then 1 else 0)) ∧
        (∀ qa qb ends, c.heads k g = .mismatch qa qb ends → x.skip = false →
          ∃ u, exec (.endTokenAlign cl k) s = .next u ∧ ((u.cluster cl).slot k).stall = true ∧
            (∀ q, (u.cluster cl).queue q = c.queue q) ∧ u.mem = s.mem)) ∧
      (∀ t stage col cls, s.placeOf cl = (stage, col, cls) → c.heads k g = .switch →
        (∀ q ∈ g.inputs, ∃ h, c.head? (4 * k + q) = some h ∧ h.kind = 4) → c.head? (4 * k + g.primary) = some t →
        (op = 0x73 ∨ op = 0x74 ∨ op = 0x76 ∨ op = 0x7A → c.slotFires k op g x = false) →
        ¬ (op = 0x73 ∧ x.st.m = 1) → ¬ (op = 0x76 ∧ x.st.n ≠ 0) → ¬ (op = 0x7A ∧ x.st.fifo ≠ []) →
        (∀ q ∈ g.inputs, ∀ h, c.head? (4 * k + q) = some h →
          ∀ i f, i < 2 → h.frame i = some f → Frame.layout f = 0 ∧ Frame.unit f ≤ 3) →
        let named (i : Nat) : Prop := ∃ f, t.frame i = some f ∧ Frame.col f = col ∧ Frame.unit f = k
        c.fullDest k g [(Frames.maskOf op g, t)] = none →
        (¬ named 0 → ¬ named 1 →
          ∃ u r, exec (.switchApply cl k) s = .next u ∧ r.kind = 4 ∧ r.seq = t.seq ∧ (∀ i, i < 2 → r.frame i = t.frame i) ∧
            acted s u cl k g x g.inputs [(Frames.maskOf op g, r)] x.st x.gen 0) ∧
        (∀ i f, switchFrames t col k = [(i, f)] → frameCode f = 0 → (slotCfgOf f).trapinv = g.trapinv →
          let fs : Frames := f :: (c.frames.filter fun h => !(entryName h = entryName f))
          let new := { freshSlot stage col k f with switched := true }
          (⟨cls, true, fs⟩ : RowImage).slotOk fs (clLayer cl) k (bits f 239 232) (slotCfgOf f) = true →
          (s.setCluster cl (c.setSlot k new)).rowStateBytes cls ≤ 16384 →
          ∃ u, exec (.switchApply cl k) s = .next u ∧ (u.cluster cl).slot k = new ∧
            (∀ j, j ≠ k → (u.cluster cl).slot j = c.slot j) ∧ (u.cluster cl).flags = c.flags))) ∧
    (∀ f, let n := match s.hostOf s.site.1 with
            | none => s.site.1
            | some (_, b, r, _) => nth (b.rowClusters r) (Frame.col f) s.site.1
      let old := s.cluster n
      let kept := s.setCluster n { old with kept := (if old.done then [] else old.kept) ++ [f], done := false }
      exec (.configFrame f) s = .next (match s.hostOf s.site.1 with
        | none => kept
        | some (l, b, r, _) => kept.onBand l fun y => y.onRow r fun x =>
          { x with image := (if s.configured b r then [] else (b.row r).image) ++ [f] })) ∧
    (let d := s.cluster s.site.1
     d.done = false → RowImage.faults s (s.rowImage s.site.1) = [] →
      ∃ u, exec .imageEnd s = .next u ∧ { u with clusters := s.clusters } = s ∧ (∀ n, n ≠ s.site.1 → u.cluster n = s.cluster n) ∧
        (let d' := u.cluster s.site.1
         d'.done = true ∧ d'.leaf = d.leaf ∧ d'.lines = d.lines ∧ d'.flags = d.flags ∧ (∀ q, d'.queue q = []) ∧
           ∀ f ∈ d.kept, Frame.layout f = 0 → Frame.unit f ≤ 3 →
             (∀ h ∈ d.kept, Frame.layout h = 0 → Frame.unit h = Frame.unit f → h = f) →
             (d'.slot (Frame.unit f)).frame = some f ∧ (d'.slot (Frame.unit f)).blocked = false))

/-- Tokens on router links, at a replication point, in the crown, and the RELATCH token (R47, R62, R105, R112, R113, R332). -/
def Obligations.LinksAndRouters : Prop :=
  ∀ (s : State) (cl : Nat),
    let c := s.cluster cl
    (s.routerRuns cl = true →
      (∀ port vc n r e t d p v, port < 6 → vc < 2 →
        (c.pairs.filter fun q => q.2.inp = port && q.2.ivc = vc) = [(n, r)] → (c.rqueue port vc).head? = some (e, t) →
        r.out ≤ 5 → s.hop cl r.out r.ovc = .into d p v →
        (c.spillOf n).toks = [] → s.routerRoom d p v = true → (d, p, v) ≠ (cl, port, vc) → v < 2 →
        (∀ pe, pe ≠ ParityEvent.failed →
          ∃ u, exec (.routerTokenHop cl (2 * port + vc) pe) s = .next u ∧
            (u.cluster cl).rqueue port vc = (c.rqueue port vc).tail ∧
            (u.cluster d).rqueue p v = (s.cluster d).rqueue p v ++ [(0, t)] ∧ (∀ q, (u.cluster cl).queue q = c.queue q) ∧
            (∀ m, m ≠ cl → m ≠ d → u.cluster m = s.cluster m) ∧ { u with clusters := s.clusters } = s) ∧
        (∃ u, exec (.routerTokenHop cl (2 * port + vc) .failed) s = .next u ∧
          (u.cluster cl).rqueue port vc = c.rqueue port vc ∧ (u.cluster d).rqueue p v = (s.cluster d).rqueue p v ∧
          ∀ l b row col, s.hostOf d = some (l, b, row, col) → l.status = 0 → l.ending = none → l.st ≠ .ended →
            ∃ m, u.launch? l.job l.id = some m ∧ m.status = 9)) ∧
      (∀ port vc n r e t, port < 6 → vc < 2 →
        (c.pairs.filter fun q => q.2.inp = port && q.2.ivc = vc) = [(n, r)] → (c.rqueue port vc).head? = some (e, t) →
        6 ≤ r.out → let q := Cluster.localQueue r.out r.lq
        (c.queue q).length < 4 →
        ∃ u, exec (.routerTokenHop cl (2 * port + vc) .good) s = .next u ∧
          (u.cluster cl).rqueue port vc = (c.rqueue port vc).tail ∧ (u.cluster cl).queue q = c.queue q ++ [t] ∧
          (∀ j, j ≠ q → (u.cluster cl).queue j = c.queue j) ∧
          ∀ pe, pe ≠ ParityEvent.good → ∃ w, exec (.routerTokenHop cl (2 * port + vc) pe) s = .next w ∧
            w.clusters = s.clusters ∧ ∀ l b row col, s.hostOf cl = some (l, b, row, col) → l.status = 0 → l.ending = none → l.st ≠ .ended →
              ∃ m, w.launch? l.job l.id = some m ∧ m.status = 9) ∧
      (∀ r e t, c.swRepl = some r → r.inp ≤ 5 → r.ivc < 2 → (c.rqueue r.inp r.ivc).head? = some (e, t) →
        let dest := s.branchDest cl
        (∀ b ∈ r.br, dest b ≠ none ∧ dest b ≠ some (.inl (cl, r.inp, r.ivc)) ∧ ∀ d p v, dest b = some (.inl (d, p, v)) → v < 2) →
        (r.br.map dest).Nodup →
        ∃ u, exec (.swReplToken cl) s = .next u ∧ (u.cluster cl).rqueue r.inp r.ivc = (c.rqueue r.inp r.ivc).tail ∧
          ∀ b ∈ r.br,
            (∀ d p v, dest b = some (.inl (d, p, v)) → (u.cluster d).rqueue p v = (s.cluster d).rqueue p v ++ [(0, t)]) ∧
            (∀ q, dest b = some (.inr q) → (u.cluster cl).queue q = c.queue q ++ [t])) ∧
      (∀ pair r d p v, (c.pairs.find? fun q => q.1 = pair && q.2.spill) = some (pair, r) → s.hop cl r.out r.ovc = .into d p v →
        let sp := c.spillOf pair
        (∀ i t, c.pairHead pair r = some (i, t) → s.routerRoom d p v = false ∨ sp.toks ≠ [] → sp.accepting = true →
          sp.toks.length < c.spillDepth r.out r.ovc →
          ∃ u, exec (.linkSpill cl pair false) s = .next u ∧ ((u.cluster cl).spillOf pair).toks = sp.toks ++ [t] ∧
            ((u.cluster cl).spillOf pair).accepting = decide (sp.toks.length + 1 < 16 * r.hi) ∧
            ∀ e, e ≠ cl → u.cluster e = s.cluster e) ∧
        (∀ t ts, sp.toks = t :: ts → s.routerRoom d p v = true → d ≠ cl →
          ∃ u, exec (.linkSpill cl pair true) s = .next u ∧ ((u.cluster cl).spillOf pair).toks = ts ∧
            ((u.cluster cl).spillOf pair).accepting = (sp.accepting || decide (ts.length ≤ 16 * r.lo)) ∧
            (u.cluster d).rqueue p v = (s.cluster d).rqueue p v ++ [(0, t)])) ∧
      (∀ l b row col sk n r i t, s.hostOf cl = some (l, b, row, col) → c.swPark = some sk →
        (c.pairs.find? fun p => p.2.out = sk.port && p.2.ovc = sk.vc) = some (n, r) → c.pairHead n r = some (i, t) →
        let stage (p : Nat) : Nat := p % max 1 b.depth
        (b.parked.countP fun p =>
          p.col = col && p.skip = sk.skip && stage (p.pos - p.skip) = stage (b.row row).p) < 16 * sk.pdepth →
        ∃ u m y, exec (.skipPark cl) s = .next u ∧ u.launch? l.job l.id = some m ∧ m.band = some y ∧
          y.parked = b.parked ++ [⟨(b.row row).p + sk.skip, col, sk.skip, t⟩] ∧
          (r.inp ≤ 5 → (u.cluster cl).rqueue r.inp r.ivc = (c.rqueue r.inp r.ivc).tail) ∧
          (6 ≤ r.inp → let vc := if r.out ≤ 5 then r.ovc else 0
            (u.cluster cl).rqueue 6 vc = (c.rqueue 6 vc).eraseIdx i))) ∧
    (∀ job lid l b, s.live job lid = some l → l.placed = some b →
      (∀ i p n, l.status = 0 → l.cancelled = false → l.ending = none → b.frozen = false → s.releasable b = some (i, p, n) →
        ∃ u m y, exec (.parkedTokenRelease job lid) s = .next u ∧ u.launch? job lid = some m ∧ m.band = some y ∧
          y.parked = b.parked.eraseIdx i ∧ (u.cluster n).rqueue 4 1 = (s.cluster n).rqueue 4 1 ++ [(0, p.tok)]) ∧
      (∀ row, b.relatch = some row → (b.row row).st ≠ .loading → b.frozen = false →
        (b.scroll = true ∨ ∀ r ∈ b.stageRows, s.configured b r = true) → s.rowAcked (b.rowClusters row) = true →
        ∃ u m y, exec (.relatchToken job lid row) s = .next u ∧ u.launch? job lid = some m ∧ m.band = some y ∧
          y.relatch = (if row + 1 < b.height then some (row + 1) else none) ∧
          ∀ n ∈ b.rowClusters row, ∀ g ∈ (u.cluster n).ags, g.2.bases = []))

/-- READ, CONV and GATHER read elements and send records (R46, R86, R97, R104, R153, R211, R212, R213, R216, R363). -/
def Obligations.AddressGeneratorReads : Prop :=
  ∀ (s : State) (g : AgCfg) (u cl : Nat) (a : Ag),
    let c := s.cluster cl
    let dest := c.codeDest (10 + u) g.out.toNat g.oq.toNat
    let ready (mode : BitVec 4) : Prop := s.agFor mode g = some (cl, u, a) ∧ a.pend = []
    let ag (t : State) : Ag := (t.cluster cl).ag u
    let sent (i : Instr) : Prop := (a.shape ≠ none ∨ g.tgt = 1) → ∀ t r, a.outq = t :: r → c.room dest 1 = true → t.kind ≠ 2 →
      ∃ v, exec i s = .next v ∧ ag v = { a with outq := r } ∧
        (∀ q, (v.cluster cl).queue q = if dest = .queue q then c.queue q ++ [t] else c.queue q) ∧ v.mem = s.mem
    let element (i : Instr) (sh : Shp) (co : List Int) : Prop :=
      (∀ va high, sh.at (g.tgt = 2) co = .loc va high → g.tgt = 0 →
        (∀ l ∈ linesOf va sh.elemBytes, (a.lines.get l).isSome = true) →
        exec i s = .next (s.onAg cl u fun a =>
          { a with vals := a.vals ++ [some (sh.value a.lines va high)], elem := a.elem + 1 })) ∧
      (∀ va high off, sh.at (g.tgt = 2) co = .loc va high → g.tgt = 2 → s.leafTarget cl va sh.elemBytes = some (cl, off) →
        g.waitf = false → sh.bitsOf ≠ 4 →
        exec i s = .next (s.onAg cl u fun a =>
          { a with vals := a.vals ++ [some (leNat (c.read off sh.elemBytes))], elem := a.elem + 1 })) ∧
      (sh.at (g.tgt = 2) co = .pad →
        exec i s = .next (s.onAg cl u fun a =>
          { a with vals := a.vals ++ [some (sh.pad % 2 ^ sh.bitsOf)], elem := a.elem + 1 }))
    let idle (mode : BitVec 4) : Prop :=
      ready mode ∧ a.outq = [] ∧ c.room dest 1 = true ∧ s.wavePause cl (32 + u) = false
    let w := s.waveLen cl
    let closes := w ≠ 0 ∧ a.sinceMark + 1 = w
    (ready 0 → sent (.agRead g)) ∧ (ready 7 → g.tgt ≠ 1 → sent (.agConv g)) ∧ (ready 2 → g.tgt ≠ 1 → sent (.agGather g)) ∧
    (∀ x, a.shape = some x →
      let sh := shpOf x
      (idle 0 → g.tgt ≠ 1 → a.ended = false → a.tile < sh.tiles →
        (a.elem < sh.elems → element (.agRead g) sh (sh.coords a.tile a.elem)) ∧
        (sh.elems ≤ a.elem →
          exec (.agRead g) s = .next (s.onAg cl u fun a => { a with
            outq := recordTokens sh.bitsOf a.seq a.vals ++ (if closes then [⟨3, 0, 0, 0⟩] else [])
            sinceMark := if closes then 0 else a.sinceMark + 1
            seq := (a.seq + 1) % 2 ^ 16
            vals := []
            lines := []
            elem := 0
            tile := a.tile + 1 }))) ∧
      (idle 7 → a.ended = false → a.tile < sh.tiles →
        (a.elem < sh.elems → element (.agConv g) sh (sh.coords a.tile a.elem) ∧
          ∀ co, sh.at (g.tgt = 2) (sh.coords a.tile a.elem) = .range co →
            exec (.agConv g) s = .next (s.onAg cl u fun a => { a with vals := a.vals ++ [none], elem := a.elem + 1 })) ∧
        (sh.elems ≤ a.elem →
          let n := if g.kw then 32 else 16
          let taps := nth sh.tile 0 0 * nth sh.tile 1 0
          let tail := a.vals.drop (n * a.lane)
          let rows := a.vals.take (n * a.lane) ++ (List.range n).map fun k =>
            if k < taps * nth sh.tile 2 0 then
              nth tail (k % max 1 (nth sh.tile 2 0) * taps + k / max 1 (nth sh.tile 2 0)) none
            else none
          let whole := a.lane + 1 = max 1 g.rpr.toNat ∨ sh.tiles ≤ a.tile + 1
          (¬ whole → exec (.agConv g) s = .next (s.onAg cl u fun a => { a with
            vals := rows
            lines := []
            elem := 0
            tile := a.tile + 1
            lane := a.lane + 1 })) ∧
          (whole → exec (.agConv g) s = .next (s.onAg cl u fun a => { a with
            outq := recordTokens sh.bitsOf a.seq rows ++ (if closes then [⟨3, 0, 0, 0⟩] else [])
            sinceMark := if closes then 0 else a.sinceMark + 1
            seq := (a.seq + 1) % 2 ^ 16
            vals := []
            lines := []
            elem := 0
            tile := a.tile + 1
            lane := 0 })))) ∧
      (ready 2 → a.outq = [] → c.room dest 1 = true → g.tgt ≠ 1 → sh.rank = 1 → ∀ t v, c.agHeads u 2 g = .valued t v →
        (a.elem < 16 → t.isValid a.elem = true → element (.agGather g) sh [sextNat 32 (t.lane a.elem)]) ∧
        (a.elem < 16 → t.isValid a.elem = false →
          exec (.agGather g) s = .next (s.onAg cl u fun a => { a with vals := a.vals ++ [none], elem := a.elem + 1 })) ∧
        (16 ≤ a.elem →
          ∃ w, exec (.agGather g) s = .next w ∧
            (w.cluster cl).queue (16 + 2 * u) = (c.queue (16 + 2 * u)).tail ∧
            (ag w).outq = [⟨t.kind, a.seq, (packLanes sh.bitsOf a.vals).2, (packLanes sh.bitsOf a.vals).1⟩] ∧
            (ag w).seq = (if t.kind = 1 then (a.seq + 1) % 2 ^ 16 else a.seq) ∧ (ag w).elem = 0))) ∧
    (idle 0 → g.tgt = 1 → a.ended = false →
      let b := c.buf g.bufn.toNat
      let k := b.first + b.cidx % max 1 b.slots
      b.slots ≠ 0 → (c.tile k).st = .ready → (c.tile k).badLayout = false →
      ∃ v, exec (.agRead g) s = .next v ∧ ((v.cluster cl).tile k) = { c.tile k with st := .draining } ∧
        (∃ m, (ag v).outq = c.slotTokens (c.tile k) a.seq ++ m ∧ (m = [] ∨ m = [⟨3, 0, 0, 0⟩])) ∧
        (ag v).pts = max a.pts (c.tile k).tclk ∧ (v.cluster cl).leaf = c.leaf)

/-- WRITE, SCATTER, SCATADD, BIN and ATOM, and end tokens at units (R68, R76, R96, R99, R101, R211, R212, R213, R214, R215, R217, R308).
The model's own choices in it: log 47. -/
def Obligations.AddressGeneratorWrites : Prop :=
  ∀ (s : State) (g : AgCfg) (u cl : Nat) (a : Ag),
    let c := s.cluster cl
    let iq := 16 + 2 * u
    let vq := 17 + 2 * u
    let ready (mode : BitVec 4) : Prop := s.agFor mode g = some (cl, u, a) ∧ a.pend = []
    let ag (t : State) : Ag := (t.cluster cl).ag u
    let tails (t : State) (qs : List Nat) : Prop :=
      ∀ q, (t.cluster cl).queue q = if q ∈ qs then (c.queue q).tail else c.queue q
    let skips (i : Instr) : Prop := exec i s = .next (s.onAg cl u fun a => { a with elem := a.elem + 1 })
    (ready 1 → a.drop = false → ∀ t v, c.agHeads u 1 g = .valued t v →
      (∀ x, a.shape = some x → g.tgt ≠ 1 →
        let sh := shpOf x
        let per := perToken sh.bitsOf
        let e := a.wtok * per + a.elem
        let more := a.elem < per ∧ e < sh.elems
        a.tile < sh.tiles → a.wtok < sh.recordToks → (t.kind = 1 → a.wtok + 1 = sh.recordToks) →
        (more → runValid [t] sh.bitsOf a.elem = none → skips (.agWrite g)) ∧
        (more → ∀ y va high, runValid [t] sh.bitsOf a.elem = some y →
          sh.at (g.tgt = 2) (sh.coords a.tile e) = .loc va high →
          (g.tgt = 0 → exec (.agWrite g) s = .next (s.onAg cl u fun a =>
            { a with wlines := addCells a.wlines (sh.cells va high y), elem := a.elem + 1 })) ∧
          (∀ off, g.tgt = 2 → sh.bitsOf ≠ 4 → s.leafTarget cl va sh.elemBytes = some (cl, off) →
            ∃ w, exec (.agWrite g) s = .next w ∧ tails w [] ∧ (ag w).elem = a.elem + 1 ∧
              ∀ n, (w.cluster cl).leaf.read n = if off ≤ n ∧ n < off + sh.elemBytes then
                BitVec.ofNat 8 (y / 256 ^ (n - off)) else c.leaf.read n)) ∧
        (¬ more → t.kind ≠ 1 ∨ a.wlines = [] →
          ∃ w, exec (.agWrite g) s = .next w ∧ tails w [vq] ∧ (ag w).elem = 0 ∧ w.mem = s.mem ∧
            (ag w).wtok = (if t.kind = 1 then 0 else a.wtok + 1) ∧
            (ag w).tile = (if t.kind = 1 then a.tile + 1 else a.tile)) ∧
        (¬ more → t.kind = 1 → ∀ l cells r pa p tlb s' t' s2, a.wlines = (l, cells) :: r →
          s.translate (s.agCtx cl a.pts) a.bases 0 needStore (s.agentCheck false) (128 * l) = .ok pa p tlb s' →
          let s1 := s'.onAg cl u fun a => { a with bases := useBase a.bases p }
          s1.agentStore (s1.agentOf cl u) p pa cells = some (t', s2) →
          ∃ w, exec (.agWrite g) s = .next w ∧ w.mem = s2.mem ∧ (ag w).pts = t' ∧ (ag w).wlines = r ∧
            tails w (if r = [] then [vq] else []) ∧ (ag w).tile = (if r = [] then a.tile + 1 else a.tile))) ∧
      (g.tgt = 1 →
        let b := c.buf g.bufn.toNat
        let k := b.first + b.pidx % max 1 b.slots
        let off := 128 * (c.tile k).base + 64 * a.wtok
        b.slots ≠ 0 → (c.tile k).st = .empty → 64 * (a.wtok + 1) ≤ 128 * (c.tile k).lcount →
        ∃ w, exec (.agWrite g) s = .next w ∧ tails w [vq] ∧
          (∀ n, (w.cluster cl).leaf.read n = if off ≤ n ∧ n < off + 64 then
            BitVec.ofNat 8 (t.lanes.toNat / 256 ^ (n - off)) else c.leaf.read n) ∧
          ((w.cluster cl).tile k).st = (if t.kind = 1 then .ready else .empty) ∧
          (ag w).wtok = (if t.kind = 1 then 0 else a.wtok + 1))) ∧
    (ready 3 → a.wlines = [] → g.tgt ≠ 1 → ∀ x i v, a.shape = some x → c.agHeads u 3 g = .valued i v →
      let sh := shpOf x
      (16 ≤ a.elem → ∃ w, exec (.agScatter g) s = .next w ∧ tails w [iq, vq] ∧ (ag w).elem = 0 ∧ w.mem = s.mem) ∧
      (a.elem < 16 → ¬ (i.isValid a.elem = true ∧ v.isValid a.elem = true) → skips (.agScatter g)) ∧
      (a.elem < 16 → i.isValid a.elem = true → v.isValid a.elem = true → g.tgt = 2 → sh.bitsOf ≠ 4 →
        ∀ la high off, sh.at true [sextNat 32 (i.lane a.elem)] = .loc la high →
          s.leafTarget cl la sh.elemBytes = some (cl, off) →
          ∃ w, exec (.agScatter g) s = .next w ∧ (ag w).elem = a.elem + 1 ∧ (∀ q, (w.cluster cl).queue q = c.queue q) ∧
            ∀ n, (w.cluster cl).leaf.read n = if off ≤ n ∧ n < off + sh.elemBytes then
              BitVec.ofNat 8 (v.lane a.elem % 2 ^ sh.bitsOf / 256 ^ (n - off)) else c.leaf.read n)) ∧
    (ready 3 → g.tgt = 0 → ∀ x i v, a.shape = some x → c.agHeads u 3 g = .valued i v →
      let sh := shpOf x
      (a.wlines = [] → a.elem < 16 → i.isValid a.elem = true → v.isValid a.elem = true → ∀ va high,
        sh.at false [sextNat 32 (i.lane a.elem)] = .loc va high →
        let ls := addCells [] (sh.cells va high (v.lane a.elem % 2 ^ sh.bitsOf))
        ls ≠ [] → exec (.agScatter g) s = .next (s.onAg cl u fun a => { a with wlines := ls })) ∧
      (∀ l cells r pa p tlb s' t' s2, a.wlines = (l, cells) :: r →
        s.translate (s.agCtx cl a.pts) a.bases 0 needStore (s.agentCheck false) (128 * l) = .ok pa p tlb s' →
        let s1 := s'.onAg cl u fun a => { a with bases := useBase a.bases p }
        s1.agentStore (s1.agentOf cl u) p pa cells = some (t', s2) →
        ∃ w, exec (.agScatter g) s = .next w ∧ w.mem = s2.mem ∧ (ag w).pts = t' ∧ (ag w).wlines = r ∧ tails w [] ∧
          (ag w).elem = (if r = [] then a.elem + 1 else a.elem))) ∧
    (s.agFor 4 g = some (cl, u, a) → ∀ i v, c.agHeads u 4 g = .valued i v →
      let both := (List.range 16).filter fun l => i.isValid l && v.isValid l
      (∀ l ∈ both, i.lane l < g.lwords.toNat) →
      ((∀ l ∈ both, i.lane l < a.elem) →
        ∃ w, exec (.agScatadd g) s = .next w ∧ tails w [iq, vq] ∧ (ag w).elem = 0 ∧ (w.cluster cl).leaf = c.leaf) ∧
      (∀ l ∈ both, a.elem ≤ i.lane l → (∀ m ∈ both, a.elem ≤ i.lane m → i.lane l ≤ i.lane m) → g.fmt ≠ 0 → g.fmt ≠ 10 →
        let off := 4 * (g.lbase.toNat + i.lane l)
        let sum := (((both.filter fun m => i.lane m = i.lane l).map v.lane).sum + leNat (c.read off 4)) % 2 ^ 32
        ∃ w, exec (.agScatadd g) s = .next w ∧ (ag w).elem = i.lane l + 1 ∧ (∀ q, (w.cluster cl).queue q = c.queue q) ∧
          ∀ n, (w.cluster cl).leaf.read n = if off ≤ n ∧ n < off + 4 then BitVec.ofNat 8 (sum / 256 ^ (n - off))
            else c.leaf.read n)) ∧
    (ready 5 → a.shape ≠ none → a.wlines = [] → ∀ b i v, c.muBintab = some b → c.agHeads u 5 g = .valued i v →
      let left := b.w - a.held.length
      let got := (c.queue vq).take left
      let all := got.length = left ∧ ∀ t ∈ got, t.kind = 0 ∨ t.kind = 1
      (¬ all → 4 ≤ (c.queue vq).length → (∀ t ∈ got, t.kind = 0 ∨ t.kind = 1) →
        ∃ w, exec (.agBin g) s = .next w ∧ tails w [vq] ∧ ag w = { a with held := a.held ++ [v] }) ∧
      (all →
        (16 ≤ a.elem → ∃ w, exec (.agBin g) s = .next w ∧ (ag w).held = [] ∧ (ag w).elem = 0 ∧
          ∀ q, (w.cluster cl).queue q = (c.queue q).drop (if q = iq then 1 else if q = vq then left else 0)) ∧
        (a.elem < 16 → i.isValid a.elem = false → skips (.agBin g)) ∧
        (a.elem < 16 → i.isValid a.elem = true → i.lane a.elem < b.bincount →
          let eoff := 4 * b.tbase + 8 * i.lane a.elem
          let e := leNat (c.read eoff 8)
          let fill := e / 2 ^ 32 % 2 ^ 16
          let base := e % 2 ^ 16
          fill + b.w ≤ e / 2 ^ 16 % 2 ^ 16 → base + fill + b.w ≤ 65536 →
          (∀ n, 4 * (base + fill) ≤ n → n < 4 * (base + fill + b.w) → n < eoff + 4 ∨ eoff + 6 ≤ n) →
          ∃ w, exec (.agBin g) s = .next w ∧ (ag w).elem = a.elem + 1 ∧ tails w [] ∧
            leNat ((w.cluster cl).read (eoff + 4) 2) = (fill + b.w) % 2 ^ 16 ∧
            (∀ k, k < b.w → leNat ((w.cluster cl).read (4 * (base + fill + k)) 4) = binWord (a.held ++ got) a.elem k) ∧
            ∀ n, (n < eoff + 4 ∨ eoff + 6 ≤ n) → (n < 4 * (base + fill) ∨ 4 * (base + fill + b.w) ≤ n) →
              (w.cluster cl).leaf.read n = c.leaf.read n))) ∧
    (ready 6 → g.tgt ≠ 1 → a.outq = [] → c.room (c.codeDest (10 + u) g.out.toNat g.oq.toNat) 1 = true →
      ∀ x i v, a.shape = some x → c.agHeads u 6 g = .valued i v →
      (16 ≤ a.elem → ∃ w, exec (.agAtom g) s = .next w ∧ tails w [iq, vq] ∧ (ag w).elem = 0 ∧
        (ag w).outq = (if g.out = 8 then [] else [Token.ofLanes i.kind i.seq a.vals])) ∧
      (a.elem < 16 → ¬ (i.isValid a.elem = true ∧ v.isValid a.elem = true) →
        exec (.agAtom g) s = .next (s.onAg cl u fun a => { a with vals := a.vals ++ [none], elem := a.elem + 1 })) ∧
      (a.elem < 16 → i.isValid a.elem = true → v.isValid a.elem = true → ∀ va high,
        (shpOf x).at false [sextNat 32 (i.lane a.elem)] = .loc va high → va % 4 = 0 →
        ∀ pa p tlb s', s.translate (s.agCtx cl a.pts) a.bases 0 needBoth s.atomCheck va = .ok pa p tlb s' →
        windowOf pa = .hbm → p.mtype = 1 → g.afn = 0 →
        max (s'.homeClock (pkgOf pa)) ((s'.line (lineOf pa)).rts + 1) ≤ 0xFFFFFF →
        ∃ w, exec (.agAtom g) s = .next w ∧ (ag w).vals = a.vals ++ [some (s'.mem.readLe pa 4)] ∧
          stored s'.mem w.mem pa 4 (s'.mem.readLe pa 4 + v.lane a.elem))) ∧
    (∀ mode t, c.agCfg? u = some (mode, g) → u < 4 → a = c.ag u → a.blocked = false → a.stall = false → s.mayAct cl = true →
      (c.done = true ∨ c.launch = none) → mode ≠ 0 → mode ≠ 7 → a.outq = [] → c.agHeads u mode g = .ends t →
      mode ≠ 1 ∨ a.wtok = 0 ∨ t.isEnd = false →
      agSink mode g = true ∨ c.room (c.codeDest (10 + u) g.out.toNat g.oq.toNat) 1 = true →
      let ins := if mode = 1 then [vq] else if mode = 2 then [iq] else [iq, vq]
      ∃ w, exec (.endTokenAtUnit cl (8 + u)) s = .next w ∧ tails w ins ∧
        (if agSink mode g then (ag w).eos = (a.eos || decide (t.kind = 2)) ∧ (ag w).outq = [] else (ag w).outq = [t]))

/-- The memory unit's source and sink, SW.VERT, and the ends of fills and drains (R60, R76, R79, R96, R97, R211, R212, R219, R227). -/
def Obligations.MemoryUnitMoves : Prop :=
  ∀ (s : State) (cl : Nat),
    let c := s.cluster cl
    let runs : Prop := c.mu.blocked = false ∧ s.mayAct cl = true ∧ (c.done = true ∨ c.launch = none)
    let cSlot (b : Nat) : Nat := (c.buf b).first + (c.buf b).cidx % max 1 (c.buf b).slots
    let pSlot (b : Nat) : Nat := (c.buf b).first + (c.buf b).pidx % max 1 (c.buf b).slots
    (∀ b m, c.sourceBuf = some (b, m) → runs →
      (∀ t r, c.mu.outq = t :: r → t.kind ≠ 2 → c.room (c.codeDest 14 m.muout m.muoq) 1 = true →
        ∃ u, exec (.muSourceRecord cl) s = .next u ∧ (u.cluster cl).mu = { c.mu with outq := r } ∧
          ∀ q, (u.cluster cl).queue q =
            if c.codeDest 14 m.muout m.muoq = .queue q then c.queue q ++ [t] else c.queue q) ∧
      (c.mu.outq = [] → c.room (c.codeDest 14 m.muout m.muoq) 1 = true → s.wavePause cl 36 = false → c.mu.ended = false → c.mu.cuts = [] →
        (m.nrec = 0 ∨ c.mu.slots < m.nrec) → (c.buf b).slots ≠ 0 → (c.tile (cSlot b)).st = .ready →
        (c.tile (cSlot b)).badLayout = false →
        ∃ u more, exec (.muSourceRecord cl) s = .next u ∧
          (u.cluster cl).mu.outq = c.slotTokens (c.tile (cSlot b)) c.mu.seq ++ more ∧
          (more = [] ∨ more = [⟨3, 0, 0, 0⟩]) ∧ (u.cluster cl).mu.seq = (c.mu.seq + 1) % 2 ^ 16 ∧
          (u.cluster cl).mu.slots = c.mu.slots + 1 ∧
          (u.cluster cl).tile (cSlot b) = { c.tile (cSlot b) with st := .draining } ∧ (u.cluster cl).leaf = c.leaf)) ∧
    (∀ b m t, c.sinkBuf = some (b, m) → c.head? 24 = some t → runs → c.mu.stall = false → c.mu.skip = false →
      let x := c.tile (pSlot b)
      let off := 128 * x.base + 64 * c.mu.wtok
      (t.valued = true → t.kind ≠ 5 → x.st = .empty → 64 * (c.mu.wtok + 1) ≤ 128 * x.lcount →
        ∃ u, exec (.muSinkRecord cl) s = .next u ∧ (u.cluster cl).queue 24 = (c.queue 24).tail ∧
          (∀ n, (u.cluster cl).leaf.read n = if off ≤ n ∧ n < off + 64 then
            BitVec.ofNat 8 (t.lanes.toNat / 256 ^ (n - off)) else c.leaf.read n) ∧
          ((u.cluster cl).tile (pSlot b)).st = (if t.kind = 1 then .ready else .empty) ∧
          (u.cluster cl).mu.wtok = (if t.kind = 1 then 0 else c.mu.wtok + 1)) ∧
      (t.kind = 5 ∨ t.isBoundary = true ∨ (t.isEnd = true ∧ c.mu.wtok = 0) →
        ∃ u, exec (.muSinkRecord cl) s = .next u ∧ (u.cluster cl).queue 24 = (c.queue 24).tail ∧
          (u.cluster cl).leaf = c.leaf ∧ (u.cluster cl).mu.eos = (c.mu.eos || decide (t.kind = 2)))) ∧
    (∀ v, c.swVert = some v → c.mu.vert < v.tcount → c.mu.vstall = false → c.rblocked = false → s.mayAct cl = true →
      (c.done = true ∨ c.launch = none) → (c.buf v.bufn).slots ≠ 0 →
      let pa := s.towerId (clTower cl) * 2 ^ 42 + 0x10000000000 + v.coff + c.mu.vert * v.tstride
      (v.down = true → let t := c.tile (pSlot v.bufn)
        t.st = .empty → (∀ i, i < t.lcount → s.scratchBacked (pa + 128 * i) = true) →
        ∃ u, exec (.swVertTile cl) s = .next u ∧ (u.cluster cl).mu = { c.mu with vert := c.mu.vert + 1 } ∧
          ((u.cluster cl).tile (pSlot v.bufn)).st = .ready ∧ u.scratch = s.scratch ∧
          ∀ n, (u.cluster cl).leaf.read n = if 128 * t.base ≤ n ∧ n < 128 * (t.base + t.lcount) then
            s.scratch.read (pa + (n - 128 * t.base)) else c.leaf.read n) ∧
      (v.down = false → let t := c.tile (cSlot v.bufn)
        t.st = .ready → (∀ i, i < t.lcount → s.scratchBacked (pa + 128 * i) = true) →
        ∃ u, exec (.swVertTile cl) s = .next u ∧ (u.cluster cl).mu = { c.mu with vert := c.mu.vert + 1 } ∧
          ((u.cluster cl).tile (cSlot v.bufn)).st = .draining ∧ (u.cluster cl).leaf = c.leaf ∧
          u.posted = s.posted ++ (List.range t.lcount).map fun i =>
            (⟨vertAgent cl, pa + 128 * i, c.read (128 * (t.base + i)) 128⟩ : Posted))) ∧
    (∀ b k r, c.fillingSlots b = k :: r →
      ∃ u, exec (.slotFillComplete cl b) s = .next u ∧
        (u.cluster cl).tile k = { c.tile k with st := .ready, tclk := c.tileClock (c.tile k) } ∧
        (∀ j, j ≠ k → (u.cluster cl).tile j = c.tile j) ∧ (u.cluster cl).leaf = c.leaf ∧ (u.cluster cl).lines = c.lines) ∧
    (∀ b, (c.buf b).slots ≠ 0 → (c.tile (cSlot b)).st = .draining →
      let t := c.tile (cSlot b)
      ∃ u, exec (.slotDrainComplete cl b) s = .next u ∧
        (u.cluster cl).tile (cSlot b) = { t with st := .empty, tclk := 0 } ∧ (u.cluster cl).leaf = c.leaf ∧
        (∀ l, t.base ≤ l → l < t.base + t.lcount →
          ((u.cluster cl).line l).full = false ∧ ((u.cluster cl).line l).clk = 0) ∧
        ((u.cluster cl).buf b).cidx = ((c.buf b).cidx + 1) % max 1 (2 * (c.buf b).slots))

/-- Planes, passes, rescales, drains and column repair of an array (R141, R143, R144, R145, R146, R148, R149, R155, R230, R232, R233).
The model's own choices in it: logs 22, 49. -/
def Obligations.ArraySteps : Prop :=
  ∀ (s : State) (cl : Nat) (g : CtCfg), s.arrayAt cl = some g →
    let c := s.cluster cl
    let a := c.arr
    let arr (t : State) : Arr := (t.cluster cl).arr
    (∀ ld, c.ctLoad = some ld → a.shadow = none →
      (g.role = 0 → (c.buf ld.srcb).slots ≠ 0 →
        let k := (c.buf ld.srcb).first + (c.buf ld.srcb).cidx % max 1 (c.buf ld.srcb).slots
        (c.tile k).st = .ready → (c.tile k).badLayout = false → ∀ p, judgePlane g ld (c.slotTokens (c.tile k) 0) = .plane p →
        ∃ u, exec (.planeLoad cl) s = .next u ∧ arr u = { a with shadow := some p, load := [] } ∧
          (u.cluster cl).tile k = { c.tile k with st := .draining }) ∧
      (g.role ≠ 0 → ∀ t, (∀ h, a.load.getLast? = some h → h.kind ≠ 1) → c.head? 26 = some t → t.kind = 0 →
        ∃ u, exec (.planeLoad cl) s = .next u ∧ arr u = { a with load := a.load ++ [t] } ∧
          (u.cluster cl).queue 26 = (c.queue 26).tail) ∧
      (g.role ≠ 0 → ∀ t p, (∀ h, a.load.getLast? = some h → h.kind ≠ 1) → c.head? 26 = some t → t.kind = 1 →
        judgePlane g ld (a.load ++ [t]) = .plane p →
        ∃ u, exec (.planeLoad cl) s = .next u ∧ arr u = { a with shadow := some p, load := [] } ∧
          (u.cluster cl).queue 26 = (c.queue 26).tail)) ∧
    (∀ p, a.shadow = some p → a.swapDue = true → a.n = 0 → a.pIdx = 0 →
      (g.swap = 2 → ∃ t, c.head? 25 = some t ∧ t.kind ≤ 1) →
      (pairOk p.fmt g.pfmt (if g.qmode = 1 ∨ g.qmode = 2 then some g.qfmt else none) = true →
        ∃ u, exec (.planeSwap cl) s = .next u ∧ arr u = { a with active := some p, shadow := none, swapDue := false } ∧
          (∀ q, (u.cluster cl).queue q = c.queue q) ∧ u.mem = s.mem)) ∧
    (∀ pl t, a.active = some pl → a.swapDue = false → pl.kmax * fmtWidth g.pfmt = 512 → a.pIdx = 0 → c.head? 25 = some t →
      t.kind = 0 → g.qmode = 0 → badHead (c.head? 26) = false → a.draining a.bank = false → c.ctChain = none → g.survive = 0 →
      let row := ((c.ctAcc.map (·.row0)).getD 0 + a.n) % 64
      let terms (j : Nat) : List Triad := (List.range pl.kmax).filterMap fun k =>
        if pl.krows ≤ k then none
        else match pl.physRow k j, runValid [t] (fmtWidth g.pfmt) k with
          | some r, some x => some ⟨x, none, r, j⟩
          | _, _ => none
      let sum (j : Nat) : Fl :=
        let ts := terms j
        if ts = [] then
          ⟨a.elem a.bank row j,
            if g.pfmt ≠ 6 ∧ g.pfmt ≠ 10 ∧ (decodeFloat 0 (a.elem a.bank row j) false).isNan = true then flagNV else 0⟩
        else if g.pfmt = 6 ∨ g.pfmt = 10 then
          ⟨rtLane (ts.foldl (fun r t => rtAdd r (t.residues g pl).1) (rtRead (a.elem a.bank row j)).1),
            ts.foldl (fun f t => f ||| (t.residues g pl).2) (rtRead (a.elem a.bank row j)).2⟩
        else triSum g.ftz g.sat (a.elem a.bank row j) (ts.map fun t => t.value g pl)
      (g.trapinv = true → a.skip = false → ∀ j, j < pl.jcols → (sum j).flags &&& flagNV = 0) →
      ∃ u, exec (.arrayPass cl) s = .next u ∧ (u.cluster cl).queue 25 = (c.queue 25).tail ∧ (arr u).n = a.n + 1 ∧
        (∀ j, j < pl.jcols → pl.jcols ≤ 64 → (arr u).elem a.bank row j = (sum j).bits) ∧
        (∀ b r j, r < 64 → j < 64 → b < 2 → a.bank < 2 → pl.jcols ≤ 64 → (b, r) ≠ (a.bank, row) →
          (arr u).elem b r j = a.elem b r j)) ∧
    (∀ t, c.head? 25 = some t → t.kind = 5 → (g.qmode = 0 ∨ 3 ≤ g.qmode) → badHead (c.head? 26) = false → a.pIdx = 0 → a.draining a.bank = false →
      c.ctChain = none → g.trapinv = false →
      let rsc : Prop := (c.ctAcc.map (·.rsc)).getD 0 = 1 ∧ g.pfmt ≠ 6 ∧ g.pfmt ≠ 10 ∧ t.isValid 0 = true
      let row := passRow g c.accCfg a.n
      ∃ u, exec (.arrayRescale cl) s = .next u ∧ (u.cluster cl).queue 25 = (c.queue 25).tail ∧ (arr u).n = a.n ∧
        (¬ rsc → (arr u).acc = a.acc) ∧
        (rsc → ∀ j, j < 64 → (arr u).elem a.bank row j =
          (roundTo 0 (xmul (decodeFloat 0 (a.elem a.bank row j) g.ftz) (decodeFloat 0 (t.lane 0) g.ftz)).1
            (.mode 0) g.ftz g.sat).bits)) ∧
    (∀ b t r, a.drain = some ⟨b, t :: r⟩ → c.room c.drainDest 1 = true →
      ∃ u, exec (.accumulatorDrain cl) s = .next u ∧
        (∀ q, (u.cluster cl).queue q = if c.drainDest = .queue q then c.queue q ++ [t] else c.queue q) ∧
        (r ≠ [] → arr u = { a with drain := some ⟨b, r⟩ }) ∧
        (r = [] → (arr u).drain = none ∧ (∀ row j, row < 64 → j < 64 → (arr u).elem b row j = 0) ∧ (arr u).touchBits b = 0)) ∧
    (∀ col, col < 64 →
      (a.retired = none →
        ∃ u e, exec (.columnRepair cl col) s = .next u ∧ (arr u).retired = some col ∧ u.celog.getLast? = some e ∧
          e.kind = 2 ∧ e.detail = col ∧ e.layer = clLayer cl ∧ e.x = clX cl ∧ e.y = clY cl) ∧
      (∀ old, a.retired = some old →
        ∃ u, exec (.columnRepair cl col) s = .next u ∧ (arr u).blocked = true ∧ (arr u).acc = a.acc ∧
          ∀ l b row c, s.hostOf cl = some (l, b, row, c) → l.status = 0 → l.ending = none → l.st ≠ .ended →
            ∃ m, u.launch? l.job l.id = some m ∧ m.status = 38))

/-- A copy job starts, moves its tiles and completes (R75, R79, R80, R82, R86, R87, R88, R89, R90, R96, R241, R275).
The model's own choices in it: log 26. -/
def Obligations.CopyJobSteps : Prop :=
  ∀ (s : State) (e k : Nat),
    let j := s.copyJob e k
    let run : Prop := j.halt = false ∧ j.st = .running ∧ j.stall = false ∧ j.fail = 0
    (j.st = .waiting → j.edges = [] → j.stall = false → j.admitted = false ∨ cardLegal e j = false →
      ∃ u, exec (.copyJobStart e k) s = .next u ∧ (u.copyJob e k).fail = 32 ∧ (u.copyJob e k).st = .running ∧
        (u.copyJob e k).progress = j.progress ∧ u.mem = s.mem ∧ u.clusters = s.clusters) ∧
    (∀ pa x tlb s', j.st = .waiting → j.edges = [] → j.stall = false → j.admitted = true → cardLegal e j = true →
      j.kind = 1 ∨ j.kind = 2 → j.shapeVa % 128 = 0 →
      s.translate j.ctx (s.engine e).tlb 256 needLoad (s.agentCheck true) j.shapeVa = .ok pa x tlb s' →
      windowOf pa = .hbm → x.mtype ≤ 1 → latest s' j.pts pa →
      let i : CopyJob := { j with sshape := BitVec.ofNat 1024 (s'.mem.readLe pa 128), dshape := 0 }
      let n := (shpOf i.sshape).tiles
      s.startCode i = 0 →
      ∃ u, exec (.copyJobStart e k) s = .next u ∧ u.mem = s'.mem ∧ u.clusters = s.clusters ∧
        u.copyJob e k =
          { i with st := .running, limit := if j.tileCount = 0 then n else min n (j.progress + j.tileCount) }) ∧
    (run → j.started = false → j.taken = [] → j.kind = 1 → j.progress < j.limit →
      ∀ cl b, j.handles.map (handleOf j.core) = [(cl, b)] →
      let c := s.cluster cl
      let m := shpOf j.sshape
      let filled (t t' : Tile) : Prop := t'.st = .filling ∧ t'.tbytes = m.tileBytes ∧ t'.fmt = m.fmt ∧ t'.swz = m.swz ∧
        t'.ord = m.ord ∧ t'.due = true ∧ t'.base = t.base ∧ t'.lcount = t.lcount
      ((c.buf b).claim = none → s.startCode j = 0 →
        (∀ t, j.progress ≤ t → t < j.limit → m.badElem t = none) →
        let free := s.freeAll j
        let n := min free (j.limit - j.progress)
        free ≠ 0 →
        ∃ u, exec (.copyJobTile e k) s = .next u ∧ u.mem = s.mem ∧
          (u.copyJob e k).taken = (List.range n).map (fun i => [(c.buf b).pSlot i]) ∧
          (u.copyJob e k).progress = j.progress ∧
          (let y := (u.cluster cl).buf b
           y.claim = some (64 * e + k) ∧ y.credit = free - n ∧
             y.pidx = ((c.buf b).pidx + n) % max 1 (2 * (c.buf b).slots) ∧ y.cidx = (c.buf b).cidx) ∧
          (∀ i, i < n → filled (c.tile ((c.buf b).pSlot i)) ((u.cluster cl).tile ((c.buf b).pSlot i))) ∧
          ∀ q, (∀ i, i < n → q ≠ (c.buf b).pSlot i) → (u.cluster cl).tile q = c.tile q) ∧
      ((c.buf b).claim = some (64 * e + k) → m.badElem j.progress = none → (c.buf b).slots ≠ 0 → (c.buf b).credit ≠ 0 →
        (c.tile ((c.buf b).pSlot 0)).st = .empty →
        ∃ u, exec (.copyJobTile e k) s = .next u ∧ u.mem = s.mem ∧
          (u.copyJob e k).taken = [[(c.buf b).pSlot 0]] ∧ (u.copyJob e k).progress = j.progress ∧
          ((u.cluster cl).buf b).credit = (c.buf b).credit - 1 ∧
          filled (c.tile ((c.buf b).pSlot 0)) ((u.cluster cl).tile ((c.buf b).pSlot 0)))) ∧
    (run → j.started = false → j.taken = [] → j.kind = 2 → j.progress < j.limit → (j.handles.map (handleOf j.core)).Nodup →
      (∀ h ∈ j.handles, let q := handleOf j.core h
        ((s.cluster q.1).buf q.2).claim = none) → j.handles ≠ [] → s.startCode j = 0 →
      (∀ t, j.progress ≤ t → t < j.limit → (shpOf j.sshape).badElem t = none) → s.freeAll j ≠ 0 →
      ∃ u, exec (.copyJobTile e k) s = .next u ∧ u.mem = s.mem ∧ (u.copyJob e k).progress = j.progress ∧
        (u.copyJob e k).taken.length = min (s.freeAll j) (j.limit - j.progress) ∧
        ∀ h ∈ j.handles, let q := handleOf j.core h
          ((u.cluster q.1).buf q.2).claim = some (64 * e + k)) ∧
    (run → j.started = false → j.taken ≠ [] → j.progress < j.limit → j.kind ≠ 3 →
      ∃ u, exec (.copyJobTile e k) s = .next u ∧
        u.copyJob e k = { j with
          started := true, pend := (shpOf j.sshape).tileLines j.progress, lines := [], wlines := [], fills := [] }) ∧
    (run → j.started = true → j.kind ≠ 3 →
      (∀ l r pa x tlb s', j.pend = l :: r →
        s.translate j.ctx (s.engine e).tlb 256 needLoad (s.agentCheck true) (128 * l) = .ok pa x tlb s' →
        windowOf pa = .hbm → latest s' (if x.mtype = 0 then j.pts else s'.homeClock (pkgOf pa)) pa →
        ∃ u, exec (.copyJobTile e k) s = .next u ∧ u.mem = s'.mem ∧
          (let i := u.copyJob e k
           i.pend = r ∧ i.lines.get l = some (s'.mem.readN pa 128) ∧ i.progress = j.progress ∧
             i.pts = (if x.mtype = 0 then max j.pts (s'.line (lineOf pa)).wts else j.pts))) ∧
      (∀ l cells r pa x tlb s', j.pend = [] → j.wlines = (l, cells) :: r →
        s.translate j.ctx (s.engine e).tlb 256 needStore (s.agentCheck true) (128 * l) = .ok pa x tlb s' →
        windowOf pa = .hbm → pa % 128 = 0 →
        max (if x.mtype = 0 then j.pts else s'.homeClock (pkgOf pa)) ((s'.line (lineOf pa)).rts + 1) ≤ 0xFFFFFF →
        ∃ u, exec (.copyJobTile e k) s = .next u ∧
          (∀ b, u.mem.read b = if pa ≤ b ∧ b < pa + 128 then
            BitVec.ofNat 8 (cells.getD (2 * (b - pa)) ((s'.mem.read b).toNat % 16) +
              16 * cells.getD (2 * (b - pa) + 1) ((s'.mem.read b).toNat / 16)) else s'.mem.read b) ∧
          (let i := u.copyJob e k
           i.wlines = r ∧ i.pts = (if x.mtype = 0 then max j.pts ((s'.line (lineOf pa)).rts + 1) else j.pts) ∧
             i.progress = (if r = [] then j.progress + 1 else j.progress))) ∧
      (j.kind = 1 → j.pend = [] → j.wlines = [] → ∀ n, (j.fills = [] ∧ n = 0) ∨ j.fills = [(0, n)] →
        ∀ cl b slot more, j.handles.map (handleOf j.core) = [(cl, b)] → j.taken = [slot] :: more →
        let m := shpOf j.sshape
        let data := slotBytes m.bitsOf (m.tileValues j.progress j.lines)
        let at0 := 128 * ((s.cluster cl).tile slot).base
        let last : Prop := data.length ≤ 128 * (n + 1)
        ∃ u, exec (.copyJobTile e k) s = .next u ∧ u.mem = s.mem ∧
          (∀ q, (u.cluster cl).leaf.read q =
            if at0 + 128 * n ≤ q ∧ q < at0 + 128 * (n + 1) ∧ q < at0 + data.length then data.getD (q - at0) 0
            else (s.cluster cl).leaf.read q) ∧
          (let i := u.copyJob e k
           (last → i.progress = j.progress + 1 ∧ i.started = false ∧ i.taken = more ∧
             ((u.cluster cl).tile slot) = { (s.cluster cl).tile slot with due := false }) ∧
           (¬ last → i.progress = j.progress ∧ i.fills = [(0, n + 1)] ∧ i.taken = j.taken)))) ∧
    (run → j.started = false → j.progress < j.limit → j.kind = 3 →
      ∀ cl b, j.handles.map (handleOf j.core) = [(cl, b)] →
      let c := s.cluster cl
      let slot := (c.buf b).first + (c.buf b).cidx % max 1 (c.buf b).slots
      ((c.buf b).slots = 0 → ∃ u, exec (.drainTile e k) s = .next u ∧ (u.copyJob e k).fail = 32 ∧ u.mem = s.mem) ∧
      ((c.buf b).slots ≠ 0 → (c.tile slot).st = .ready → (shpOf j.dshape).badElem j.progress = none →
        ∃ u, exec (.drainTile e k) s = .next u ∧ ((u.cluster cl).tile slot).st = .draining ∧ u.mem = s.mem ∧
          (let i := u.copyJob e k
           i.started = true ∧ i.pts = max j.pts (c.tile slot).tclk ∧ i.progress = j.progress))) ∧
    (j.st = .running → j.started = false → j.stall = false → j.fail = 0 → j.limit ≤ j.progress →
      (∀ p ∈ s.posted, p.agent ≠ s.jobAgent e k) → j.dkind = 0 ∨ j.dkind = 1 → j.progress < 2 ^ 32 → e < 384 → k < 64 →
      ∃ u, exec (.copyJobComplete e k) s = .next u ∧ u.mem = s.mem ∧
        (let i := u.copyJob e k
         i.st = .free ∧ i.final = j.pts ∧ i.status = 0 ∧ i.progress = j.progress) ∧
        (∀ n, n < 64 → n ≠ k → (64 * e + k) ∉ (u.copyJob e n).edges) ∧
        (∀ h ∈ j.handles, let q := handleOf j.core h
          ((u.cluster q.1).buf q.2).claim ≠ some (64 * e + k)) ∧
        (j.dkind = 1 → u.mail = s.mail ++ [⟨.engine e, j.core, bits j.card 389 384,
          ⟨BitVec.ofNat 64 (j.progress * 2 ^ 32 + e % 2 * 2 ^ 7 + k), j.pts⟩⟩]) ∧
        (j.dkind = 0 → u.mail = s.mail))

namespace Sys2Proof.Claims

/-- Launch lid of a job is x, and every other launch is as before. -/
def launchNow (s t : State) (job lid : Nat) (x : Launch) : Prop :=
  t.launch? job lid = some x ∧ ∀ m n, (m, n) ≠ (job, lid) → t.launch? m n = s.launch? m n

/-- Row r of the launch's band is x; its other rows and every other launch are as before. -/
def rowNow (s t : State) (job lid r : Nat) (b : Band) (x : Row) : Prop :=
  ∃ l y, launchNow s t job lid l ∧ l.band = some y ∧ y.row r = x ∧ ∀ q, q ≠ r → y.row q = b.row q

end Sys2Proof.Claims
open Sys2Proof.Claims

/-- Transactions of the home, tree banks, the scrubber, FORFEIT, and writes that leave the twig switch (R22, R23, R25, R26, R27, R28, R33, R50, R51, R52, R76, R77).
The model's own choices in it: logs 20, 33. -/
def Obligations.LineEvents : Prop :=
  ∀ (s : State) (line : Nat),
    let pa := 128 * line
    let li := s.line line
    let home := s.bank (homeOf pa % 4) (crownBankOf pa)
    let lease (t : Nat) : Nat := min (max li.rts (t + 256)) 0xFFFFFF
    let rest (u : State) : Prop := ∀ l, l ≠ line → u.line l = s.line l
    let hbmTakes (u : State) : Prop :=
      u.mem = s.mem ∧ ∀ b, u.hbm.read b = if pa ≤ b ∧ b < pa + 128 then s.mem.read b else s.hbm.read b
    (∀ tower pts, li.owned = true → li.copy = .held → li.owner ≠ tower → s.isFenced (tower / 4) = false →
      s.lineFault pa = none →
      (∃ u, exec (.ownerForward line tower pts false) s = .next u ∧ u.mem = s.mem ∧ u.hbm = s.hbm ∧ rest u ∧
        u.line line = { li with
          st := if li.st = .e then .s else .o
          owner := if li.st = .e then 0x3FF else li.owner
          rts := lease (max pts li.wts)
          sym := li.sym && decide (li.place ≠ .none)
          recWts := li.wts
          recRts := lease (max pts li.wts)
          recTurn := s.turn }) ∧
      (let t := max pts (li.rts + 1)
       t ≤ 0xFFFFFF → s.noAlloc tower pa = false →
        let mine : Prop := tower / 4 = s.pkg ∧ tower ≠ homeOf pa
        let b := s.bank (tower % 4) (crownBankOf pa)
        let taken (i : Nat) : Prop := ∃ x ∈ s.lines.keys, x ≠ line ∧ s.inRemoteWay (tower % 4) (crownBankOf pa) x = true ∧
          crownSetOf (128 * x) = crownSetOf pa ∧ (s.line x).rway = b.home + i
        ∃ u, exec (.ownerForward line tower pts true) s = .next u ∧
          (¬ mine ∨ (∃ i, i < b.remote ∧ ¬ taken i) → u.hbm = s.hbm ∧ rest u) ∧
          (mine → b.home ≤ (u.line line).rway ∧ (u.line line).rway < b.home + b.remote) ∧
          backed s u ∧
          (∀ b, u.mem.read b = s.mem.read b) ∧
          (let x := u.line line
           x.st = .m ∧ x.owner = tower ∧ x.wts = t ∧ x.rts = t ∧ x.recWts = t ∧ x.recRts = t ∧ x.recTurn = s.turn))) ∧
    (∀ tower pts store, li.owned = false ∨ li.owner = tower →
      exec (.ownerForward line tower pts store) s = .next s) ∧
    (li.st = .m ∨ li.st = .o → li.copy ≠ .lost → s.isFenced (li.owner / 4) = false →
      ∃ u, exec (.writeBack line) s = .next u ∧ hbmTakes u ∧ rest u ∧
      u.line line = { li with
        st := if li.st = .m then .i else .s
        owner := 0x3FF, sym := false, copy := .held, recWts := li.wts, recRts := li.rts, recTurn := s.turn }) ∧
    (li.st ≠ .m → li.st ≠ .o → exec (.writeBack line) s = .next s) ∧
    (li.st = .e → li.copy ≠ .lost → s.isFenced (li.owner / 4) = false → ∃ u, exec (.evictionNotice line) s = .next u ∧ u.mem = s.mem ∧ u.hbm = s.hbm ∧ rest u ∧
      u.line line = { li with
        st := .i, owner := 0x3FF, copy := .held, recWts := li.wts, recRts := li.rts, recTurn := s.turn }) ∧
    (li.copy = .lost ∨ s.isFenced (li.owner / 4) = true →
      exec (.writeBack line) s = .next s ∧ exec (.evictionNotice line) s = .next s) ∧
    (li.st ≠ .e → exec (.evictionNotice line) s = .next s) ∧
    (∀ wts pts, s.lineFault pa = none →
      let ends := lease (if wts = li.wts then pts else max pts li.wts)
      ∃ u, exec (.leaseRenewal line wts pts) s = .next u ∧ u.mem = s.mem ∧ rest u ∧ (u.line line).rts = ends ∧
        (u.line line).st = li.st ∧ (u.line line).owner = li.owner ∧ (u.line line).wts = li.wts ∧
        (li.owned = false → (u.line line).recRts = ends ∧ (u.line line).recTurn = s.turn)) ∧
    (∀ bank, li.place = .tree bank →
      ∃ u, exec (.treeBankEviction line) s = .next u ∧ u.mem = s.mem ∧
        (s.hasHomeWays line = true → ∃ w, w < home.home ∧ u.line line = { li with place := .home, way := w } ∧ backed s u ∧
          ((∃ i, i < home.home ∧ ∀ x ∈ s.lines.keys, x ≠ line → s.inHomeWay (homeOf pa % 4) (crownBankOf pa) x = true →
            crownSetOf (128 * x) = crownSetOf pa → (s.line x).way ≠ i) → u.hbm = s.hbm ∧ rest u)) ∧
        (s.hasHomeWays line = false → (u.line line).place = .none ∧ rest u ∧
          (li.owner = homeOf pa → li.copy ≠ .lost → li.st = .m ∨ li.st = .o → hbmTakes u) ∧
          (li.owner ≠ homeOf pa → u.hbm = s.hbm ∧ (u.line line).st = li.st ∧ (u.line line).owner = li.owner))) ∧
    ((∀ bank, li.place ≠ .tree bank) → exec (.treeBankEviction line) s = .next s) ∧
    (∀ job lid bank rs r, s.regions = [(bank, rs)] → r ∈ rs → r.job = job → r.lid = lid → r.warm = true → r.line ≤ line →
      line < r.line + r.len → windowOf pa = .hbm → homeOf pa = s.towerId (bank / 252) → li.bad = false →
      (li.owned = false ∨ li.owner = homeOf pa) → li.copy = .held → s.treeRoom bank = true → (∀ b, li.place ≠ .tree b) →
      ∃ u, exec (.warmPrefetch job lid line) s = .next u ∧ rest u ∧ u.line line = { li with place := .tree bank } ∧
        { u with lines := s.lines } = s) ∧
    (windowOf pa = .hbm → li.bad = false → s.scrub.getD (homeOf pa) 0 % 2 ^ 30 = offOf pa / 128 →
      ∃ u, exec (.scrubVisit line) s = .next u ∧ u.mem = s.mem ∧ rest u ∧ (u.line line).sym = false ∧
        (li.sym = true → ∃ e, u.celog.getLast? = some e ∧ e.kind = 0 ∧ e.tower = homeOf pa ∧ e.detail = pa % 2 ^ 40) ∧
        (li.recTurn ≠ s.turn → (u.line line).recTurn = s.turn ∧ (u.line line).recWts = 0 ∧ (u.line line).recRts = 0) ∧
        (li.recTurn = s.turn → u.line line = { li with sym := false })) ∧
    (∀ d a : Reg, s.me.priv = true →
      let post (x : Xlate) (p : Nat) : Option (Code × Nat) :=
        if x.mtype ≠ 0 || !(windowOf p = .hbm || windowOf p = .unbacked) then some (.permission, x.level)
        else if s.isFenced (pkgOf p) then some (.ownerFenced, 0)
        else none
      ∀ p x tlb s', s.translate s.coreCtx s.me.tlb 256 needStore post (s.me.get a &&& ~~~0x7F).toNat = .ok p x tlb s' →
        windowOf p = .hbm →
        let l := lineOf p
        let lost : Bool := (s'.line l).owned && s'.isFenced ((s'.line l).owner / 4)
        ((s'.line l).bad = false → lost = false →
          ∃ u, exec (.forfeit d a) s = .next u ∧ resultStep s u d 0 ∧ u.lines = s'.lines ∧ u.mem = s'.mem) ∧
        (let t := max (max s.me.pts (s'.homeClock (pkgOf p))) (s'.recRts l + 1)
         (s'.line l).bad = true ∨ lost = true → t ≤ 0xFFFFFF →
          ∃ u, exec (.forfeit d a) s = .next u ∧ resultStep s u d (if (s'.line l).bad then 2 else 1) ∧ u.me.pts = t ∧
            u.homeClock (pkgOf p) = t ∧ (∀ m, m ≠ l → u.line m = s'.line m) ∧
            (let y := u.line l
             y.st = .i ∧ y.owner = 0x3FF ∧ y.bad = false ∧ y.sym = false ∧ y.wts = t ∧ y.rts = t) ∧
            ∀ b, u.mem.read b = if 128 * l ≤ b ∧ b < 128 * l + 128 then
              (if (s'.line l).bad then 0 else s'.hbm.read b) else s'.mem.read b)) ∧
    (∀ (i : Nat) w, s.twig[i]? = some w →
      ((∀ v ∈ s.twig.take i, v.agent ≠ w.agent ∨ v.cl ≠ w.cl) →
        ∃ u, exec (.twigSwitchWrite i) s = .next u ∧ u.twig = s.twig.eraseIdx i ∧ u.mem = s.mem ∧
          (∀ n, n ≠ w.cl → u.cluster n = s.cluster n) ∧
          (let c := s.cluster w.cl
           let v := u.cluster w.cl
           let old := (c.leaf.read w.off).toNat
           let cell := leNat w.data % 16
           { v with leaf := c.leaf, lines := c.lines } = c ∧
           (w.half = none → ∀ a, v.leaf.read a =
             if w.off ≤ a ∧ a < w.off + w.data.length then w.data.getD (a - w.off) 0 else c.leaf.read a) ∧
           (∀ high, w.half = some high → ∀ a, v.leaf.read a =
             if a = w.off then BitVec.ofNat 8 (if high then old % 16 + 16 * cell else old / 16 * 16 + cell) else c.leaf.read a) ∧
           v.line (w.off / 128) = { c.line (w.off / 128) with full := true, clk := max (c.line (w.off / 128)).clk w.pts } ∧
           ∀ l, l ≠ w.off / 128 → v.line l = c.line l)) ∧
      ((∃ v ∈ s.twig.take i, v.agent = w.agent ∧ v.cl = w.cl) → exec (.twigSwitchWrite i) s = .next s))

/-- A turn advance sets every clock to 0 and flips the turn (R22, R29, R30, R348).
The model's own choices in it: log 1. -/
def Obligations.TurnAdvances : Prop :=
  ∀ s : State,
    let swept : Prop := ∀ t, t < 4 → 2 ^ 30 ≤ s.scrub.getD (s.towerId t) 0
    let still (c : Cluster) : Prop := (∀ l, (c.line l).clk = 0) ∧ (∀ k, (c.tile k).tclk = 0) ∧ ∀ a, (c.ag a).pts = 0
    (s.turnReq = true → swept →
      ∃ u, exec .turnAdvance s = .next u ∧ u.turn = !s.turn ∧ u.turnReq = false ∧
        (∀ t, t < 4 → u.scrub.get (s.towerId t) = some 0) ∧
        (∀ n, (u.core n).pts = 0 ∧ (∀ r, (u.core n).get r = (s.core n).get r) ∧
          (∀ k, ((u.core n).chan k).queue.map (·.word) = ((s.core n).chan k).queue.map (·.word) ∧
            ∀ m ∈ ((u.core n).chan k).queue, m.clock = 0) ∧
          (∀ m ∈ (u.core n).out, m.msg.clock = 0) ∧ ∀ b, (u.core n).burst = some b → b.clk = 0) ∧
        (∀ p, u.homeClock p = 0) ∧
        (u.mail.map (·.msg.word) = s.mail.map (·.msg.word) ∧ ∀ m ∈ u.mail, m.msg.clock = 0) ∧
        (∀ l, (u.line l).wts = 0 ∧ (u.line l).rts = 0 ∧ (u.line l).old = [] ∧ (u.line l).st = (s.line l).st ∧
          (u.line l).owner = (s.line l).owner ∧
          ((s.line l).place ≠ .none ∨ (s.line l).recTurn = s.turn → u.recWts l = 0 ∧ u.recRts l = 0)) ∧
        (∀ cl, still (u.cluster cl) ∧ (u.cluster cl).leaf = (s.cluster cl).leaf) ∧
        (u.twig.map (·.data) = s.twig.map (·.data) ∧ ∀ w ∈ u.twig, w.pts = 0) ∧
        (∀ e, (u.engine e).maxFinal = 0 ∧ ∀ k, (u.copyJob e k).pts = 0 ∧ (u.copyJob e k).final = 0) ∧
        (∀ x ∈ u.launches, x.start = 0 ∧ x.clock = 0 ∧ (∀ c, x.reached = some c → c = 0) ∧
          ∀ b, x.band = some b → (∀ v ∈ b.saved, ∀ c ∈ v.row, still c) ∧
            ∀ rows, b.context = some rows → ∀ cs ∈ rows, ∀ c ∈ cs, still c) ∧
        u.launches.map (fun x => (x.job, x.id, x.st)) = s.launches.map (fun x => (x.job, x.id, x.st)) ∧
        (∀ f ∈ u.faultq, f.clock = 0) ∧
        u.mem = s.mem ∧ u.hbm = s.hbm ∧ u.scratch = s.scratch) ∧
    (s.turnReq = false ∨ (∃ t, t < 4 ∧ s.scrub.getD (s.towerId t) 0 < 2 ^ 30) →
      exec .turnAdvance s = .next s)

/-- Launches become eligible, are checked, placed, reserve, complete, fail and end; barriers (R54, R61, R66, R74, R111, R118, R313, R316, R317, R318, R319, R320).
The model's own choices in it: logs 1, 6, 7, 24, 53, 57, 97. -/
def Obligations.LaunchLifecycle : Prop :=
  (∀ (s : State) (job lid : Nat) (l : Launch), s.live job lid = some l →
    let fails (t u : State) : Prop := ∃ m f, u.launch? job lid = some m ∧ m.status = 32 ∧ u.faultq = t.faultq ++ [f] ∧
      f.job = job ∧ u.mem = t.mem
    (∀ b : State, l.st = .waiting → l.reached.isSome = true → l.isBarrier = false → l.status = 0 → l.cancelled = false →
      ∃ y, (b.settle s).launch? job lid = some y ∧
        (s.barriersDone l = false → y.st = .waiting) ∧
        (s.barriersDone l = true → ∀ clock, l.reached = some clock →
          y.st = .eligible ∧ y.start = max l.start clock ∧ y.eligible = s.time ∧ y.check = .due)) ∧
    (∀ j, s.job job = some j → l.st = .eligible → l.status = 0 → l.cancelled = false → l.ending = none →
      (∀ bs c t s', l.check = .due → s.noteSnapshot l = .ok bs c t → t.checkWords j l = .ok () s' →
        ∃ u, exec (.launchEligible job lid) s = .next u ∧ { u with launches := s'.launches } = s' ∧
          launchNow s' u job lid { l with images := [], check := .reading [] }) ∧
      (∀ bs c t s', l.check = .due → s.noteSnapshot l = .ok bs c t → t.checkWords j l = .bad s' →
        ∃ u, exec (.launchEligible job lid) s = .next u ∧ fails s' u) ∧
      (∀ cur, l.check = .reading cur →
        let va := (l.image + 32 * ((l.images.map List.length).sum + cur.length)) % 2 ^ 64
        (∀ bs c s', s.imageRead j va = .ok bs c s' →
          let f : Frame := BitVec.ofNat 256 (leNat bs)
          let more : Launch := { l with images := l.images ++ [cur ++ [f]], check := .reading [] }
          let goes (x : Launch) : Prop := ∃ u, exec (.launchEligible job lid) s = .next u ∧
            { u with launches := s'.launches } = s' ∧ launchNow s' u job lid x
          (Frame.layout f ≠ 7 → goes { l with check := .reading (cur ++ [f]) }) ∧
          (Frame.layout f = 7 → l.images.length + 1 < l.depth → goes more) ∧
          (Frame.layout f = 7 → l.depth ≤ l.images.length + 1 → more.imageFault j = none → goes { more with check := .made }) ∧
          (Frame.layout f = 7 → l.depth ≤ l.images.length + 1 → more.imageFault j ≠ none →
            ∃ u, exec (.launchEligible job lid) s = .next u ∧ fails s' u)) ∧
        (∀ code lv, s.imageRead j va = .fault code lv → ∃ u, exec (.launchEligible job lid) s = .next u ∧ fails s u))) ∧
    (l.st ≠ .eligible ∨ l.check = .made → exec (.launchEligible job lid) s = .next s) ∧
    (∀ j b, s.job job = some j → l.st = .eligible → l.seeks = true → s.turnOf l = true → s.findBand l = some b →
      (∀ ranges s', s.demandFault b.demands = none → s.demandFits b.demands = true → s.declare j l b = .ok ranges s' →
        ∃ u, exec (.launchDispatch job lid) s = .next u ∧
          (∃ y, launchNow s u job lid { l with st := .running, band := some y, ranges := ranges } ∧
            { y with rows := b.rows, asked := b.asked } = b ∧ y.asked = b.demands ∧
            (∀ r, { y.row r with image := (b.row r).image } = b.row r) ∧
            ∀ r ∈ b.stageRows, b.scroll = false → (y.row r).image = nth b.images r []) ∧
          (∀ cl ∈ b.clusters, (u.cluster cl).launch = some (job, lid)) ∧
          (∀ cl, cl ∉ b.clusters → u.cluster cl = s.cluster cl) ∧
          ∀ t k, (u.bank t k).reserved = (s.bank t k).reserved +
            ((b.demands.filter fun d => d.bank = 64 * t + k).map (·.tokens)).sum) ∧
      (s.demandFault b.demands = none → s.demandFits b.demands = false → exec (.launchDispatch job lid) s = .next s) ∧
      (l.ending = none → s.demandFault b.demands ≠ none → ∃ u, exec (.launchDispatch job lid) s = .next u ∧ fails s u)) ∧
    (s.findBand l = none ∨ l.st ≠ .eligible ∨ s.turnOf l = false → exec (.launchDispatch job lid) s = .next s) ∧
    (l.st = .eligible → l.seeks = true → s.reserved = none →
      (∀ x ∈ s.launches, x.seeks = true → s.precedes x l = false) → l.eligible + 256 ≤ s.time →
      let ok (a : Nat) : Prop := if 16 < l.height then 12 ≤ a ∧ a < 16 else a < 12
      ∃ area, ok area ∧ (∀ a, ok a → s.freeArea a ≤ s.freeArea area) ∧
        exec (.starvationReserve job lid) s =
          .next { s with reserved := some (job, lid, area) }) ∧
    (l.ending = none →
      let begins (how : Ending) (e : EndStep) : Prop := ∃ u x, exec (.launchComplete job lid) s = .next u ∧
        { u with launches := s.launches } = s ∧ launchNow s u job lid x ∧
        { x with clock := l.clock } = { l with ending := some (how, e) } ∧ l.start ≤ x.clock ∧ l.clock ≤ x.clock ∧
        ∀ b, l.band = some b → b.context = none → ∀ cl ∈ b.clusters, ∀ a, ((s.cluster cl).ag a).pts ≤ x.clock
      (l.status ≠ 0 → begins .failed .tell) ∧
      (l.status = 0 → l.cancelled = true → begins .cancelled .count) ∧
      (∀ b, l.status = 0 → l.cancelled = false → l.st = .running → l.placed = some b → s.bandDone b = true →
        begins .completed (.discard (s.deadStreams l) 0 0)) ∧
      (l.status = 0 → l.cancelled = false → (∀ b, l.placed = some b → s.bandDone b = false) →
        exec (.launchComplete job lid) s = .next s)) ∧
    (∀ how e j, l.ending = some (how, e) → s.job job = some j →
      let goes (t : State) (clock : Nat) (e : EndStep) (other : State → Prop) : Prop :=
        ∃ u, exec (.launchComplete job lid) s = .next u ∧ launchNow t u job lid { l with clock := clock, ending := some (how, e) } ∧
          other u
      let same (t u : State) : Prop := { u with launches := t.launches } = t
      let ctx := s.endCtx j l l.clock
      let counts (va : Nat) (next : EndStep) : Prop :=
        ∀ pa x tlb t, s.counterPa ctx needBoth va = .ok pa x tlb t → windowOf pa = .hbm →
          let c := max l.clock ((t.line (lineOf pa)).rts + 1)
          c ≤ 0xFFFFFF → goes t c next fun u => stored t.mem u.mem pa 8 (t.mem.readLe pa 8 + 1) ∧ (u.line (lineOf pa)).wts = c
      (∀ ss line k pa s', e = .discard ss line (k + 1) → s.streamLine ctx needStore s.jobCheck line = .ok pa s' →
        let c := max l.clock ((s'.line (lineOf pa)).rts + 1)
        c ≤ 0xFFFFFF → goes s' c (.discard ss (line + 1) k) fun u =>
          (u.line (lineOf pa)).st = .i ∧ (u.line (lineOf pa)).wts = c ∧ (∀ m, m ≠ lineOf pa → u.line m = s'.line m) ∧
          ∀ a, u.mem.read a = if a / 128 = lineOf pa then s'.hbm.read a else s'.mem.read a) ∧
      (∀ ss line k s', e = .discard ss line (k + 1) → s.streamLine ctx needStore s.jobCheck line = .bad s' →
        goes s' l.clock (.discard ss (line + 1) k) (same s')) ∧
      (∀ id n ss line y k first s', e = .discard ((id, n) :: ss) line 0 → s.launch? job id = some y →
        s.deadRange j y n = .ok (first, k) s' → goes s' l.clock (.discard ss first k) (same s')) ∧
      (∀ line, e = .discard [] line 0 → goes s l.clock .signal (same s)) ∧
      (e = .signal → (l.signalCounter = 0 → goes s l.clock .tell (same s)) ∧ (l.signalCounter ≠ 0 → counts l.signalCounter .tell)) ∧
      (e = .tell → (∀ n, l.core = some n →
          goes s l.clock .count fun u => ((s.core n).chan 62).entry.isSome = true →
            u.mail = s.mail ++ [⟨.scheduler, n, 62, ⟨BitVec.ofNat 64 (l.status % 256 * 2 ^ 32 + lid % 2 ^ 32), l.clock⟩⟩]) ∧
        (l.core = none →
          let q := s.regs.donq.getD j.vf []
          (q.length < 64 → goes s l.clock .count fun u =>
            u.regs.donq.getD j.vf [] = q ++ [BitVec.ofNat 64 (2 ^ 63 + l.status % 256 * 2 ^ 32 + lid % 2 ^ 32)] ∧
            (q = [] → u.regs.msix.getD (4 * j.vf) false = true)) ∧
          (64 ≤ q.length → exec (.launchComplete job lid) s = .next s))) ∧
      (e = .count → counts j.ended .close) ∧
      (∀ bs c t, e = .close → s.noteSnapshot { l with st := .ended } = .ok bs c t →
        ∃ u x, exec (.launchComplete job lid) s = .next u ∧ u.launch? job lid = some x ∧ x.st = .ended ∧ x.band = none ∧
          x.entry = none ∧ x.clock = l.clock ∧ x.status = l.status ∧ x.ending = some (how, .refill) ∧
          (∀ b, l.band = some b → b.context = none → ∀ cl ∈ b.clusters, (u.cluster cl).launch = none) ∧
          (∀ p ∈ u.regions, ∀ r ∈ p.2, ¬ (r.job = job ∧ r.lid = lid)) ∧
          (∀ a, u.reserved ≠ some (job, lid, a)) ∧
          (l.isBarrier = true → how = .completed → ∃ i, u.job job = some i ∧ i.barrier = max j.barrier (l.order + 1))) ∧
      (l.isBarrier = true → exec (.barrierComplete job lid) s = exec (.launchComplete job lid) s)) ∧
    (∀ j s', s.job job = some j → l.isBarrier = true → l.ending = none → l.reached.isSome = true → l.status = 0 →
      l.cancelled = false → l.band = none → (∀ x ∈ s.launches, x.job = job → x.order < l.order → x.st = .ended) →
      s.checkWords j l = .ok () s' →
      let clock := (((s.launches.filter fun x => x.job = job ∧ x.order < l.order).map (·.clock)).foldl max 0)
      let m : Launch := { l with start := 0, clock := clock }
      ∃ u, exec (.barrierComplete job lid) s = .next u ∧
        launchNow s' u job lid { m with ending := some (.completed, .discard (s'.deadStreams m) 0 0) }) ∧
    (l.ending = none → (∃ x ∈ s.launches, x.job = job ∧ x.order < l.order ∧ x.st ≠ .ended) →
      exec (.barrierComplete job lid) s = .next s) ∧
    (∀ b, l.placed = some b →
      (∀ row, b.held row = true → s.storesDone (b.rowClusters row) = true →
        (∀ cl ∈ b.rowClusters row, (s.cluster cl).idle = true) →
        ∃ u, exec (.quiescenceReport job lid row) s = .next u ∧ { u with launches := s.launches } = s ∧
          launchNow s u job lid { l with band := some { b with
            holds := b.holds.map fun h => ⟨h.row, h.core, h.quiet || decide (h.row = row), h.sent⟩ } }) ∧
      (2 ^ 20 ≤ b.deadlock → l.status = 0 → l.ending = none →
        ∃ u f, exec (.deadlockDetected job lid) s = .next u ∧ launchNow s u job lid { l with status := 36 } ∧
          u.faultq = s.faultq ++ [f] ∧ f.job = job ∧ { u with launches := s.launches, faultq := s.faultq } = s) ∧
      (b.deadlock < 2 ^ 20 → exec (.deadlockDetected job lid) s = .next s))) ∧
  ∀ (s : State) (job lid : Nat) (l : Launch) how j, s.launch? job lid = some l → l.ending = some (how, .refill) →
    s.job job = some j →
    let next := (s.ofJob job).find? fun x => x.admissible && j.admits (s.poolUse job) x.res
    (next = none → ∃ u, exec (.launchComplete job lid) s = .next u ∧ { u with launches := s.launches } = s ∧
      launchNow s u job lid { l with ending := none }) ∧
    ∀ x, next = some x → x.pq = none → ∃ u, exec (.launchComplete job lid) s = .next u ∧
      { u with launches := s.launches } = s ∧ launchNow s u job x.id { x with entry := some (s.freeEntry job), pq := none }

/-- A row of a scrolling band loads, restores, drains, saves and retires (R116, R325, R326, R327, R334, R335, R336, R337, R343). -/
def Obligations.RowMoves : Prop :=
  ∀ (s : State) (job lid r : Nat) (l : Launch) (b : Band), s.scrolling job lid = some (l, b) → r < b.rows.length →
    let x := b.row r
    let stage := (b.stageAt r).1
    let wave := (b.stageAt r).2
    let outside (u : State) : Prop := ∀ cl, cl ∉ b.rowClusters r → u.cluster cl = s.cluster cl
    let kept (u : State) : Prop := ∀ c, c < b.width →
      (u.cluster (b.cluster r c)).kept = (nth b.images stage []).filter (fun f => Frame.col f = c) ∧
      (u.cluster (b.cluster r c)).done = false
    (x.st = .empty → b.granted r = true → (b.rowClusters r).Nodup →
      ∃ u, exec (.rowLoadStart job lid r) s = .next u ∧
        rowNow s u job lid r b
          { x with st := .loading, stall := 0, wrote := false, image := nth b.images stage [] } ∧ kept u ∧ outside u ∧ u.mem = s.mem) ∧
    (x.st ≠ .empty ∨ b.granted r = false → exec (.rowLoadStart job lid r) s = .next s) ∧
    (x.st = .loading → x.stall = 0 → s.configured b r = true →
      let there (u : State) : Prop := rowNow s u job lid r b { x with st := .resident, resumed := false }
      (wave = 0 → x.resumed = false →
        ∃ u, exec (.rowLoadComplete job lid r) s = .next u ∧ there u ∧ { u with launches := s.launches } = s) ∧
      (∀ v pas s', wave ≠ 0 → x.resumed = false → b.waveBeforeSaved x.p = true → b.savedOf stage = some v → v.check = true →
        s.areaLines (s.areaCtx l b) needLoad (areaVa (((b.area stage).map fun a => a.2.1).getD 0) stage)
          ((v.image.length + 127) / 128) = .ok pas s' →
        let bs := ((pas.map fun pa => s'.scratch.readN pa 128).flatten).take v.image.length
        (bs = v.image → v.wave = wave - 1 → (b.rowClusters r).Nodup →
          ∃ u, exec (.rowLoadComplete job lid r) s = .next u ∧ there u ∧
            ∀ c y, c < b.width → v.row[c]? = some y →
              u.cluster (b.cluster r c) = (s.cluster (b.cluster r c)).restore y) ∧
        (bs ≠ v.image ∨ v.wave ≠ wave - 1 →
          ∃ u y, exec (.rowLoadComplete job lid r) s = .next u ∧ u.launch? job lid = some y ∧ y.status = 9))) ∧
    (x.st = .resident → b.closing = false → b.eosWave ≠ some wave → b.beforeGone x.p = true →
      s.rowThrough b r false = true →
      ∃ u, exec (.rowDrained job lid r) s = .next u ∧ rowNow s u job lid r b { x with st := .drained } ∧
        { u with launches := s.launches } = s) ∧
    (b.beforeGone x.p = false → exec (.rowDrained job lid r) s = .next s) ∧
    (x.st = .drained → b.granted r = true →
      (∀ image s', s.saveRow l b r = .ok image s' →
        ∃ u, exec (.rowSaveStart job lid r) s = .next u ∧
          rowNow s u job lid r b { x with st := .saving, reread := false, wrote := true } ∧ u.posted = s'.posted ∧
          ∀ cl, u.cluster cl = s.cluster cl) ∧
      (∀ c lv va d, s.saveRow l b r = .fault c lv va d →
        ∃ u f, exec (.rowSaveStart job lid r) s = .next u ∧ u.faultq = s.faultq ++ [f] ∧ f.unit = .save job lid r ∧
          rowNow s u job lid r b { x with
            st := .saving, stall := Code.num c, reread := decide (c = .saveAreaExhausted) } ∧
          u.posted = s.posted)) ∧
    (x.st = .saving → x.wrote = true → (∀ p ∈ s.posted, p.agent ≠ saveAgent (b.cluster r 0)) →
      let p := x.p + b.height
      let on : Prop := (∀ e, b.eosWave = some e → p ≤ e * b.depth + b.depth - 1) ∧ b.closing = false
      ∃ u, exec (.rowSaveComplete job lid r) s = .next u ∧ outside u ∧ u.mem = s.mem ∧
        (on → rowNow s u job lid r b ⟨.loading, p, 0, false, false, false, nth b.images (p % max 1 b.depth) []⟩) ∧
        (¬ on → rowNow s u job lid r b ⟨.empty, p, 0, false, false, false, []⟩)) ∧
    ((∃ p ∈ s.posted, p.agent = saveAgent (b.cluster r 0)) → exec (.rowSaveComplete job lid r) s = .next s) ∧
    (x.st = .resident → b.eosWave = some wave → s.rowThrough b r true = true →
      (b.rowClusters r).Nodup →
      ∃ u, exec (.rowEosRetire job lid r) s = .next u ∧ outside u ∧ u.posted = s.posted ∧
        rowNow s u job lid r b ⟨.empty, x.p + b.height, 0, false, false, false, []⟩ ∧
        ∀ cl ∈ b.rowClusters r, u.cluster cl = (s.cluster cl).bare)

namespace Sys2Proof.Claims

/-- What a step makes of an instruction's outcome: the notices of the step follow a next state. -/
def settled (s : State) (o : Host.Outcome State Fault Refusal) : Host.Outcome State Fault Refusal :=
  match o with
  | .next t => .next (s.settle t)
  | .fault f => .fault f
  | .refused r => .refused r

/-- The bytes of memory, of HBM and of crown scratch are in their one canonical form. -/
def memoriesWf (s : State) : Prop := s.mem.wf = true ∧ s.hbm.wf = true ∧ s.scratch.wf = true

end Sys2Proof.Claims
open Sys2Proof.Claims

/-- Decoding and encoding agree, in both directions (R2, R156, R157, R158, R160, R162, R163, R164, R167, R168, R209, R263). -/
def Obligations.DecodeEncode : Prop :=
  (∀ i : Instr, i.wf = true →
    (∀ w, encodeWord i = some w → decodeWord w = .instr i) ∧
    (∀ f, encodeFrame i = some f → decodeFrame f = .instr i) ∧
    (encode i ≠ [] → decodeTableWord (8 * (encode i).length) (leNat (encode i)) = some i)) ∧
    (∀ w i, decodeWord w = .instr i → i.wf = true ∧ encodeWord i = some w) ∧
    (∀ f i, decodeFrame f = .instr i → i.wf = true ∧ encodeFrame i = some f)

/-- Words and frames written out from the encodings of the spec decode to their instructions (R156, R157, R158, R159, R160, R161, R162, R163, R164, R167, R168, R263). -/
def Obligations.SampleWords : Prop :=
  decodeWord 0x01190A0000000000 = .instr (.add 3 4 5) ∧ decodeWord 0x0531D00100000000 = .instr (.div .s 6 7 8) ∧
    decodeWord 0x20108000FFFFFFF8 = .instr (.addi 2 2 0xFFFFFFF8) ∧
    decodeWord 0x41004000FFFFFFFD = .instr (.bne 1 0 0xFFFFFFFD) ∧
    decodeWord 0x5019002100000010 = .instr (.ld .w true 3 4 0x10) ∧
    decodeWord 0x51010E3000000008 = .instr (.st .d 4 7 8) ∧
    decodeWord 0x60190A3000000000 = .instr (.amo .add true 3 4 5 0) ∧
    decodeWord 0x7101800000000005 = .instr (.sout 0 6 5) ∧
    decodeWord 0xF218000000000001 = .instr (.sysrd 3 .cause) ∧ decodeWord 0xF100000000000000 = .instr .eret ∧
    decodeWord 0xFF00000000000000 = .illegal ∧ decodeWord 0x01190A0000000001 = .reserved false ∧
    decodeWord 0xF100000000000001 = .reserved true ∧
    (let frame (hi lo : Nat) : Frame := BitVec.ofNat 256 (hi * 2 ^ 128 + lo)
     let lo := 0x00000040000000000000000000000000
     let ffma : SlotCfg :=
       { col := 2, unit := 0, sub := 0, src3 := 15, src2 := 2, src1 := 1, src0 := 0, dst := 0x2002, emp3 := 0, emp2 := 0,
         emp1 := 0, emp0 := 0, len := 0, cst := 0, fmt := 0, rnd := 0, sat := false, ftz := false, trapinv := false,
         seed := 0, qselD := 0, qselC := 0, qselB := 1, qselA := 0, agsel := 0, dos := 0 }
     decodeFrame (frame 0x0400330F210200200000000000000000 lo) = .instr (.ffma ffma) ∧
     decodeFrame (frame 0x0400330F410200200000000000000000 lo) = .instr (.ffma { ffma with src2 := 4 }) ∧
     decodeFrame (frame 0x0010200FF10008000000000000600000 0) = .instr (.padd { ffma with
       col := 0, unit := 1, src2 := 15, dst := 0x80, fmt := 6, qselB := 0 }) ∧
     decodeFrame (frame (7 * 2 ^ 125) 0) = .instr .imageEnd ∧
     [frame 0x0400330F210200200000000000050000 lo, frame 0x0420330F210200200000000000000000 lo,
       frame 0x04007F0F210200200000000000000000 lo, frame 0x8400330F210200200000000000000000 lo,
       frame 0x0400330F210200200400000000000000 lo].all (fun f => decodeFrame f = .blocked 32) = true)

/-- A step runs the instruction decoded at the PC, or the next unit's or event's (R66, R117, R156, R161, R186, R187, R237, R251, R345).
The model's own choices in it: logs 1, 10. -/
def Obligations.StepRunsDecoded : Prop :=
  ∀ (s : State) (r : List Move),
    (∀ n, n < 192 → s.sched = .core n :: r ∨ (s.sched = [] ∧ r = [] ∧ n = s.actor) →
      let s0 : State := { s with sched := r, actor := n }
      let c := s0.me
      (c.halted = true → step s = .next (s.settle s0)) ∧
      (c.halted = false → c.task = .none →
        (∀ k, c.pickChannel = some k →
          step s = settled s (exec (if (c.chan k).resumable then .taskResume n else .taskStart n) s0)) ∧
        (c.pickChannel = none → step s = .next (s.settle s0))) ∧
      (c.halted = false → c.task ≠ .none →
        (∀ b, c.burst = some b → step s = settled s (exec b.instr s0)) ∧
        (c.burst = none → c.ahead.contains c.pc = true →
          step s = .next (s.settle (s0.setMe { c.advance with ahead := c.ahead.filter (· ≠ c.pc) })))) ∧
      (∀ pa x tlb s', c.halted = false → c.task ≠ .none → c.burst = none → c.ahead.contains c.pc = false →
        s0.translate s0.coreCtx c.tlb 256 needFetch (fun x pa =>
          if x.mtype ≠ 0 || windowOf pa ≠ .hbm then some (.permission, x.level)
          else (s0.lineFault pa).map fun c => (c, 0)) c.pc.toNat = .ok pa x tlb s' →
        latest s' c.pts pa →
        let w : Word := BitVec.ofNat 64 (s'.mem.readLe (pa / 8 * 8) 8)
        let t := (s'.setMe { c with tlb := tlb }).correct (homeOf (pa / 8 * 8)) (pa / 8 * 8)
        (∀ i, decodeWord w = .instr i → step s = settled s (exec i t)) ∧
        (decodeWord w = .illegal → ∃ u, step s = .next (s.settle u) ∧ trapped t u 1 0 w) ∧
        (decodeWord w = .reserved false → ∃ u, step s = .next (s.settle u) ∧ trapped t u 2 0 w) ∧
        (decodeWord w = .reserved true →
          ∃ u, step s = .next (s.settle u) ∧ (if c.priv then trapped t u 2 0 w else trapped t u 7 0 0)))) ∧
    (∀ cl k i, s.sched = .unit cl k :: r → cl < 3072 → (s.cluster cl).unitTurn cl k = some i →
      step s = settled s (exec i { s with sched := r, site := (cl, k) })) ∧
    (∀ cl k f op g i, k < 4 → ((s.cluster cl).slot k).frame = some f → (s.cluster cl).slotCfg? k = some (op, g) →
      (s.cluster cl).slotFires k op g ((s.cluster cl).slot k) = true → decodeFrame f = .instr i →
      (s.cluster cl).unitTurn cl k = some i) ∧
    (∀ i, s.sched = .event i :: r → step s = settled s (exec i { s with sched := r })) ∧
    (∀ n k, n < 192 → s.sched = .ahead n k :: r →
      let s0 : State := { s with sched := r, actor := n }
      let c := s0.me
      (c.halted = true ∨ c.task = .none ∨ c.burst ≠ none → step s = .next (s.settle s0)) ∧
      ∀ is t, c.halted = false → c.task ≠ .none → c.burst = none → s0.wordsOn (k + 1) = some (is, t) →
        let t0 := t.setMe { t.me with pc := c.pc }
        let at_ : Word := c.pc + 8 * BitVec.ofNat 64 k
        ∃ u, step s = .next (s.settle u) ∧
          (u = t0 ∨ ∃ v, exec (nth is k .nop) (t0.setMe { t0.me with pc := at_ }) = .next v ∧ v.me.pc = at_ + 8 ∧
            u = v.setMe { v.me with pc := c.pc, ahead := at_ :: v.me.ahead })) ∧
    (∀ n, s.sched = .core n :: r ∨ (∃ k, s.sched = .ahead n k :: r) → 192 ≤ n → step s = .fault .noSuchAgent) ∧
    (∀ cl k, s.sched = .unit cl k :: r → 3072 ≤ cl → step s = .fault .noSuchAgent)

/-- Every step keeps the canonical form of memory, HBM and crown scratch (R2, R30, R53, R57, R60, R66, R68, R352). -/
def Obligations.StepKeepsMemories : Prop :=
  ∀ s t, memoriesWf s → step s = .next t → memoriesWf t

/-- What reset leaves (R13, R22, R30, R56, R234, R239, R240, R241, R352).
The model's own choices in it: log 2. -/
def Obligations.ResetState : Prop :=
  let s : State := State.reset;
    memoriesWf s ∧ (∀ a, s.mem.read a = 0 ∧ s.hbm.read a = 0 ∧ s.scratch.read a = 0) ∧ s.turn = false ∧
    (∀ l, let x := s.line l
      x.st = .i ∧ x.owner = 0x3FF ∧ x.wts = 0 ∧ x.rts = 0 ∧ x.old = [] ∧ x.bad = false ∧ x.word = 0x1FF8) ∧
    (∀ n, let c := s.core n
      c.priv = true ∧ c.task = .none ∧ (∀ r, c.get r = 0) ∧ c.pts = 0 ∧ c.job = 0xFFFF ∧ c.halted = false ∧ c.out = [] ∧
        c.pc = 0 ∧ c.vbase = 0 ∧ c.tbase = 0 ∧ c.epc = 0 ∧
        ∀ k, (c.chan k).entry = none ∧ (c.chan k).mask = false ∧ (c.chan k).pri = 0 ∧ (c.chan k).queue = [] ∧
          (c.chan k).deferred = none) ∧
    s.launches = [] ∧ s.jobs = [] ∧ s.mail = [] ∧ s.clusters = [] ∧ s.fenced = [] ∧ s.turnReq = false

/-- A fault record is written to its job's queue, and FRESUME resumes the unit it describes (R19, R80, R339, R340, R341, R342, R343, R378).
The model's own choices in it: logs 66, 75. -/
def Obligations.FaultRecordsAndResumption : Prop :=
  ∀ (s : State),
    (∀ job j f i, s.job job = some j → s.faultq.findIdx? (fun g => g.job = job && g.n.isNone) = some i → s.faultq[i]? = some f →
      let e := j.faults % max 1 j.fqn
      ∀ pa x tlb s', s.translate (s.jobCtx j) [] 0 needBoth s.jobCheck (j.fqbase + 64 * e) = .ok pa x tlb s' →
        windowOf pa = .hbm →
        (2 ^ 63 ≤ s'.mem.readLe pa 8 → exec (.faultRecordWrite job) s = .next s') ∧
        (let t := max (s'.homeClock (pkgOf pa)) ((s'.line (lineOf pa)).rts + 1)
         let w0 := nth f.words 0 0
         s'.mem.readLe pa 8 < 2 ^ 63 → t ≤ 0xFFFFFF → f.words.length = 8 →
          ∃ u, exec (.faultRecordWrite job) s = .next u ∧
            (∀ b, u.mem.read b = if pa ≤ b ∧ b < pa + 64 then
              BitVec.ofNat 8 ((nth f.words ((b - pa) / 8) 0).toNat / 256 ^ ((b - pa) % 8)) else s'.mem.read b) ∧
            (u.line (lineOf pa)).wts = t ∧ u.homeClock (pkgOf pa) = t ∧
            u.mail = s'.mail ++ [⟨.home (s'.towerId (bits (nth f.words 1 0) 63 54 % 4)), f.core, 63, ⟨BitVec.ofNat 64
              (bits w0 31 0 * 2 ^ 32 + bits w0 39 32 * 2 ^ 24 + e % 2 ^ 16), if bits w0 62 60 = 6 then max t f.clock else t⟩⟩] ∧
            u.faultq = (if f.unit = .none then s.faultq.eraseIdx i else s.faultq.set i { f with n := some j.faults }) ∧
            u.job job = some { j with faults := j.faults + 1 } ∧ u.regs.msix.getD (4 * j.vf + 1) false = true)) ∧
    (∀ job, (∀ f ∈ s.faultq, f.job = job → f.n ≠ none) → exec (.faultRecordWrite job) s = .next s) ∧
    (∀ (w : Writer) (index id : Nat),
      let r := (s.performWriter w).faultsAt index id ((s.performWriter w).fresumeJobs w)
      let resumes (skip : Bool) (o : Host.Outcome State Fault Refusal) : Prop :=
        (writerExists w = false → o = .next s) ∧
        (writerExists w = true →
          (r.1 = [] → ∃ u, o = .next u ∧ u.stat w = 1 ∧ u.faultq = s.faultq) ∧
          (2 ≤ r.1.length → ∃ u, o = .next u ∧ u.stat w = 3 ∧ u.faultq = s.faultq) ∧
          (∀ f, r.1 = [f] →
            let allowed := (bits (nth f.words 0 0) 49 48).testBit (if skip then 1 else 0)
            let lid := bits (nth f.words 0 0) 31 0
            let clock := (s.performWriter w).writerClock w
            (allowed = false → ∃ u, o = .next u ∧ u.stat w = 2 ∧ u.faultq = s.faultq) ∧
            (allowed = true →
              ∃ u, o = .next u ∧ u.stat w = 0 ∧
                u.faultq = (s.faultq.filter fun g => !(g.job = f.job && g.n = f.n)) ∧
                (∀ e k, f.unit = .copy e k → (u.copyJob e k).stall = false ∧
                  (u.copyJob e k).pts = max (s.copyJob e k).pts clock) ∧
                (∀ row l b, f.unit = .save f.job lid row → s.live f.job lid = some l → l.band = some b → row < b.rows.length →
                  ∃ x y, u.launch? f.job lid = some x ∧ x.band = some y ∧ (y.row row).stall = 0) ∧
                (∀ cl k l b p, f.unit = .slot cl k → s.live f.job lid = some l → l.placed = some b → b.place cl = some p →
                  (b.row p.1).resumed = false →
                  ((u.cluster cl).slot k).stall = false ∧ ((u.cluster cl).slot k).skip = skip) ∧
                (∀ cl k l b p, f.unit = .ag cl k → s.live f.job lid = some l → l.placed = some b → b.place cl = some p →
                  (b.row p.1).resumed = false →
                  ((u.cluster cl).ag k).stall = false ∧ ((u.cluster cl).ag k).skip = skip ∧
                    ((u.cluster cl).ag k).pts = max ((s.cluster cl).ag k).pts clock))))
      (∀ f ∈ r.1, f ∈ s.faultq ∧ f.unit ≠ .none ∧ bits (nth f.words 0 0) 31 0 = id ∧ ∃ j n, s.job f.job = some j ∧
        f.n = some n ∧ n % max 1 j.fqn = index ∧ ∀ k, w = .root k → f.job = (s.core k).job) ∧
      resumes false (exec (.fresumeRetry w index id) s) ∧ resumes true (exec (.fresumeSkip w index id) s) ∧
      (∃ u, exec (.fresumeRetry w index id) s = .next u ∧ (writerExists w = true → u.stat w ≤ 3)) ∧
      ∃ u, exec (.fresumeSkip w index id) s = .next u ∧ (writerExists w = true → u.stat w ≤ 3))

/-- Pre-empting and resuming a job; halting, releasing and starting a core; freezing; the scan window (R47, R110, R242, R344, R345, R346, R347, R348, R349, R350, R356).
The model's own choices in it: log 59. -/
def Obligations.PreemptionAndControl : Prop :=
  ∀ (s : State) (job lid : Nat),
    let ids : Prop := (s.launches.map fun l => (l.job, l.id)).Nodup
    let asks (act : Nat) : Prop := s.request act = true ∧ s.requestJob = job
    let done (u : State) : Prop := bitAt u.regs.preempt 63 = false
    (asks 1 → s.regs.preempting = none → ids →
      ∃ u, exec (.preemptJob job) s = .next u ∧ u.regs.preempting = some job ∧ bitAt u.regs.preempt 63 = true ∧ u.mem = s.mem ∧
        (∀ l ∈ s.launches, ∀ b, l.job = job → l.st = .running → l.status = 0 → l.placed = some b →
          ∃ x y, u.launch? job l.id = some x ∧ x.band = some y ∧ y.closing = true) ∧
        ∀ e k, (s.copyJob e k).st ≠ .free → (s.copyJob e k).job = job →
          ((u.copyJob e k).halt = true ↔ (s.copyJob e k).fail = 0 ∧ (s.copyJob e k).st ≠ .stopped)) ∧
    (¬ asks 1 → exec (.preemptJob job) s = .next s) ∧
    (∀ l b, s.live job lid = some l → l.band = some b →
      (b.closing = false ∨ b.context ≠ none → exec (.drainWindowExpiry job lid) s = .next s) ∧
      (b.closing = true → b.context = none → l.status = 0 → l.cancelled = false → l.ending = none →
        let s1 := ((b.clusters.map s.agentsOf).flatten).foldl State.performAll s
        let quiet (u : State) : Prop := ∀ cl ∈ b.clusters, (∀ p ∈ u.posted, p.agent ∉ s.agentsOf cl) ∧
          ∀ w ∈ u.twig, w.agent ∉ s.agentsOf cl
        let saved : Prop := ∀ r, r < b.height → b.scroll = true → b.unkept r = false
        let bandNow (u : State) (y : Band) : Prop := launchNow s u job lid { l with band := some y }
        (b.leaving = false → quiet s1 ∧
          (s1.bandDone b = true → exec (.drainWindowExpiry job lid) s = .next s1) ∧
          (s1.bandDone b = false → ∃ u y, exec (.drainWindowExpiry job lid) s = .next u ∧ bandNow u y ∧ quiet u ∧
            y.leaving = true ∧ y.relatch = none ∧ y.ctxDone = 0 ∧ y.rows = b.rows ∧ y.closing = true ∧
            (∀ cl, (u.cluster cl).q = (s.cluster cl).q) ∧
            (b.relatch ≠ none → (∀ cl ∈ b.clusters, ∀ a, ((u.cluster cl).ag a).bases = []) ∧
              ∀ v ∈ y.saved, ∀ c ∈ v.row, ∀ a, (c.ag a).bases = []))) ∧
        (∀ r, b.leaving = true → b.scroll = true → b.byPosition.find? b.unkept = some r →
          let x := b.row r
          let stage := (b.stageAt r).1
          (∀ image s', x.st ≠ .saving → s.saveRow l b r = .ok image s' →
            ∃ u y v, exec (.drainWindowExpiry job lid) s = .next u ∧ bandNow u y ∧ y.savedOf stage = some v ∧
              v.image = image ∧ v.wave = (b.stageAt r).2 ∧ v.check = true ∧ v.row = (b.rowClusters r).map s.cluster ∧
              (r < b.rows.length → x.st = .resident → y.row r = { x with st := .empty, resumed := true }) ∧
              (r < b.rows.length → x.st = .drained → y.row r = ⟨.empty, x.p + b.height, 0, false, false, false, []⟩)) ∧
          (x.st = .saving → x.wrote = true → r < b.rows.length → ∃ u y, exec (.drainWindowExpiry job lid) s = .next u ∧
            bandNow u y ∧ y.row r = ⟨.empty, x.p + b.height, 0, false, false, false, []⟩)) ∧
        (∀ j e pa x tlb s', b.leaving = true → saved → b.ctxDone < b.ctxLines → s.job job = some j → l.job = job →
          l.entry = some e →
          s.translate (s.jobCtx j) [] 0 needStore s.jobCheck ((j.ctxbase + j.ctxper * e + 128 * b.ctxDone) % 2 ^ 64) = .ok pa x tlb s' →
          windowOf pa = .hbm → max (s'.homeClock (pkgOf pa)) ((s'.line (lineOf pa)).rts + 1) ≤ 0xFFFFFF →
          ∃ u, exec (.drainWindowExpiry job lid) s = .next u ∧ bandNow u { b with ctxDone := b.ctxDone + 1 } ∧
            ∀ a, a < pa ∨ pa + 128 ≤ a → u.mem.read a = s'.mem.read a) ∧
        (b.leaving = true → saved → b.ctxLines ≤ b.ctxDone →
          ∃ u y ctx, exec (.drainWindowExpiry job lid) s = .next u ∧ bandNow u y ∧
            y.context = some ctx ∧ y.closing = false ∧ y.leaving = false ∧ y.resume = false ∧ ctx.length = b.height ∧
            (∀ (r : Nat) (row : List Cluster), ctx[r]? = some row → row = (b.rowClusters r).map s.cluster) ∧
            quiet u ∧ ∀ cl ∈ b.clusters, (u.cluster cl).launch = none))) ∧
    (asks 2 → ids →
      ∃ u, exec (.resumeJob job) s = .next u ∧ done u ∧ u.clusters = s.clusters ∧
        (∀ l ∈ s.launches, ∀ b, l.job = job → l.band = some b →
          u.launch? job l.id = some { l with band := some { b with resume := b.context.isSome } }) ∧
        ∀ e k, (s.copyJob e k).job = job → (s.copyJob e k).st = .stopped →
          let due : Prop := ∃ l ∈ s.launches, l.job = job ∧ ∃ b, l.band = some b ∧ b.context ≠ none
          (due → (u.copyJob e k).st = .stopped ∧ (u.copyJob e k).going = true) ∧
          (¬ due → (u.copyJob e k).st = if (s.copyJob e k).limit = 0 then .waiting else .running)) ∧
    (¬ asks 2 → exec (.resumeJob job) s = .next s) ∧
    (∀ l j old ctx b s2, s.live job lid = some l → s.job job = some j → l.band = some old → old.context = some ctx →
      ctx.length ≤ old.height → l.seeks = true → s.turnOf l = true → s.findBand l = some b →
      s.demandFault b.demands = none → s.demandFits b.demands = true →
      let new : Band := { old with
        tower := b.tower, layer := b.layer, x := b.x, y := b.y, context := none, resume := false, ctxLines := 0, ctxDone := 0 }
      let new : Band := { new with asked := new.demands }
      (old.ctxLines ≤ old.ctxDone → (s.dropRegions job lid).reenter j l new = .ok () s2 →
        ∃ u, exec (.launchResumePlace job lid) s = .next u ∧ launchNow s u job lid { l with band := some new } ∧
          (∀ cl ∈ new.clusters, (u.cluster cl).launch = some (job, lid)) ∧
          (∀ cl, cl ∉ new.clusters → u.cluster cl = s.cluster cl) ∧
          (old.scroll = false → new.clusters.Nodup → ∀ (r c : Nat) row x, ctx[r]? = some row → row[c]? = some x → c < new.width →
            let y := u.cluster (new.cluster r c)
            y.q = x.q.mapVals (fun ts => ts.filter fun t => t.kind ≠ 7) ∧ y.cfg = x.cfg ∧ y.flags = x.flags ∧ y.ports = x.ports)) ∧
      (∀ e pa x tlb s', old.ctxDone < old.ctxLines → l.job = job → l.entry = some e →
        s.translate (s.jobCtx j) [] 0 needLoad s.jobCheck ((j.ctxbase + j.ctxper * e + 128 * old.ctxDone) % 2 ^ 64) = .ok pa x tlb s' →
        ∃ u, exec (.launchResumePlace job lid) s = .next u ∧ u.mem = s'.mem ∧
          launchNow s u job lid { l with band := some { old with ctxDone := old.ctxDone + 1 } })) ∧
    (∀ n, let c := s.core n
      let only (u : State) : Prop := (∀ m, m ≠ n → u.core m = s.core m) ∧ done u ∧ u.mem = s.mem
      let begun : Prop := ∃ b, c.burst = some b ∧ b.lines ≠ []
      (s.coreRequest 3 n = true → ¬ begun →
        ∃ u, exec (.haltCore n) s = .next u ∧ u.core n = { c with halted := true, burst := none } ∧ only u) ∧
      (begun → exec (.haltCore n) s = .next s) ∧
      (s.coreRequest 4 n = true → ∃ u, exec (.releaseCore n) s = .next u ∧ only u ∧
        { u.core n with chans := c.chans } =
          { c with halted := false, relatch := c.relatch.map fun _ => s.relatching c.asid } ∧
        ∀ k, { (u.core n).chan k with deferred := (c.chan k).deferred } = c.chan k ∧
          ((u.core n).chan k).deferred =
            (c.chan k).deferred.map fun d => { d with ready := d.ready || d.told, told := false }) ∧
      (s.coreRequest 7 n = true → c.halted = true → c.task = .none →
        ∃ u, exec (.startCore n) s = .next u ∧ only u ∧
          (let d := u.core n
           d.task = .start ∧ d.halted = false ∧ d.pc = c.pc ∧ d.priv = c.priv ∧
             (∀ k, { d.chan k with deferred := (c.chan k).deferred } = c.chan k ∧ (d.chan k).deferred =
               (c.chan k).deferred.map fun x => { x with ready := x.ready || x.told, told := false }) ∧
             ∀ r : Reg, d.get r = if r = 1 ∨ r = 2 then 0 else c.get r)) ∧
      (s.coreRequest 3 n = false → exec (.haltCore n) s = .next s) ∧
      (s.coreRequest 4 n = false → exec (.releaseCore n) s = .next s) ∧
      (s.coreRequest 7 n = false ∨ c.halted = false ∨ c.task ≠ .none → exec (.startCore n) s = .next s)) ∧
    (∀ l b, s.live job lid = some l → l.band = some b → s.requestTarget = lid →
      (asks 5 → ∃ u, exec (.freezeLaunch job lid) s = .next u ∧ done u ∧ u.clusters = s.clusters ∧
        launchNow s u job lid { l with band := some { b with frozen := true } }) ∧
      (asks 6 → ∃ u, exec (.thawLaunch job lid) s = .next u ∧ done u ∧
        (∀ cl, { u.cluster cl with scan := (s.cluster cl).scan } = s.cluster cl) ∧
        launchNow s u job lid { l with band := some { b with frozen := false } })) ∧
    (¬ asks 5 → exec (.freezeLaunch job lid) s = .next s) ∧ (¬ asks 6 → exec (.thawLaunch job lid) s = .next s) ∧
    (∀ (tower : Nat) (v : Word), tower < 4 →
      let cluster (k o : Nat) : Nat := 0x20040000000 + 0x10000 * k + o
      let core (k o : Nat) : Nat := 0x20070000000 + 0x10000 * k + o
      (∀ off, off % 8 ≠ 0 → exec (.scanWrite tower off v) s = .next s) ∧
      (∀ k o, k < 48 → o < 0x10000 → (s.core (48 * tower + k)).halted = false →
        exec (.scanWrite tower (core k o) v) s = .next s) ∧
      (∀ k o, k < 768 → o < 0x10000 → s.scanOpen (768 * tower + k) = false →
        exec (.scanWrite tower (cluster k o) v) s = .next s) ∧
      (∀ k (r : Reg), k < 48 → (s.core (48 * tower + k)).halted = true →
        exec (.scanWrite tower (core k (8 * r.toNat)) v) s =
          .next ((s.setCore (48 * tower + k) ((s.core (48 * tower + k)).put r v)).noteClock (s.core (48 * tower + k)).pts) ∧
        ∃ u, exec (.scanWrite tower (core k 0x100) v) s = .next u ∧ (u.core (48 * tower + k)).pc = v &&& ~~~7#64) ∧
      (∀ k n, k < 768 → n < 5 → ∃ u, exec (.scanWrite tower (cluster k (8 * n)) v) s = .next u ∧
        { u with clusters := s.clusters } = s ∧ ∀ m, u.cluster m = s.cluster m) ∧
      (∀ k, k < 48 → ∃ u, exec (.scanWrite tower (core k 0x118) v) s = .next u ∧ u.core (48 * tower + k) = s.core (48 * tower + k)) ∧
      (∀ k n q e, k < 768 → n < 4 → q < 4 → e < 4 → s.scanOpen (768 * tower + k) = true →
        let cl := 768 * tower + k
        let at_ (x : Nat) : Nat := cluster k (0x1000 + 0x800 * n + 0x200 * q + 0x80 * e + x)
        ∃ u, exec (.scanWrite tower (at_ 0) v) s = .next u ∧
          (∀ x, ((s.cluster cl).queue (4 * n + q))[e]? = some x → x.kind < 256 → x.seq < 2 ^ 16 →
            (u.cluster cl).queue (4 * n + q) = ((s.cluster cl).queue (4 * n + q)).set e
              { x with lanes := (x.lanes &&& ~~~(BitVec.ofNat 512 (2 ^ 64 - 1))) ||| BitVec.setWidth 512 v }) ∧
          (∀ p, p ≠ 4 * n + q → (u.cluster cl).queue p = (s.cluster cl).queue p) ∧
          (u.cluster cl).slots = (s.cluster cl).slots ∧ ∀ m, m ≠ cl → u.cluster m = s.cluster m))

/-- A job is admitted from its descriptor, and retired when nothing of it is left (R321, R322, R362).
The model's own choices in it: log 93. -/
def Obligations.JobsAdmitAndRetire : Prop :=
  ∀ (s : State) (job : Nat),
    let reason (u : State) (n : Nat) : Prop :=
      bitAt u.regs.jobctl 63 = false ∧
        (n ≠ 0 → bitAt u.regs.jobctl 62 = true ∧ bits u.regs.jobctl 59 56 = n) ∧
        (n = 0 → bitAt u.regs.jobctl 62 = bitAt s.regs.jobctl 62 ∧ bits u.regs.jobctl 59 56 = bits s.regs.jobctl 59 56)
    let refused (i : Instr) (n : Nat) : Prop :=
      ∃ u, exec i s = .next u ∧ reason u n ∧ u.jobs = s.jobs ∧ u.launches = s.launches
    let act : Instr := .jobAdmit job
    let ret : Instr := .jobRetire job
    (s.jobRequest 1 job = true →
      ((s.job job).isSome = true → refused act 2) ∧
      (let pa := s.regs.jobdesc.toNat
       s.job job = none → s.regs.admitting = none →
        (windowOf pa ≠ .hbm ∨ (s.lineFault pa).isSome = true → refused act 3) ∧
        (windowOf pa = .hbm → s.lineFault pa = none → s.reachable pa = true → (s.line (lineOf pa)).copy = .held →
          let r := s.homeLoad pa 128
          let ws := wordsOf 16 r.1
          let j := jobOf ws
          (descriptorOk ws = false → refused act 3) ∧
          (∀ t, descriptorOk ws = true → r.2.2.pagesServe j j.regionPages = .bad t → refused act 4) ∧
          (∀ t, descriptorOk ws = true → r.2.2.pagesServe j j.regionPages = .ok () t →
            exec act s = .next { t with regs := { t.regs with admitting := some j } }))) ∧
      (∀ j, s.job job = none → s.regs.admitting = some j →
        let va := j.tmplBase + 128 * j.templates.length
        (∀ code lv, s.jobRead j s.readCheck va 128 = .fault code lv → refused act 5) ∧
        (∀ bs c t, s.jobRead j s.readCheck va 128 = .ok bs c t →
          let ws := wordsOf 16 bs
          let next : Job := { j with templates := j.templates ++ [ws] }
          ((nth ws 0 0).getLsbD 0 = true → refused act 5) ∧
          ((nth ws 0 0).getLsbD 0 = false → j.templates.length + 1 < j.tcount →
            exec act s = .next { t with regs := { t.regs with admitting := some next } }) ∧
          ((nth ws 0 0).getLsbD 0 = false → j.tcount ≤ j.templates.length + 1 →
            ∃ u, exec act s = .next u ∧ reason u 0 ∧ u.job job = some next ∧ u.regs.admitting = none ∧
              (∀ m, m ≠ job → u.job m = s.job m) ∧ u.launches = s.launches ∧ u.mem = s.mem)))) ∧
    (s.jobRequest 1 job = false → exec act s = .next s) ∧
    (s.jobRequest 2 job = true →
      (s.job job = none → refused ret 2) ∧
      (∀ j, s.job job = some j →
        ((∃ l ∈ s.launches, l.job = job ∧ l.st ≠ .ended) → refused ret 6) ∧
        ((∃ e k, (s.copyJob e k).st ≠ .free ∧ (s.copyJob e k).job = job) → refused ret 6) ∧
        ((∀ l ∈ s.launches, l.job = job → l.st = .ended) → s.copyJobsOf job = [] →
          ∃ u, exec ret s = .next u ∧ reason u 0 ∧ u.job job = none ∧ (∀ m, m ≠ job → u.job m = s.job m) ∧
            u.launches = s.launches.filter (·.job ≠ job) ∧ u.mem = s.mem))) ∧
    (s.jobRequest 2 job = false → exec ret s = .next s)

/-- Fences, graft ports, tower links and banks off line (R57, R63, R352, R366, R367, R368, R369, R370).
The model's own choices in it: logs 33, 96. -/
def Obligations.PackageEvents : Prop :=
  ∀ (s : State),
    let logged (u : State) (tower kind detail : Nat) : Prop :=
      ∃ e, u.celog.getLast? = some e ∧ e.tower = s.towerId tower ∧ e.kind = kind ∧ e.detail = detail
    (∀ k, k < 256 → k ≠ s.pkg →
      let told (fence own : Bool) : List FenceMsg :=
        ((List.range 256).filter fun d => d ≠ s.pkg && d ≠ k && !s.isFenced d && s.routed d).map fun d => ⟨d, k, fence, own⟩
      let others (u : State) : Prop := (∀ m, m ≠ k → u.isFenced m = s.isFenced m) ∧ u.mem = s.mem ∧ u.hbm = s.hbm
      let fence (u : State) (own : Bool) : Prop := u.isFenced k = true ∧ others u ∧
        (∀ l, pkgOf (128 * l) ≠ k → u.line l = s.line l) ∧
        (∀ l, pkgOf (128 * l) = k → s.isFenced k = false → u.line l = { s.line l with
          old := []
          copy := if (s.line l).owned = true ∧ (s.line l).owner / 4 = s.pkg then .lost else (s.line l).copy }) ∧
        u.regs.fences = s.regs.fences ++ told true own
      let unfence (u : State) (own : Bool) : Prop := u.isFenced k = false ∧ others u ∧
        (∀ l, u.line l = { s.line l with copy :=
          if (s.line l).owned = true ∧ (s.line l).owner / 4 = k ∧ (s.line l).copy = .held ∧ s.isFenced k = true then .asked
          else (s.line l).copy }) ∧
        u.regs.fences = s.regs.fences ++ told false own
      let quiet : Prop := ∀ m ∈ s.regs.fences, m.own = false
      (s.fenceRequest 1 k = true → quiet → ∃ u, exec (.packageFence k) s = .next u ∧ fence u true ∧
        bitAt u.regs.fencectl 63 = !(told true true).isEmpty) ∧
      (s.fenceRequest 2 k = true → quiet → ∃ u, exec (.packageUnfence k) s = .next u ∧ unfence u true ∧
        bitAt u.regs.fencectl 63 = !(told false true).isEmpty) ∧
      (∀ i, (i = Instr.packageFence k ∧ s.fenceRequest 1 k = true) ∨ (i = .packageUnfence k ∧ s.fenceRequest 2 k = true) →
        ¬ quiet → ∃ u, exec i s = .next u ∧ u.fenced = s.fenced ∧ u.lines = s.lines ∧
          u.regs.fences.length < s.regs.fences.length ∧
          u.regs.fences.filter (!·.own) = s.regs.fences.filter (!·.own) ∧
          (bitAt u.regs.fencectl 63 = true ↔ ∃ m ∈ u.regs.fences, m.own = true)) ∧
      (∀ a m b, s.regs.fences = a ++ m :: b → m.own = false → m.pkg = k → m.fence = true →
        (∀ x ∈ a, ¬ (x.own = false ∧ x.pkg = k ∧ x.fence = true)) → s.fenceRequest 1 k = false →
        exec (.packageFence k) s = .next { s with regs := { s.regs with fences := a ++ b } }) ∧
      ((∀ x ∈ s.regs.fences, ¬ (x.own = false ∧ x.pkg = k)) →
        (s.fenceRequest 1 k = false → exec (.packageFence k) s = .next s) ∧
        (s.fenceRequest 2 k = false → exec (.packageUnfence k) s = .next s)) ∧
      (s.isFenced k = false → exec (.fenceMessage (k + 256)) s = .next s ∧
        ∃ u, exec (.fenceMessage k) s = .next u ∧ fence u false) ∧
      (s.isFenced k = true → exec (.fenceMessage k) s = .next s ∧
        ∃ u, exec (.fenceMessage (k + 256)) s = .next u ∧ unfence u false)) ∧
    (∀ k, k = s.pkg ∨ 512 ≤ k → s.pkg < 256 → exec (.fenceMessage k) s = .next s) ∧
    (∀ pa, let li := s.line (lineOf pa)
      let t := max (s.homeClock (pkgOf pa)) (li.rts + 1)
      let reverts (u : State) : Prop := (∀ l, l ≠ lineOf pa → u.line l = s.line l) ∧
        (∀ b, u.mem.read b = if b / 128 = lineOf pa then s.hbm.read b else s.mem.read b) ∧
        (let x := u.line (lineOf pa)
         x.st = .i ∧ x.owner = 0x3FF ∧ x.place = .none ∧ x.copy = .held ∧ x.wts = t ∧ x.rts = t) ∧ u.homeClock (pkgOf pa) = t
      (li.copy = .held → s.touch pa = some s) ∧
      (li.copy = .lost → t ≤ 0xFFFFFF → ∃ u, s.touch pa = some u ∧ reverts u) ∧
      (li.copy = .asked → t ≤ 0xFFFFFF → ∃ u, s.touch pa = some u ∧
        (reverts u ∨ (u.mem = s.mem ∧ u.line (lineOf pa) = { li with copy := .held } ∧ ∀ l, l ≠ lineOf pa → u.line l = s.line l)))) ∧
    (∀ p, p < 12 →
      (bitAt (s.gport p) 63 = true →
        ∃ u, exec (.graftPortDown p) s = .next u ∧ logged u (p / 3) 6 p ∧ (∀ q, q ≠ p → u.gport q = s.gport q) ∧
          (let v := u.gport p
           bitAt v 63 = false ∧ bits v 62 53 = 0x3FF ∧ bits v 31 0 = bits (s.gport p) 31 0)) ∧
      (bitAt (s.gport p) 63 = false → exec (.graftPortDown p) s = .next s) ∧
      (∀ peer lanes, peer < 1024 → 4 ≤ lanes → lanes ≤ 8 →
        ∃ u, exec (.graftPortUp p peer lanes) s = .next u ∧ (∀ q, q ≠ p → u.gport q = s.gport q) ∧
          (let v := u.gport p
           bitAt v 63 = true ∧ bits v 62 53 = peer ∧ bits v 52 49 = lanes ∧ bits v 31 0 = bits (s.gport p) 31 0))) ∧
    (∀ t u', t < 4 → u' < 4 → t ≠ u' →
      let link := (min t u', max t u')
      (link ∉ s.regs.bypass →
        ∃ u, exec (.towerLinkBypass t u') s = .next u ∧ link ∈ u.regs.bypass ∧ logged u t 3 0 ∧ u.mem = s.mem) ∧
      (link ∈ s.regs.bypass → exec (.towerLinkBypass t u') s = .next s) ∧
      (∀ lane, lane < 2 ^ 40 →
        ∃ u, exec (.linkLaneRepair t u' lane) s = .next u ∧
          u.regs.linkLanes.get (4 * min t u' + max t u') = some lane ∧ logged u t 3 lane ∧ u.mem = s.mem)) ∧
    (∀ t k, t < 4 → k < 64 →
      ((s.bank t k).offline = false →
        ∃ u, exec (.bankOffline (64 * t + k)) s = .next u ∧ (u.bank t k).offline = true ∧ logged u t 1 k ∧ u.mem = s.mem ∧
          (∀ l, crownBankOf (128 * l) = k → homeOf (128 * l) = s.towerId t → (u.line l).place ≠ .home) ∧
          (∀ m, m ≠ k → m < 64 → u.bank t m = s.bank t m)) ∧
      ((s.bank t k).offline = true → exec (.bankOffline (64 * t + k)) s = .next s))

/-- The host: arming, DONE, BAR 2 and NVMe writes, the event log, attestation, clocks, device registers (R12, R376, R377, R380, R381, R383, R384, R385).
The model's own choices in it: logs 5, 12, 63. -/
def Obligations.HostAndDevice : Prop :=
  ∀ (s : State),
    (∀ vf (v : Word), let n := bits v 47 32
      let free : Prop := ∀ p ∈ s.hostq, p.1 ≠ vf
      let armres (u : State) : Word := u.regs.armres.getD vf 0
      (∀ j ws, bits v 63 48 = 0 → s.job n = some j → j.vf = vf → j.templates[bits v 31 0]? = some ws →
        bits (nth ws 0 0) 56 51 ≠ 0 → nth ws 6 0 = 0 → s.poolDue n j + j.reserve < j.pooln → j.nextId < 2 ^ 32 → free →
        ∃ u l, exec (.hostArm vf v) s = .next u ∧
          u.launches = (s.launches.filter fun x => !(x.job = n && x.id = j.nextId && x.st == LaunchSt.ended)) ++ [l] ∧ l.id = j.nextId ∧ l.job = n ∧
          l.st = .waiting ∧ l.start = 0 ∧ l.core = none ∧ l.res = false ∧ l.words.drop 1 = ws.drop 1 ∧
          armres u = BitVec.ofNat 64 j.nextId ∧ u.hostq = s.hostq ∧ u.mem = s.mem) ∧
      (free → bits v 63 48 ≠ 0 ∨ (∀ j, s.job n = some j → j.vf ≠ vf) →
        ∃ u, exec (.hostArm vf v) s = .next u ∧ armres u = BitVec.ofNat 64 (3 * 2 ^ 56) ∧ u.launches = s.launches) ∧
      (∀ a b x (data : List Byte), s.hostq = a ++ (vf, .write x data) :: b → (∀ p ∈ a, p.1 ≠ vf) →
        s.inbound vf x data.length true = none →
        exec (.hostArm vf v) s = .next { s with hostq := a ++ b ++ [(vf, .arm v)] })) ∧
    (∀ vf, ∃ u, exec (.donePop vf) s = .next u ∧ u.regs.donq.getD vf [] = (s.regs.donq.getD vf []).tail ∧
      ∀ w, w ≠ vf → u.regs.donq.getD w [] = s.regs.donq.getD w []) ∧
    (∀ f x (data : List Byte), 0 < data.length → x % 128 + data.length ≤ 128 →
      let acts (i : Instr) (g : Nat) : Prop := (∀ p ∈ s.hostq, p.1 ≠ g) →
        let put (m m' : Memory) (pa : Nat) : Prop :=
          ∀ b, m'.read b = if pa ≤ b ∧ b < pa + data.length then data.getD (b - pa) 0 else m.read b
        (s.inbound g x data.length true = none → exec i s = .next s) ∧
        (∀ pa, s.inbound g x data.length true = some pa → windowOf pa = .hbm →
          (s.reachable pa = true → (s.line (lineOf pa)).copy = .held →
            max (s.homeClock (pkgOf pa)) ((s.line (lineOf pa)).rts + 1) ≤ 0xFFFFFF →
            ∃ u, exec i s = .next u ∧ u.scratch = s.scratch ∧ u.hostq = s.hostq ∧ put s.mem u.mem pa) ∧
          (s.reachable pa = false → exec i s = .next { s with hostq := s.hostq ++ [(g, .write x data)] })) ∧
        (∀ pa, s.inbound g x data.length true = some pa → windowOf pa = .crown →
          ∃ u, exec i s = .next u ∧ u.mem = s.mem ∧ u.hostq = s.hostq ∧ put s.scratch u.scratch pa)
      acts (.hostBar2Access f x (.write data)) f ∧
      (∀ port, port < 2 → acts (.nvmeDmaWrite port x data) (129 + port))) ∧
    (∀ f x n, (∀ p ∈ s.hostq, p.1 ≠ f) → (∀ l, (s.line l).copy = .held) →
      ∃ u, exec (.hostBar2Access f x (.read n)) s = .next u ∧ u.mem = s.mem ∧ u.hbm = s.hbm ∧ u.scratch = s.scratch) ∧
    exec .celogPop s = .next { s with celog := s.celog.tail } ∧
    (let r := s.regs
     (bitAt r.attctl 63 = false → ∃ u, exec .attestationRequest s = .next u ∧ bitAt u.regs.attctl 63 = true ∧
       bitAt u.regs.attctl 62 = false ∧ u.regs.attcopy = (List.range 8).map (fun i => r.attnonce.getD i 0)) ∧
     (bitAt r.attctl 63 = true → ∃ u, exec .attestationRequest s = .next u ∧ bitAt u.regs.attctl 61 = true ∧
       u.regs.attcopy = r.attcopy) ∧
     (bitAt r.attctl 63 = true → r.attcopy.length = 8 →
       ∃ u, exec .attestationComplete s = .next u ∧ bitAt u.regs.attctl 63 = false ∧ bitAt u.regs.attctl 62 = true ∧
         (∀ i, i < 8 → u.regs.attrep.getD i 0 = nth r.attcopy i 0) ∧
         (∀ i, 16 ≤ i → i < 25 →
           u.regs.attrep.getD i 0 = BitVec.ofNat 64 (leNat ((upFrom (8 * i - 128) 8).map Config.identity))) ∧
         (u.regs.attrep.getD 25 0).toNat % 256 = s.pkg % 256 ∧ u.regs.msix.getD 3 false = true) ∧
     (bitAt r.attctl 63 = false → exec .attestationComplete s = .next s) ∧
     (∀ layer watts, layer < r.layclk.length →
       let c := nth r.layclk layer 19
       ∃ u, exec (.powerSample watts layer) s = .next u ∧
         nth u.regs.layclk layer 19 =
           (if watts ≤ r.pwrcap then min 19 (c + 1)
            else if 10 < c ∧ ∀ i, i < 12 → 10 < nth r.layclk i 10 →
              Config.activity s.fresh i ≤ Config.activity s.fresh layer then c - 1
            else c) ∧
         ∀ k, k ≠ layer → nth u.regs.layclk k 19 = nth r.layclk k 19) ∧
     (∀ layer, layer < r.thermal.length →
       ∃ u, exec (.thermalClockStep layer) s = .next u ∧
         nth u.regs.thermal layer 19 = max 10 (nth r.thermal layer 19 - 1) ∧ u.regs.layclk = r.layclk ∧
         ∀ k, k ≠ layer → nth u.regs.thermal k 19 = nth r.thermal k 19) ∧
     (∀ tower (v : Word), tower < 32 →
       let w (off : Nat) : Instr := .deviceRegisterWrite tower (0x20000000000 + off) v
       (∀ off, (0x20000000000 + off) % 8 ≠ 0 → exec (w off) s = .next s) ∧
       exec (w 0x1010) s = .next s ∧ exec (w 0x10000) s = .next s ∧ exec (w 0x10008) s = .next s ∧
       exec (w 0x10018) s = .next s ∧
       (tower % 4 = 0 → 600 ≤ v.toNat → v.toNat ≤ 2400 → exec (w 0x10010) s = .next { s with regs := { r with pwrcap := v.toNat } }) ∧
       (tower % 4 = 0 → v.toNat < 600 ∨ 2400 < v.toNat → exec (w 0x10010) s = .next s) ∧
       (∀ k, k < 256 → v.toNat < 16 →
         exec (w (0x3000 + 8 * k)) s = .next { s with regs := { r with route := r.route.set k v.toNat } }) ∧
       (bits v 63 52 = 0 → bits v 6 0 = 0 → exec (w 0x1018) s = .next { s with regs := { r with jobdesc := v } })))

/-- Power-on, cold reset, warm reset and a function-level reset (R30, R63, R240, R351, R352, R353, R382).
The model's own choices in it: logs 32, 33, 61, 77. -/
def Obligations.ResetsOfThePackage : Prop :=
  ∀ (s : State),
    let cleared (u : State) (pkg : Nat) : Prop :=
      u.pkg = pkg ∧ { u with
        sched := [], actor := 0, site := (0, 0), fresh := 0, time := 0, ticks := 0, pkg := 0, scrub := [], banks := [], celog := []
        regs := { u.regs with hstatus := 0, repairLanes := [], repairLog := [], failedLanes := [], boot := 0, msix := [] } } =
          { State.reset with banks := [] }
    let whole (u : State) : Prop :=
      u.banks = State.reset.banks ∧ u.celog = [] ∧ u.regs.repairLanes = [] ∧ u.regs.repairLog = [] ∧ u.regs.failedLanes = [] ∧
        u.regs.msix = []
    (∀ b : BringUp,
      (b.calibrated = true → b.memoryOk = true → b.signatureOk = true → b.pkg % 256 ≠ 255 →
        ∃ u, exec (.powerOn b) s = .next u ∧ cleared u (b.pkg % 256) ∧ bitAt u.regs.hstatus 63 = true ∧
          bits u.regs.hstatus 7 0 = b.pkg % 256 ∧ (b.lanes = [] → s.regs.repairLog = [] → whole u) ∧
          (((s.regs.repairLog ++ b.lanes).map (·.1)).Nodup → ∀ p ∈ s.regs.repairLog ++ b.lanes,
            u.regs.repairLanes.get p.1 = some (p.2 % 64)) ∧
          ∀ t, t < 4 → u.scrub.get (u.towerId t) = some 0) ∧
      (∀ code, code = (if b.calibrated = false then 1 else if b.pkg % 256 = 255 then 4
          else if b.memoryOk = false then 2 else if b.signatureOk = false then 3 else 0) → code ≠ 0 →
        ∃ u, exec (.powerOn b) s = .next u ∧ cleared u (if code = 1 ∨ code = 4 then 0 else b.pkg % 256) ∧
          bitAt u.regs.hstatus 63 = false ∧ bitAt u.regs.hstatus 62 = true ∧ bits u.regs.hstatus 15 8 = code)) ∧
    (s.pkg < 255 → ∃ u, exec .coldReset s = .next u ∧ cleared u s.pkg ∧ bitAt u.regs.hstatus 63 = true ∧
      bits u.regs.hstatus 7 0 = s.pkg) ∧
    (∀ kept : Bool,
      ∃ u, exec (.warmReset kept) s = .next u ∧ (∀ n, u.core n = Core.reset) ∧ u.launches = [] ∧ u.jobs = [] ∧
        (s.clusters.keys.Nodup → ∀ cl,
          u.cluster cl = { Cluster.reset with arr := { Arr.reset with retired := (s.cluster cl).arr.retired } }) ∧
        u.hbm = s.hbm ∧ u.mem = s.mem ∧ u.turnReq = true ∧ bitAt u.regs.hstatus 63 = false ∧ bits u.regs.rststat 1 0 = 2 + (if kept then 1 else 0) ∧
        u.scratch = (if kept then s.scratch else []) ∧
        (∀ l, let x := s.line l
          (u.line l).copy = (if s.copyLost kept l = true then .lost else x.copy) ∧ (∀ b, (u.line l).place ≠ .tree b) ∧
            { u.line l with copy := x.copy, place := x.place } = x) ∧
        (∀ l, let x := s.line l
          x.owned = true → x.owner / 4 = s.pkg → (∃ b, x.place = .tree b) → x.owner = homeOf (128 * l) → s.copyLost kept l = true) ∧
        (bitAt u.regs.hstatus 62 = true → bits u.regs.hstatus 15 8 = 1 ∨ bits u.regs.hstatus 15 8 = 3) ∧
        ((∀ t, t < 4 → 2 ^ 30 ≤ s.scrub.getD (s.towerId t) 0) →
          ∃ v, exec .turnAdvance u = .next v ∧ v.turn = !s.turn ∧
            bitAt v.regs.hstatus 63 = !bitAt u.regs.hstatus 62)) ∧
    (∀ vf, s.job 0xFFFF = none →
      ∃ u, exec (.functionLevelReset vf) s = .next u ∧ u.lines = s.lines ∧ u.mem = s.mem ∧ u.hbm = s.hbm ∧
        (∀ l ∈ s.launches, ∀ j, s.job l.job = some j → j.vf = vf → l.st ≠ .ended → l.status = 0 → l.ending = none →
          ∃ x, u.launch? l.job l.id = some x ∧ x.cancelled = true) ∧
        (∀ n j, s.job (s.core n).job = some j → j.vf = vf → u.core n = { Core.reset with halted := true }) ∧
        (∀ n, (∀ p ∈ s.jobs, p.1 ≠ (s.core n).job) →
          { u.core n with watches := [] } = { s.core n with watches := [] }))
end

