-- ==== Sys2Proof/Laws/Memory.lean ====
section
/-!
SUPPORT. Laws of memory: a read after a write, and the canonical form kept by every operation.
-/
namespace Sys2Proof.Machine.Memory

/-! ## A read after a write -/

theorem read_insert (m : Memory) (a : Nat) (v : Byte) (b : Nat) :
    (m.insert a v).read b = if b = a then v else m.read b := by
  induction m with
  | nil => simp [insert, read]
  | cons p r ih =>
    obtain ⟨k, x⟩ := p
    unfold insert
    split
    · simp [read]
    · split
      · rename_i h; subst h; by_cases h : b = a <;> simp [read, h]
      · rename_i h
        simp only [read, ih]
        by_cases h1 : b = k
        · subst h1; simp [Ne.symm h]
        · simp [h1]

/-- A read through a filter by address. -/
theorem read_filter (m : Memory) (p : Nat → Bool) (b : Nat) :
    read (m.filter fun c => p c.1) b = if p b then read m b else 0 := by
  induction m with
  | nil => simp [read]
  | cons c r ih =>
    obtain ⟨k, x⟩ := c
    by_cases hk : p k
    · simp only [List.filter_cons, hk, ↓reduceIte, read, ih]
      by_cases h : b = k
      · subst h; simp [hk]
      · simp [h]
    · by_cases h : b = k
      · subst h; simp [hk, ih]
      · simp [hk, ih, read, h]

theorem read_erase (m : Memory) (a b : Nat) : (m.erase a).read b = if b = a then 0 else m.read b := by
  have h := read_filter m (fun k => k ≠ a) b
  by_cases hb : b = a <;> simp_all [erase]

/-- A read after a write of one byte. -/
theorem read_write (m : Memory) (a : Nat) (v : Byte) (b : Nat) :
    (m.write a v).read b = if b = a then v else m.read b := by
  unfold write
  split
  · rename_i h; rw [read_erase, h]
  · rw [read_insert]

@[simp] theorem read_write_same (m : Memory) (a : Nat) (v : Byte) : (m.write a v).read a = v := by simp [read_write]

@[simp] theorem read_write_ne (m : Memory) (a b : Nat) (v : Byte) (h : b ≠ a) : (m.write a v).read b = m.read b := by
  simp [read_write, h]

/-- A read after a write of bytes from an address up. -/
theorem read_writeN (m : Memory) (a : Nat) (bs : List Byte) (b : Nat) :
    (m.writeN a bs).read b = if a ≤ b ∧ b < a + bs.length then bs.getD (b - a) 0 else m.read b := by
  induction bs generalizing m a with
  | nil => simp [writeN]
  | cons x xs ih =>
    rw [writeN, ih, read_write]
    by_cases h : b = a
    · subst h; simp
    · by_cases h2 : a + 1 ≤ b ∧ b < a + 1 + xs.length
      · rw [if_pos h2, if_pos (by simp; omega)]
        obtain ⟨k, hk⟩ : ∃ k, b - a = k + 1 := ⟨b - a - 1, by omega⟩
        have : b - (a + 1) = k := by omega
        simp [hk, this]
      · rw [if_neg h2, if_neg h, if_neg (by simp; omega)]

theorem read_writeN_outside (m : Memory) (a : Nat) (bs : List Byte) (b : Nat) (h : b < a ∨ a + bs.length ≤ b) :
    (m.writeN a bs).read b = m.read b := by
  rw [read_writeN, if_neg (by omega)]

@[simp] theorem length_readN (m : Memory) (a n : Nat) : (m.readN a n).length = n := by
  induction n generalizing a with
  | zero => rfl
  | succ n ih => simp [readN, ih]

theorem getD_readN (m : Memory) (a n i : Nat) (h : i < n) : (m.readN a n).getD i 0 = m.read (a + i) := by
  induction n generalizing a i with
  | zero => omega
  | succ n ih =>
    cases i with
    | zero => simp [readN]
    | succ i =>
      have := ih (a + 1) i (by omega)
      simp only [readN, List.getD_cons_succ, this]
      congr 1; omega

/-- n bytes read where they were written. -/
theorem readN_writeN_same (m : Memory) (a : Nat) (bs : List Byte) : (m.writeN a bs).readN a bs.length = bs := by
  apply List.ext_getElem (by simp)
  intro i h1 h2
  have h := getD_readN (m.writeN a bs) a bs.length i h2
  rw [read_writeN, if_pos ⟨by omega, by omega⟩] at h
  rw [show a + i - a = i by omega, List.getD_eq_getElem _ _ h1, List.getD_eq_getElem _ _ h2] at h
  exact h

theorem read_clear (m : Memory) (a n b : Nat) :
    (m.clear a n).read b = if a ≤ b ∧ b < a + n then 0 else m.read b := by
  have h := read_filter m (fun k => decide ¬ (a ≤ k ∧ k < a + n)) b
  unfold clear
  rw [h]
  by_cases hb : a ≤ b ∧ b < a + n <;> simp [hb]

theorem read_slice (m : Memory) (a n b : Nat) :
    (m.slice a n).read b = if a ≤ b ∧ b < a + n then m.read b else 0 := by
  have h := read_filter m (fun k => decide (a ≤ k ∧ k < a + n)) b
  unfold slice
  rw [h]
  by_cases hb : a ≤ b ∧ b < a + n <;> simp [hb]

theorem read_copyFrom (m src : Memory) (a n b : Nat) :
    (m.copyFrom src a n).read b = if a ≤ b ∧ b < a + n then src.read b else m.read b := by
  unfold copyFrom
  rw [read_writeN, length_readN]
  by_cases hb : a ≤ b ∧ b < a + n
  · rw [if_pos hb, if_pos hb, getD_readN _ _ _ _ (by omega)]
    congr 1; omega
  · rw [if_neg hb, if_neg hb]

/-! ## The canonical form -/

/-- The canonical form, element by element: addresses rise, and no byte is zero. -/
theorem wf_iff (m : Memory) : m.wf = true ↔ m.Pairwise (fun p q => p.1 < q.1) ∧ ∀ p ∈ m, p.2 ≠ 0 := by
  induction m with
  | nil => simp [wf]
  | cons p r ih =>
    obtain ⟨a, x⟩ := p
    rw [List.pairwise_cons]
    cases r with
    | nil => simp [wf]
    | cons q r =>
      obtain ⟨b, y⟩ := q
      rw [wf]
      simp only [Bool.and_eq_true, decide_eq_true_eq, ih]
      constructor
      · rintro ⟨⟨hx, hab⟩, hp, hz⟩
        refine ⟨⟨?_, hp⟩, ?_⟩
        · intro c hc
          rcases List.mem_cons.1 hc with rfl | hc
          · exact hab
          · exact lt_trans hab ((List.pairwise_cons.1 hp).1 c hc)
        · intro c hc
          rcases List.mem_cons.1 hc with rfl | hc
          · simpa using hx
          · exact hz c hc
      · rintro ⟨⟨hlt, hp⟩, hz⟩
        refine ⟨⟨?_, hlt (b, y) (by simp)⟩, hp, fun c hc => hz c (List.mem_cons_of_mem _ hc)⟩
        simpa using hz (a, x) (by simp)

theorem wf_filter (m : Memory) (p : Host.Cell → Bool) (h : m.wf = true) : wf (m.filter p) = true := by
  rw [wf_iff] at h ⊢
  exact ⟨h.1.filter p, fun c hc => h.2 c (List.mem_filter.1 hc).1⟩

theorem mem_insert (m : Memory) (a : Nat) (v : Byte) (c : Host.Cell) (h : c ∈ m.insert a v) : c = (a, v) ∨ c ∈ m := by
  induction m with
  | nil => simpa [insert] using h
  | cons p r ih =>
    obtain ⟨k, x⟩ := p
    unfold insert at h
    split at h
    · simpa using h
    · split at h
      · rcases List.mem_cons.1 h with h | h
        · exact .inl h
        · exact .inr (List.mem_cons_of_mem _ h)
      · rcases List.mem_cons.1 h with h | h
        · exact .inr (by simp [h])
        · exact (ih h).imp id (List.mem_cons_of_mem _)

theorem wf_insert (m : Memory) (a : Nat) (v : Byte) (hv : v ≠ 0) (h : m.wf = true) : (m.insert a v).wf = true := by
  rw [wf_iff] at h ⊢
  constructor
  · induction m with
    | nil => simp [insert]
    | cons p r ih =>
      obtain ⟨k, x⟩ := p
      have hp := List.pairwise_cons.1 h.1
      unfold insert
      split
      · rename_i hlt
        refine List.pairwise_cons.2 ⟨fun c hc => ?_, h.1⟩
        rcases List.mem_cons.1 hc with rfl | hc
        · exact hlt
        · exact lt_trans hlt (hp.1 c hc)
      · split
        · rename_i _ he
          exact List.pairwise_cons.2 ⟨fun c hc => he ▸ hp.1 c hc, hp.2⟩
        · rename_i hn he
          refine List.pairwise_cons.2 ⟨fun c hc => ?_, ih ⟨hp.2, fun c hc => h.2 c (List.mem_cons_of_mem _ hc)⟩⟩
          rcases mem_insert r a v c hc with rfl | hc
          · show k < a; omega
          · exact hp.1 c hc
  · intro c hc
    rcases mem_insert m a v c hc with rfl | hc
    · exact hv
    · exact h.2 c hc

theorem wf_write (m : Memory) (a : Nat) (v : Byte) (h : m.wf = true) : (m.write a v).wf = true := by
  unfold write
  split
  · exact wf_filter m _ h
  · rename_i hv; exact wf_insert m a v hv h

theorem wf_writeN (m : Memory) (a : Nat) (bs : List Byte) (h : m.wf = true) : (m.writeN a bs).wf = true := by
  induction bs generalizing m a with
  | nil => exact h
  | cons b bs ih => exact ih _ _ (wf_write m a b h)

theorem wf_writeLe (m : Memory) (a n x : Nat) (h : m.wf = true) : (m.writeLe a n x).wf = true := wf_writeN m a _ h

theorem wf_slice (m : Memory) (a n : Nat) (h : m.wf = true) : (m.slice a n).wf = true := wf_filter m _ h

theorem wf_clear (m : Memory) (a n : Nat) (h : m.wf = true) : (m.clear a n).wf = true := wf_filter m _ h

theorem wf_copyFrom (m src : Memory) (a n : Nat) (h : m.wf = true) : (m.copyFrom src a n).wf = true := wf_writeN m a _ h

/-- Memories in canonical form that read alike are equal. -/
theorem ext_of_wf (m n : Memory) (hm : m.wf = true) (hn : n.wf = true) (h : ∀ a, m.read a = n.read a) : m = n := by
  have pos (m : Memory) (a : Nat) (x : Byte) (r : Memory) (e : m = (a, x) :: r) (hm : m.wf = true) :
      (∀ b, b < a → m.read b = 0) ∧ m.read a = x ∧ x ≠ 0 ∧ (∀ b, b ≤ a → r.read b = 0) ∧ r.wf = true := by
    subst e
    have hw := (wf_iff _).1 hm
    have hp := List.pairwise_cons.1 hw.1
    have zero (r : Memory) (b : Nat) (h : ∀ c ∈ r, b < c.1) : r.read b = 0 := by
      induction r with
      | nil => rfl
      | cons c r ih =>
        obtain ⟨k, y⟩ := c
        have := h (k, y) (by simp)
        simp only [read]
        rw [if_neg (by simp at this; omega)]
        exact ih fun c hc => h c (List.mem_cons_of_mem _ hc)
    refine ⟨fun b hb => ?_, by simp [read], hw.2 (a, x) (by simp), fun b hb => ?_, ?_⟩
    · exact zero _ b fun c hc => by
        rcases List.mem_cons.1 hc with rfl | hc
        · exact hb
        · exact lt_trans hb (hp.1 c hc)
    · exact zero _ b fun c hc => lt_of_le_of_lt hb (hp.1 c hc)
    · exact (wf_iff _).2 ⟨hp.2, fun c hc => hw.2 c (List.mem_cons_of_mem _ hc)⟩
  induction m generalizing n with
  | nil =>
    cases n with
    | nil => rfl
    | cons p r =>
      obtain ⟨a, x⟩ := p
      have := pos _ a x r rfl hn
      exact absurd ((h a).symm.trans rfl) (by rw [this.2.1]; exact this.2.2.1)
  | cons p r ih =>
    obtain ⟨a, x⟩ := p
    have pm := pos _ a x r rfl hm
    cases n with
    | nil => exact absurd ((h a).symm.trans pm.2.1).symm (by simpa [read] using pm.2.2.1)
    | cons q q' =>
      obtain ⟨b, y⟩ := q
      have pn := pos _ b y q' rfl hn
      have hab : a = b := by
        rcases Nat.lt_trichotomy a b with hlt | he | hlt
        · exact absurd ((h a).symm.trans pm.2.1) (by rw [pn.1 a hlt]; exact Ne.symm pm.2.2.1)
        · exact he
        · exact absurd ((h b).trans pn.2.1) (by rw [pm.1 b hlt]; exact Ne.symm pn.2.2.1)
      subst hab
      have hxy : x = y := pm.2.1.symm.trans ((h a).trans pn.2.1)
      subst hxy
      congr 1
      refine ih q' pm.2.2.2.2 pn.2.2.2.2 fun c => ?_
      by_cases hc : c = a
      · subst hc; rw [pm.2.2.2.1 c le_rfl, pn.2.2.2.1 c le_rfl]
      · have := h c
        simpa [read, hc] using this

end Sys2Proof.Machine.Memory
end

