-- ==== Sys2Proof/Laws/Coherent.lean ====
section
/-!
SUPPORT. What the steps on line versions and the translation of an address can do (R40 to R45, R53, R67 to R70): they change
memory, HBM data, line records, the counter of free values, the request of a turn advance, the log of corrected events, the home
agents' clocks, the shared translation caches and the counts of waits, and nothing else; memory and HBM data stay canonical.
-/
namespace Sys2Proof.Machine

/-- t is s after steps on lines and walks. -/
def State.LineSteps (s t : State) : Prop :=
  ∃ mem hbm lines fresh req celog regs clocks l2 walks stalls,
    t = { s with
      mem := mem, hbm := hbm, lines := lines, fresh := fresh, turnReq := req, celog := celog, regs := regs
      clocks := clocks, l2 := l2, walks := walks, stalls := stalls } ∧
    (s.mem.wf = true → s.hbm.wf = true → Memory.wf mem = true ∧ Memory.wf hbm = true)

namespace State.LineSteps

theorem refl (s : State) : s.LineSteps s := ⟨_, _, _, _, _, _, _, _, _, _, _, rfl, fun h k => ⟨h, k⟩⟩

theorem trans {s t u : State} (h : s.LineSteps t) (k : t.LineSteps u) : s.LineSteps u := by
  obtain ⟨_, _, _, _, _, _, _, _, _, _, _, rfl, hw⟩ := h
  obtain ⟨_, _, _, _, _, _, _, _, _, _, _, rfl, kw⟩ := k
  exact ⟨_, _, _, _, _, _, _, _, _, _, _, rfl, fun a b => kw (hw a b).1 (hw a b).2⟩

variable {s t : State}

theorem cores (h : s.LineSteps t) : t.cores = s.cores := by obtain ⟨_, _, _, _, _, _, _, _, _, _, _, rfl, _⟩ := h; rfl

theorem clusters (h : s.LineSteps t) : t.clusters = s.clusters := by obtain ⟨_, _, _, _, _, _, _, _, _, _, _, rfl, _⟩ := h; rfl

theorem scratch (h : s.LineSteps t) : t.scratch = s.scratch := by obtain ⟨_, _, _, _, _, _, _, _, _, _, _, rfl, _⟩ := h; rfl

theorem posted (h : s.LineSteps t) : t.posted = s.posted := by obtain ⟨_, _, _, _, _, _, _, _, _, _, _, rfl, _⟩ := h; rfl

theorem launches (h : s.LineSteps t) : t.launches = s.launches := by obtain ⟨_, _, _, _, _, _, _, _, _, _, _, rfl, _⟩ := h; rfl

theorem jobs (h : s.LineSteps t) : t.jobs = s.jobs := by obtain ⟨_, _, _, _, _, _, _, _, _, _, _, rfl, _⟩ := h; rfl

theorem engines (h : s.LineSteps t) : t.engines = s.engines := by obtain ⟨_, _, _, _, _, _, _, _, _, _, _, rfl, _⟩ := h; rfl

theorem banks (h : s.LineSteps t) : t.banks = s.banks := by obtain ⟨_, _, _, _, _, _, _, _, _, _, _, rfl, _⟩ := h; rfl

theorem actor (h : s.LineSteps t) : t.actor = s.actor := by obtain ⟨_, _, _, _, _, _, _, _, _, _, _, rfl, _⟩ := h; rfl

theorem wf (h : s.LineSteps t) (a : s.mem.wf = true) (b : s.hbm.wf = true) : t.mem.wf = true ∧ t.hbm.wf = true := by
  obtain ⟨_, _, _, _, _, _, _, _, _, _, _, rfl, k⟩ := h; exact k a b

end State.LineSteps

namespace State.LineSteps

variable {s t : State}

theorem withMem (h : s.LineSteps t) (m : Memory) (hm : s.mem.wf = true → s.hbm.wf = true → Memory.wf m = true) :
    s.LineSteps { t with mem := m } := by
  obtain ⟨_, _, _, _, _, _, _, _, _, _, _, rfl, hw⟩ := h
  exact ⟨_, _, _, _, _, _, _, _, _, _, _, rfl, fun a b => ⟨hm a b, (hw a b).2⟩⟩

theorem withHbm (h : s.LineSteps t) (m : Memory) (hm : t.hbm.wf = true → Memory.wf m = true) : s.LineSteps { t with hbm := m } :=
  h.trans ⟨_, _, _, _, _, _, _, _, _, _, _, rfl, fun a b => ⟨a, hm b⟩⟩

theorem setLine (h : s.LineSteps t) (l : Nat) (li : LineInfo) : s.LineSteps (t.setLine l li) :=
  h.trans ⟨_, _, _, _, _, _, _, _, _, _, _, rfl, fun a b => ⟨a, b⟩⟩

theorem logPa (h : s.LineSteps t) (kind pa : Nat) : s.LineSteps (t.logPa kind pa) :=
  h.trans ⟨_, _, _, _, _, _, _, _, _, _, _, rfl, fun a b => ⟨a, b⟩⟩

theorem choose (h : s.LineSteps t) (n : Nat) : s.LineSteps (t.choose n).2 := by
  unfold State.choose; split
  · exact h
  · exact h.trans ⟨_, _, _, _, _, _, _, _, _, _, _, rfl, fun a b => ⟨a, b⟩⟩

theorem noteClock (h : s.LineSteps t) (c : Nat) : s.LineSteps (t.noteClock c) := by
  unfold State.noteClock; split
  · exact h.trans ⟨_, _, _, _, _, _, _, _, _, _, _, rfl, fun a b => ⟨a, b⟩⟩
  · exact h

theorem correct (h : s.LineSteps t) (T pa : Nat) : s.LineSteps (t.correct T pa) := by
  simp only [State.correct]; split
  · exact (h.setLine _ _).logPa _ _
  · exact h

theorem pickWay (h : s.LineSteps t) (l lo n : Nat) (ls : List Nat) (way : Nat → Nat) :
    s.LineSteps (t.pickWay l lo n ls way).2.2 := by
  simp only [State.pickWay]; split
  · exact h
  · exact h.choose n

theorem toHbm (h : s.LineSteps t) (l : Nat) : s.LineSteps (t.toHbm l) :=
  (h.setLine _ _).withHbm (Memory.copyFrom _ _ _ _) (Memory.wf_copyFrom _ _ _ _)

theorem writeBackLine (h : s.LineSteps t) (l : Nat) : s.LineSteps (t.writeBackLine l) := by
  simp only [State.writeBackLine]; split
  · exact (h.setLine _ _).toHbm l
  · exact h

theorem noSram (h : s.LineSteps t) (l : Nat) : s.LineSteps (t.noSram l) := by
  simp only [State.noSram]; split
  · exact h.writeBackLine l
  · exact h

theorem readHbm (h : s.LineSteps t) (pa : Nat) : s.LineSteps (t.readHbm pa) := by
  simp only [State.readHbm]; split
  · exact (h.setLine _ _).logPa _ _
  · exact h

theorem leaveHome (h : s.LineSteps t) (l : Nat) : s.LineSteps (t.leaveHome l) := by
  simp only [State.leaveHome]; split
  · exact (h.writeBackLine l).setLine _ _
  · exact h.setLine _ _

theorem leaveRemote (h : s.LineSteps t) (l : Nat) : s.LineSteps (t.leaveRemote l) := by
  simp only [State.leaveRemote]; split
  · exact h.setLine _ _
  · exact h.writeBackLine l

theorem enterHome (h : s.LineSteps t) (l : Nat) : s.LineSteps (t.enterHome l) := by
  simp only [State.enterHome]
  refine setLine ?_ _ _
  split
  · exact (h.pickWay ..).leaveHome _
  · exact h.pickWay ..

theorem enterRemote (h : s.LineSteps t) (T l : Nat) : s.LineSteps (t.enterRemote T l) := by
  simp only [State.enterRemote]; split
  · exact h
  · refine setLine ?_ _ _
    split
    · exact (h.pickWay ..).leaveRemote _
    · exact h.pickWay ..

theorem setRecord (h : s.LineSteps t) (T l : Nat) (new : LineInfo) : s.LineSteps (t.setRecord T l new) := by
  simp only [State.setRecord]; split
  · exact (h.setLine l new).enterRemote _ _
  · exact h.setLine l new

theorem peekAmong (h : s.LineSteps t) (cs : List Version) (pa n : Nat) : s.LineSteps (t.peekAmong cs pa n).2.2 := by
  simp only [State.peekAmong]
  split
  · exact (h.choose _).correct _ _
  · split
    · exact h.choose _
    · exact (h.choose _).correct _ _

theorem loadLatest (h : s.LineSteps t) (T pts pa n : Nat) : s.LineSteps (t.loadLatest T pts pa n).2.2 := by
  simp only [State.loadLatest]
  exact (((h.correct T pa).setRecord _ _ _).noteClock _).noteClock _

theorem loadStep (h : s.LineSteps t) (T pts pa n : Nat) : s.LineSteps (t.loadStep T pts pa n).2.2 := by
  simp only [State.loadStep]
  split
  · exact (h.choose _).loadLatest _ _ _ _
  · split
    · exact h.choose _
    · exact (h.choose _).loadLatest _ _ _ _

theorem storeStep (h : s.LineSteps t) {T pts pa c : Nat} {data : List Byte} {u : State}
    (e : t.storeStep T pts pa data = some (c, u)) : s.LineSteps u := by
  simp only [State.storeStep] at e
  generalize State.recStore _ _ _ _ _ = p at e
  split at e
  · cases e
  · cases e
    have k := ((h.correct T pa).setRecord T (lineOf pa) p.1).withMem _ fun a b => Memory.wf_writeN _ pa data ((h.correct T pa).wf a b).1
    refine noteClock ?_ _
    split
    · exact k.toHbm _
    · exact k

theorem amoStep (h : s.LineSteps t) {T pts pa n c : Nat} {f : List Byte → Option (List Byte)} {bs : List Byte} {u : State}
    (e : t.amoStep T pts pa n f = some (bs, c, u)) : s.LineSteps u := by
  simp only [State.amoStep] at e
  split at e
  · rw [Option.map_eq_some_iff] at e
    obtain ⟨⟨c', u'⟩, e, k⟩ := e
    cases k
    exact h.storeStep e
  · split at e
    · cases e
    · cases e
      exact ((h.correct T pa).setRecord _ _ _).noteClock _

theorem discardStep (h : s.LineSteps t) {pts pa c : Nat} {u : State} (e : t.discardStep pts pa = some (c, u)) :
    s.LineSteps u := by
  simp only [State.discardStep] at e
  split at e
  · cases e
  · cases e
    have k := h.readHbm pa
    exact ((k.setLine _ _).withMem _ fun a b => Memory.wf_copyFrom _ _ _ _ (k.wf a b).1).noteClock _

theorem setHomeClock (h : s.LineSteps t) (p c : Nat) : s.LineSteps (t.setHomeClock p c) :=
  h.trans ⟨_, _, _, _, _, _, _, _, _, _, _, rfl, fun a b => ⟨a, b⟩⟩

theorem stallTurn (h : s.LineSteps t) (tower : Nat) : s.LineSteps (t.stallTurn tower) :=
  h.trans ⟨_, _, _, _, _, _, _, _, _, _, _, rfl, fun a b => ⟨a, b⟩⟩

theorem withL2 (h : s.LineSteps t) (x : Table (List Xlate)) : s.LineSteps { t with l2 := x } :=
  h.trans ⟨_, _, _, _, _, _, _, _, _, _, _, rfl, fun a b => ⟨a, b⟩⟩

theorem withWalks (h : s.LineSteps t) (x : Table (List WalkEntry)) : s.LineSteps { t with walks := x } :=
  h.trans ⟨_, _, _, _, _, _, _, _, _, _, _, rfl, fun a b => ⟨a, b⟩⟩

theorem homeLoad (h : s.LineSteps t) (pa n : Nat) : s.LineSteps (t.homeLoad pa n).2.2 := by
  simp only [State.homeLoad]; exact (h.loadStep _ _ _ _).setHomeClock _ _

theorem homeStore (h : s.LineSteps t) {pa c : Nat} {data : List Byte} {u : State} (e : t.homeStore pa data = some (c, u)) :
    s.LineSteps u := by
  simp only [State.homeStore, Option.map_eq_some_iff] at e
  obtain ⟨⟨c', u'⟩, e, k⟩ := e
  cases k
  exact ((h.storeStep e).noSram _).setHomeClock _ _

theorem homeAmo (h : s.LineSteps t) {pa n c : Nat} {f : List Byte → Option (List Byte)} {bs : List Byte} {u : State}
    (e : t.homeAmo pa n f = some (bs, c, u)) : s.LineSteps u := by
  simp only [State.homeAmo, Option.map_eq_some_iff] at e
  obtain ⟨⟨bs', c', u'⟩, e, k⟩ := e
  cases k
  exact ((h.amoStep e).noSram _).setHomeClock _ _

theorem revertLine (h : s.LineSteps t) {pa : Nat} {u : State} (e : t.revertLine pa = some u) : s.LineSteps u := by
  simp only [State.revertLine, Option.map_eq_some_iff] at e
  obtain ⟨⟨c, u'⟩, e, k⟩ := e
  cases k
  exact (h.discardStep e).setHomeClock _ _

theorem touch (h : s.LineSteps t) {pa : Nat} {u : State} (e : t.touch pa = some u) : s.LineSteps u := by
  simp only [State.touch] at e
  split at e
  · cases e; exact h
  · exact h.revertLine e
  · split at e
    · cases e; exact (h.choose 2).setLine _ _
    · exact (h.choose 2).revertLine e

theorem logUnbacked (h : s.LineSteps t) (pa : Nat) : s.LineSteps (t.logUnbacked pa) := by
  unfold State.logUnbacked; split
  · exact h.logPa _ _
  · exact h

theorem cacheAdd {α : Type} (h : s.LineSteps t) (l : List α) (cap : Nat) (x : α) : s.LineSteps (t.cacheAdd l cap x).2 := by
  simp only [State.cacheAdd]; split
  · exact h
  · exact h.choose _

theorem tlbAdd (h : s.LineSteps t) (l : List Xlate) (cap : Nat) (x : Xlate) : s.LineSteps (t.tlbAdd l cap x).2 :=
  h.cacheAdd _ cap x

theorem l2Add (h : s.LineSteps t) (tower : Nat) (x : Xlate) : s.LineSteps (t.l2Add tower x) := by
  simp only [State.l2Add]; exact (h.tlbAdd _ _ _).withL2 _

theorem walkAdd (h : s.LineSteps t) (tower : Nat) (path : List WalkEntry) : s.LineSteps (t.walkAdd tower path) := by
  unfold State.walkAdd
  induction path generalizing t with
  | nil => exact h
  | cons w r ih => exact ih ((h.cacheAdd _ _ _).withWalks _)

/-- What a walk that finds a leaf, or that waits, has done. -/
inductive OfWalk (s : State) : WalkRes → Prop where
  | leaf (l : Leaf) {u : State} (h : s.LineSteps u) : OfWalk s (.leaf l u)
  | wait {u : State} (h : s.LineSteps u) : OfWalk s (.wait u)
  | fault (c : Code) (lv : Nat) : OfWalk s (.fault c lv)

theorem walkFrom {ctx : Ctx} {va : Nat} (lv : Nat) :
    ∀ {t : State} {path : List WalkEntry} {table : Nat}, s.LineSteps t → OfWalk s (Machine.walkFrom t ctx va path lv table) := by
  induction lv with
  | zero => intro t path table _; exact .fault _ _
  | succ lv ih =>
    intro t path table h
    simp only [Machine.walkFrom]
    generalize hf : t.lineFault _ = f
    generalize ht : (if t.reachable _ then t.touch _ else none) = o
    split
    · exact .fault _ _
    · cases f with
      | some c => exact .fault _ _
      | none =>
        cases o with
        | none =>
          refine .wait ?_; split
          · exact h.stallTurn _
          · exact h
        | some u =>
          have k : s.LineSteps u := by
            split at ht
            · exact h.touch ht
            · cases ht
          have k (pa base : Nat) : s.LineSteps ((u.logUnbacked pa).peekWalk ctx.pts base 128).2.2 :=
            (k.logUnbacked _).peekAmong _ _ _
          simp only []
          repeat' split
          all_goals first
            | exact .fault _ _
            | exact .leaf _ (k _ _)
            | exact ih (k _ _)

/-- A translation that is found, or that waits, leaves a state that only steps on lines and walks have changed. -/
theorem translate (h : s.LineSteps t) (ctx : Ctx) (tlb : List Xlate) (cap : Nat) (need : Need)
    (post : Xlate → Nat → Option (Code × Nat)) (va : Nat) :
    (∀ pa x l u, t.translate ctx tlb cap need post va = .ok pa x l u → s.LineSteps u) ∧
      ∀ u, t.translate ctx tlb cap need post va = .wait u → s.LineSteps u := by
  have give {u : State} (k : s.LineSteps u) (pa : Nat) (x : Xlate) (l : List Xlate) :
      (∀ q y m v, Xl.give need ctx.tower pa x l u = .ok q y m v → s.LineSteps v) ∧
        ∀ v, Xl.give need ctx.tower pa x l u = .wait v → s.LineSteps v := by
    unfold Xl.give
    repeat' split
    · exact ⟨fun _ _ _ _ e => by cases e; exact k, fun _ e => by cases e⟩
    · rename_i e; exact ⟨fun _ _ _ _ e' => by cases e'; exact k.touch e, fun _ e => by cases e⟩
    · exact ⟨fun _ _ _ _ e => (by cases e), fun _ e => by cases e; exact k.stallTurn _⟩
    · exact ⟨fun _ _ _ _ e => (by cases e), fun _ e => by cases e; exact k⟩
  simp only [State.translate]
  split
  · exact ⟨fun _ _ _ _ e => (by cases e), fun _ e => by cases e⟩
  · split
    · split
      · exact ⟨fun _ _ _ _ e => (by cases e), fun _ e => by cases e⟩
      · exact give h _ _ _
    · split
      · split
        · exact ⟨fun _ _ _ _ e => (by cases e), fun _ e => by cases e⟩
        · split
          · exact give h _ _ _
          · exact give (h.tlbAdd _ _ _) _ _ _
      · split
        · exact ⟨fun _ _ _ _ e => (by cases e), fun _ e => by cases e⟩
        · rename_i w e
          have k := walkFrom (ctx := ctx) (va := va % 2 ^ 57) (path := []) (t.walkStart ctx (va % 2 ^ 57)).1
            (table := (t.walkStart ctx (va % 2 ^ 57)).2) h
          rw [e] at k; cases k
          exact ⟨fun _ _ _ _ e => (by cases e), fun _ e => by cases e; assumption⟩
        · rename_i lf w e
          have k := walkFrom (ctx := ctx) (va := va % 2 ^ 57) (path := []) (t.walkStart ctx (va % 2 ^ 57)).1
            (table := (t.walkStart ctx (va % 2 ^ 57)).2) h
          rw [e] at k; cases k; rename_i k
          have fill {u : State} (k : s.LineSteps u) (x : Xlate) := (k.walkAdd ctx.tower lf.path).l2Add ctx.tower x
          split
          · exact ⟨fun _ _ _ _ e => (by cases e), fun _ e => by cases e⟩
          · split
            · split
              · exact give (fill k _) _ _ _
              · exact give ((fill k _).tlbAdd _ _ _) _ _ _
            · split
              · exact ⟨fun _ _ _ _ e => (by cases e), fun _ e => by cases e; exact k.stallTurn _⟩
              · rename_i e
                have k := k.homeAmo e
                split
                · split
                  · exact give (fill k _) _ _ _
                  · exact give ((fill k _).tlbAdd _ _ _) _ _ _
                · exact ⟨fun _ _ _ _ e => (by cases e), fun _ e => by cases e; exact k.withWalks _⟩

end State.LineSteps

/-- A line whose owner holds its copy is accessed as it stands (R352, R370). -/
theorem State.touch_held (s : State) (pa : Nat) (h : (s.line (lineOf pa)).copy = .held) : s.touch pa = some s := by
  simp [State.touch, h]

/-! ## Crown scratch -/

/-- A scratch write that arrives changes scratch alone, and keeps it canonical (R60). -/
theorem State.arrive_spec (s : State) (p : Posted) :
    ∃ m, s.arrive p = { s with scratch := m } ∧ (s.scratch.wf = true → Memory.wf m = true) := by
  unfold State.arrive; split
  · exact ⟨_, rfl, Memory.wf_writeN _ _ _⟩
  · exact ⟨s.scratch, rfl, id⟩

theorem State.arrive_list_spec (l : List Posted) (s : State) :
    ∃ m, l.foldl State.arrive s = { s with scratch := m } ∧ (s.scratch.wf = true → Memory.wf m = true) := by
  induction l generalizing s with
  | nil => exact ⟨s.scratch, rfl, id⟩
  | cons p r ih =>
    obtain ⟨m, e, w⟩ := s.arrive_spec p
    obtain ⟨n, e', w'⟩ := ih { s with scratch := m }
    exact ⟨n, by rw [List.foldl_cons, e, e'], fun h => w' (w h)⟩

/-- The posted writes of an agent leave the queue, and scratch takes them (R60, R78). -/
theorem State.drainPosted_spec (s : State) (agent : Nat) :
    ∃ m, s.drainPosted agent = { s with scratch := m, posted := s.posted.filter (·.agent ≠ agent) } ∧
      (s.scratch.wf = true → Memory.wf m = true) := by
  obtain ⟨m, e, w⟩ := State.arrive_list_spec (s.posted.filter (·.agent = agent))
    { s with posted := s.posted.filter (·.agent ≠ agent) }
  exact ⟨m, e, w⟩

end Sys2Proof.Machine
end

