-- ==== Sys2Proof/Laws/Table.lean ====
section
/-!
SUPPORT. Laws of tables: a read after a set.
-/
namespace Sys2Proof.Machine.Table

variable {α β : Type}

theorem get_cons_eq (t : Table α) (k : Nat) (v : α) : get ((k, v) :: t) k = some v := by simp [get]

theorem get_cons_ne (t : Table α) (k j : Nat) (v : α) (h : j ≠ k) : get ((k, v) :: t) j = get t j := by simp [get, h]

theorem get_set (t : Table α) (k : Nat) (v : α) (j : Nat) : (t.set k v).get j = if j = k then some v else t.get j := by
  induction t with
  | nil => by_cases h : j = k <;> simp [set, get, h]
  | cons p r ih =>
    obtain ⟨a, x⟩ := p
    unfold set
    split
    · by_cases h : j = k <;> simp [get, h]
    · split
      · rename_i h; subst h; by_cases h : j = k <;> simp [get, h]
      · rename_i h
        simp only [get, ih]
        by_cases h1 : j = a
        · subst h1; simp [Ne.symm h]
        · simp [h1]

@[simp] theorem get_set_self (t : Table α) (k : Nat) (v : α) : (t.set k v).get k = some v := by simp [get_set]

@[simp] theorem getD_set_self (t : Table α) (k : Nat) (v d : α) : (t.set k v).getD k d = v := by simp [getD]

theorem getD_set (t : Table α) (k : Nat) (v : α) (j : Nat) (d : α) :
    (t.set k v).getD j d = if j = k then v else t.getD j d := by
  by_cases h : j = k <;> simp [getD, get_set, h]

@[simp] theorem getD_set_ne (t : Table α) (k j : Nat) (v d : α) (h : j ≠ k) : (t.set k v).getD j d = t.getD j d := by
  simp [getD_set, h]

@[simp] theorem getD_nil (k : Nat) (d : α) : getD ([] : Table α) k d = d := rfl

/-- The last of two sets of one key stands. -/
@[simp] theorem set_set (t : Table α) (k : Nat) (v w : α) : (t.set k v).set k w = t.set k w := by
  induction t with
  | nil => simp [set]
  | cons p r ih =>
    obtain ⟨a, x⟩ := p
    by_cases h1 : k < a
    · simp [set, h1]
    · by_cases h2 : k = a
      · simp [set, h2]
      · simp [set, h1, h2, ih]

theorem get_mapVals (t : Table α) (f : α → β) (k : Nat) : (t.mapVals f).get k = (t.get k).map f := by
  induction t with
  | nil => rfl
  | cons p r ih =>
    obtain ⟨a, x⟩ := p
    by_cases h : k = a
    · simp [mapVals, get, h]
    · simpa [mapVals, get, h] using ih

/-- A change of every value, read through the value of an unlisted key. -/
theorem getD_mapVals (t : Table α) (f : α → β) (k : Nat) (d : α) : (t.mapVals f).getD k (f d) = f (t.getD k d) := by
  simp [getD, get_mapVals, Option.getD_map]

end Sys2Proof.Machine.Table
end

