-- ==== Sys2Proof/Laws/State.lean ====
section
/-!
SUPPORT. Laws of the state's updates: what each leaves as it was, one lemma for each field, and what it changes.
-/
namespace Sys2Proof.Machine

/-! ## State.setCore -/

@[simp] theorem State.setCore_sched (s : State) (n : Nat) (c : Core) : (s.setCore n c).sched = s.sched := rfl
@[simp] theorem State.setCore_actor (s : State) (n : Nat) (c : Core) : (s.setCore n c).actor = s.actor := rfl
@[simp] theorem State.setCore_site (s : State) (n : Nat) (c : Core) : (s.setCore n c).site = s.site := rfl
@[simp] theorem State.setCore_fresh (s : State) (n : Nat) (c : Core) : (s.setCore n c).fresh = s.fresh := rfl
@[simp] theorem State.setCore_time (s : State) (n : Nat) (c : Core) : (s.setCore n c).time = s.time := rfl
@[simp] theorem State.setCore_ticks (s : State) (n : Nat) (c : Core) : (s.setCore n c).ticks = s.ticks := rfl
@[simp] theorem State.setCore_pkg (s : State) (n : Nat) (c : Core) : (s.setCore n c).pkg = s.pkg := rfl
@[simp] theorem State.setCore_mail (s : State) (n : Nat) (c : Core) : (s.setCore n c).mail = s.mail := rfl
@[simp] theorem State.setCore_mem (s : State) (n : Nat) (c : Core) : (s.setCore n c).mem = s.mem := rfl
@[simp] theorem State.setCore_hbm (s : State) (n : Nat) (c : Core) : (s.setCore n c).hbm = s.hbm := rfl
@[simp] theorem State.setCore_lines (s : State) (n : Nat) (c : Core) : (s.setCore n c).lines = s.lines := rfl
@[simp] theorem State.setCore_turn (s : State) (n : Nat) (c : Core) : (s.setCore n c).turn = s.turn := rfl
@[simp] theorem State.setCore_turnReq (s : State) (n : Nat) (c : Core) : (s.setCore n c).turnReq = s.turnReq := rfl
@[simp] theorem State.setCore_scrub (s : State) (n : Nat) (c : Core) : (s.setCore n c).scrub = s.scrub := rfl
@[simp] theorem State.setCore_stalls (s : State) (n : Nat) (c : Core) : (s.setCore n c).stalls = s.stalls := rfl
@[simp] theorem State.setCore_clocks (s : State) (n : Nat) (c : Core) : (s.setCore n c).clocks = s.clocks := rfl
@[simp] theorem State.setCore_fenced (s : State) (n : Nat) (c : Core) : (s.setCore n c).fenced = s.fenced := rfl
@[simp] theorem State.setCore_banks (s : State) (n : Nat) (c : Core) : (s.setCore n c).banks = s.banks := rfl
@[simp] theorem State.setCore_scratch (s : State) (n : Nat) (c : Core) : (s.setCore n c).scratch = s.scratch := rfl
@[simp] theorem State.setCore_posted (s : State) (n : Nat) (c : Core) : (s.setCore n c).posted = s.posted := rfl
@[simp] theorem State.setCore_regions (s : State) (n : Nat) (c : Core) : (s.setCore n c).regions = s.regions := rfl
@[simp] theorem State.setCore_l2 (s : State) (n : Nat) (c : Core) : (s.setCore n c).l2 = s.l2 := rfl
@[simp] theorem State.setCore_walks (s : State) (n : Nat) (c : Core) : (s.setCore n c).walks = s.walks := rfl
@[simp] theorem State.setCore_celog (s : State) (n : Nat) (c : Core) : (s.setCore n c).celog = s.celog := rfl
@[simp] theorem State.setCore_clusters (s : State) (n : Nat) (c : Core) : (s.setCore n c).clusters = s.clusters := rfl
@[simp] theorem State.setCore_twig (s : State) (n : Nat) (c : Core) : (s.setCore n c).twig = s.twig := rfl
@[simp] theorem State.setCore_engines (s : State) (n : Nat) (c : Core) : (s.setCore n c).engines = s.engines := rfl
@[simp] theorem State.setCore_jobs (s : State) (n : Nat) (c : Core) : (s.setCore n c).jobs = s.jobs := rfl
@[simp] theorem State.setCore_launches (s : State) (n : Nat) (c : Core) : (s.setCore n c).launches = s.launches := rfl
@[simp] theorem State.setCore_armed (s : State) (n : Nat) (c : Core) : (s.setCore n c).armed = s.armed := rfl
@[simp] theorem State.setCore_faultq (s : State) (n : Nat) (c : Core) : (s.setCore n c).faultq = s.faultq := rfl
@[simp] theorem State.setCore_reserved (s : State) (n : Nat) (c : Core) : (s.setCore n c).reserved = s.reserved := rfl
@[simp] theorem State.setCore_hostq (s : State) (n : Nat) (c : Core) : (s.setCore n c).hostq = s.hostq := rfl
@[simp] theorem State.setCore_regs (s : State) (n : Nat) (c : Core) : (s.setCore n c).regs = s.regs := rfl

/-! ## State.setMe -/

@[simp] theorem State.setMe_sched (s : State) (c : Core) : (s.setMe c).sched = s.sched := rfl
@[simp] theorem State.setMe_actor (s : State) (c : Core) : (s.setMe c).actor = s.actor := rfl
@[simp] theorem State.setMe_site (s : State) (c : Core) : (s.setMe c).site = s.site := rfl
@[simp] theorem State.setMe_fresh (s : State) (c : Core) : (s.setMe c).fresh = s.fresh := rfl
@[simp] theorem State.setMe_time (s : State) (c : Core) : (s.setMe c).time = s.time := rfl
@[simp] theorem State.setMe_ticks (s : State) (c : Core) : (s.setMe c).ticks = s.ticks := rfl
@[simp] theorem State.setMe_pkg (s : State) (c : Core) : (s.setMe c).pkg = s.pkg := rfl
@[simp] theorem State.setMe_mail (s : State) (c : Core) : (s.setMe c).mail = s.mail := rfl
@[simp] theorem State.setMe_mem (s : State) (c : Core) : (s.setMe c).mem = s.mem := rfl
@[simp] theorem State.setMe_hbm (s : State) (c : Core) : (s.setMe c).hbm = s.hbm := rfl
@[simp] theorem State.setMe_lines (s : State) (c : Core) : (s.setMe c).lines = s.lines := rfl
@[simp] theorem State.setMe_turn (s : State) (c : Core) : (s.setMe c).turn = s.turn := rfl
@[simp] theorem State.setMe_turnReq (s : State) (c : Core) : (s.setMe c).turnReq = s.turnReq := rfl
@[simp] theorem State.setMe_scrub (s : State) (c : Core) : (s.setMe c).scrub = s.scrub := rfl
@[simp] theorem State.setMe_stalls (s : State) (c : Core) : (s.setMe c).stalls = s.stalls := rfl
@[simp] theorem State.setMe_clocks (s : State) (c : Core) : (s.setMe c).clocks = s.clocks := rfl
@[simp] theorem State.setMe_fenced (s : State) (c : Core) : (s.setMe c).fenced = s.fenced := rfl
@[simp] theorem State.setMe_banks (s : State) (c : Core) : (s.setMe c).banks = s.banks := rfl
@[simp] theorem State.setMe_scratch (s : State) (c : Core) : (s.setMe c).scratch = s.scratch := rfl
@[simp] theorem State.setMe_posted (s : State) (c : Core) : (s.setMe c).posted = s.posted := rfl
@[simp] theorem State.setMe_regions (s : State) (c : Core) : (s.setMe c).regions = s.regions := rfl
@[simp] theorem State.setMe_l2 (s : State) (c : Core) : (s.setMe c).l2 = s.l2 := rfl
@[simp] theorem State.setMe_walks (s : State) (c : Core) : (s.setMe c).walks = s.walks := rfl
@[simp] theorem State.setMe_celog (s : State) (c : Core) : (s.setMe c).celog = s.celog := rfl
@[simp] theorem State.setMe_clusters (s : State) (c : Core) : (s.setMe c).clusters = s.clusters := rfl
@[simp] theorem State.setMe_twig (s : State) (c : Core) : (s.setMe c).twig = s.twig := rfl
@[simp] theorem State.setMe_engines (s : State) (c : Core) : (s.setMe c).engines = s.engines := rfl
@[simp] theorem State.setMe_jobs (s : State) (c : Core) : (s.setMe c).jobs = s.jobs := rfl
@[simp] theorem State.setMe_launches (s : State) (c : Core) : (s.setMe c).launches = s.launches := rfl
@[simp] theorem State.setMe_armed (s : State) (c : Core) : (s.setMe c).armed = s.armed := rfl
@[simp] theorem State.setMe_faultq (s : State) (c : Core) : (s.setMe c).faultq = s.faultq := rfl
@[simp] theorem State.setMe_reserved (s : State) (c : Core) : (s.setMe c).reserved = s.reserved := rfl
@[simp] theorem State.setMe_hostq (s : State) (c : Core) : (s.setMe c).hostq = s.hostq := rfl
@[simp] theorem State.setMe_regs (s : State) (c : Core) : (s.setMe c).regs = s.regs := rfl

/-! ## State.setLine -/

@[simp] theorem State.setLine_sched (s : State) (l : Nat) (li : LineInfo) : (s.setLine l li).sched = s.sched := rfl
@[simp] theorem State.setLine_actor (s : State) (l : Nat) (li : LineInfo) : (s.setLine l li).actor = s.actor := rfl
@[simp] theorem State.setLine_site (s : State) (l : Nat) (li : LineInfo) : (s.setLine l li).site = s.site := rfl
@[simp] theorem State.setLine_fresh (s : State) (l : Nat) (li : LineInfo) : (s.setLine l li).fresh = s.fresh := rfl
@[simp] theorem State.setLine_time (s : State) (l : Nat) (li : LineInfo) : (s.setLine l li).time = s.time := rfl
@[simp] theorem State.setLine_ticks (s : State) (l : Nat) (li : LineInfo) : (s.setLine l li).ticks = s.ticks := rfl
@[simp] theorem State.setLine_pkg (s : State) (l : Nat) (li : LineInfo) : (s.setLine l li).pkg = s.pkg := rfl
@[simp] theorem State.setLine_cores (s : State) (l : Nat) (li : LineInfo) : (s.setLine l li).cores = s.cores := rfl
@[simp] theorem State.setLine_mail (s : State) (l : Nat) (li : LineInfo) : (s.setLine l li).mail = s.mail := rfl
@[simp] theorem State.setLine_mem (s : State) (l : Nat) (li : LineInfo) : (s.setLine l li).mem = s.mem := rfl
@[simp] theorem State.setLine_hbm (s : State) (l : Nat) (li : LineInfo) : (s.setLine l li).hbm = s.hbm := rfl
@[simp] theorem State.setLine_turn (s : State) (l : Nat) (li : LineInfo) : (s.setLine l li).turn = s.turn := rfl
@[simp] theorem State.setLine_turnReq (s : State) (l : Nat) (li : LineInfo) : (s.setLine l li).turnReq = s.turnReq := rfl
@[simp] theorem State.setLine_scrub (s : State) (l : Nat) (li : LineInfo) : (s.setLine l li).scrub = s.scrub := rfl
@[simp] theorem State.setLine_stalls (s : State) (l : Nat) (li : LineInfo) : (s.setLine l li).stalls = s.stalls := rfl
@[simp] theorem State.setLine_clocks (s : State) (l : Nat) (li : LineInfo) : (s.setLine l li).clocks = s.clocks := rfl
@[simp] theorem State.setLine_fenced (s : State) (l : Nat) (li : LineInfo) : (s.setLine l li).fenced = s.fenced := rfl
@[simp] theorem State.setLine_banks (s : State) (l : Nat) (li : LineInfo) : (s.setLine l li).banks = s.banks := rfl
@[simp] theorem State.setLine_scratch (s : State) (l : Nat) (li : LineInfo) : (s.setLine l li).scratch = s.scratch := rfl
@[simp] theorem State.setLine_posted (s : State) (l : Nat) (li : LineInfo) : (s.setLine l li).posted = s.posted := rfl
@[simp] theorem State.setLine_regions (s : State) (l : Nat) (li : LineInfo) : (s.setLine l li).regions = s.regions := rfl
@[simp] theorem State.setLine_l2 (s : State) (l : Nat) (li : LineInfo) : (s.setLine l li).l2 = s.l2 := rfl
@[simp] theorem State.setLine_walks (s : State) (l : Nat) (li : LineInfo) : (s.setLine l li).walks = s.walks := rfl
@[simp] theorem State.setLine_celog (s : State) (l : Nat) (li : LineInfo) : (s.setLine l li).celog = s.celog := rfl
@[simp] theorem State.setLine_clusters (s : State) (l : Nat) (li : LineInfo) : (s.setLine l li).clusters = s.clusters := rfl
@[simp] theorem State.setLine_twig (s : State) (l : Nat) (li : LineInfo) : (s.setLine l li).twig = s.twig := rfl
@[simp] theorem State.setLine_engines (s : State) (l : Nat) (li : LineInfo) : (s.setLine l li).engines = s.engines := rfl
@[simp] theorem State.setLine_jobs (s : State) (l : Nat) (li : LineInfo) : (s.setLine l li).jobs = s.jobs := rfl
@[simp] theorem State.setLine_launches (s : State) (l : Nat) (li : LineInfo) : (s.setLine l li).launches = s.launches := rfl
@[simp] theorem State.setLine_armed (s : State) (l : Nat) (li : LineInfo) : (s.setLine l li).armed = s.armed := rfl
@[simp] theorem State.setLine_faultq (s : State) (l : Nat) (li : LineInfo) : (s.setLine l li).faultq = s.faultq := rfl
@[simp] theorem State.setLine_reserved (s : State) (l : Nat) (li : LineInfo) : (s.setLine l li).reserved = s.reserved := rfl
@[simp] theorem State.setLine_hostq (s : State) (l : Nat) (li : LineInfo) : (s.setLine l li).hostq = s.hostq := rfl
@[simp] theorem State.setLine_regs (s : State) (l : Nat) (li : LineInfo) : (s.setLine l li).regs = s.regs := rfl

/-! ## State.setBank -/

@[simp] theorem State.setBank_sched (s : State) (t k : Nat) (b : Bank) : (s.setBank t k b).sched = s.sched := rfl
@[simp] theorem State.setBank_actor (s : State) (t k : Nat) (b : Bank) : (s.setBank t k b).actor = s.actor := rfl
@[simp] theorem State.setBank_site (s : State) (t k : Nat) (b : Bank) : (s.setBank t k b).site = s.site := rfl
@[simp] theorem State.setBank_fresh (s : State) (t k : Nat) (b : Bank) : (s.setBank t k b).fresh = s.fresh := rfl
@[simp] theorem State.setBank_time (s : State) (t k : Nat) (b : Bank) : (s.setBank t k b).time = s.time := rfl
@[simp] theorem State.setBank_ticks (s : State) (t k : Nat) (b : Bank) : (s.setBank t k b).ticks = s.ticks := rfl
@[simp] theorem State.setBank_pkg (s : State) (t k : Nat) (b : Bank) : (s.setBank t k b).pkg = s.pkg := rfl
@[simp] theorem State.setBank_cores (s : State) (t k : Nat) (b : Bank) : (s.setBank t k b).cores = s.cores := rfl
@[simp] theorem State.setBank_mail (s : State) (t k : Nat) (b : Bank) : (s.setBank t k b).mail = s.mail := rfl
@[simp] theorem State.setBank_mem (s : State) (t k : Nat) (b : Bank) : (s.setBank t k b).mem = s.mem := rfl
@[simp] theorem State.setBank_hbm (s : State) (t k : Nat) (b : Bank) : (s.setBank t k b).hbm = s.hbm := rfl
@[simp] theorem State.setBank_lines (s : State) (t k : Nat) (b : Bank) : (s.setBank t k b).lines = s.lines := rfl
@[simp] theorem State.setBank_turn (s : State) (t k : Nat) (b : Bank) : (s.setBank t k b).turn = s.turn := rfl
@[simp] theorem State.setBank_turnReq (s : State) (t k : Nat) (b : Bank) : (s.setBank t k b).turnReq = s.turnReq := rfl
@[simp] theorem State.setBank_scrub (s : State) (t k : Nat) (b : Bank) : (s.setBank t k b).scrub = s.scrub := rfl
@[simp] theorem State.setBank_stalls (s : State) (t k : Nat) (b : Bank) : (s.setBank t k b).stalls = s.stalls := rfl
@[simp] theorem State.setBank_clocks (s : State) (t k : Nat) (b : Bank) : (s.setBank t k b).clocks = s.clocks := rfl
@[simp] theorem State.setBank_fenced (s : State) (t k : Nat) (b : Bank) : (s.setBank t k b).fenced = s.fenced := rfl
@[simp] theorem State.setBank_scratch (s : State) (t k : Nat) (b : Bank) : (s.setBank t k b).scratch = s.scratch := rfl
@[simp] theorem State.setBank_posted (s : State) (t k : Nat) (b : Bank) : (s.setBank t k b).posted = s.posted := rfl
@[simp] theorem State.setBank_regions (s : State) (t k : Nat) (b : Bank) : (s.setBank t k b).regions = s.regions := rfl
@[simp] theorem State.setBank_l2 (s : State) (t k : Nat) (b : Bank) : (s.setBank t k b).l2 = s.l2 := rfl
@[simp] theorem State.setBank_walks (s : State) (t k : Nat) (b : Bank) : (s.setBank t k b).walks = s.walks := rfl
@[simp] theorem State.setBank_celog (s : State) (t k : Nat) (b : Bank) : (s.setBank t k b).celog = s.celog := rfl
@[simp] theorem State.setBank_clusters (s : State) (t k : Nat) (b : Bank) : (s.setBank t k b).clusters = s.clusters := rfl
@[simp] theorem State.setBank_twig (s : State) (t k : Nat) (b : Bank) : (s.setBank t k b).twig = s.twig := rfl
@[simp] theorem State.setBank_engines (s : State) (t k : Nat) (b : Bank) : (s.setBank t k b).engines = s.engines := rfl
@[simp] theorem State.setBank_jobs (s : State) (t k : Nat) (b : Bank) : (s.setBank t k b).jobs = s.jobs := rfl
@[simp] theorem State.setBank_launches (s : State) (t k : Nat) (b : Bank) : (s.setBank t k b).launches = s.launches := rfl
@[simp] theorem State.setBank_armed (s : State) (t k : Nat) (b : Bank) : (s.setBank t k b).armed = s.armed := rfl
@[simp] theorem State.setBank_faultq (s : State) (t k : Nat) (b : Bank) : (s.setBank t k b).faultq = s.faultq := rfl
@[simp] theorem State.setBank_reserved (s : State) (t k : Nat) (b : Bank) : (s.setBank t k b).reserved = s.reserved := rfl
@[simp] theorem State.setBank_hostq (s : State) (t k : Nat) (b : Bank) : (s.setBank t k b).hostq = s.hostq := rfl
@[simp] theorem State.setBank_regs (s : State) (t k : Nat) (b : Bank) : (s.setBank t k b).regs = s.regs := rfl

/-! ## State.setHomeClock -/

@[simp] theorem State.setHomeClock_sched (s : State) (p t : Nat) : (s.setHomeClock p t).sched = s.sched := rfl
@[simp] theorem State.setHomeClock_actor (s : State) (p t : Nat) : (s.setHomeClock p t).actor = s.actor := rfl
@[simp] theorem State.setHomeClock_site (s : State) (p t : Nat) : (s.setHomeClock p t).site = s.site := rfl
@[simp] theorem State.setHomeClock_fresh (s : State) (p t : Nat) : (s.setHomeClock p t).fresh = s.fresh := rfl
@[simp] theorem State.setHomeClock_time (s : State) (p t : Nat) : (s.setHomeClock p t).time = s.time := rfl
@[simp] theorem State.setHomeClock_ticks (s : State) (p t : Nat) : (s.setHomeClock p t).ticks = s.ticks := rfl
@[simp] theorem State.setHomeClock_pkg (s : State) (p t : Nat) : (s.setHomeClock p t).pkg = s.pkg := rfl
@[simp] theorem State.setHomeClock_cores (s : State) (p t : Nat) : (s.setHomeClock p t).cores = s.cores := rfl
@[simp] theorem State.setHomeClock_mail (s : State) (p t : Nat) : (s.setHomeClock p t).mail = s.mail := rfl
@[simp] theorem State.setHomeClock_mem (s : State) (p t : Nat) : (s.setHomeClock p t).mem = s.mem := rfl
@[simp] theorem State.setHomeClock_hbm (s : State) (p t : Nat) : (s.setHomeClock p t).hbm = s.hbm := rfl
@[simp] theorem State.setHomeClock_lines (s : State) (p t : Nat) : (s.setHomeClock p t).lines = s.lines := rfl
@[simp] theorem State.setHomeClock_turn (s : State) (p t : Nat) : (s.setHomeClock p t).turn = s.turn := rfl
@[simp] theorem State.setHomeClock_turnReq (s : State) (p t : Nat) : (s.setHomeClock p t).turnReq = s.turnReq := rfl
@[simp] theorem State.setHomeClock_scrub (s : State) (p t : Nat) : (s.setHomeClock p t).scrub = s.scrub := rfl
@[simp] theorem State.setHomeClock_stalls (s : State) (p t : Nat) : (s.setHomeClock p t).stalls = s.stalls := rfl
@[simp] theorem State.setHomeClock_fenced (s : State) (p t : Nat) : (s.setHomeClock p t).fenced = s.fenced := rfl
@[simp] theorem State.setHomeClock_banks (s : State) (p t : Nat) : (s.setHomeClock p t).banks = s.banks := rfl
@[simp] theorem State.setHomeClock_scratch (s : State) (p t : Nat) : (s.setHomeClock p t).scratch = s.scratch := rfl
@[simp] theorem State.setHomeClock_posted (s : State) (p t : Nat) : (s.setHomeClock p t).posted = s.posted := rfl
@[simp] theorem State.setHomeClock_regions (s : State) (p t : Nat) : (s.setHomeClock p t).regions = s.regions := rfl
@[simp] theorem State.setHomeClock_l2 (s : State) (p t : Nat) : (s.setHomeClock p t).l2 = s.l2 := rfl
@[simp] theorem State.setHomeClock_walks (s : State) (p t : Nat) : (s.setHomeClock p t).walks = s.walks := rfl
@[simp] theorem State.setHomeClock_celog (s : State) (p t : Nat) : (s.setHomeClock p t).celog = s.celog := rfl
@[simp] theorem State.setHomeClock_clusters (s : State) (p t : Nat) : (s.setHomeClock p t).clusters = s.clusters := rfl
@[simp] theorem State.setHomeClock_twig (s : State) (p t : Nat) : (s.setHomeClock p t).twig = s.twig := rfl
@[simp] theorem State.setHomeClock_engines (s : State) (p t : Nat) : (s.setHomeClock p t).engines = s.engines := rfl
@[simp] theorem State.setHomeClock_jobs (s : State) (p t : Nat) : (s.setHomeClock p t).jobs = s.jobs := rfl
@[simp] theorem State.setHomeClock_launches (s : State) (p t : Nat) : (s.setHomeClock p t).launches = s.launches := rfl
@[simp] theorem State.setHomeClock_armed (s : State) (p t : Nat) : (s.setHomeClock p t).armed = s.armed := rfl
@[simp] theorem State.setHomeClock_faultq (s : State) (p t : Nat) : (s.setHomeClock p t).faultq = s.faultq := rfl
@[simp] theorem State.setHomeClock_reserved (s : State) (p t : Nat) : (s.setHomeClock p t).reserved = s.reserved := rfl
@[simp] theorem State.setHomeClock_hostq (s : State) (p t : Nat) : (s.setHomeClock p t).hostq = s.hostq := rfl
@[simp] theorem State.setHomeClock_regs (s : State) (p t : Nat) : (s.setHomeClock p t).regs = s.regs := rfl

/-! ## State.setCluster -/

@[simp] theorem State.setCluster_sched (s : State) (cl : Nat) (c : Cluster) : (s.setCluster cl c).sched = s.sched := rfl
@[simp] theorem State.setCluster_actor (s : State) (cl : Nat) (c : Cluster) : (s.setCluster cl c).actor = s.actor := rfl
@[simp] theorem State.setCluster_site (s : State) (cl : Nat) (c : Cluster) : (s.setCluster cl c).site = s.site := rfl
@[simp] theorem State.setCluster_fresh (s : State) (cl : Nat) (c : Cluster) : (s.setCluster cl c).fresh = s.fresh := rfl
@[simp] theorem State.setCluster_time (s : State) (cl : Nat) (c : Cluster) : (s.setCluster cl c).time = s.time := rfl
@[simp] theorem State.setCluster_ticks (s : State) (cl : Nat) (c : Cluster) : (s.setCluster cl c).ticks = s.ticks := rfl
@[simp] theorem State.setCluster_pkg (s : State) (cl : Nat) (c : Cluster) : (s.setCluster cl c).pkg = s.pkg := rfl
@[simp] theorem State.setCluster_cores (s : State) (cl : Nat) (c : Cluster) : (s.setCluster cl c).cores = s.cores := rfl
@[simp] theorem State.setCluster_mail (s : State) (cl : Nat) (c : Cluster) : (s.setCluster cl c).mail = s.mail := rfl
@[simp] theorem State.setCluster_mem (s : State) (cl : Nat) (c : Cluster) : (s.setCluster cl c).mem = s.mem := rfl
@[simp] theorem State.setCluster_hbm (s : State) (cl : Nat) (c : Cluster) : (s.setCluster cl c).hbm = s.hbm := rfl
@[simp] theorem State.setCluster_lines (s : State) (cl : Nat) (c : Cluster) : (s.setCluster cl c).lines = s.lines := rfl
@[simp] theorem State.setCluster_turn (s : State) (cl : Nat) (c : Cluster) : (s.setCluster cl c).turn = s.turn := rfl
@[simp] theorem State.setCluster_turnReq (s : State) (cl : Nat) (c : Cluster) : (s.setCluster cl c).turnReq = s.turnReq := rfl
@[simp] theorem State.setCluster_scrub (s : State) (cl : Nat) (c : Cluster) : (s.setCluster cl c).scrub = s.scrub := rfl
@[simp] theorem State.setCluster_stalls (s : State) (cl : Nat) (c : Cluster) : (s.setCluster cl c).stalls = s.stalls := rfl
@[simp] theorem State.setCluster_clocks (s : State) (cl : Nat) (c : Cluster) : (s.setCluster cl c).clocks = s.clocks := rfl
@[simp] theorem State.setCluster_fenced (s : State) (cl : Nat) (c : Cluster) : (s.setCluster cl c).fenced = s.fenced := rfl
@[simp] theorem State.setCluster_banks (s : State) (cl : Nat) (c : Cluster) : (s.setCluster cl c).banks = s.banks := rfl
@[simp] theorem State.setCluster_scratch (s : State) (cl : Nat) (c : Cluster) : (s.setCluster cl c).scratch = s.scratch := rfl
@[simp] theorem State.setCluster_posted (s : State) (cl : Nat) (c : Cluster) : (s.setCluster cl c).posted = s.posted := rfl
@[simp] theorem State.setCluster_regions (s : State) (cl : Nat) (c : Cluster) : (s.setCluster cl c).regions = s.regions := rfl
@[simp] theorem State.setCluster_l2 (s : State) (cl : Nat) (c : Cluster) : (s.setCluster cl c).l2 = s.l2 := rfl
@[simp] theorem State.setCluster_walks (s : State) (cl : Nat) (c : Cluster) : (s.setCluster cl c).walks = s.walks := rfl
@[simp] theorem State.setCluster_celog (s : State) (cl : Nat) (c : Cluster) : (s.setCluster cl c).celog = s.celog := rfl
@[simp] theorem State.setCluster_twig (s : State) (cl : Nat) (c : Cluster) : (s.setCluster cl c).twig = s.twig := rfl
@[simp] theorem State.setCluster_engines (s : State) (cl : Nat) (c : Cluster) : (s.setCluster cl c).engines = s.engines := rfl
@[simp] theorem State.setCluster_jobs (s : State) (cl : Nat) (c : Cluster) : (s.setCluster cl c).jobs = s.jobs := rfl
@[simp] theorem State.setCluster_launches (s : State) (cl : Nat) (c : Cluster) : (s.setCluster cl c).launches = s.launches := rfl
@[simp] theorem State.setCluster_armed (s : State) (cl : Nat) (c : Cluster) : (s.setCluster cl c).armed = s.armed := rfl
@[simp] theorem State.setCluster_faultq (s : State) (cl : Nat) (c : Cluster) : (s.setCluster cl c).faultq = s.faultq := rfl
@[simp] theorem State.setCluster_reserved (s : State) (cl : Nat) (c : Cluster) : (s.setCluster cl c).reserved = s.reserved := rfl
@[simp] theorem State.setCluster_hostq (s : State) (cl : Nat) (c : Cluster) : (s.setCluster cl c).hostq = s.hostq := rfl
@[simp] theorem State.setCluster_regs (s : State) (cl : Nat) (c : Cluster) : (s.setCluster cl c).regs = s.regs := rfl

/-! ## State.onCluster -/

@[simp] theorem State.onCluster_sched (s : State) (cl : Nat) (f : Cluster → Cluster) : (s.onCluster cl f).sched = s.sched := rfl
@[simp] theorem State.onCluster_actor (s : State) (cl : Nat) (f : Cluster → Cluster) : (s.onCluster cl f).actor = s.actor := rfl
@[simp] theorem State.onCluster_site (s : State) (cl : Nat) (f : Cluster → Cluster) : (s.onCluster cl f).site = s.site := rfl
@[simp] theorem State.onCluster_fresh (s : State) (cl : Nat) (f : Cluster → Cluster) : (s.onCluster cl f).fresh = s.fresh := rfl
@[simp] theorem State.onCluster_time (s : State) (cl : Nat) (f : Cluster → Cluster) : (s.onCluster cl f).time = s.time := rfl
@[simp] theorem State.onCluster_ticks (s : State) (cl : Nat) (f : Cluster → Cluster) : (s.onCluster cl f).ticks = s.ticks := rfl
@[simp] theorem State.onCluster_pkg (s : State) (cl : Nat) (f : Cluster → Cluster) : (s.onCluster cl f).pkg = s.pkg := rfl
@[simp] theorem State.onCluster_cores (s : State) (cl : Nat) (f : Cluster → Cluster) : (s.onCluster cl f).cores = s.cores := rfl
@[simp] theorem State.onCluster_mail (s : State) (cl : Nat) (f : Cluster → Cluster) : (s.onCluster cl f).mail = s.mail := rfl
@[simp] theorem State.onCluster_mem (s : State) (cl : Nat) (f : Cluster → Cluster) : (s.onCluster cl f).mem = s.mem := rfl
@[simp] theorem State.onCluster_hbm (s : State) (cl : Nat) (f : Cluster → Cluster) : (s.onCluster cl f).hbm = s.hbm := rfl
@[simp] theorem State.onCluster_lines (s : State) (cl : Nat) (f : Cluster → Cluster) : (s.onCluster cl f).lines = s.lines := rfl
@[simp] theorem State.onCluster_turn (s : State) (cl : Nat) (f : Cluster → Cluster) : (s.onCluster cl f).turn = s.turn := rfl
@[simp] theorem State.onCluster_turnReq (s : State) (cl : Nat) (f : Cluster → Cluster) : (s.onCluster cl f).turnReq = s.turnReq := rfl
@[simp] theorem State.onCluster_scrub (s : State) (cl : Nat) (f : Cluster → Cluster) : (s.onCluster cl f).scrub = s.scrub := rfl
@[simp] theorem State.onCluster_stalls (s : State) (cl : Nat) (f : Cluster → Cluster) : (s.onCluster cl f).stalls = s.stalls := rfl
@[simp] theorem State.onCluster_clocks (s : State) (cl : Nat) (f : Cluster → Cluster) : (s.onCluster cl f).clocks = s.clocks := rfl
@[simp] theorem State.onCluster_fenced (s : State) (cl : Nat) (f : Cluster → Cluster) : (s.onCluster cl f).fenced = s.fenced := rfl
@[simp] theorem State.onCluster_banks (s : State) (cl : Nat) (f : Cluster → Cluster) : (s.onCluster cl f).banks = s.banks := rfl
@[simp] theorem State.onCluster_scratch (s : State) (cl : Nat) (f : Cluster → Cluster) : (s.onCluster cl f).scratch = s.scratch := rfl
@[simp] theorem State.onCluster_posted (s : State) (cl : Nat) (f : Cluster → Cluster) : (s.onCluster cl f).posted = s.posted := rfl
@[simp] theorem State.onCluster_regions (s : State) (cl : Nat) (f : Cluster → Cluster) : (s.onCluster cl f).regions = s.regions := rfl
@[simp] theorem State.onCluster_l2 (s : State) (cl : Nat) (f : Cluster → Cluster) : (s.onCluster cl f).l2 = s.l2 := rfl
@[simp] theorem State.onCluster_walks (s : State) (cl : Nat) (f : Cluster → Cluster) : (s.onCluster cl f).walks = s.walks := rfl
@[simp] theorem State.onCluster_celog (s : State) (cl : Nat) (f : Cluster → Cluster) : (s.onCluster cl f).celog = s.celog := rfl
@[simp] theorem State.onCluster_twig (s : State) (cl : Nat) (f : Cluster → Cluster) : (s.onCluster cl f).twig = s.twig := rfl
@[simp] theorem State.onCluster_engines (s : State) (cl : Nat) (f : Cluster → Cluster) : (s.onCluster cl f).engines = s.engines := rfl
@[simp] theorem State.onCluster_jobs (s : State) (cl : Nat) (f : Cluster → Cluster) : (s.onCluster cl f).jobs = s.jobs := rfl
@[simp] theorem State.onCluster_launches (s : State) (cl : Nat) (f : Cluster → Cluster) : (s.onCluster cl f).launches = s.launches := rfl
@[simp] theorem State.onCluster_armed (s : State) (cl : Nat) (f : Cluster → Cluster) : (s.onCluster cl f).armed = s.armed := rfl
@[simp] theorem State.onCluster_faultq (s : State) (cl : Nat) (f : Cluster → Cluster) : (s.onCluster cl f).faultq = s.faultq := rfl
@[simp] theorem State.onCluster_reserved (s : State) (cl : Nat) (f : Cluster → Cluster) : (s.onCluster cl f).reserved = s.reserved := rfl
@[simp] theorem State.onCluster_hostq (s : State) (cl : Nat) (f : Cluster → Cluster) : (s.onCluster cl f).hostq = s.hostq := rfl
@[simp] theorem State.onCluster_regs (s : State) (cl : Nat) (f : Cluster → Cluster) : (s.onCluster cl f).regs = s.regs := rfl

/-! ## State.stallTurn -/

@[simp] theorem State.stallTurn_sched (s : State) (t : Nat) : (s.stallTurn t).sched = s.sched := rfl
@[simp] theorem State.stallTurn_actor (s : State) (t : Nat) : (s.stallTurn t).actor = s.actor := rfl
@[simp] theorem State.stallTurn_site (s : State) (t : Nat) : (s.stallTurn t).site = s.site := rfl
@[simp] theorem State.stallTurn_fresh (s : State) (t : Nat) : (s.stallTurn t).fresh = s.fresh := rfl
@[simp] theorem State.stallTurn_time (s : State) (t : Nat) : (s.stallTurn t).time = s.time := rfl
@[simp] theorem State.stallTurn_ticks (s : State) (t : Nat) : (s.stallTurn t).ticks = s.ticks := rfl
@[simp] theorem State.stallTurn_pkg (s : State) (t : Nat) : (s.stallTurn t).pkg = s.pkg := rfl
@[simp] theorem State.stallTurn_cores (s : State) (t : Nat) : (s.stallTurn t).cores = s.cores := rfl
@[simp] theorem State.stallTurn_mail (s : State) (t : Nat) : (s.stallTurn t).mail = s.mail := rfl
@[simp] theorem State.stallTurn_mem (s : State) (t : Nat) : (s.stallTurn t).mem = s.mem := rfl
@[simp] theorem State.stallTurn_hbm (s : State) (t : Nat) : (s.stallTurn t).hbm = s.hbm := rfl
@[simp] theorem State.stallTurn_lines (s : State) (t : Nat) : (s.stallTurn t).lines = s.lines := rfl
@[simp] theorem State.stallTurn_turn (s : State) (t : Nat) : (s.stallTurn t).turn = s.turn := rfl
@[simp] theorem State.stallTurn_turnReq (s : State) (t : Nat) : (s.stallTurn t).turnReq = s.turnReq := rfl
@[simp] theorem State.stallTurn_scrub (s : State) (t : Nat) : (s.stallTurn t).scrub = s.scrub := rfl
@[simp] theorem State.stallTurn_clocks (s : State) (t : Nat) : (s.stallTurn t).clocks = s.clocks := rfl
@[simp] theorem State.stallTurn_fenced (s : State) (t : Nat) : (s.stallTurn t).fenced = s.fenced := rfl
@[simp] theorem State.stallTurn_banks (s : State) (t : Nat) : (s.stallTurn t).banks = s.banks := rfl
@[simp] theorem State.stallTurn_scratch (s : State) (t : Nat) : (s.stallTurn t).scratch = s.scratch := rfl
@[simp] theorem State.stallTurn_posted (s : State) (t : Nat) : (s.stallTurn t).posted = s.posted := rfl
@[simp] theorem State.stallTurn_regions (s : State) (t : Nat) : (s.stallTurn t).regions = s.regions := rfl
@[simp] theorem State.stallTurn_l2 (s : State) (t : Nat) : (s.stallTurn t).l2 = s.l2 := rfl
@[simp] theorem State.stallTurn_walks (s : State) (t : Nat) : (s.stallTurn t).walks = s.walks := rfl
@[simp] theorem State.stallTurn_celog (s : State) (t : Nat) : (s.stallTurn t).celog = s.celog := rfl
@[simp] theorem State.stallTurn_clusters (s : State) (t : Nat) : (s.stallTurn t).clusters = s.clusters := rfl
@[simp] theorem State.stallTurn_twig (s : State) (t : Nat) : (s.stallTurn t).twig = s.twig := rfl
@[simp] theorem State.stallTurn_engines (s : State) (t : Nat) : (s.stallTurn t).engines = s.engines := rfl
@[simp] theorem State.stallTurn_jobs (s : State) (t : Nat) : (s.stallTurn t).jobs = s.jobs := rfl
@[simp] theorem State.stallTurn_launches (s : State) (t : Nat) : (s.stallTurn t).launches = s.launches := rfl
@[simp] theorem State.stallTurn_armed (s : State) (t : Nat) : (s.stallTurn t).armed = s.armed := rfl
@[simp] theorem State.stallTurn_faultq (s : State) (t : Nat) : (s.stallTurn t).faultq = s.faultq := rfl
@[simp] theorem State.stallTurn_reserved (s : State) (t : Nat) : (s.stallTurn t).reserved = s.reserved := rfl
@[simp] theorem State.stallTurn_hostq (s : State) (t : Nat) : (s.stallTurn t).hostq = s.hostq := rfl
@[simp] theorem State.stallTurn_regs (s : State) (t : Nat) : (s.stallTurn t).regs = s.regs := rfl

/-! ## State.post -/

@[simp] theorem State.post_sched (s : State) (src : Sender) (n k : Nat) (w : Word) (t : Nat) : (s.post src n k w t).sched = s.sched := rfl
@[simp] theorem State.post_actor (s : State) (src : Sender) (n k : Nat) (w : Word) (t : Nat) : (s.post src n k w t).actor = s.actor := rfl
@[simp] theorem State.post_site (s : State) (src : Sender) (n k : Nat) (w : Word) (t : Nat) : (s.post src n k w t).site = s.site := rfl
@[simp] theorem State.post_fresh (s : State) (src : Sender) (n k : Nat) (w : Word) (t : Nat) : (s.post src n k w t).fresh = s.fresh := rfl
@[simp] theorem State.post_time (s : State) (src : Sender) (n k : Nat) (w : Word) (t : Nat) : (s.post src n k w t).time = s.time := rfl
@[simp] theorem State.post_ticks (s : State) (src : Sender) (n k : Nat) (w : Word) (t : Nat) : (s.post src n k w t).ticks = s.ticks := rfl
@[simp] theorem State.post_pkg (s : State) (src : Sender) (n k : Nat) (w : Word) (t : Nat) : (s.post src n k w t).pkg = s.pkg := rfl
@[simp] theorem State.post_cores (s : State) (src : Sender) (n k : Nat) (w : Word) (t : Nat) : (s.post src n k w t).cores = s.cores := rfl
@[simp] theorem State.post_mem (s : State) (src : Sender) (n k : Nat) (w : Word) (t : Nat) : (s.post src n k w t).mem = s.mem := rfl
@[simp] theorem State.post_hbm (s : State) (src : Sender) (n k : Nat) (w : Word) (t : Nat) : (s.post src n k w t).hbm = s.hbm := rfl
@[simp] theorem State.post_lines (s : State) (src : Sender) (n k : Nat) (w : Word) (t : Nat) : (s.post src n k w t).lines = s.lines := rfl
@[simp] theorem State.post_turn (s : State) (src : Sender) (n k : Nat) (w : Word) (t : Nat) : (s.post src n k w t).turn = s.turn := rfl
@[simp] theorem State.post_turnReq (s : State) (src : Sender) (n k : Nat) (w : Word) (t : Nat) : (s.post src n k w t).turnReq = s.turnReq := rfl
@[simp] theorem State.post_scrub (s : State) (src : Sender) (n k : Nat) (w : Word) (t : Nat) : (s.post src n k w t).scrub = s.scrub := rfl
@[simp] theorem State.post_stalls (s : State) (src : Sender) (n k : Nat) (w : Word) (t : Nat) : (s.post src n k w t).stalls = s.stalls := rfl
@[simp] theorem State.post_clocks (s : State) (src : Sender) (n k : Nat) (w : Word) (t : Nat) : (s.post src n k w t).clocks = s.clocks := rfl
@[simp] theorem State.post_fenced (s : State) (src : Sender) (n k : Nat) (w : Word) (t : Nat) : (s.post src n k w t).fenced = s.fenced := rfl
@[simp] theorem State.post_banks (s : State) (src : Sender) (n k : Nat) (w : Word) (t : Nat) : (s.post src n k w t).banks = s.banks := rfl
@[simp] theorem State.post_scratch (s : State) (src : Sender) (n k : Nat) (w : Word) (t : Nat) : (s.post src n k w t).scratch = s.scratch := rfl
@[simp] theorem State.post_posted (s : State) (src : Sender) (n k : Nat) (w : Word) (t : Nat) : (s.post src n k w t).posted = s.posted := rfl
@[simp] theorem State.post_regions (s : State) (src : Sender) (n k : Nat) (w : Word) (t : Nat) : (s.post src n k w t).regions = s.regions := rfl
@[simp] theorem State.post_l2 (s : State) (src : Sender) (n k : Nat) (w : Word) (t : Nat) : (s.post src n k w t).l2 = s.l2 := rfl
@[simp] theorem State.post_walks (s : State) (src : Sender) (n k : Nat) (w : Word) (t : Nat) : (s.post src n k w t).walks = s.walks := rfl
@[simp] theorem State.post_celog (s : State) (src : Sender) (n k : Nat) (w : Word) (t : Nat) : (s.post src n k w t).celog = s.celog := rfl
@[simp] theorem State.post_clusters (s : State) (src : Sender) (n k : Nat) (w : Word) (t : Nat) : (s.post src n k w t).clusters = s.clusters := rfl
@[simp] theorem State.post_twig (s : State) (src : Sender) (n k : Nat) (w : Word) (t : Nat) : (s.post src n k w t).twig = s.twig := rfl
@[simp] theorem State.post_engines (s : State) (src : Sender) (n k : Nat) (w : Word) (t : Nat) : (s.post src n k w t).engines = s.engines := rfl
@[simp] theorem State.post_jobs (s : State) (src : Sender) (n k : Nat) (w : Word) (t : Nat) : (s.post src n k w t).jobs = s.jobs := rfl
@[simp] theorem State.post_launches (s : State) (src : Sender) (n k : Nat) (w : Word) (t : Nat) : (s.post src n k w t).launches = s.launches := rfl
@[simp] theorem State.post_armed (s : State) (src : Sender) (n k : Nat) (w : Word) (t : Nat) : (s.post src n k w t).armed = s.armed := rfl
@[simp] theorem State.post_faultq (s : State) (src : Sender) (n k : Nat) (w : Word) (t : Nat) : (s.post src n k w t).faultq = s.faultq := rfl
@[simp] theorem State.post_reserved (s : State) (src : Sender) (n k : Nat) (w : Word) (t : Nat) : (s.post src n k w t).reserved = s.reserved := rfl
@[simp] theorem State.post_hostq (s : State) (src : Sender) (n k : Nat) (w : Word) (t : Nat) : (s.post src n k w t).hostq = s.hostq := rfl
@[simp] theorem State.post_regs (s : State) (src : Sender) (n k : Nat) (w : Word) (t : Nat) : (s.post src n k w t).regs = s.regs := rfl

/-! ## State.postScratch -/

@[simp] theorem State.postScratch_sched (s : State) (a pa : Nat) (data : List Byte) : (s.postScratch a pa data).sched = s.sched := rfl
@[simp] theorem State.postScratch_actor (s : State) (a pa : Nat) (data : List Byte) : (s.postScratch a pa data).actor = s.actor := rfl
@[simp] theorem State.postScratch_site (s : State) (a pa : Nat) (data : List Byte) : (s.postScratch a pa data).site = s.site := rfl
@[simp] theorem State.postScratch_fresh (s : State) (a pa : Nat) (data : List Byte) : (s.postScratch a pa data).fresh = s.fresh := rfl
@[simp] theorem State.postScratch_time (s : State) (a pa : Nat) (data : List Byte) : (s.postScratch a pa data).time = s.time := rfl
@[simp] theorem State.postScratch_ticks (s : State) (a pa : Nat) (data : List Byte) : (s.postScratch a pa data).ticks = s.ticks := rfl
@[simp] theorem State.postScratch_pkg (s : State) (a pa : Nat) (data : List Byte) : (s.postScratch a pa data).pkg = s.pkg := rfl
@[simp] theorem State.postScratch_cores (s : State) (a pa : Nat) (data : List Byte) : (s.postScratch a pa data).cores = s.cores := rfl
@[simp] theorem State.postScratch_mail (s : State) (a pa : Nat) (data : List Byte) : (s.postScratch a pa data).mail = s.mail := rfl
@[simp] theorem State.postScratch_mem (s : State) (a pa : Nat) (data : List Byte) : (s.postScratch a pa data).mem = s.mem := rfl
@[simp] theorem State.postScratch_hbm (s : State) (a pa : Nat) (data : List Byte) : (s.postScratch a pa data).hbm = s.hbm := rfl
@[simp] theorem State.postScratch_lines (s : State) (a pa : Nat) (data : List Byte) : (s.postScratch a pa data).lines = s.lines := rfl
@[simp] theorem State.postScratch_turn (s : State) (a pa : Nat) (data : List Byte) : (s.postScratch a pa data).turn = s.turn := rfl
@[simp] theorem State.postScratch_turnReq (s : State) (a pa : Nat) (data : List Byte) : (s.postScratch a pa data).turnReq = s.turnReq := rfl
@[simp] theorem State.postScratch_scrub (s : State) (a pa : Nat) (data : List Byte) : (s.postScratch a pa data).scrub = s.scrub := rfl
@[simp] theorem State.postScratch_stalls (s : State) (a pa : Nat) (data : List Byte) : (s.postScratch a pa data).stalls = s.stalls := rfl
@[simp] theorem State.postScratch_clocks (s : State) (a pa : Nat) (data : List Byte) : (s.postScratch a pa data).clocks = s.clocks := rfl
@[simp] theorem State.postScratch_fenced (s : State) (a pa : Nat) (data : List Byte) : (s.postScratch a pa data).fenced = s.fenced := rfl
@[simp] theorem State.postScratch_banks (s : State) (a pa : Nat) (data : List Byte) : (s.postScratch a pa data).banks = s.banks := rfl
@[simp] theorem State.postScratch_scratch (s : State) (a pa : Nat) (data : List Byte) : (s.postScratch a pa data).scratch = s.scratch := rfl
@[simp] theorem State.postScratch_regions (s : State) (a pa : Nat) (data : List Byte) : (s.postScratch a pa data).regions = s.regions := rfl
@[simp] theorem State.postScratch_l2 (s : State) (a pa : Nat) (data : List Byte) : (s.postScratch a pa data).l2 = s.l2 := rfl
@[simp] theorem State.postScratch_walks (s : State) (a pa : Nat) (data : List Byte) : (s.postScratch a pa data).walks = s.walks := rfl
@[simp] theorem State.postScratch_celog (s : State) (a pa : Nat) (data : List Byte) : (s.postScratch a pa data).celog = s.celog := rfl
@[simp] theorem State.postScratch_clusters (s : State) (a pa : Nat) (data : List Byte) : (s.postScratch a pa data).clusters = s.clusters := rfl
@[simp] theorem State.postScratch_twig (s : State) (a pa : Nat) (data : List Byte) : (s.postScratch a pa data).twig = s.twig := rfl
@[simp] theorem State.postScratch_engines (s : State) (a pa : Nat) (data : List Byte) : (s.postScratch a pa data).engines = s.engines := rfl
@[simp] theorem State.postScratch_jobs (s : State) (a pa : Nat) (data : List Byte) : (s.postScratch a pa data).jobs = s.jobs := rfl
@[simp] theorem State.postScratch_launches (s : State) (a pa : Nat) (data : List Byte) : (s.postScratch a pa data).launches = s.launches := rfl
@[simp] theorem State.postScratch_armed (s : State) (a pa : Nat) (data : List Byte) : (s.postScratch a pa data).armed = s.armed := rfl
@[simp] theorem State.postScratch_faultq (s : State) (a pa : Nat) (data : List Byte) : (s.postScratch a pa data).faultq = s.faultq := rfl
@[simp] theorem State.postScratch_reserved (s : State) (a pa : Nat) (data : List Byte) : (s.postScratch a pa data).reserved = s.reserved := rfl
@[simp] theorem State.postScratch_hostq (s : State) (a pa : Nat) (data : List Byte) : (s.postScratch a pa data).hostq = s.hostq := rfl
@[simp] theorem State.postScratch_regs (s : State) (a pa : Nat) (data : List Byte) : (s.postScratch a pa data).regs = s.regs := rfl

/-! ## State.setEngine -/

@[simp] theorem State.setEngine_sched (s : State) (e : Nat) (x : Engine) : (s.setEngine e x).sched = s.sched := rfl
@[simp] theorem State.setEngine_actor (s : State) (e : Nat) (x : Engine) : (s.setEngine e x).actor = s.actor := rfl
@[simp] theorem State.setEngine_site (s : State) (e : Nat) (x : Engine) : (s.setEngine e x).site = s.site := rfl
@[simp] theorem State.setEngine_fresh (s : State) (e : Nat) (x : Engine) : (s.setEngine e x).fresh = s.fresh := rfl
@[simp] theorem State.setEngine_time (s : State) (e : Nat) (x : Engine) : (s.setEngine e x).time = s.time := rfl
@[simp] theorem State.setEngine_ticks (s : State) (e : Nat) (x : Engine) : (s.setEngine e x).ticks = s.ticks := rfl
@[simp] theorem State.setEngine_pkg (s : State) (e : Nat) (x : Engine) : (s.setEngine e x).pkg = s.pkg := rfl
@[simp] theorem State.setEngine_cores (s : State) (e : Nat) (x : Engine) : (s.setEngine e x).cores = s.cores := rfl
@[simp] theorem State.setEngine_mail (s : State) (e : Nat) (x : Engine) : (s.setEngine e x).mail = s.mail := rfl
@[simp] theorem State.setEngine_mem (s : State) (e : Nat) (x : Engine) : (s.setEngine e x).mem = s.mem := rfl
@[simp] theorem State.setEngine_hbm (s : State) (e : Nat) (x : Engine) : (s.setEngine e x).hbm = s.hbm := rfl
@[simp] theorem State.setEngine_lines (s : State) (e : Nat) (x : Engine) : (s.setEngine e x).lines = s.lines := rfl
@[simp] theorem State.setEngine_turn (s : State) (e : Nat) (x : Engine) : (s.setEngine e x).turn = s.turn := rfl
@[simp] theorem State.setEngine_turnReq (s : State) (e : Nat) (x : Engine) : (s.setEngine e x).turnReq = s.turnReq := rfl
@[simp] theorem State.setEngine_scrub (s : State) (e : Nat) (x : Engine) : (s.setEngine e x).scrub = s.scrub := rfl
@[simp] theorem State.setEngine_stalls (s : State) (e : Nat) (x : Engine) : (s.setEngine e x).stalls = s.stalls := rfl
@[simp] theorem State.setEngine_clocks (s : State) (e : Nat) (x : Engine) : (s.setEngine e x).clocks = s.clocks := rfl
@[simp] theorem State.setEngine_fenced (s : State) (e : Nat) (x : Engine) : (s.setEngine e x).fenced = s.fenced := rfl
@[simp] theorem State.setEngine_banks (s : State) (e : Nat) (x : Engine) : (s.setEngine e x).banks = s.banks := rfl
@[simp] theorem State.setEngine_scratch (s : State) (e : Nat) (x : Engine) : (s.setEngine e x).scratch = s.scratch := rfl
@[simp] theorem State.setEngine_posted (s : State) (e : Nat) (x : Engine) : (s.setEngine e x).posted = s.posted := rfl
@[simp] theorem State.setEngine_regions (s : State) (e : Nat) (x : Engine) : (s.setEngine e x).regions = s.regions := rfl
@[simp] theorem State.setEngine_l2 (s : State) (e : Nat) (x : Engine) : (s.setEngine e x).l2 = s.l2 := rfl
@[simp] theorem State.setEngine_walks (s : State) (e : Nat) (x : Engine) : (s.setEngine e x).walks = s.walks := rfl
@[simp] theorem State.setEngine_celog (s : State) (e : Nat) (x : Engine) : (s.setEngine e x).celog = s.celog := rfl
@[simp] theorem State.setEngine_clusters (s : State) (e : Nat) (x : Engine) : (s.setEngine e x).clusters = s.clusters := rfl
@[simp] theorem State.setEngine_twig (s : State) (e : Nat) (x : Engine) : (s.setEngine e x).twig = s.twig := rfl
@[simp] theorem State.setEngine_jobs (s : State) (e : Nat) (x : Engine) : (s.setEngine e x).jobs = s.jobs := rfl
@[simp] theorem State.setEngine_launches (s : State) (e : Nat) (x : Engine) : (s.setEngine e x).launches = s.launches := rfl
@[simp] theorem State.setEngine_armed (s : State) (e : Nat) (x : Engine) : (s.setEngine e x).armed = s.armed := rfl
@[simp] theorem State.setEngine_faultq (s : State) (e : Nat) (x : Engine) : (s.setEngine e x).faultq = s.faultq := rfl
@[simp] theorem State.setEngine_reserved (s : State) (e : Nat) (x : Engine) : (s.setEngine e x).reserved = s.reserved := rfl
@[simp] theorem State.setEngine_hostq (s : State) (e : Nat) (x : Engine) : (s.setEngine e x).hostq = s.hostq := rfl
@[simp] theorem State.setEngine_regs (s : State) (e : Nat) (x : Engine) : (s.setEngine e x).regs = s.regs := rfl

/-! ## State.setCopyJob -/

@[simp] theorem State.setCopyJob_sched (s : State) (e k : Nat) (j : CopyJob) : (s.setCopyJob e k j).sched = s.sched := rfl
@[simp] theorem State.setCopyJob_actor (s : State) (e k : Nat) (j : CopyJob) : (s.setCopyJob e k j).actor = s.actor := rfl
@[simp] theorem State.setCopyJob_site (s : State) (e k : Nat) (j : CopyJob) : (s.setCopyJob e k j).site = s.site := rfl
@[simp] theorem State.setCopyJob_fresh (s : State) (e k : Nat) (j : CopyJob) : (s.setCopyJob e k j).fresh = s.fresh := rfl
@[simp] theorem State.setCopyJob_time (s : State) (e k : Nat) (j : CopyJob) : (s.setCopyJob e k j).time = s.time := rfl
@[simp] theorem State.setCopyJob_ticks (s : State) (e k : Nat) (j : CopyJob) : (s.setCopyJob e k j).ticks = s.ticks := rfl
@[simp] theorem State.setCopyJob_pkg (s : State) (e k : Nat) (j : CopyJob) : (s.setCopyJob e k j).pkg = s.pkg := rfl
@[simp] theorem State.setCopyJob_cores (s : State) (e k : Nat) (j : CopyJob) : (s.setCopyJob e k j).cores = s.cores := rfl
@[simp] theorem State.setCopyJob_mail (s : State) (e k : Nat) (j : CopyJob) : (s.setCopyJob e k j).mail = s.mail := rfl
@[simp] theorem State.setCopyJob_mem (s : State) (e k : Nat) (j : CopyJob) : (s.setCopyJob e k j).mem = s.mem := rfl
@[simp] theorem State.setCopyJob_hbm (s : State) (e k : Nat) (j : CopyJob) : (s.setCopyJob e k j).hbm = s.hbm := rfl
@[simp] theorem State.setCopyJob_lines (s : State) (e k : Nat) (j : CopyJob) : (s.setCopyJob e k j).lines = s.lines := rfl
@[simp] theorem State.setCopyJob_turn (s : State) (e k : Nat) (j : CopyJob) : (s.setCopyJob e k j).turn = s.turn := rfl
@[simp] theorem State.setCopyJob_turnReq (s : State) (e k : Nat) (j : CopyJob) : (s.setCopyJob e k j).turnReq = s.turnReq := rfl
@[simp] theorem State.setCopyJob_scrub (s : State) (e k : Nat) (j : CopyJob) : (s.setCopyJob e k j).scrub = s.scrub := rfl
@[simp] theorem State.setCopyJob_stalls (s : State) (e k : Nat) (j : CopyJob) : (s.setCopyJob e k j).stalls = s.stalls := rfl
@[simp] theorem State.setCopyJob_clocks (s : State) (e k : Nat) (j : CopyJob) : (s.setCopyJob e k j).clocks = s.clocks := rfl
@[simp] theorem State.setCopyJob_fenced (s : State) (e k : Nat) (j : CopyJob) : (s.setCopyJob e k j).fenced = s.fenced := rfl
@[simp] theorem State.setCopyJob_banks (s : State) (e k : Nat) (j : CopyJob) : (s.setCopyJob e k j).banks = s.banks := rfl
@[simp] theorem State.setCopyJob_scratch (s : State) (e k : Nat) (j : CopyJob) : (s.setCopyJob e k j).scratch = s.scratch := rfl
@[simp] theorem State.setCopyJob_posted (s : State) (e k : Nat) (j : CopyJob) : (s.setCopyJob e k j).posted = s.posted := rfl
@[simp] theorem State.setCopyJob_regions (s : State) (e k : Nat) (j : CopyJob) : (s.setCopyJob e k j).regions = s.regions := rfl
@[simp] theorem State.setCopyJob_l2 (s : State) (e k : Nat) (j : CopyJob) : (s.setCopyJob e k j).l2 = s.l2 := rfl
@[simp] theorem State.setCopyJob_walks (s : State) (e k : Nat) (j : CopyJob) : (s.setCopyJob e k j).walks = s.walks := rfl
@[simp] theorem State.setCopyJob_celog (s : State) (e k : Nat) (j : CopyJob) : (s.setCopyJob e k j).celog = s.celog := rfl
@[simp] theorem State.setCopyJob_clusters (s : State) (e k : Nat) (j : CopyJob) : (s.setCopyJob e k j).clusters = s.clusters := rfl
@[simp] theorem State.setCopyJob_twig (s : State) (e k : Nat) (j : CopyJob) : (s.setCopyJob e k j).twig = s.twig := rfl
@[simp] theorem State.setCopyJob_jobs (s : State) (e k : Nat) (j : CopyJob) : (s.setCopyJob e k j).jobs = s.jobs := rfl
@[simp] theorem State.setCopyJob_launches (s : State) (e k : Nat) (j : CopyJob) : (s.setCopyJob e k j).launches = s.launches := rfl
@[simp] theorem State.setCopyJob_armed (s : State) (e k : Nat) (j : CopyJob) : (s.setCopyJob e k j).armed = s.armed := rfl
@[simp] theorem State.setCopyJob_faultq (s : State) (e k : Nat) (j : CopyJob) : (s.setCopyJob e k j).faultq = s.faultq := rfl
@[simp] theorem State.setCopyJob_reserved (s : State) (e k : Nat) (j : CopyJob) : (s.setCopyJob e k j).reserved = s.reserved := rfl
@[simp] theorem State.setCopyJob_hostq (s : State) (e k : Nat) (j : CopyJob) : (s.setCopyJob e k j).hostq = s.hostq := rfl
@[simp] theorem State.setCopyJob_regs (s : State) (e k : Nat) (j : CopyJob) : (s.setCopyJob e k j).regs = s.regs := rfl

/-! ## State.setLaunch -/

@[simp] theorem State.setLaunch_sched (s : State) (l : Launch) : (s.setLaunch l).sched = s.sched := rfl
@[simp] theorem State.setLaunch_actor (s : State) (l : Launch) : (s.setLaunch l).actor = s.actor := rfl
@[simp] theorem State.setLaunch_site (s : State) (l : Launch) : (s.setLaunch l).site = s.site := rfl
@[simp] theorem State.setLaunch_fresh (s : State) (l : Launch) : (s.setLaunch l).fresh = s.fresh := rfl
@[simp] theorem State.setLaunch_time (s : State) (l : Launch) : (s.setLaunch l).time = s.time := rfl
@[simp] theorem State.setLaunch_ticks (s : State) (l : Launch) : (s.setLaunch l).ticks = s.ticks := rfl
@[simp] theorem State.setLaunch_pkg (s : State) (l : Launch) : (s.setLaunch l).pkg = s.pkg := rfl
@[simp] theorem State.setLaunch_cores (s : State) (l : Launch) : (s.setLaunch l).cores = s.cores := rfl
@[simp] theorem State.setLaunch_mail (s : State) (l : Launch) : (s.setLaunch l).mail = s.mail := rfl
@[simp] theorem State.setLaunch_mem (s : State) (l : Launch) : (s.setLaunch l).mem = s.mem := rfl
@[simp] theorem State.setLaunch_hbm (s : State) (l : Launch) : (s.setLaunch l).hbm = s.hbm := rfl
@[simp] theorem State.setLaunch_lines (s : State) (l : Launch) : (s.setLaunch l).lines = s.lines := rfl
@[simp] theorem State.setLaunch_turn (s : State) (l : Launch) : (s.setLaunch l).turn = s.turn := rfl
@[simp] theorem State.setLaunch_turnReq (s : State) (l : Launch) : (s.setLaunch l).turnReq = s.turnReq := rfl
@[simp] theorem State.setLaunch_scrub (s : State) (l : Launch) : (s.setLaunch l).scrub = s.scrub := rfl
@[simp] theorem State.setLaunch_stalls (s : State) (l : Launch) : (s.setLaunch l).stalls = s.stalls := rfl
@[simp] theorem State.setLaunch_clocks (s : State) (l : Launch) : (s.setLaunch l).clocks = s.clocks := rfl
@[simp] theorem State.setLaunch_fenced (s : State) (l : Launch) : (s.setLaunch l).fenced = s.fenced := rfl
@[simp] theorem State.setLaunch_banks (s : State) (l : Launch) : (s.setLaunch l).banks = s.banks := rfl
@[simp] theorem State.setLaunch_scratch (s : State) (l : Launch) : (s.setLaunch l).scratch = s.scratch := rfl
@[simp] theorem State.setLaunch_posted (s : State) (l : Launch) : (s.setLaunch l).posted = s.posted := rfl
@[simp] theorem State.setLaunch_regions (s : State) (l : Launch) : (s.setLaunch l).regions = s.regions := rfl
@[simp] theorem State.setLaunch_l2 (s : State) (l : Launch) : (s.setLaunch l).l2 = s.l2 := rfl
@[simp] theorem State.setLaunch_walks (s : State) (l : Launch) : (s.setLaunch l).walks = s.walks := rfl
@[simp] theorem State.setLaunch_celog (s : State) (l : Launch) : (s.setLaunch l).celog = s.celog := rfl
@[simp] theorem State.setLaunch_clusters (s : State) (l : Launch) : (s.setLaunch l).clusters = s.clusters := rfl
@[simp] theorem State.setLaunch_twig (s : State) (l : Launch) : (s.setLaunch l).twig = s.twig := rfl
@[simp] theorem State.setLaunch_engines (s : State) (l : Launch) : (s.setLaunch l).engines = s.engines := rfl
@[simp] theorem State.setLaunch_jobs (s : State) (l : Launch) : (s.setLaunch l).jobs = s.jobs := rfl
@[simp] theorem State.setLaunch_armed (s : State) (l : Launch) : (s.setLaunch l).armed = s.armed := rfl
@[simp] theorem State.setLaunch_faultq (s : State) (l : Launch) : (s.setLaunch l).faultq = s.faultq := rfl
@[simp] theorem State.setLaunch_reserved (s : State) (l : Launch) : (s.setLaunch l).reserved = s.reserved := rfl
@[simp] theorem State.setLaunch_hostq (s : State) (l : Launch) : (s.setLaunch l).hostq = s.hostq := rfl
@[simp] theorem State.setLaunch_regs (s : State) (l : Launch) : (s.setLaunch l).regs = s.regs := rfl

/-! ## State.onBand -/

@[simp] theorem State.onBand_sched (s : State) (l : Launch) (f : Band → Band) : (s.onBand l f).sched = s.sched := rfl
@[simp] theorem State.onBand_actor (s : State) (l : Launch) (f : Band → Band) : (s.onBand l f).actor = s.actor := rfl
@[simp] theorem State.onBand_site (s : State) (l : Launch) (f : Band → Band) : (s.onBand l f).site = s.site := rfl
@[simp] theorem State.onBand_fresh (s : State) (l : Launch) (f : Band → Band) : (s.onBand l f).fresh = s.fresh := rfl
@[simp] theorem State.onBand_time (s : State) (l : Launch) (f : Band → Band) : (s.onBand l f).time = s.time := rfl
@[simp] theorem State.onBand_ticks (s : State) (l : Launch) (f : Band → Band) : (s.onBand l f).ticks = s.ticks := rfl
@[simp] theorem State.onBand_pkg (s : State) (l : Launch) (f : Band → Band) : (s.onBand l f).pkg = s.pkg := rfl
@[simp] theorem State.onBand_cores (s : State) (l : Launch) (f : Band → Band) : (s.onBand l f).cores = s.cores := rfl
@[simp] theorem State.onBand_mail (s : State) (l : Launch) (f : Band → Band) : (s.onBand l f).mail = s.mail := rfl
@[simp] theorem State.onBand_mem (s : State) (l : Launch) (f : Band → Band) : (s.onBand l f).mem = s.mem := rfl
@[simp] theorem State.onBand_hbm (s : State) (l : Launch) (f : Band → Band) : (s.onBand l f).hbm = s.hbm := rfl
@[simp] theorem State.onBand_lines (s : State) (l : Launch) (f : Band → Band) : (s.onBand l f).lines = s.lines := rfl
@[simp] theorem State.onBand_turn (s : State) (l : Launch) (f : Band → Band) : (s.onBand l f).turn = s.turn := rfl
@[simp] theorem State.onBand_turnReq (s : State) (l : Launch) (f : Band → Band) : (s.onBand l f).turnReq = s.turnReq := rfl
@[simp] theorem State.onBand_scrub (s : State) (l : Launch) (f : Band → Band) : (s.onBand l f).scrub = s.scrub := rfl
@[simp] theorem State.onBand_stalls (s : State) (l : Launch) (f : Band → Band) : (s.onBand l f).stalls = s.stalls := rfl
@[simp] theorem State.onBand_clocks (s : State) (l : Launch) (f : Band → Band) : (s.onBand l f).clocks = s.clocks := rfl
@[simp] theorem State.onBand_fenced (s : State) (l : Launch) (f : Band → Band) : (s.onBand l f).fenced = s.fenced := rfl
@[simp] theorem State.onBand_banks (s : State) (l : Launch) (f : Band → Band) : (s.onBand l f).banks = s.banks := rfl
@[simp] theorem State.onBand_scratch (s : State) (l : Launch) (f : Band → Band) : (s.onBand l f).scratch = s.scratch := rfl
@[simp] theorem State.onBand_posted (s : State) (l : Launch) (f : Band → Band) : (s.onBand l f).posted = s.posted := rfl
@[simp] theorem State.onBand_regions (s : State) (l : Launch) (f : Band → Band) : (s.onBand l f).regions = s.regions := rfl
@[simp] theorem State.onBand_l2 (s : State) (l : Launch) (f : Band → Band) : (s.onBand l f).l2 = s.l2 := rfl
@[simp] theorem State.onBand_walks (s : State) (l : Launch) (f : Band → Band) : (s.onBand l f).walks = s.walks := rfl
@[simp] theorem State.onBand_celog (s : State) (l : Launch) (f : Band → Band) : (s.onBand l f).celog = s.celog := rfl
@[simp] theorem State.onBand_clusters (s : State) (l : Launch) (f : Band → Band) : (s.onBand l f).clusters = s.clusters := rfl
@[simp] theorem State.onBand_twig (s : State) (l : Launch) (f : Band → Band) : (s.onBand l f).twig = s.twig := rfl
@[simp] theorem State.onBand_engines (s : State) (l : Launch) (f : Band → Band) : (s.onBand l f).engines = s.engines := rfl
@[simp] theorem State.onBand_jobs (s : State) (l : Launch) (f : Band → Band) : (s.onBand l f).jobs = s.jobs := rfl
@[simp] theorem State.onBand_armed (s : State) (l : Launch) (f : Band → Band) : (s.onBand l f).armed = s.armed := rfl
@[simp] theorem State.onBand_faultq (s : State) (l : Launch) (f : Band → Band) : (s.onBand l f).faultq = s.faultq := rfl
@[simp] theorem State.onBand_reserved (s : State) (l : Launch) (f : Band → Band) : (s.onBand l f).reserved = s.reserved := rfl
@[simp] theorem State.onBand_hostq (s : State) (l : Launch) (f : Band → Band) : (s.onBand l f).hostq = s.hostq := rfl
@[simp] theorem State.onBand_regs (s : State) (l : Launch) (f : Band → Band) : (s.onBand l f).regs = s.regs := rfl

/-! ## State.logEvent -/

@[simp] theorem State.logEvent_sched (s : State) (e : CeEntry) : (s.logEvent e).sched = s.sched := rfl
@[simp] theorem State.logEvent_actor (s : State) (e : CeEntry) : (s.logEvent e).actor = s.actor := rfl
@[simp] theorem State.logEvent_site (s : State) (e : CeEntry) : (s.logEvent e).site = s.site := rfl
@[simp] theorem State.logEvent_fresh (s : State) (e : CeEntry) : (s.logEvent e).fresh = s.fresh := rfl
@[simp] theorem State.logEvent_time (s : State) (e : CeEntry) : (s.logEvent e).time = s.time := rfl
@[simp] theorem State.logEvent_ticks (s : State) (e : CeEntry) : (s.logEvent e).ticks = s.ticks := rfl
@[simp] theorem State.logEvent_pkg (s : State) (e : CeEntry) : (s.logEvent e).pkg = s.pkg := rfl
@[simp] theorem State.logEvent_cores (s : State) (e : CeEntry) : (s.logEvent e).cores = s.cores := rfl
@[simp] theorem State.logEvent_mail (s : State) (e : CeEntry) : (s.logEvent e).mail = s.mail := rfl
@[simp] theorem State.logEvent_mem (s : State) (e : CeEntry) : (s.logEvent e).mem = s.mem := rfl
@[simp] theorem State.logEvent_hbm (s : State) (e : CeEntry) : (s.logEvent e).hbm = s.hbm := rfl
@[simp] theorem State.logEvent_lines (s : State) (e : CeEntry) : (s.logEvent e).lines = s.lines := rfl
@[simp] theorem State.logEvent_turn (s : State) (e : CeEntry) : (s.logEvent e).turn = s.turn := rfl
@[simp] theorem State.logEvent_turnReq (s : State) (e : CeEntry) : (s.logEvent e).turnReq = s.turnReq := rfl
@[simp] theorem State.logEvent_scrub (s : State) (e : CeEntry) : (s.logEvent e).scrub = s.scrub := rfl
@[simp] theorem State.logEvent_stalls (s : State) (e : CeEntry) : (s.logEvent e).stalls = s.stalls := rfl
@[simp] theorem State.logEvent_clocks (s : State) (e : CeEntry) : (s.logEvent e).clocks = s.clocks := rfl
@[simp] theorem State.logEvent_fenced (s : State) (e : CeEntry) : (s.logEvent e).fenced = s.fenced := rfl
@[simp] theorem State.logEvent_banks (s : State) (e : CeEntry) : (s.logEvent e).banks = s.banks := rfl
@[simp] theorem State.logEvent_scratch (s : State) (e : CeEntry) : (s.logEvent e).scratch = s.scratch := rfl
@[simp] theorem State.logEvent_posted (s : State) (e : CeEntry) : (s.logEvent e).posted = s.posted := rfl
@[simp] theorem State.logEvent_regions (s : State) (e : CeEntry) : (s.logEvent e).regions = s.regions := rfl
@[simp] theorem State.logEvent_l2 (s : State) (e : CeEntry) : (s.logEvent e).l2 = s.l2 := rfl
@[simp] theorem State.logEvent_walks (s : State) (e : CeEntry) : (s.logEvent e).walks = s.walks := rfl
@[simp] theorem State.logEvent_clusters (s : State) (e : CeEntry) : (s.logEvent e).clusters = s.clusters := rfl
@[simp] theorem State.logEvent_twig (s : State) (e : CeEntry) : (s.logEvent e).twig = s.twig := rfl
@[simp] theorem State.logEvent_engines (s : State) (e : CeEntry) : (s.logEvent e).engines = s.engines := rfl
@[simp] theorem State.logEvent_jobs (s : State) (e : CeEntry) : (s.logEvent e).jobs = s.jobs := rfl
@[simp] theorem State.logEvent_launches (s : State) (e : CeEntry) : (s.logEvent e).launches = s.launches := rfl
@[simp] theorem State.logEvent_armed (s : State) (e : CeEntry) : (s.logEvent e).armed = s.armed := rfl
@[simp] theorem State.logEvent_faultq (s : State) (e : CeEntry) : (s.logEvent e).faultq = s.faultq := rfl
@[simp] theorem State.logEvent_reserved (s : State) (e : CeEntry) : (s.logEvent e).reserved = s.reserved := rfl
@[simp] theorem State.logEvent_hostq (s : State) (e : CeEntry) : (s.logEvent e).hostq = s.hostq := rfl

/-! ## State.logPa -/

@[simp] theorem State.logPa_sched (s : State) (k pa : Nat) : (s.logPa k pa).sched = s.sched := State.logEvent_sched s _
@[simp] theorem State.logPa_actor (s : State) (k pa : Nat) : (s.logPa k pa).actor = s.actor := State.logEvent_actor s _
@[simp] theorem State.logPa_site (s : State) (k pa : Nat) : (s.logPa k pa).site = s.site := State.logEvent_site s _
@[simp] theorem State.logPa_fresh (s : State) (k pa : Nat) : (s.logPa k pa).fresh = s.fresh := State.logEvent_fresh s _
@[simp] theorem State.logPa_time (s : State) (k pa : Nat) : (s.logPa k pa).time = s.time := State.logEvent_time s _
@[simp] theorem State.logPa_ticks (s : State) (k pa : Nat) : (s.logPa k pa).ticks = s.ticks := State.logEvent_ticks s _
@[simp] theorem State.logPa_pkg (s : State) (k pa : Nat) : (s.logPa k pa).pkg = s.pkg := State.logEvent_pkg s _
@[simp] theorem State.logPa_cores (s : State) (k pa : Nat) : (s.logPa k pa).cores = s.cores := State.logEvent_cores s _
@[simp] theorem State.logPa_mail (s : State) (k pa : Nat) : (s.logPa k pa).mail = s.mail := State.logEvent_mail s _
@[simp] theorem State.logPa_mem (s : State) (k pa : Nat) : (s.logPa k pa).mem = s.mem := State.logEvent_mem s _
@[simp] theorem State.logPa_hbm (s : State) (k pa : Nat) : (s.logPa k pa).hbm = s.hbm := State.logEvent_hbm s _
@[simp] theorem State.logPa_lines (s : State) (k pa : Nat) : (s.logPa k pa).lines = s.lines := State.logEvent_lines s _
@[simp] theorem State.logPa_turn (s : State) (k pa : Nat) : (s.logPa k pa).turn = s.turn := State.logEvent_turn s _
@[simp] theorem State.logPa_turnReq (s : State) (k pa : Nat) : (s.logPa k pa).turnReq = s.turnReq := State.logEvent_turnReq s _
@[simp] theorem State.logPa_scrub (s : State) (k pa : Nat) : (s.logPa k pa).scrub = s.scrub := State.logEvent_scrub s _
@[simp] theorem State.logPa_stalls (s : State) (k pa : Nat) : (s.logPa k pa).stalls = s.stalls := State.logEvent_stalls s _
@[simp] theorem State.logPa_clocks (s : State) (k pa : Nat) : (s.logPa k pa).clocks = s.clocks := State.logEvent_clocks s _
@[simp] theorem State.logPa_fenced (s : State) (k pa : Nat) : (s.logPa k pa).fenced = s.fenced := State.logEvent_fenced s _
@[simp] theorem State.logPa_banks (s : State) (k pa : Nat) : (s.logPa k pa).banks = s.banks := State.logEvent_banks s _
@[simp] theorem State.logPa_scratch (s : State) (k pa : Nat) : (s.logPa k pa).scratch = s.scratch := State.logEvent_scratch s _
@[simp] theorem State.logPa_posted (s : State) (k pa : Nat) : (s.logPa k pa).posted = s.posted := State.logEvent_posted s _
@[simp] theorem State.logPa_regions (s : State) (k pa : Nat) : (s.logPa k pa).regions = s.regions := State.logEvent_regions s _
@[simp] theorem State.logPa_l2 (s : State) (k pa : Nat) : (s.logPa k pa).l2 = s.l2 := State.logEvent_l2 s _
@[simp] theorem State.logPa_walks (s : State) (k pa : Nat) : (s.logPa k pa).walks = s.walks := State.logEvent_walks s _
@[simp] theorem State.logPa_clusters (s : State) (k pa : Nat) : (s.logPa k pa).clusters = s.clusters := State.logEvent_clusters s _
@[simp] theorem State.logPa_twig (s : State) (k pa : Nat) : (s.logPa k pa).twig = s.twig := State.logEvent_twig s _
@[simp] theorem State.logPa_engines (s : State) (k pa : Nat) : (s.logPa k pa).engines = s.engines := State.logEvent_engines s _
@[simp] theorem State.logPa_jobs (s : State) (k pa : Nat) : (s.logPa k pa).jobs = s.jobs := State.logEvent_jobs s _
@[simp] theorem State.logPa_launches (s : State) (k pa : Nat) : (s.logPa k pa).launches = s.launches := State.logEvent_launches s _
@[simp] theorem State.logPa_armed (s : State) (k pa : Nat) : (s.logPa k pa).armed = s.armed := State.logEvent_armed s _
@[simp] theorem State.logPa_faultq (s : State) (k pa : Nat) : (s.logPa k pa).faultq = s.faultq := State.logEvent_faultq s _
@[simp] theorem State.logPa_reserved (s : State) (k pa : Nat) : (s.logPa k pa).reserved = s.reserved := State.logEvent_reserved s _
@[simp] theorem State.logPa_hostq (s : State) (k pa : Nat) : (s.logPa k pa).hostq = s.hostq := State.logEvent_hostq s _

/-! ## Reads after updates -/

@[simp] theorem State.core_setCore (s : State) (n : Nat) (c : Core) : (s.setCore n c).core n = c := by
  simp [State.core, State.setCore]

theorem State.core_setCore_ne (s : State) (n m : Nat) (c : Core) (h : m ≠ n) : (s.setCore n c).core m = s.core m := by
  simp [State.core, State.setCore, h]

@[simp] theorem State.me_setMe (s : State) (c : Core) : (s.setMe c).me = c := by simp [State.me, State.setMe]

@[simp] theorem State.setMe_setMe (s : State) (c d : Core) : (s.setMe c).setMe d = s.setMe d := by
  simp [State.setMe, State.setCore]

theorem State.core_setMe_ne (s : State) (n : Nat) (c : Core) (h : n ≠ s.actor) : (s.setMe c).core n = s.core n :=
  core_setCore_ne s s.actor n c h

@[simp] theorem State.line_setLine (s : State) (l : Nat) (li : LineInfo) : (s.setLine l li).line l = li := by
  simp [State.line, State.setLine]

theorem State.line_setLine_ne (s : State) (l k : Nat) (li : LineInfo) (h : k ≠ l) : (s.setLine l li).line k = s.line k := by
  simp [State.line, State.setLine, h]

@[simp] theorem State.cluster_setCluster (s : State) (cl : Nat) (c : Cluster) : (s.setCluster cl c).cluster cl = c := by
  simp [State.cluster, State.setCluster]

theorem State.cluster_setCluster_ne (s : State) (cl k : Nat) (c : Cluster) (h : k ≠ cl) :
    (s.setCluster cl c).cluster k = s.cluster k := by
  simp [State.cluster, State.setCluster, h]

@[simp] theorem State.cluster_onCluster (s : State) (cl : Nat) (f : Cluster → Cluster) :
    (s.onCluster cl f).cluster cl = f (s.cluster cl) := by
  simp [State.onCluster]

theorem State.cluster_onCluster_ne (s : State) (cl k : Nat) (f : Cluster → Cluster) (h : k ≠ cl) :
    (s.onCluster cl f).cluster k = s.cluster k := by
  simp [State.onCluster, State.cluster_setCluster_ne, h]

@[simp] theorem State.bank_setBank (s : State) (t k : Nat) (b : Bank) : (s.setBank t k b).bank t k = b := by
  simp [State.bank, State.setBank]

@[simp] theorem State.homeClock_setHomeClock (s : State) (p t : Nat) : (s.setHomeClock p t).homeClock p = t := by
  simp [State.homeClock, State.setHomeClock]

/-- noteClock changes turnReq alone. -/
theorem State.noteClock_eq (s : State) (t : Nat) :
    s.noteClock t = { s with turnReq := s.turnReq || decide (Config.turnLimit ≤ t) } := by
  unfold State.noteClock
  split <;> rename_i h <;> cases s <;> simp_all

/-! ## Cores -/

@[simp] theorem Core.advance_g (c : Core)  : (c.advance ).g = c.g := rfl
@[simp] theorem Core.advance_priv (c : Core)  : (c.advance ).priv = c.priv := rfl
@[simp] theorem Core.advance_ppriv (c : Core)  : (c.advance ).ppriv = c.ppriv := rfl
@[simp] theorem Core.advance_task (c : Core)  : (c.advance ).task = c.task := rfl
@[simp] theorem Core.advance_code (c : Core)  : (c.advance ).code = c.code := rfl
@[simp] theorem Core.advance_level (c : Core)  : (c.advance ).level = c.level := rfl
@[simp] theorem Core.advance_epc (c : Core)  : (c.advance ).epc = c.epc := rfl
@[simp] theorem Core.advance_eval (c : Core)  : (c.advance ).eval = c.eval := rfl
@[simp] theorem Core.advance_vbase (c : Core)  : (c.advance ).vbase = c.vbase := rfl
@[simp] theorem Core.advance_asid (c : Core)  : (c.advance ).asid = c.asid := rfl
@[simp] theorem Core.advance_tbase (c : Core)  : (c.advance ).tbase = c.tbase := rfl
@[simp] theorem Core.advance_job (c : Core)  : (c.advance ).job = c.job := rfl
@[simp] theorem Core.advance_pts (c : Core)  : (c.advance ).pts = c.pts := rfl
@[simp] theorem Core.advance_cycle (c : Core)  : (c.advance ).cycle = c.cycle := rfl
@[simp] theorem Core.advance_chans (c : Core)  : (c.advance ).chans = c.chans := rfl
@[simp] theorem Core.advance_lastAt (c : Core)  : (c.advance ).lastAt = c.lastAt := rfl
@[simp] theorem Core.advance_out (c : Core)  : (c.advance ).out = c.out := rfl
@[simp] theorem Core.advance_watches (c : Core)  : (c.advance ).watches = c.watches := rfl
@[simp] theorem Core.advance_halted (c : Core)  : (c.advance ).halted = c.halted := rfl
@[simp] theorem Core.advance_wayTower (c : Core)  : (c.advance ).wayTower = c.wayTower := rfl
@[simp] theorem Core.advance_wayBank (c : Core)  : (c.advance ).wayBank = c.wayBank := rfl
@[simp] theorem Core.advance_wayErr (c : Core)  : (c.advance ).wayErr = c.wayErr := rfl
@[simp] theorem Core.advance_frStat (c : Core)  : (c.advance ).frStat = c.frStat := rfl
@[simp] theorem Core.advance_relatch (c : Core)  : (c.advance ).relatch = c.relatch := rfl
@[simp] theorem Core.advance_burst (c : Core)  : (c.advance ).burst = c.burst := rfl
@[simp] theorem Core.advance_ahead (c : Core)  : (c.advance ).ahead = c.ahead := rfl
@[simp] theorem Core.advance_eahead (c : Core)  : (c.advance ).eahead = c.eahead := rfl
@[simp] theorem Core.advance_tlb (c : Core)  : (c.advance ).tlb = c.tlb := rfl

@[simp] theorem Core.jump_g (c : Core) (x : Word) : (c.jump x).g = c.g := rfl
@[simp] theorem Core.jump_priv (c : Core) (x : Word) : (c.jump x).priv = c.priv := rfl
@[simp] theorem Core.jump_ppriv (c : Core) (x : Word) : (c.jump x).ppriv = c.ppriv := rfl
@[simp] theorem Core.jump_task (c : Core) (x : Word) : (c.jump x).task = c.task := rfl
@[simp] theorem Core.jump_code (c : Core) (x : Word) : (c.jump x).code = c.code := rfl
@[simp] theorem Core.jump_level (c : Core) (x : Word) : (c.jump x).level = c.level := rfl
@[simp] theorem Core.jump_epc (c : Core) (x : Word) : (c.jump x).epc = c.epc := rfl
@[simp] theorem Core.jump_eval (c : Core) (x : Word) : (c.jump x).eval = c.eval := rfl
@[simp] theorem Core.jump_vbase (c : Core) (x : Word) : (c.jump x).vbase = c.vbase := rfl
@[simp] theorem Core.jump_asid (c : Core) (x : Word) : (c.jump x).asid = c.asid := rfl
@[simp] theorem Core.jump_tbase (c : Core) (x : Word) : (c.jump x).tbase = c.tbase := rfl
@[simp] theorem Core.jump_job (c : Core) (x : Word) : (c.jump x).job = c.job := rfl
@[simp] theorem Core.jump_pts (c : Core) (x : Word) : (c.jump x).pts = c.pts := rfl
@[simp] theorem Core.jump_cycle (c : Core) (x : Word) : (c.jump x).cycle = c.cycle := rfl
@[simp] theorem Core.jump_chans (c : Core) (x : Word) : (c.jump x).chans = c.chans := rfl
@[simp] theorem Core.jump_lastAt (c : Core) (x : Word) : (c.jump x).lastAt = c.lastAt := rfl
@[simp] theorem Core.jump_out (c : Core) (x : Word) : (c.jump x).out = c.out := rfl
@[simp] theorem Core.jump_watches (c : Core) (x : Word) : (c.jump x).watches = c.watches := rfl
@[simp] theorem Core.jump_halted (c : Core) (x : Word) : (c.jump x).halted = c.halted := rfl
@[simp] theorem Core.jump_wayTower (c : Core) (x : Word) : (c.jump x).wayTower = c.wayTower := rfl
@[simp] theorem Core.jump_wayBank (c : Core) (x : Word) : (c.jump x).wayBank = c.wayBank := rfl
@[simp] theorem Core.jump_wayErr (c : Core) (x : Word) : (c.jump x).wayErr = c.wayErr := rfl
@[simp] theorem Core.jump_frStat (c : Core) (x : Word) : (c.jump x).frStat = c.frStat := rfl
@[simp] theorem Core.jump_relatch (c : Core) (x : Word) : (c.jump x).relatch = c.relatch := rfl
@[simp] theorem Core.jump_burst (c : Core) (x : Word) : (c.jump x).burst = c.burst := rfl
@[simp] theorem Core.jump_ahead (c : Core) (x : Word) : (c.jump x).ahead = c.ahead := rfl
@[simp] theorem Core.jump_eahead (c : Core) (x : Word) : (c.jump x).eahead = c.eahead := rfl
@[simp] theorem Core.jump_tlb (c : Core) (x : Word) : (c.jump x).tlb = c.tlb := rfl

@[simp] theorem Core.raise_g (c : Core) (t : Nat) : (c.raise t).g = c.g := rfl
@[simp] theorem Core.raise_pc (c : Core) (t : Nat) : (c.raise t).pc = c.pc := rfl
@[simp] theorem Core.raise_priv (c : Core) (t : Nat) : (c.raise t).priv = c.priv := rfl
@[simp] theorem Core.raise_ppriv (c : Core) (t : Nat) : (c.raise t).ppriv = c.ppriv := rfl
@[simp] theorem Core.raise_task (c : Core) (t : Nat) : (c.raise t).task = c.task := rfl
@[simp] theorem Core.raise_code (c : Core) (t : Nat) : (c.raise t).code = c.code := rfl
@[simp] theorem Core.raise_level (c : Core) (t : Nat) : (c.raise t).level = c.level := rfl
@[simp] theorem Core.raise_epc (c : Core) (t : Nat) : (c.raise t).epc = c.epc := rfl
@[simp] theorem Core.raise_eval (c : Core) (t : Nat) : (c.raise t).eval = c.eval := rfl
@[simp] theorem Core.raise_vbase (c : Core) (t : Nat) : (c.raise t).vbase = c.vbase := rfl
@[simp] theorem Core.raise_asid (c : Core) (t : Nat) : (c.raise t).asid = c.asid := rfl
@[simp] theorem Core.raise_tbase (c : Core) (t : Nat) : (c.raise t).tbase = c.tbase := rfl
@[simp] theorem Core.raise_job (c : Core) (t : Nat) : (c.raise t).job = c.job := rfl
@[simp] theorem Core.raise_cycle (c : Core) (t : Nat) : (c.raise t).cycle = c.cycle := rfl
@[simp] theorem Core.raise_chans (c : Core) (t : Nat) : (c.raise t).chans = c.chans := rfl
@[simp] theorem Core.raise_lastAt (c : Core) (t : Nat) : (c.raise t).lastAt = c.lastAt := rfl
@[simp] theorem Core.raise_out (c : Core) (t : Nat) : (c.raise t).out = c.out := rfl
@[simp] theorem Core.raise_watches (c : Core) (t : Nat) : (c.raise t).watches = c.watches := rfl
@[simp] theorem Core.raise_halted (c : Core) (t : Nat) : (c.raise t).halted = c.halted := rfl
@[simp] theorem Core.raise_wayTower (c : Core) (t : Nat) : (c.raise t).wayTower = c.wayTower := rfl
@[simp] theorem Core.raise_wayBank (c : Core) (t : Nat) : (c.raise t).wayBank = c.wayBank := rfl
@[simp] theorem Core.raise_wayErr (c : Core) (t : Nat) : (c.raise t).wayErr = c.wayErr := rfl
@[simp] theorem Core.raise_frStat (c : Core) (t : Nat) : (c.raise t).frStat = c.frStat := rfl
@[simp] theorem Core.raise_relatch (c : Core) (t : Nat) : (c.raise t).relatch = c.relatch := rfl
@[simp] theorem Core.raise_burst (c : Core) (t : Nat) : (c.raise t).burst = c.burst := rfl
@[simp] theorem Core.raise_ahead (c : Core) (t : Nat) : (c.raise t).ahead = c.ahead := rfl
@[simp] theorem Core.raise_eahead (c : Core) (t : Nat) : (c.raise t).eahead = c.eahead := rfl
@[simp] theorem Core.raise_tlb (c : Core) (t : Nat) : (c.raise t).tlb = c.tlb := rfl

@[simp] theorem Core.setChan_g (c : Core) (k : Nat) (ch : Channel) : (c.setChan k ch).g = c.g := rfl
@[simp] theorem Core.setChan_pc (c : Core) (k : Nat) (ch : Channel) : (c.setChan k ch).pc = c.pc := rfl
@[simp] theorem Core.setChan_priv (c : Core) (k : Nat) (ch : Channel) : (c.setChan k ch).priv = c.priv := rfl
@[simp] theorem Core.setChan_ppriv (c : Core) (k : Nat) (ch : Channel) : (c.setChan k ch).ppriv = c.ppriv := rfl
@[simp] theorem Core.setChan_task (c : Core) (k : Nat) (ch : Channel) : (c.setChan k ch).task = c.task := rfl
@[simp] theorem Core.setChan_code (c : Core) (k : Nat) (ch : Channel) : (c.setChan k ch).code = c.code := rfl
@[simp] theorem Core.setChan_level (c : Core) (k : Nat) (ch : Channel) : (c.setChan k ch).level = c.level := rfl
@[simp] theorem Core.setChan_epc (c : Core) (k : Nat) (ch : Channel) : (c.setChan k ch).epc = c.epc := rfl
@[simp] theorem Core.setChan_eval (c : Core) (k : Nat) (ch : Channel) : (c.setChan k ch).eval = c.eval := rfl
@[simp] theorem Core.setChan_vbase (c : Core) (k : Nat) (ch : Channel) : (c.setChan k ch).vbase = c.vbase := rfl
@[simp] theorem Core.setChan_asid (c : Core) (k : Nat) (ch : Channel) : (c.setChan k ch).asid = c.asid := rfl
@[simp] theorem Core.setChan_tbase (c : Core) (k : Nat) (ch : Channel) : (c.setChan k ch).tbase = c.tbase := rfl
@[simp] theorem Core.setChan_job (c : Core) (k : Nat) (ch : Channel) : (c.setChan k ch).job = c.job := rfl
@[simp] theorem Core.setChan_pts (c : Core) (k : Nat) (ch : Channel) : (c.setChan k ch).pts = c.pts := rfl
@[simp] theorem Core.setChan_cycle (c : Core) (k : Nat) (ch : Channel) : (c.setChan k ch).cycle = c.cycle := rfl
@[simp] theorem Core.setChan_lastAt (c : Core) (k : Nat) (ch : Channel) : (c.setChan k ch).lastAt = c.lastAt := rfl
@[simp] theorem Core.setChan_out (c : Core) (k : Nat) (ch : Channel) : (c.setChan k ch).out = c.out := rfl
@[simp] theorem Core.setChan_watches (c : Core) (k : Nat) (ch : Channel) : (c.setChan k ch).watches = c.watches := rfl
@[simp] theorem Core.setChan_halted (c : Core) (k : Nat) (ch : Channel) : (c.setChan k ch).halted = c.halted := rfl
@[simp] theorem Core.setChan_wayTower (c : Core) (k : Nat) (ch : Channel) : (c.setChan k ch).wayTower = c.wayTower := rfl
@[simp] theorem Core.setChan_wayBank (c : Core) (k : Nat) (ch : Channel) : (c.setChan k ch).wayBank = c.wayBank := rfl
@[simp] theorem Core.setChan_wayErr (c : Core) (k : Nat) (ch : Channel) : (c.setChan k ch).wayErr = c.wayErr := rfl
@[simp] theorem Core.setChan_frStat (c : Core) (k : Nat) (ch : Channel) : (c.setChan k ch).frStat = c.frStat := rfl
@[simp] theorem Core.setChan_relatch (c : Core) (k : Nat) (ch : Channel) : (c.setChan k ch).relatch = c.relatch := rfl
@[simp] theorem Core.setChan_burst (c : Core) (k : Nat) (ch : Channel) : (c.setChan k ch).burst = c.burst := rfl
@[simp] theorem Core.setChan_ahead (c : Core) (k : Nat) (ch : Channel) : (c.setChan k ch).ahead = c.ahead := rfl
@[simp] theorem Core.setChan_eahead (c : Core) (k : Nat) (ch : Channel) : (c.setChan k ch).eahead = c.eahead := rfl
@[simp] theorem Core.setChan_tlb (c : Core) (k : Nat) (ch : Channel) : (c.setChan k ch).tlb = c.tlb := rfl

@[simp] theorem Core.endTask_g (c : Core)  : (c.endTask ).g = c.g := rfl
@[simp] theorem Core.endTask_pc (c : Core)  : (c.endTask ).pc = c.pc := rfl
@[simp] theorem Core.endTask_priv (c : Core)  : (c.endTask ).priv = c.priv := rfl
@[simp] theorem Core.endTask_ppriv (c : Core)  : (c.endTask ).ppriv = c.ppriv := rfl
@[simp] theorem Core.endTask_code (c : Core)  : (c.endTask ).code = c.code := rfl
@[simp] theorem Core.endTask_level (c : Core)  : (c.endTask ).level = c.level := rfl
@[simp] theorem Core.endTask_epc (c : Core)  : (c.endTask ).epc = c.epc := rfl
@[simp] theorem Core.endTask_eval (c : Core)  : (c.endTask ).eval = c.eval := rfl
@[simp] theorem Core.endTask_vbase (c : Core)  : (c.endTask ).vbase = c.vbase := rfl
@[simp] theorem Core.endTask_asid (c : Core)  : (c.endTask ).asid = c.asid := rfl
@[simp] theorem Core.endTask_tbase (c : Core)  : (c.endTask ).tbase = c.tbase := rfl
@[simp] theorem Core.endTask_job (c : Core)  : (c.endTask ).job = c.job := rfl
@[simp] theorem Core.endTask_pts (c : Core)  : (c.endTask ).pts = c.pts := rfl
@[simp] theorem Core.endTask_cycle (c : Core)  : (c.endTask ).cycle = c.cycle := rfl
@[simp] theorem Core.endTask_chans (c : Core)  : (c.endTask ).chans = c.chans := rfl
@[simp] theorem Core.endTask_lastAt (c : Core)  : (c.endTask ).lastAt = c.lastAt := rfl
@[simp] theorem Core.endTask_out (c : Core)  : (c.endTask ).out = c.out := rfl
@[simp] theorem Core.endTask_watches (c : Core)  : (c.endTask ).watches = c.watches := rfl
@[simp] theorem Core.endTask_halted (c : Core)  : (c.endTask ).halted = c.halted := rfl
@[simp] theorem Core.endTask_wayTower (c : Core)  : (c.endTask ).wayTower = c.wayTower := rfl
@[simp] theorem Core.endTask_wayBank (c : Core)  : (c.endTask ).wayBank = c.wayBank := rfl
@[simp] theorem Core.endTask_wayErr (c : Core)  : (c.endTask ).wayErr = c.wayErr := rfl
@[simp] theorem Core.endTask_frStat (c : Core)  : (c.endTask ).frStat = c.frStat := rfl
@[simp] theorem Core.endTask_relatch (c : Core)  : (c.endTask ).relatch = c.relatch := rfl
@[simp] theorem Core.endTask_burst (c : Core)  : (c.endTask ).burst = c.burst := rfl
@[simp] theorem Core.endTask_tlb (c : Core)  : (c.endTask ).tlb = c.tlb := rfl

@[simp] theorem Core.eret_g (c : Core)  : (c.eret ).g = c.g := rfl
@[simp] theorem Core.eret_ppriv (c : Core)  : (c.eret ).ppriv = c.ppriv := rfl
@[simp] theorem Core.eret_task (c : Core)  : (c.eret ).task = c.task := rfl
@[simp] theorem Core.eret_code (c : Core)  : (c.eret ).code = c.code := rfl
@[simp] theorem Core.eret_level (c : Core)  : (c.eret ).level = c.level := rfl
@[simp] theorem Core.eret_epc (c : Core)  : (c.eret ).epc = c.epc := rfl
@[simp] theorem Core.eret_eval (c : Core)  : (c.eret ).eval = c.eval := rfl
@[simp] theorem Core.eret_vbase (c : Core)  : (c.eret ).vbase = c.vbase := rfl
@[simp] theorem Core.eret_asid (c : Core)  : (c.eret ).asid = c.asid := rfl
@[simp] theorem Core.eret_tbase (c : Core)  : (c.eret ).tbase = c.tbase := rfl
@[simp] theorem Core.eret_job (c : Core)  : (c.eret ).job = c.job := rfl
@[simp] theorem Core.eret_pts (c : Core)  : (c.eret ).pts = c.pts := rfl
@[simp] theorem Core.eret_cycle (c : Core)  : (c.eret ).cycle = c.cycle := rfl
@[simp] theorem Core.eret_chans (c : Core)  : (c.eret ).chans = c.chans := rfl
@[simp] theorem Core.eret_lastAt (c : Core)  : (c.eret ).lastAt = c.lastAt := rfl
@[simp] theorem Core.eret_out (c : Core)  : (c.eret ).out = c.out := rfl
@[simp] theorem Core.eret_watches (c : Core)  : (c.eret ).watches = c.watches := rfl
@[simp] theorem Core.eret_halted (c : Core)  : (c.eret ).halted = c.halted := rfl
@[simp] theorem Core.eret_wayTower (c : Core)  : (c.eret ).wayTower = c.wayTower := rfl
@[simp] theorem Core.eret_wayBank (c : Core)  : (c.eret ).wayBank = c.wayBank := rfl
@[simp] theorem Core.eret_wayErr (c : Core)  : (c.eret ).wayErr = c.wayErr := rfl
@[simp] theorem Core.eret_frStat (c : Core)  : (c.eret ).frStat = c.frStat := rfl
@[simp] theorem Core.eret_relatch (c : Core)  : (c.eret ).relatch = c.relatch := rfl
@[simp] theorem Core.eret_burst (c : Core)  : (c.eret ).burst = c.burst := rfl
@[simp] theorem Core.eret_ahead (c : Core)  : (c.eret ).ahead = c.eahead := rfl
@[simp] theorem Core.eret_eahead (c : Core)  : (c.eret ).eahead = [] := rfl
@[simp] theorem Core.eret_tlb (c : Core)  : (c.eret ).tlb = c.tlb := rfl

@[simp] theorem Core.trap_g (c : Core) (code : Code) (lv : Nat) (ev : Word) : (c.trap code lv ev).g = c.g := rfl
@[simp] theorem Core.trap_task (c : Core) (code : Code) (lv : Nat) (ev : Word) : (c.trap code lv ev).task = c.task := rfl
@[simp] theorem Core.trap_vbase (c : Core) (code : Code) (lv : Nat) (ev : Word) : (c.trap code lv ev).vbase = c.vbase := rfl
@[simp] theorem Core.trap_asid (c : Core) (code : Code) (lv : Nat) (ev : Word) : (c.trap code lv ev).asid = c.asid := rfl
@[simp] theorem Core.trap_tbase (c : Core) (code : Code) (lv : Nat) (ev : Word) : (c.trap code lv ev).tbase = c.tbase := rfl
@[simp] theorem Core.trap_job (c : Core) (code : Code) (lv : Nat) (ev : Word) : (c.trap code lv ev).job = c.job := rfl
@[simp] theorem Core.trap_pts (c : Core) (code : Code) (lv : Nat) (ev : Word) : (c.trap code lv ev).pts = c.pts := rfl
@[simp] theorem Core.trap_cycle (c : Core) (code : Code) (lv : Nat) (ev : Word) : (c.trap code lv ev).cycle = c.cycle := rfl
@[simp] theorem Core.trap_chans (c : Core) (code : Code) (lv : Nat) (ev : Word) : (c.trap code lv ev).chans = c.chans := rfl
@[simp] theorem Core.trap_lastAt (c : Core) (code : Code) (lv : Nat) (ev : Word) : (c.trap code lv ev).lastAt = c.lastAt := rfl
@[simp] theorem Core.trap_out (c : Core) (code : Code) (lv : Nat) (ev : Word) : (c.trap code lv ev).out = c.out := rfl
@[simp] theorem Core.trap_watches (c : Core) (code : Code) (lv : Nat) (ev : Word) : (c.trap code lv ev).watches = c.watches := rfl
@[simp] theorem Core.trap_halted (c : Core) (code : Code) (lv : Nat) (ev : Word) : (c.trap code lv ev).halted = c.halted := rfl
@[simp] theorem Core.trap_wayTower (c : Core) (code : Code) (lv : Nat) (ev : Word) : (c.trap code lv ev).wayTower = c.wayTower := rfl
@[simp] theorem Core.trap_wayBank (c : Core) (code : Code) (lv : Nat) (ev : Word) : (c.trap code lv ev).wayBank = c.wayBank := rfl
@[simp] theorem Core.trap_wayErr (c : Core) (code : Code) (lv : Nat) (ev : Word) : (c.trap code lv ev).wayErr = c.wayErr := rfl
@[simp] theorem Core.trap_frStat (c : Core) (code : Code) (lv : Nat) (ev : Word) : (c.trap code lv ev).frStat = c.frStat := rfl
@[simp] theorem Core.trap_relatch (c : Core) (code : Code) (lv : Nat) (ev : Word) : (c.trap code lv ev).relatch = c.relatch := rfl
@[simp] theorem Core.trap_ahead (c : Core) (code : Code) (lv : Nat) (ev : Word) : (c.trap code lv ev).ahead = [] := rfl
@[simp] theorem Core.trap_eahead (c : Core) (code : Code) (lv : Nat) (ev : Word) : (c.trap code lv ev).eahead = c.ahead := rfl
@[simp] theorem Core.trap_tlb (c : Core) (code : Code) (lv : Nat) (ev : Word) : (c.trap code lv ev).tlb = c.tlb := rfl

@[simp] theorem Core.put_pc (c : Core) (d : Reg) (v : Word) : (c.put d v).pc = c.pc := by unfold Core.put; split <;> rfl
@[simp] theorem Core.put_priv (c : Core) (d : Reg) (v : Word) : (c.put d v).priv = c.priv := by unfold Core.put; split <;> rfl
@[simp] theorem Core.put_ppriv (c : Core) (d : Reg) (v : Word) : (c.put d v).ppriv = c.ppriv := by unfold Core.put; split <;> rfl
@[simp] theorem Core.put_task (c : Core) (d : Reg) (v : Word) : (c.put d v).task = c.task := by unfold Core.put; split <;> rfl
@[simp] theorem Core.put_code (c : Core) (d : Reg) (v : Word) : (c.put d v).code = c.code := by unfold Core.put; split <;> rfl
@[simp] theorem Core.put_level (c : Core) (d : Reg) (v : Word) : (c.put d v).level = c.level := by unfold Core.put; split <;> rfl
@[simp] theorem Core.put_epc (c : Core) (d : Reg) (v : Word) : (c.put d v).epc = c.epc := by unfold Core.put; split <;> rfl
@[simp] theorem Core.put_eval (c : Core) (d : Reg) (v : Word) : (c.put d v).eval = c.eval := by unfold Core.put; split <;> rfl
@[simp] theorem Core.put_vbase (c : Core) (d : Reg) (v : Word) : (c.put d v).vbase = c.vbase := by unfold Core.put; split <;> rfl
@[simp] theorem Core.put_asid (c : Core) (d : Reg) (v : Word) : (c.put d v).asid = c.asid := by unfold Core.put; split <;> rfl
@[simp] theorem Core.put_tbase (c : Core) (d : Reg) (v : Word) : (c.put d v).tbase = c.tbase := by unfold Core.put; split <;> rfl
@[simp] theorem Core.put_job (c : Core) (d : Reg) (v : Word) : (c.put d v).job = c.job := by unfold Core.put; split <;> rfl
@[simp] theorem Core.put_pts (c : Core) (d : Reg) (v : Word) : (c.put d v).pts = c.pts := by unfold Core.put; split <;> rfl
@[simp] theorem Core.put_cycle (c : Core) (d : Reg) (v : Word) : (c.put d v).cycle = c.cycle := by unfold Core.put; split <;> rfl
@[simp] theorem Core.put_chans (c : Core) (d : Reg) (v : Word) : (c.put d v).chans = c.chans := by unfold Core.put; split <;> rfl
@[simp] theorem Core.put_lastAt (c : Core) (d : Reg) (v : Word) : (c.put d v).lastAt = c.lastAt := by unfold Core.put; split <;> rfl
@[simp] theorem Core.put_out (c : Core) (d : Reg) (v : Word) : (c.put d v).out = c.out := by unfold Core.put; split <;> rfl
@[simp] theorem Core.put_watches (c : Core) (d : Reg) (v : Word) : (c.put d v).watches = c.watches := by unfold Core.put; split <;> rfl
@[simp] theorem Core.put_halted (c : Core) (d : Reg) (v : Word) : (c.put d v).halted = c.halted := by unfold Core.put; split <;> rfl
@[simp] theorem Core.put_wayTower (c : Core) (d : Reg) (v : Word) : (c.put d v).wayTower = c.wayTower := by unfold Core.put; split <;> rfl
@[simp] theorem Core.put_wayBank (c : Core) (d : Reg) (v : Word) : (c.put d v).wayBank = c.wayBank := by unfold Core.put; split <;> rfl
@[simp] theorem Core.put_wayErr (c : Core) (d : Reg) (v : Word) : (c.put d v).wayErr = c.wayErr := by unfold Core.put; split <;> rfl
@[simp] theorem Core.put_frStat (c : Core) (d : Reg) (v : Word) : (c.put d v).frStat = c.frStat := by unfold Core.put; split <;> rfl
@[simp] theorem Core.put_relatch (c : Core) (d : Reg) (v : Word) : (c.put d v).relatch = c.relatch := by unfold Core.put; split <;> rfl
@[simp] theorem Core.put_burst (c : Core) (d : Reg) (v : Word) : (c.put d v).burst = c.burst := by unfold Core.put; split <;> rfl
@[simp] theorem Core.put_ahead (c : Core) (d : Reg) (v : Word) : (c.put d v).ahead = c.ahead := by unfold Core.put; split <;> rfl
@[simp] theorem Core.put_eahead (c : Core) (d : Reg) (v : Word) : (c.put d v).eahead = c.eahead := by unfold Core.put; split <;> rfl
@[simp] theorem Core.put_tlb (c : Core) (d : Reg) (v : Word) : (c.put d v).tlb = c.tlb := by unfold Core.put; split <;> rfl

@[simp] theorem Core.advance_pc (c : Core) : c.advance.pc = c.pc + 8 := rfl

@[simp] theorem Core.jump_pc (c : Core) (x : Word) : (c.jump x).pc = x := rfl

@[simp] theorem Core.raise_pts (c : Core) (t : Nat) : (c.raise t).pts = max c.pts t := rfl

@[simp] theorem Core.endTask_task (c : Core) : c.endTask.task = .none := rfl

@[simp] theorem Core.get_zero (c : Core) : c.get 0 = 0 := rfl

@[simp] theorem Core.put_zero (c : Core) (v : Word) : c.put 0 v = c := rfl

theorem Core.get_of_g (c d : Core) (h : c.g = d.g) (r : Reg) : c.get r = d.get r := by simp [Core.get, h]

@[simp] theorem Core.get_advance (c : Core) (r : Reg) : c.advance.get r = c.get r := rfl

@[simp] theorem Core.get_raise (c : Core) (t : Nat) (r : Reg) : (c.raise t).get r = c.get r := rfl

@[simp] theorem Core.get_setChan (c : Core) (k : Nat) (ch : Channel) (r : Reg) : (c.setChan k ch).get r = c.get r := rfl

@[simp] theorem Core.chan_setChan (c : Core) (k : Nat) (ch : Channel) : (c.setChan k ch).chan k = ch := by
  simp [Core.chan, Core.setChan]

theorem Core.chan_setChan_ne (c : Core) (k j : Nat) (ch : Channel) (h : j ≠ k) : (c.setChan k ch).chan j = c.chan j := by
  simp [Core.chan, Core.setChan, h]

end Sys2Proof.Machine
end

