-- ==== Sys2Proof/Laws/Ops.lean ====
section
/-!
SUPPORT. What the shared operations of a core can do: registers, the outcome of a register instruction, traps, deferral, and
free choices; each lemma says all that its operation changes.
-/
namespace Sys2Proof.Machine

/-- A register after a write: g0 discards it, the others are as before (R158, R234). -/
theorem Core.get_put (c : Core) (d r : Reg) (v : Word) :
    (c.put d v).get r = if r = d ∧ d ≠ 0 then v else c.get r := by
  unfold Core.put Core.get
  by_cases h : d = 0
  · simp [h]
  by_cases hr : r = 0
  · rw [if_neg h, if_pos hr, if_pos hr, if_neg (fun k => h (k.1.symm.trans hr))]
  by_cases e : r = d
  · rw [if_neg h, if_neg hr, if_pos ⟨e, h⟩, e]; simp
  · have n : d.toNat ≠ r.toNat := fun k => e (BitVec.eq_of_toNat_eq k.symm)
    rw [if_neg h, if_neg hr, if_neg hr, if_neg (fun k => e k.1)]
    exact Vector.getElem_set_ne (by omega) (by omega) n

@[simp] theorem Core.get_put_self (c : Core) (d : Reg) (v : Word) (h : d ≠ 0) : (c.put d v).get d = v := by
  rw [Core.get_put, if_pos ⟨rfl, h⟩]

theorem Core.get_put_ne (c : Core) (d r : Reg) (v : Word) (h : r ≠ d) : (c.put d v).get r = c.get r := by
  simp [Core.get_put, h]

/-- A write of a general register changes the general registers alone. -/
theorem Core.put_spec (c : Core) (d : Reg) (v : Word) : { c.put d v with g := c.g } = c := by
  unfold Core.put; split <;> rfl

/-- A change of the acting core changes no other part of the state. -/
theorem State.setMe_spec (s : State) (c : Core) :
    (s.setMe c).me = c ∧ { s.setMe c with cores := s.cores } = s ∧ ∀ n, n ≠ s.actor → (s.setMe c).core n = s.core n :=
  ⟨by simp, rfl, fun n h => State.core_setMe_ne s n c h⟩

/-- The outcome of a register instruction (R243). -/
theorem State.result_spec {s t : State} {d : Reg} {v : Word} (h : s.result d v = .next t) :
    t.me.pc = s.me.pc + 8 ∧ (∀ r, t.me.get r = if r = d ∧ d ≠ 0 then v else s.me.get r) ∧
      { t.me with g := s.me.g, pc := s.me.pc } = s.me ∧ { t with cores := s.cores } = s ∧
      ∀ n, n ≠ s.actor → t.core n = s.core n := by
  cases h
  have e : (s.me.put d v).pc = s.me.pc := by unfold Core.put; split <;> rfl
  refine ⟨?_, fun r => ?_, ?_, (s.setMe_spec _).2.1, (s.setMe_spec _).2.2⟩
  · rw [(s.setMe_spec _).1]; simp [Core.advance]
  · rw [(s.setMe_spec _).1, Core.get_advance, Core.get_put]
  · rw [(s.setMe_spec _).1]; unfold Core.put; split <;> rfl

/-- An instruction that only passes on (R156). -/
theorem State.skip_spec {s t : State} (h : s.skip = .next t) :
    t.me = { s.me with pc := s.me.pc + 8 } ∧ { t with cores := s.cores } = s ∧ ∀ n, n ≠ s.actor → t.core n = s.core n := by
  cases h; exact s.setMe_spec _

/-- A trap (R239): what it saves, where it goes, and that nothing else changes. -/
theorem State.trap_spec (s : State) (code : Code) (level : Nat) (eval : Word) :
    let t := s.trap code level eval
    t.me.epc = s.me.pc ∧ t.me.code = code.num ∧ t.me.level = level ∧ t.me.eval = eval ∧ t.me.ppriv = s.me.priv ∧
      t.me.priv = true ∧ t.me.pc = s.me.vbase ∧ t.me.burst = none ∧ (∀ r, t.me.get r = s.me.get r) ∧ t.me.pts = s.me.pts ∧
      t.me.task = s.me.task ∧ { t with cores := s.cores } = s ∧ ∀ n, n ≠ s.actor → t.core n = s.core n := by
  have m : (s.trap code level eval).me = s.me.trap code level eval := (s.setMe_spec _).1
  simp only [m]
  exact ⟨rfl, rfl, rfl, rfl, rfl, rfl, rfl, rfl, fun _ => rfl, rfl, rfl, (s.setMe_spec _).2⟩

/-- The return undoes what a trap saved (R239). -/
theorem Core.eret_trap (c : Core) (code : Code) (level : Nat) (eval : Word) :
    (c.trap code level eval).eret.pc = c.pc ∧ (c.trap code level eval).eret.priv = c.priv := ⟨rfl, rfl⟩

/-- A deferred task keeps its word, g1 to g15 and what it waits for; the core has no task (R238). -/
theorem Core.defer_chan (c : Core) (k : Nat) (w : Wait) (h : c.task = .chan k) :
    (c.defer w).task = .none ∧ (c.defer w).ahead = [] ∧
      ((c.defer w).chan k).deferred = some ⟨c.pc, c.low15, w, false, false, c.ahead⟩ ∧
      (∀ j, j ≠ k → (c.defer w).chan j = c.chan j) ∧ (∀ r, (c.defer w).get r = c.get r) ∧ (c.defer w).pts = c.pts ∧
      { c.defer w with chans := c.chans, task := c.task, ahead := c.ahead, eahead := c.eahead } = c := by
  simp only [Core.defer, h, Core.endTask]
  refine ⟨trivial, trivial, ?_, fun j hj => ?_, fun _ => rfl, rfl, ?_⟩
  · exact congrArg Channel.deferred (Core.chan_setChan c k _)
  · exact Core.chan_setChan_ne c k j _ hj
  · rw [← h]; rfl

/-- A start task that waits ends with nothing deferred (R242). -/
theorem Core.defer_start (c : Core) (w : Wait) (h : ∀ k, c.task ≠ .chan k) : c.defer w = c.endTask := by
  unfold Core.defer
  split
  · rename_i k e; exact absurd e (h k)
  · rfl

/-- A choice is one of the alternatives, and changes the counter of free values alone. -/
theorem State.choose_spec (s : State) (n : Nat) (h : 0 < n) :
    (s.choose n).1 < n ∧ { (s.choose n).2 with fresh := s.fresh } = s := by
  unfold State.choose; split
  · exact ⟨h, rfl⟩
  · exact ⟨Nat.mod_lt _ h, rfl⟩

/-- With one alternative there is nothing to choose. -/
@[simp] theorem State.choose_one (s : State) : s.choose 1 = (0, s) := rfl

end Sys2Proof.Machine
end

