-- ==== Sys2Proof/Tests/Slice0.lean ====
section
/-!
SUPPORT. The model's own tests: decoding of words and frames written out from the spec's encoding tables, ill-formed
terms, one step of the instructions on small states, and, for each statement, states and operands that meet its
hypotheses.
-/
set_option maxRecDepth 100000
set_option exponentiation.threshold 1100

open Sys2Proof Sys2Proof.Machine Sys2Proof.Claims

namespace Sys2Proof.Tests

/-! ## Decoding: words and frames written out from the encoding tables of the spec -/

def words (l : List (Word × Instr)) : Bool := l.all fun p => decodeWord p.1 = .instr p.2

/-- A frame from its upper and lower 128 bits. -/
def frameOf (hi lo : Nat) : Frame := BitVec.ofNat 256 (hi * 2 ^ 128 + lo)

def slotFrames (l : List (Nat × Nat × (SlotCfg → Instr))) : Bool :=
  l.all fun p => decodeFrame (frameOf p.1 p.2.1) = .instr (p.2.2 (slotCfgOf (frameOf p.1 p.2.1)))

def agFrames (l : List (Nat × Nat × (AgCfg → Instr))) : Bool :=
  l.all fun p => decodeFrame (frameOf p.1 p.2.1) = .instr (p.2.2 (agCfgOf (frameOf p.1 p.2.1)))

/-- RRR words (R157, R160, R243). -/
theorem test_decode_alu_1 : words
  [(0x01190A0000000000, .add 3 4 5), (0x02190A0000000000, .sub 3 4 5), (0x03190A0000000000, .mul 3 4 5),
   (0x07190A0000000000, .and 3 4 5), (0x08190A0000000000, .or 3 4 5), (0x09190A0000000000, .xor 3 4 5),
   (0x0A190A0000000000, .andn 3 4 5), (0x0B190A0000000000, .shl 3 4 5), (0x0D190A0000000000, .rol 3 4 5),
   (0x04F8600000000000, .mulh .n 31 1 16), (0x0431D00100000000, .mulh .s 6 7 8),
   (0x05F8600000000000, .div .n 31 1 16), (0x0531D00100000000, .div .s 6 7 8), (0x06F8600000000000, .rem .n 31 1 16),
   (0x0631D00100000000, .rem .s 6 7 8), (0x0CF8600000000000, .shr .n 31 1 16), (0x0C31D00100000000, .shr .s 6 7 8),
   (0x0EF8600000000000, .slt .n 31 1 16), (0x0E31D00100000000, .slt .s 6 7 8), (0x0FF8600000000000, .min .n 31 1 16),
   (0x0F31D00100000000, .min .s 6 7 8), (0x10F8600000000000, .max .n 31 1 16), (0x1031D00100000000, .max .s 6 7 8),
   (0x114A800000000000, .clz 9 10)] = true := by decide

/-- RRR words (R157, R160, R243). -/
theorem test_decode_alu_2 : words
  [(0x124A800000000000, .ctz 9 10), (0x134A800000000000, .popc 9 10), (0x144A800000000000, .sext .b 9 10),
   (0x144A801000000000, .sext .h 9 10), (0x144A802000000000, .sext .w 9 10), (0x154A800000000000, .zext .b 9 10),
   (0x154A801000000000, .zext .h 9 10), (0x154A802000000000, .zext .w 9 10)] = true := by decide

/-- RRI and BR words (R157, R160). -/
theorem test_decode_imm_1 : words
  [(0x2010C000FFFFFFF8, .addi 2 3 0xFFFFFFF8), (0x2110C000FFFFFFF8, .andi 2 3 0xFFFFFFF8),
   (0x2210C000FFFFFFF8, .ori 2 3 0xFFFFFFF8), (0x2310C000FFFFFFF8, .xori 2 3 0xFFFFFFF8),
   (0x2410C0000000003F, .shli 2 3 63), (0x2510C0000000003F, .shri .n 2 3 63), (0x2510C00100000001, .shri .s 2 3 1),
   (0x2610C00000000005, .slti .n 2 3 5), (0x2610C00100000005, .slti .s 2 3 5),
   (0x2710000080000000, .li 2 0x80000000), (0x2810000000000007, .lih 2 7), (0x294A963000000040, .lea 9 10 11 3 0x40),
   (0x40004400FFFFFFFD, .beq 1 2 0xFFFFFFFD), (0x4100400000000003, .bne 1 0 3), (0x4200440000000003, .blt .n 1 2 3),
   (0x4200440100000003, .blt .s 1 2 3), (0x4300440000000003, .bge .n 1 2 3), (0x4300440100000003, .bge .s 1 2 3),
   (0x4400000000000009, .jmp 9), (0x4500000000000009, .jal 9), (0x4607800000000000, .jr 30)] = true := by decide

/-- MEM words (R157, R160, R250). -/
theorem test_decode_mem_1 : words
  [(0x5019000000000010, .ld .b false 3 4 16), (0x5019000100000010, .ld .b true 3 4 16),
   (0x51010E0000000008, .st .b 4 7 8), (0x5019001000000010, .ld .h false 3 4 16),
   (0x5019001100000010, .ld .h true 3 4 16), (0x51010E1000000008, .st .h 4 7 8),
   (0x5019002000000010, .ld .w false 3 4 16), (0x5019002100000010, .ld .w true 3 4 16),
   (0x51010E2000000008, .st .w 4 7 8), (0x5019003000000010, .ld .d false 3 4 16), (0x51010E3000000008, .st .d 4 7 8),
   (0x5219002000000008, .ldl .w 3 4 8), (0x53010A0000000008, .pref 4 5 8), (0x54010A0000000008, .discard 4 5 8),
   (0x57010A0000000008, .crwb 4 5 8), (0x5519001000000008, .lld .h 3 4 8), (0x56010A0000000008, .lst .b 4 5 8),
   (0x60190A2000000008, .amo .add false 3 4 5 8), (0x60190A3000000008, .amo .add true 3 4 5 8),
   (0x60190A2100000008, .amo .and false 3 4 5 8), (0x60190A3100000008, .amo .and true 3 4 5 8),
   (0x60190A2200000008, .amo .or false 3 4 5 8), (0x60190A3200000008, .amo .or true 3 4 5 8),
   (0x60190A2300000008, .amo .xor false 3 4 5 8)] = true := by decide

/-- MEM words (R157, R160, R250). -/
theorem test_decode_mem_2 : words
  [(0x60190A3300000008, .amo .xor true 3 4 5 8), (0x60190A2400000008, .amo .minS false 3 4 5 8),
   (0x60190A3400000008, .amo .minS true 3 4 5 8), (0x60190A2500000008, .amo .maxS false 3 4 5 8),
   (0x60190A3500000008, .amo .maxS true 3 4 5 8), (0x60190A2600000008, .amo .minN false 3 4 5 8),
   (0x60190A3600000008, .amo .minN true 3 4 5 8), (0x60190A2700000008, .amo .maxN false 3 4 5 8),
   (0x60190A3700000008, .amo .maxN true 3 4 5 8), (0x60190A2800000008, .amo .swap false 3 4 5 8),
   (0x60190A3800000008, .amo .swap true 3 4 5 8), (0x60190A2900000008, .amo .fadd false 3 4 5 8),
   (0x61190A6200000008, .cas false 3 4 5 6 8), (0x61190A6300000008, .cas true 3 4 5 6 8),
   (0x6200000000000000, .fenceLeaf), (0x6300000000000000, .lfence)] = true := by decide

/-- STR words of ports, buffers, tiles and accumulators (R263). -/
theorem test_decode_str_1 : words
  [(0x701900000000002D, .sin 3 4 45), (0x711900000000002D, .sout 3 4 45), (0x721900000000002D, .sconst 3 4 45),
   (0x781900000000002D, .binit 3 4 45), (0x7318000000000006, .seos 3 6), (0x7418000000000006, .smark 3 6),
   (0x7538000000000005, .pstat .src 7 5), (0x7538000000000045, .pstat .sink 7 5),
   (0x7940000000000404, .bwaitf 8 4 16), (0x7A40000000000404, .bwaite 8 4 16), (0x7B40000000000404, .badvp 8 4 16),
   (0x7C40000000000404, .badvc 8 4 16), (0x7D00000000003084, .bnote .f 0 4 6 2),
   (0x7D1800010001FC3F, .bnote .e 3 63 63 16), (0x80480000000000CC, .tstat false 9 12 3),
   (0x80480001000000CC, .tstat true 9 12 3), (0x814A9600000000CC, .tset 9 10 11 12 3),
   (0x880000000000001F, .aclr 31), (0x8963400000000007, .aread false 12 13 7),
   (0x8963400100000007, .aread true 12 13 7), (0x8A60000000000007, .astat false 12 7),
   (0x8A60000100000007, .astat true 12 7)] = true := by decide

/-- STR words of copy jobs, launches, counters and tasks (R263). -/
theorem test_decode_job_1 : words
  [(0x9019000000000000, .xjob 3 4), (0x9119000000000000, .pjob 3 4), (0x921800000000003F, .jstat .x 3 63),
   (0x9218000100000005, .jstat .p 3 5), (0x9320000000000005, .jwait .x false 4 5),
   (0x9320000100000005, .jwait .p false 4 5), (0x9320000200000000, .jwait .x true 4 0),
   (0x9320000300000000, .jwait .p true 4 0), (0x98190A00000003C0, .lpatch 3 4 5 15),
   (0x9919000000000000, .larm false 3 4), (0x9919000100000000, .larm true 3 4),
   (0x9A19C00000000000, .cancel .launch 3 7), (0x9A19C00100000000, .cancel .graph 3 7),
   (0x9A18000200000000, .cancel .phase 3 0), (0x9A18000300000000, .cancel .job 3 0),
   (0x9B19000000000000, .cntrd 3 4), (0x9C190A0000000000, .cntwait 3 4 5), (0x9D190A0000000000, .cntadd 3 4 5),
   (0x9E1D2A0000000007, .cntnote 3 20 21 7), (0xA000000000000000, .tend), (0xA118000000000000, .hold 3),
   (0xA201000000000009, .cbind 9 4), (0xA3214C0000000009, .csend 4 5 6 9), (0xA400000000000149, .cpri 9 5)] = true := by decide

/-- STR words of copy jobs, launches, counters and tasks (R263). -/
theorem test_decode_job_2 : words
  [(0xA500000000000049, .cmask 9 true), (0xA500000000000009, .cmask 9 false), (0xA601000000000009, .timer 9 4),
   (0xB0190A0000000080, .cfgload 3 4 5 2), (0xB119000000000000, .band 3 4), (0xB219000000000FC0, .scrollst 3 4 63),
   (0xB318000000000000, .relatch 3)] = true := by decide

/-- SYS words (R33, R159, R160, R239, R263). -/
theorem test_decode_sys_1 : words
  [(0xF000000000000021, .trap 0x21), (0xF500000000000021, .brk 0x21), (0xF100000000000000, .eret),
   (0xF600000000000000, .nop), (0xF218000000000000, .sysrd 3 .status), (0xF301000000000000, .syswr .status 4),
   (0xF218000000000001, .sysrd 3 .cause), (0xF301000000000001, .syswr .cause 4), (0xF218000000000002, .sysrd 3 .epc),
   (0xF301000000000002, .syswr .epc 4), (0xF218000000000003, .sysrd 3 .eval), (0xF301000000000003, .syswr .eval 4),
   (0xF218000000000004, .sysrd 3 .vbase), (0xF301000000000004, .syswr .vbase 4),
   (0xF218000000000010, .sysrd 3 .asid), (0xF301000000000010, .syswr .asid 4), (0xF218000000000011, .sysrd 3 .tbase),
   (0xF301000000000011, .syswr .tbase 4), (0xF218000000000012, .sysrd 3 .job), (0xF301000000000012, .syswr .job 4),
   (0xF218000000000020, .sysrd 3 .clock), (0xF301000000000020, .sysClockWrite 4),
   (0xF218000000000021, .sysrd 3 .cycle), (0xF301000000000021, .sysCycleWrite 4)] = true := by decide

/-- SYS words (R33, R159, R160, R239, R263). -/
theorem test_decode_sys_2 : words
  [(0xF218000000000022, .sysrd 3 .chpri), (0xF301000000000022, .syswr .chpri 4),
   (0xF218000000000030, .sysrd 3 .waypart), (0xF301000000000030, .syswr .waypart 4),
   (0xF218000000000031, .sysrd 3 .turnstall), (0xF301000000000031, .syswr .turnstall 4),
   (0xF401000000000000, .tlbinv 4 .all), (0xF401000000000001, .tlbinv 4 .asid),
   (0xF401000000000002, .tlbinv 4 .page), (0xF719000000000000, .forfeit 3 4), (0xF819000000000000, .clock 3 4)] = true := by decide

/-- Compute-slot frames (R164, R167, R171 to R190). -/
theorem test_decode_slot_1 : slotFrames
  [(0x0000000FF10008000000000000800000, 0x0, .iadd), (0x0000010FF10008000000000000800000, 0x0, .isub),
   (0x0000020FF10008000000000000800000, 0x0, .iadds), (0x0000030FF10008000000000000800000, 0x0, .imul),
   (0x0000040FF10008000000000000800000, 0x0, .imulh), (0x0000050F210008000000000000800000, 0x0, .imad),
   (0x0000060FFF0008000000000000800000, 0x0, .ineg), (0x0000070FFF0008000000000000800000, 0x0, .iabs),
   (0x0000080FF10008000000000000800000, 0x0, .imin), (0x0000090FF10008000000000000800000, 0x0, .imax),
   (0x00000A0FF10008000000000000800000, 0x0, .ishl), (0x00000B0FF10008000000000000800000, 0x0, .ishr),
   (0x00000C0FF10008000000000000800000, 0x0, .irol), (0x00000D0FF10008000000000000800000, 0x0, .cellAnd),
   (0x00000E0FF10008000000000000800000, 0x0, .cellOr), (0x00000F0FF10008000000000000800000, 0x0, .cellXor),
   (0x0000100FF10008000000000000800000, 0x0, .cellAndn), (0x0000110FFF0008000000000000800000, 0x0, .cellPopc),
   (0x0000120FFF0008000000000000800000, 0x0, .cellClz), (0x0000130FFF0008000000000000800000, 0x0, .cellCtz)] = true := by decide

/-- Compute-slot frames (R164, R167, R171 to R190). -/
theorem test_decode_slot_2 : slotFrames
  [(0x0000140FFF0008000000000000800000, 0x0, .brev), (0x0000150FF10008000000000000800000, 0x0, .bfx),
   (0x0000160F210008000000000000800000, 0x0, .bfi), (0x0000170FF10008000000000000800000, 0x0, .icmp),
   (0x0010200FF10008000000000000600000, 0x0, .padd), (0x0010210FF10008000000000000D00000, 0x0, .psub),
   (0x0010220FF10008000000000000B00000, 0x0, .pmin), (0x0010230FF10008000000000000C00000, 0x0, .pmax),
   (0x0010240FF10008000000000000B00000, 0x0, .pmulH), (0x0010250F210008000000000000600000, 0x0, .pdot4),
   (0x0010260F210008000000000000C00000, 0x0, .pdot2), (0x0000300FF10008000000000000000000, 0x0, .fadd),
   (0x0000310FF10008000000000000000000, 0x0, .fsub), (0x0000320FF10008000000000000000000, 0x0, .fmul),
   (0x0000330F210008000000000000000000, 0x0, .ffma), (0x0000340F210008000000000000000000, 0x0, .ffms),
   (0x0000350F210008000000000000000000, 0x0, .fnma), (0x00003603210008000000000000000000, 0x0, .ftriad),
   (0x0000370FF10008000000000000000000, 0x0, .fmin), (0x0000380FF10008000000000000000000, 0x0, .fmax)] = true := by decide

/-- Compute-slot frames (R164, R167, R171 to R190). -/
theorem test_decode_slot_3 : slotFrames
  [(0x0000390FF10008000000000000000000, 0x0, .fminp), (0x00003A0FF10008000000000000000000, 0x0, .fmaxp),
   (0x00003B0FFF0008000000000000000000, 0x0, .fabs), (0x00003C0FFF0008000000000000000000, 0x0, .fneg),
   (0x00003D0FF10008000000000000000000, 0x0, .fsgn), (0x00003E0FF10008000000000000000000, 0x0, .fcmp),
   (0x00003F0FFF0008000000000000000000, 0x0, .fclass), (0x0010400FFF0008000000000000000000, 0x0, .frcp),
   (0x0010410FFF0008000000000000000000, 0x0, .frsq), (0x0010420FFF0008000000000000000000, 0x0, .fsqrt),
   (0x0010430FFF0008000000000000000000, 0x0, .fexp2), (0x0010440FFF0008000000000000000000, 0x0, .flog2),
   (0x0010450FFF0008000000000000000000, 0x0, .ftanh), (0x0010460FFF0008000000000000000000, 0x0, .fsigm),
   (0x0010470FFF0008000000000000000000, 0x0, .fsinpi), (0x0010480FFF0008000000000000000000, 0x0, .fcospi),
   (0x0000490F210008000000000000100000, 0x0, .bfma2), (0x00004A0F210008000000000000200000, 0x0, .hfma2),
   (0x00004B0F210008000000000000000000, 0x0, .fdot2b), (0x0000500FF10008000000000000100000, 0x0, .cvt)] = true := by decide

/-- Compute-slot frames (R164, R167, R171 to R190). -/
theorem test_decode_slot_4 : slotFrames
  [(0x0000510FF1000800000000000015089A, 0xBCDEF000000000000000000000000000, .cvtsr),
   (0x0000520FFF0008000000000000800000, 0x0, .cvti), (0x0000538FFF0008000000000000000000, 0x0, .cvtf),
   (0x00005403210008000000000000600000, 0x0, .pack), (0x0000553FFF0008000000000000600000, 0x0, .unpack),
   (0x0000560FFF0008000000000000A00000, 0x0, .rtenc), (0x0000570FFF0008000000000000800000, 0x0, .rtdec),
   (0x0020600FF10008000000000000000000, 0x0, .lperm), (0x0000610FFF000800000000000F000000, 0x0, .lrot),
   (0x0000620FFF0008000000000003000000, 0x0, .lbcast), (0x0000630FFF0008000000000000800000, 0x0, .lscan),
   (0x0000645FFF0008000000000000900000, 0x0, .lred), (0x0000650FFF0008000000000000000000, 0x0, .lpack),
   (0x0000660FF10008000000000000000000, 0x0, .lexpand), (0x0000671FFF0008000000000000000000, 0x0, .lidx),
   (0x0030683FF10008000000000000800000, 0x0, .lsort), (0x0000690FFF0008000000000000000000, 0x0, .lmatch),
   (0x0030700FFF0008000000000000000000, 0x0, .pass), (0x0030710FFF000800003F800000000000, 0x0, .const),
   (0x0030720F210008000000000000000000, 0x0, .sel)] = true := by decide

/-- Compute-slot frames (R164, R167, R171 to R190). -/
theorem test_decode_slot_5 : slotFrames
  [(0x0030730FF10008000100008000000000, 0x0, .steer), (0x0030741FF10008000000000000000000, 0x0, .merge),
   (0x0030750FF10008000000000000000000, 0x0, .gate), (0x0030760F210008000020000004000000, 0x0, .loop),
   (0x0030774FFF0008000000000000000000, 0x0, .accrun), (0x0030780FFF0008000000000400000000, 0x0, .rmaxs),
   (0x0030790FFF0008000000000000000000, 0x0, .count), (0x00307A0FFF0008000000000020000000, 0x0, .delay),
   (0x00307B0FFF0008000000000000000000, 0x0, .drop), (0x00307C0FFF0008000000000000000000, 0x0, .onmark)] = true := by decide

/-- Address-generator frames (R209). -/
theorem test_decode_ag : agFrames
  [(0x600004A17F8000000000000000000000, 0x0, .agRead), (0x6000011B9F8000000000000000000000, 0x0, .agRead),
   (0x60000A231F8004000000000000000000, 0x0, .agRead), (0x600014801E0000000000000000000000, 0x0, .agWrite),
   (0x60002400AB8000000000000000000000, 0x0, .agGather), (0x600036E0008000000000000000000000, 0x0, .agScatter),
   (0x6000480012004BFFFC00020000000000, 0x0, .agScatadd), (0x60005800050000000000000000000000, 0x0, .agBin),
   (0x7E30644401C808000000000000000000, 0x0, .agAtom), (0x60007421DF8000000000008100000000, 0x0, .agConv)] = true := by decide

/-- The worked frame of the spec: FFMA q0, q1, q2 -> B.q1, out.e at column 2 (after R169). -/
def ffmaFrame : Frame := frameOf 0x0400330F210200200000000000000000 0x00000040000000000000000000000000

theorem test_decode_ffma : decodeFrame ffmaFrame = .instr (.ffma (slotCfgOf ffmaFrame)) ∧
    (slotCfgOf ffmaFrame).col = 2 ∧ (slotCfgOf ffmaFrame).unit = 0 ∧ (slotCfgOf ffmaFrame).dst = 0x2002 ∧
    (slotCfgOf ffmaFrame).qselB = 1 ∧ (slotCfgOf ffmaFrame).src2 = 2 ∧ (slotCfgOf ffmaFrame).src3 = 0xF := by decide

/-- Fields of a slot frame, each at a value of its own (R164): bits written out by position. -/
theorem test_slot_fields :
    slotCfgOf (BitVec.ofNat 256 (9 * 2 ^ 249 + 3 * 2 ^ 244 + 5 * 2 ^ 228 + 2 * 2 ^ 212 + 7 * 2 ^ 216 + 4 * 2 ^ 220 +
      15 * 2 ^ 224 + 0x8421 * 2 ^ 196 + 1 * 2 ^ 188 + 2 * 2 ^ 190 + 3 * 2 ^ 192 + 1 * 2 ^ 194 + 2 * 2 ^ 184 +
      0x89ABCDEF * 2 ^ 152 + 10 * 2 ^ 148 + 5 * 2 ^ 144 + 2 ^ 142 + 2 ^ 140 + 0x13579BDF * 2 ^ 108 + 3 * 2 ^ 106 +
      1 * 2 ^ 104 + 2 * 2 ^ 102 + 3 * 2 ^ 100 + 2 * 2 ^ 98 + 9 * 2 ^ 94)) =
    { col := 9, unit := 3, sub := 5, src0 := 2, src1 := 7, src2 := 4, src3 := 15, dst := 0x8421, emp0 := 1, emp1 := 2,
      emp2 := 3, emp3 := 1, len := 2, cst := 0x89ABCDEF, fmt := 10, rnd := 5, sat := true, ftz := false, trapinv := true,
      seed := 0x13579BDF, qselD := 3, qselC := 1, qselB := 2, qselA := 3, agsel := 2, dos := 9 } := by decide

/-- Fields of an address-generator frame (R209). -/
theorem test_ag_fields :
    agCfgOf (BitVec.ofNat 256 (9 * 2 ^ 249 + 3 * 2 ^ 244 + 2 * 2 ^ 234 + 1 * 2 ^ 232 + 5 * 2 ^ 229 + 3 * 2 ^ 227 +
      8 * 2 ^ 223 + 2 * 2 ^ 221 + 4 * 2 ^ 218 + 7 * 2 ^ 215 + 9 * 2 ^ 211 + 10 * 2 ^ 207 + 4 * 2 ^ 204 + 2 ^ 202 +
      0x8421 * 2 ^ 186 + 0x10000 * 2 ^ 169 + 64 * 2 ^ 161 + 2 ^ 160)) =
    { col := 9, unit := 3, ctype := 2, tgt := 1, shsel := 5, bufn := 3, out := 8, oq := 2, isrc := 4, vsrc := 7, afn := 9,
      fmt := 10, rnd := 4, ftz := false, waitf := true, lbase := 0x8421, lwords := 0x10000, rpr := 64, kw := true } := by
  decide

/-- Frames of the other entries, and the image end (R163, R218 to R233). -/
theorem test_decode_entries :
    [frameOf (2 ^ 125 + 1 * 2 ^ 105 + 4 * 2 ^ 89 + 8 * 2 ^ 83) 0,
     frameOf (2 ^ 125 + 2 ^ 116 + 2 ^ 111 + 256 * 2 ^ 67 + 2 * 2 ^ 43) 0,
     frameOf (2 ^ 125 + 4 * 2 ^ 116) 0, frameOf (2 * 2 ^ 125 + 2 ^ 111 + 4 * 2 ^ 107 + 6 * 2 ^ 102) 0,
     frameOf (4 * 2 ^ 116 + 1 * 2 ^ 97 + 1 * 2 ^ 89) 0, frameOf (5 * 2 ^ 116 + 2 ^ 104) 0].all
      (fun f => decodeFrame f = .instr (.configFrame f)) = true ∧
    decodeFrame (BitVec.ofNat 256 (7 * 2 ^ 253)) = .instr .imageEnd := by decide

/-- Words and frames that the decoder refuses (R160, R161, R163, R168). -/
theorem test_refused :
    [0x0000000000000000, 0xC000000000000000, 0xFF00000000000000, 0x7600000000000000, 0x0531D00200000000,
      0x1400003000000000, 0x8800000000000020, 0x7900000000000440, 0xF400000000000003,
      0xF200000000000005, 0x6000001000000000, 0x6000003900000000, 0x5000003100000000].all
      (fun w => decodeWord (BitVec.ofNat 64 w) = .illegal) = true ∧
    [0x0119080200000000, 0x0119080000000001, 0x2018820000000000, 0xA100400000000000].all
      (fun w => decodeWord (BitVec.ofNat 64 w) = .reserved false) = true ∧
    [0xF100000000000001, 0xF200400000000000, 0xF700020000000000].all
      (fun w => decodeWord (BitVec.ofNat 64 w) = .reserved true) = true ∧
    [(4 * 2 ^ 125, 0), (7 * 2 ^ 125, 1), (6 * 2 ^ 116, 0), (0x0000180FF10000800000000000800000 + 2 ^ 105, 0),
     (0x0020330F210200200000000000000000, 0), (0x0400330F21020020000000000005 * 0x10000, 2 ^ 102)].all
      (fun p => decodeFrame (frameOf p.1 p.2) = .blocked 32) = true := by decide

/-! ## Ill-formed terms: one for each check of WellFormed -/

theorem test_wf_words :
    [Instr.ld .d true 1 2 0, .amo .fadd true 1 2 3 0, .bwaitf 1 2 17, .bwaite 1 2 17, .badvp 1 2 31, .badvc 1 2 17,
      .bnote .f 1 2 3 17, .jwait .x true 1 5, .cancel .phase 1 2, .cancel .job 1 2, .syswr .clock 1, .syswr .cycle 1].all
      (fun i => i.wf = false) = true := by decide

theorem test_wf_events :
    [Instr.repartitionComplete 256, .bankOffline 256, .taskStart 192, .taskResume 192, .haltCore 192, .releaseCore 192,
      .startCore 192, .timerExpiry 192 0, .timerExpiry 0 64, .endTokenAlign 3072 0, .endTokenAlign 0 16,
      .endTokenAtUnit 3072 0, .switchApply 0 4, .routerTokenHop 0 55 .good, .swReplToken 3072, .skipPark 3072,
      .muSourceRecord 3072, .muSinkRecord 3072, .swVertTile 3072, .planeLoad 3072, .planeSwap 3072, .arrayPass 3072,
      .arrayRescale 3072, .accumulatorDrain 3072, .linkSpill 0 16 true, .slotFillComplete 0 4, .slotDrainComplete 0 4,
      .columnRepair 0 64, .copyJobStart 384 0, .copyJobTile 0 64, .drainTile 384 0, .copyJobComplete 0 64].all
      (fun i => i.wf = false) = true := by decide

theorem test_wf_package :
    [Instr.ownerForward (2 ^ 45) 0 0 true, .ownerForward 0 1023 0 true, .writeBack (2 ^ 30), .evictionNotice (2 ^ 45),
      .treeBankEviction (2 ^ 30), .scrubVisit (2 ^ 30), .leaseRenewal 0 0x1000000 0, .leaseRenewal 0 0 0x1000000,
      .warmPrefetch 0 0 (2 ^ 30), .fresumeRetry (.root 0) (2 ^ 16) 0, .fresumeSkip (.root 0) 0 (2 ^ 32), .scanWrite 4 0 0,
      .deviceRegisterWrite 32 0 0, .deviceRegisterWrite 0 (2 ^ 42) 0, .packageFence 256, .packageUnfence 256, .fenceMessage 512, .graftPortDown 12,
      .graftPortUp 12 0 8, .graftPortUp 0 1024 8, .graftPortUp 0 0 16, .towerLinkBypass 1 1, .linkLaneRepair 0 4 0,
      .hostArm 0 0, .donePop 129, .functionLevelReset 0, .hostBar2Access 131 0 (.read 8), .nvmeDmaWrite 2 0 [],
      .thermalClockStep 12, .powerSample 0 12].all
      (fun i => i.wf = false) = true := by decide

/-- A slot of IADD q0,q1 -> mu, s32, that every check of its frame accepts. -/
def plain : SlotCfg := { slotCfgOf (0 : Frame) with src1 := 1, src2 := 0xF, src3 := 0xF, dst := 0x80, fmt := 8 }

theorem test_wf_slots : (Instr.iadd plain).wf = true ∧
    [Instr.imul { plain with unit := 2 }, .iadd { plain with sub := 1 }, .iadd { plain with fmt := 0 },
      .iadd { plain with src0 := 5 }, .iadd { plain with src2 := 2 }, .iadd { plain with src0 := 4, src1 := 4 },
      .iadd { plain with emp0 := 3 }, .iadd { plain with src1 := 4, emp1 := 1 }, .iadd { plain with src1 := 4, dos := 2 },
      .lpack { plain with src1 := 15, fmt := 0, emp0 := 2 }, .iadd { plain with len := 3 },
      .merge { plain with unit := 3, fmt := 0, len := 1 }, .steer { plain with unit := 3, fmt := 0, len := 2 },
      .iadd { plain with rnd := 1 }, .fadd { plain with fmt := 0, rnd := 5 }, .cvtsr { plain with fmt := 1 },
      .iadd { plain with sat := true }, .iadd { plain with ftz := true }, .iadd { plain with seed := 1 },
      .steer { plain with unit := 3, fmt := 0, cst := 0x10000 }, .iadd { plain with dst := 0x10 },
      .iadd { plain with dst := 0x20 }, .iadd { plain with qselA := 1 }, .iadd { plain with agsel := 1 },
      .configFrame (0 : Frame)].all (fun i => i.wf = false) = true := by decide

/-- A READ of memory into SLOT_A, that every check of its frame accepts. -/
def plainAg : AgCfg := { agCfgOf (0 : Frame) with ctype := 1, isrc := 7, vsrc := 7 }

theorem test_wf_ags : (Instr.agRead plainAg).wf = true ∧
    [Instr.agRead { plainAg with ctype := 3 }, .agRead { plainAg with tgt := 3 }, .agGather { plainAg with isrc := 0, tgt := 1 },
      .agRead { plainAg with out := 8 }, .agWrite { plainAg with vsrc := 0, out := 1 }, .agRead { plainAg with ctype := 0 },
      .agScatadd { plainAg with isrc := 0, vsrc := 1, lwords := 1 }, .agRead { plainAg with out := 4, oq := 1 },
      .agRead { plainAg with tgt := 1, shsel := 1 }, .agRead { plainAg with bufn := 1 }, .agRead { plainAg with isrc := 0 },
      .agWrite { plainAg with vsrc := 5 }, .agScatter { plainAg with isrc := 1, vsrc := 1 },
      .agAtom { plainAg with isrc := 0, vsrc := 1, afn := 10 }, .agAtom { plainAg with isrc := 0, vsrc := 1, afn := 9, fmt := 8 },
      .agRead { plainAg with afn := 1 }, .agAtom { plainAg with isrc := 0, vsrc := 1, fmt := 10 },
      .agRead { plainAg with fmt := 8 }, .agRead { plainAg with rnd := 1 }, .agRead { plainAg with ftz := true },
      .agRead { plainAg with waitf := true }, .agScatadd { plainAg with ctype := 2, isrc := 0, vsrc := 1, lbase := 1, lwords := 0x10000 },
      .agRead { plainAg with lbase := 1 }, .agConv { plainAg with rpr := 65 }, .agRead { plainAg with kw := true }].all
      (fun i => i.wf = false) = true := by decide

/-! ## Fixtures -/

/-- The package after reset with core 0 as given. -/
def coreIs (c : Core) : State := { State.reset with cores := [(0, c)] }

/-- A core whose g1, g2, … hold a list. -/
def regsAre (l : List Word) : Core := Core.reset.putList 1 l

def reg (o : Out) (r : Reg) : Option Word :=
  match o with
  | .next t => some (t.me.get r)
  | _ => none

def pcOf (o : Out) : Option Word :=
  match o with
  | .next t => some t.me.pc
  | _ => none

/-- What a predicate says of the next state; false of a fault or a refusal. -/
def after (o : Out) (p : State → Bool) : Bool :=
  match o with
  | .next t => p t
  | _ => false

/-- The outcome is this next state. -/
def gives (o : Out) (t : State) : Bool := after o (· = t)

/-! ## Integer, branch and system words: results by hand from R239, R244 to R247, R290 to R293 -/

/-- g1 = 2^63, g2 = −1, g3 = 0xF0, g4 = 65. -/
def ints : State := coreIs (regsAre [0x8000000000000000, 0xFFFFFFFFFFFFFFFF, 0xF0, 65])

def results (s : State) (l : List (Instr × Word)) : Bool := l.all fun p => reg (exec p.1 s) 9 = some p.2

theorem test_alu : results ints
  [(.add 9 1 1, 0), (.sub 9 0 2, 1), (.mul 9 2 2, 1), (.mulh .n 9 2 2, 0xFFFFFFFFFFFFFFFE), (.mulh .s 9 2 2, 0),
   (.mulh .s 9 1 2, 0), (.div .n 9 1 2, 0), (.div .s 9 1 2, 0x8000000000000000), (.div .s 9 2 0, 0xFFFFFFFFFFFFFFFF),
   (.rem .n 9 1 2, 0x8000000000000000), (.rem .s 9 1 2, 0), (.rem .s 9 2 0, 0xFFFFFFFFFFFFFFFF), (.and 9 2 3, 0xF0),
   (.or 9 1 3, 0x80000000000000F0), (.xor 9 2 3, 0xFFFFFFFFFFFFFF0F), (.andn 9 2 3, 0xFFFFFFFFFFFFFF0F),
   (.shl 9 3 4, 0x1E0), (.shr .n 9 1 4, 0x4000000000000000), (.shr .s 9 1 4, 0xC000000000000000), (.rol 9 1 4, 1),
   (.slt .n 9 1 3, 0), (.slt .s 9 1 3, 1), (.min .n 9 2 3, 0xF0), (.min .s 9 2 3, 0xFFFFFFFFFFFFFFFF),
   (.max .n 9 2 3, 0xFFFFFFFFFFFFFFFF), (.max .s 9 2 3, 0xF0), (.clz 9 3, 56), (.clz 9 0, 64), (.ctz 9 3, 4), (.ctz 9 0, 64),
   (.popc 9 2, 64), (.sext .b 9 3, 0xFFFFFFFFFFFFFFF0), (.sext .h 9 3, 0xF0), (.sext .w 9 1, 0), (.zext .b 9 2, 0xFF),
   (.zext .h 9 2, 0xFFFF), (.zext .w 9 2, 0xFFFFFFFF)] = true := by decide

theorem test_imm : results ints
  [(.addi 9 3 0xFFFFFFFF, 0xEF), (.andi 9 2 0x80000000, 0x80000000), (.ori 9 1 0x80000000, 0x8000000080000000),
   (.xori 9 3 0xFFFFFFFF, 0xFFFFFF0F), (.shli 9 3 63, 0), (.shri .n 9 2 63, 1), (.shri .s 9 1 63, 0xFFFFFFFFFFFFFFFF),
   (.slti .n 9 3 0xFFFFFFFF, 1), (.slti .s 9 3 0xFFFFFFFF, 0), (.li 9 0x80000000, 0xFFFFFFFF80000000), (.lih 2 5, 0),
   (.lea 9 3 4 31 0xFFFFFFF0, 0x20800000E0)] = true ∧
    reg (exec (.lih 2 5) ints) 2 = some 0x5FFFFFFFF := by decide

/-- Targets from a PC of 0x1000. -/
theorem test_branches :
    let s := coreIs { regsAre [0x8000000000000000, 0xFFFFFFFFFFFFFFFF, 0xF0, 0x2000] with pc := 0x1000 }
    ([(Instr.beq 1 1 2, (0x1010 : Word)), (.beq 1 2 2, 0x1008), (.bne 1 2 0xFFFFFFFF, 0xFF8), (.bne 1 1 5, 0x1008),
      (.blt .n 1 3 2, 0x1008), (.blt .s 1 3 2, 0x1010), (.bge .n 1 3 2, 0x1010), (.bge .s 1 3 2, 0x1008),
      (.bge .s 1 1 2, 0x1010), (.jmp 0x80000000, 0xFFFFFFFC00001000), (.jal 3, 0x1018), (.jr 4, 0x2000), (.jr 4, 0x2000),
      (.nop, 0x1008), (.fenceLeaf, 0x1008)].all fun p => pcOf (exec p.1 s) = some p.2) = true ∧
    reg (exec (.jal 3) s) 31 = some 0x1008 := by decide

/-- A trap from user mode saves the PC, the privilege and the value; ERET goes back (R239, R290). -/
theorem test_trap_and_return :
    let s := coreIs { Core.reset with pc := 0x1000, priv := false, vbase := 0x8000 }
    (after (exec (.trap 0x21) s) fun t => t.me.epc = 0x1000 && t.me.code = 8 && t.me.eval = 0x100000021 && t.me.pc = 0x8000 &&
      t.me.priv && !t.me.ppriv && after (exec .eret t) fun u => u.me.pc = 0x1000 && !u.me.priv) = true ∧
    (after (exec (.brk 0x21) s) fun t => t.me.code = 8 && t.me.eval = 0x21) = true ∧
    (after (exec .eret s) fun t => t.me.code = 7 && t.me.eval = 0 && t.me.epc = 0x1000) = true := by decide

/-- SYS_STATUS, SYS_CAUSE and SYS_CLOCK as words; a start task sets bit 2 (R29, R239). -/
theorem test_sysregs :
    let s := { coreIs { Core.reset with code := 4, level := 5, task := .start, pts := 0x123456 } with turn := true }
    results s [(.sysrd 9 .status, 7), (.sysrd 9 .cause, 0x504), (.sysrd 9 .clock, 0x1123456), (.sysrd 9 .job, 0xFFFF),
      (.clock 9 0, 0x1123456)] = true ∧
    (after (exec (.syswr .status 1) (coreIs (regsAre [6]))) fun t => !t.me.priv && t.me.ppriv) = true ∧
    (after (exec (.syswr .status 1) (coreIs (regsAre [8]))) fun t => t.me.code = 2 && t.me.eval = 0) = true ∧
    (after (exec (.sysClockWrite 1) (coreIs (regsAre [0xFFF000]))) fun t => t.me.pts = 0xFFF000 && t.turnReq) = true := by
  decide

/-! ### Hypotheses of the statements on these words -/

theorem wit_IntegerResults : aluRegs (.shr .s 3 1 2) = some (3, 1, 2) ∧
    aluValue (.shr .s 3 1 2) 0x8000000000000000 64 = some 0x8000000000000000 ∧
    aluRegs (.clz 0 1) = some (0, 1, 1) ∧ aluValue (.clz 0 1) 0 0 = some 64 ∧
    gives (exec (.shr .s 9 1 4) ints) (wrote ints 9 0xC000000000000000) = true := by decide

theorem wit_DivRemResults :
    let x := ints.me.get 1
    let y := ints.me.get 2
    ints.me.get 0 = 0 ∧ y ≠ 0 ∧ (x = BitVec.intMin 64 ∧ y = BitVec.allOnes 64) ∧
      ¬ (y = BitVec.intMin 64 ∧ y = BitVec.allOnes 64) ∧ ((7 : Word) ≠ 0) := by decide

theorem wit_ImmediatesAndBranches :
    gives (exec (.li 5 1) ints) (wrote ints 5 1) = true ∧ (coreIs (regsAre [8])).me.get 1 = 8 ∧
      (8 : Word).toNat % 8 = 0 ∧ (7 : Word).toNat % 8 ≠ 0 ∧
      (after (exec (.jr 1) (coreIs (regsAre [7]))) fun t => t.me.code = 3 && t.me.eval = 7) = true := by decide

theorem wit_IntegerFrame :
    aluRegs (.add 3 1 2) = some (3, 1, 2) ∧ immDest (.li 4 9) = some 4 ∧ branchDest (.jal 1) = some [31] ∧
      gives (exec (.add 3 1 2) ints) (wrote ints 3 0x7FFFFFFFFFFFFFFF) = true ∧
      gives (exec (.li 4 9) ints) (wrote ints 4 9) = true := by
  decide

theorem wit_ReturnFromTrap : (coreIs Core.reset).me.priv = true ∧
    (coreIs { Core.reset with priv := false }).me.priv = false := by decide

theorem wit_UserModeTrapsPrivileged :
    let s := coreIs { Core.reset with priv := false }
    s.me.priv = false ∧
    [Instr.eret, .tlbinv 1 .page, .forfeit 1 2, .sysClockWrite 1, .sysCycleWrite 1, .waypartSelect 1, .waypartRepartition 1,
      .sysrd 1 .status, .sysrd 1 .waypart, .syswr .job 1, .syswr .turnstall 1].all
      (fun i => after (exec i s) fun t => t.me.code = 7 && t.me.eval = 0) = true ∧
    (after (exec (.syswr .chpri 1) s) fun t => t.me.pc = 8) = true := by decide

theorem wit_SystemRegisterReads : (coreIs Core.reset).me.priv = true ∧ (9 : Reg) ≠ 0 ∧
    reg (exec (.sysrd 9 .epc) (coreIs { Core.reset with epc := 0x48 })) 9 = some 0x48 := by decide

theorem wit_SystemRegisterWrites :
    let s := coreIs { regsAre [7, 0xFFFFFFFFFFFFF000, 0xFFFF, 0xFFFFFFFFFF000] with cycle := 5, chans := [(3, { Channel.reset with timer := some 9 })] }
    s.me.priv = true ∧ (s.me.get 1).toNat < 8 ∧ (s.me.get 2).toNat % 8 = 0 ∧ (s.me.get 3).toNat < 2 ^ 16 ∧
      (s.me.get 4).toNat < 2 ^ 52 ∧ (s.me.get 4).toNat % 4096 = 0 ∧ (s.me.chan 3).timer = some 9 ∧ s.me.cycle ≤ 9 := by decide

theorem wit_reserved_writes :
    let s := coreIs (regsAre [8, 1, 2 ^ 16, 2 ^ 52, 4095, 2 ^ 50, 2 ^ 20])
    s.me.priv = true ∧ 8 ≤ (s.me.get 1).toNat ∧ (s.me.get 2).toNat % 8 ≠ 0 ∧ 2 ^ 16 ≤ (s.me.get 3).toNat ∧
      2 ^ 52 ≤ (s.me.get 4).toNat ∧ (s.me.get 5).toNat % 4096 ≠ 0 ∧ (s.me.get 6).toNat / 2 ^ 50 % 2 ^ 12 ≠ 0 ∧
      (s.me.get 7).toNat / 2 ^ 20 % 2 ^ 22 ≠ 0 ∧
      [(SysReg.status, (1 : Reg)), (.epc, 2), (.vbase, 2), (.asid, 3), (.job, 3), (.tbase, 4), (.tbase, 5), (.waypart, 6), (.waypart, 7)].all
        (fun p => after (exec (.syswr p.1 p.2) s) fun t => t.me.code = 2) = true := by decide

/-- Bank 63 of tower 3 taken from 16 home ways to 8, 4, 2 and 2; and the refusals of R57. -/
theorem wit_CrownBankPartition :
    let v : Word := BitVec.ofNat 64 (3 * 2 ^ 48 + 63 * 2 ^ 42 + 8 + 4 * 2 ^ 5 + 2 * 2 ^ 10 + 2 * 2 ^ 15)
    let s := coreIs (regsAre [v, BitVec.ofNat 64 (3 * 2 ^ 48 + 63 * 2 ^ 42), 17])
    s.me.priv = true ∧ v.toNat / 2 ^ 50 % 2 ^ 12 = 0 ∧ v.toNat / 2 ^ 20 % 2 ^ 22 = 0 ∧ (s.bank 3 63).next = none ∧
      (s.bank 3 63).reserved = 0 ∧
    (after (exec (.waypartRepartition 1) s) fun t => t.bank 3 63 = { s.bank 3 63 with next := some (8, 4, 2, 2) } &&
      after (exec (.waypartRepartition 1) t) (·.me.wayErr) &&
      after (exec (.repartitionComplete 255) t) fun u => (u.bank 3 63).home = 8 && (u.bank 3 63).scratch = 2 && (u.bank 3 63).next.isNone) = true ∧
    (after (exec (.waypartRepartition 2) s) fun t => !t.me.wayErr && t.banks = s.banks) = true ∧
    (after (exec (.waypartRepartition 3) s) fun t => t.me.wayErr && t.banks = s.banks) = true ∧
    (after (exec (.waypartSelect 1) s) fun t => t.me.wayTower = 3 && t.me.wayBank = 63) = true := by decide

/-- A page of 4 KiB at 0x20000. -/
def page (pa mtype : Nat) : Xlate := ⟨0, false, 0x20000, pa, 12, 1, true, true, false, true, mtype, true⟩

theorem wit_InvalidatedTranslations :
    let s := coreIs { Core.reset with tlb := [page 0x4000 0, { page 0x4000 0 with asid := 1, va := 0x21000 }] }
    s.me.priv = true ∧
    (after (exec (.tlbinv 0 .all) s) fun t => t.me.tlb = []) = true ∧
    (after (exec (.tlbinv 0 .asid) s) fun t => t.me.tlb.length = 1) = true ∧
    (after (exec (.tlbinv 0 .page) s) fun t => t.me.tlb.length = 2) = true := by decide

theorem wit_NopAndClock : (coreIs Core.reset).me.pts < 0xFFF000 ∧
    (after (exec (.clock 3 1) (coreIs (regsAre [0x1FFF000]))) fun t => t.me.pts = 0xFFF000 && t.turnReq && t.me.get 3 = 0xFFF000) = true := by
  decide

/-! ## Memory -/

/-- Pages of core 0: coherent, uncached, crown scratch (way 15 of bank 0), and an address nothing backs; a datum in the
first two, and bytes written since HBM was. -/
def memCore (g : List Word) : Core :=
  { regsAre g with
    tlb := [page 0x4000 0, { page 0x5000 1 with va := 0x21000 }, { page 0x10000F00000 1 with va := 0x22000 },
      { page 0x02000000000 0 with va := 0x23000 }] }

def memState (g : List Word) : State :=
  { coreIs (memCore g) with
    mem := [(0x4000, 0x80), (0x4001, 0xFF), (0x4080, 5), (0x5000, 7)]
    hbm := [(0x4080, 3)]
    scratch := [(0x10000F00000, 0x21)]
    banks := [(0, { Bank.reset with home := 15, scratch := 1 })] }

/-- g1 to g4 name the four pages; g5 a datum, g6 an address with bit 56 alone set, g7 a misaligned one. -/
def mems : State := memState [0x20000, 0x21000, 0x22000, 0x23000, 0x1122334455667788, 0x100000000000000, 0x20001]

theorem test_loads : results mems
  [(.ld .b false 9 1 0, 0x80), (.ld .b true 9 1 0, 0xFFFFFFFFFFFFFF80), (.ld .h true 9 1 0, 0xFFFFFFFFFFFFFF80),
   (.ld .w false 9 1 0, 0xFF80), (.ld .d false 9 2 0, 7), (.ld .b false 9 3 0, 0x21), (.ld .d false 9 4 8, 0)] = true := by
  decide

theorem test_stores :
    (after (exec (.st .h 1 5 2) mems) fun t => t.mem = [(0x4000, 0x80), (0x4001, 0xFF), (0x4002, 0x88), (0x4003, 0x77), (0x4080, 5), (0x5000, 7)] &&
      t.me.pts = 1) = true ∧
    (after (exec (.st .b 1 0 0) mems) fun t => t.mem = [(0x4001, 0xFF), (0x4080, 5), (0x5000, 7)]) = true ∧
    (after (exec (.st .d 2 5 0) mems) fun t => t.mem.readLe 0x5000 8 = 0x1122334455667788 && t.me.pts = 0) = true ∧
    (after (exec (.st .w 3 5 0) mems) fun t => t.posted = [⟨0x100000, 0x10000F00000, [0x88, 0x77, 0x66, 0x55]⟩] && t.mem = mems.mem) = true ∧
    (after (exec (.st .d 4 5 0) mems) fun t => t.mem = mems.mem && t.posted = []) = true := by decide

/-- The loads reach each kind of page. -/
theorem wit_LoadResults :
    (reaches mems needLoad (.any 2) 2 (eaOf mems 1 0) 0x4000 (page 0x4000 0) mems.me.tlb mems ∧
      windowOf 0x4000 = .hbm ∧ (page 0x4000 0).mtype = 0 ∧ latest mems mems.me.pts 0x4000) ∧
    (reaches mems needLoad (.any 8) 8 (eaOf mems 2 0) 0x5000 { page 0x5000 1 with va := 0x21000 } mems.me.tlb mems ∧
      latest mems (mems.homeClock (pkgOf 0x5000)) 0x5000) ∧
    (reaches mems needLoad (.any 1) 1 (eaOf mems 3 0) 0x10000F00000 { page 0x10000F00000 1 with va := 0x22000 } mems.me.tlb mems ∧
      windowOf 0x10000F00000 = .crown) ∧
    (reaches mems needLoad (.any 8) 8 (eaOf mems 4 0) 0x02000000000 { page 0x02000000000 0 with va := 0x23000 } mems.me.tlb mems ∧
      windowOf 0x02000000000 = .unbacked) := by
  unfold reaches latest; decide

theorem wit_StoreResults :
    (reaches mems needStore (.any 2) 2 (eaOf mems 1 0) 0x4000 (page 0x4000 0) mems.me.tlb mems ∧
      max mems.me.pts ((mems.line (lineOf 0x4000)).rts + 1) ≤ 0xFFFFFF) ∧
    (reaches mems needStore (.any 8) 8 (eaOf mems 2 0) 0x5000 { page 0x5000 1 with va := 0x21000 } mems.me.tlb mems ∧
      max (mems.homeClock (pkgOf 0x5000)) ((mems.line (lineOf 0x5000)).rts + 1) ≤ 0xFFFFFF) ∧
    reaches mems needStore (.any 1) 1 (eaOf mems 3 0) 0x10000F00000 { page 0x10000F00000 1 with va := 0x22000 } mems.me.tlb mems ∧
    reaches mems needStore (.any 8) 8 (eaOf mems 4 0) 0x02000000000 { page 0x02000000000 0 with va := 0x23000 } mems.me.tlb mems := by
  unfold reaches; decide

/-- Not canonical; misaligned; a page not present, a store to a page type that LDL refuses. -/
theorem wit_MemoryAddressTraps :
    let trapOf (i : Instr) (code : Nat) : Bool := after (exec i mems) fun t => t.me.code = code
    canonical (eaOf mems 6 0).toNat = false ∧ canonical (eaOf mems 7 0).toNat = true ∧ (eaOf mems 7 0).toNat % 2 ≠ 0 ∧
    mems.translate mems.coreCtx mems.me.tlb 256 needBoth (mems.typeCheck .coherent true) (eaOf mems 2 0).toNat = .fault .permission 1 ∧
    trapOf (.ld .h false 9 6 0) 4 = true ∧ trapOf (.st .h 6 5 0) 4 = true ∧ trapOf (.st .h 7 5 0) 3 = true ∧
    trapOf (.ldl .w 9 2 0) 5 = true ∧ trapOf (.amo .add true 9 7 5 0) 3 = true ∧ trapOf (.cas true 9 3 5 6 0) 5 = true ∧
    trapOf (.cntrd 9 7) 3 = true ∧ trapOf (.cntwait 9 6 5) 4 = true ∧ trapOf (.cntadd 9 2 5) 5 = true ∧
    trapOf (.cntnote 9 2 5 0) 5 = true ∧ trapOf (.ld .d false 9 0 0) 4 = true := by decide

theorem test_atomics :
    (after (exec (.amo .add true 9 2 5 0) mems) fun t => t.me.get 9 = 7 && t.mem.readLe 0x5000 8 = 0x112233445566778F && t.me.pts = 0) = true ∧
    (after (exec (.amo .minS false 9 1 5 0) mems) fun t => t.me.get 9 = 0xFF80 && t.mem.readLe 0x4000 4 = 0xFF80) = true ∧
    (after (exec (.amo .swap false 9 1 5 0) mems) fun t => t.mem.readLe 0x4000 8 = 0x55667788 && t.me.pts = 1) = true ∧
    (after (exec (.cas true 9 2 5 3 0) (memState [0, 0x21000, 7, 0, 9])) fun t => t.me.get 9 = 7 && t.mem.readLe 0x5000 8 = 9) = true ∧
    (after (exec (.cas true 9 2 5 4 0) (memState [0, 0x21000, 7, 0, 9])) fun t => t.me.get 9 = 7 && t.mem.readLe 0x5000 8 = 7) = true ∧
    (after (exec (.ldl .b 9 1 0x80) mems) fun t => t.me.get 9 = 5 && t.mem.readLe 0x4080 1 = 3 && t.me.pts = 257) = true := by decide

/-- FADD of 1.0 to 1.0 in a 4-byte word (R160, R258). -/
theorem test_fadd :
    (after (exec (.amo .fadd false 9 2 5 0) { memState [0, 0x21000, 0, 0, 0x3F800000] with mem := [(0x5002, 0x80), (0x5003, 0x3F)] }) fun t =>
      t.me.get 9 = 0x3F800000 && t.mem.readLe 0x5000 4 = 0x40000000) = true := by decide

theorem wit_AtomicsAndLastUse :
    (reaches mems needBoth .atomic 8 (eaOf mems 2 0) 0x5000 { page 0x5000 1 with va := 0x21000 } mems.me.tlb mems ∧
      windowOf 0x5000 = .hbm) ∧
    (reaches mems needBoth .atomic 4 (eaOf mems 1 0) 0x4000 (page 0x4000 0) mems.me.tlb mems ∧
      max mems.me.pts ((mems.line (lineOf 0x4000)).rts + 1) ≤ 0xFFFFFF) ∧
    (reaches mems needBoth .coherent 1 (eaOf mems 1 0x80) 0x4080 (page 0x4000 0) mems.me.tlb mems ∧
      latest mems mems.me.pts 0x4080) := by
  unfold reaches latest; decide

/-- One whole line of the range, and two lines touched: a DISCARD of 128 bytes, a CRWB of 129. -/
theorem wit_RangeInstructions :
    let s := memState [0x20080, 128, 0x20000, 129, 0x100000000000000]
    (s.me.get 0).toNat = 0 ∧ (s.me.get 2).toNat ≠ 0 ∧ canonical (eaOf s 5 0).toNat = false ∧
    canonical (eaOf s 1 0).toNat = true ∧ windowOf 0x4080 = .hbm ∧
    s.translate s.coreCtx s.me.tlb 256 needLoad (s.rangeCheck false 129) (eaOf s 3 0).toNat = .ok 0x4000 (page 0x4000 0) s.me.tlb s ∧
    s.translate s.coreCtx s.me.tlb 256 needStore (s.rangeCheck true 128) (eaOf s 1 0).toNat = .ok 0x4080 (page 0x4000 0) s.me.tlb s ∧
    s.me.pts ≤ 0xFFFFFF ∧ (∀ l, l < 200 → (s.line l).rts < 0xFFFFFF) ∧
    (after (exec (.discard 1 2 0) s) fun t => t.mem = [(0x4000, 0x80), (0x4001, 0xFF), (0x4080, 3), (0x5000, 7)]) = true ∧
    (after (exec (.crwb 3 4 0) { s with lines := [(129, { LineInfo.reset with st := .m, owner := 0 })] }) fun t =>
      t.hbm = [(0x4080, 5)] && t.mem = s.mem) = true ∧
    (after (exec (.pref 3 4 0) s) fun t => t.mem = s.mem && t.me.pc = 8) = true ∧
    (after (exec (.discard 5 2 0) s) fun t => t.me.code = 4) = true := by decide

theorem wit_RangeInstructions_clocks : ∀ l, (mems.line l).rts < 0xFFFFFF := fun _ => by
  show (0 : Nat) < 0xFFFFFF
  decide

/-! ## Leaf stores -/

/-- Cluster 0 with leaf line 0 FULL at clock 40, holding 0x55 at byte 1. -/
def leafs (g : List Word) : State :=
  { coreIs { regsAre g with task := .chan 3 } with
    clusters := [(0, { Cluster.reset with leaf := [(1, 0x55)], lines := [(0, ⟨true, 40, false⟩)] })] }

theorem test_leaf :
    (after (exec (.lld .h 9 0 0) (leafs [])) fun t => t.me.get 9 = 0x5500 && t.me.pts = 40) = true ∧
    (after (exec (.lst .w 0 1 0x80) (leafs [0x11223344])) fun t => (t.cluster 0).leaf.readLe 0x80 4 = 0 &&
      after (exec (.twigSwitchWrite 0) t) fun u => (u.cluster 0).leaf.readLe 0x80 4 = 0x11223344 && ((u.cluster 0).line 1).full) = true ∧
    (after (exec (.lld .h 9 0 0x80) (leafs [])) fun t => t.me.task = .none && (t.me.chan 3).deferred.isSome && t.me.pts = 0) = true := by
  decide

theorem wit_LeafAccessAndFence :
    let s := leafs [0x400000, 0x3FFFFF]
    2 ^ 22 ≤ (eaOf s 1 0).toNat ∧ (eaOf s 2 0).toNat < 2 ^ 22 ∧ (eaOf s 2 0).toNat % 2 ≠ 0 ∧ (eaOf s 2 0).toNat % 1 = 0 ∧
    ((s.cluster 0).line 0).full = true ∧ ((s.cluster 0).line 1).full = false ∧ s.me.task = .chan 3 ∧
    (after (exec (.lld .b 9 1 0) s) fun t => t.me.code = 12) = true ∧
    (after (exec (.lst .h 2 1 0) s) fun t => t.me.code = 3) = true ∧
    (after (exec (.lst .w 0 2 0x80) s) fun t => t.twig.length = 1 &&
      after (exec .fenceLeaf t) fun u => u.twig = [] && (u.cluster 0).leaf.readLe 0x80 4 = 0x3FFFFF) = true ∧
    (let p : Posted := ⟨0x100000, 0x10000F00000, [0x88, 0x77]⟩
     let q := { mems with posted := [p, { p with agent := 1 }] }
     q.scratchBacked p.pa = true ∧
     (after (exec .lfence q) fun t => t.posted = [{ p with agent := 1 }]) = true ∧
     (after (exec (.scratchWriteArrival 0) q) fun t => t.posted.length = 1 && t.scratch.readLe p.pa 2 = 0x7788) = true) := by decide

/-- A core whose g1 names a page of tower 0's device window, g2 a datum. -/
def device (o v : Nat) (priv : Bool) : State :=
  let s := coreIs { regsAre [0x20000, BitVec.ofNat 64 v] with priv := priv, tlb := [page (0x20000000000 + o) 2] }
  { s with
    regs := { s.regs with jobdesc := 0x6000, route := [(0, 7)] }
    celog := [⟨0, 0, 0, 0, 0, 5⟩, ⟨0, 0, 0, 0, 0, 6⟩] }

/-- LD and ST of JOBDESC, ROUTE, PWRCAP, CELOG and an offset without a register, privileged or not. -/
theorem wit_deviceRegisters :
    (reaches (device 0x1000 0x8000 true) needLoad (.any 8) 8 (eaOf (device 0x1000 0x8000 true) 1 0x18) 0x20000001018 (page 0x20000001000 2)
      (device 0x1000 0x8000 true).me.tlb (device 0x1000 0x8000 true) ∧
      reaches (device 0x1000 0x8000 true) needStore (.any 8) 8 (eaOf (device 0x1000 0x8000 true) 1 0x18) 0x20000001018 (page 0x20000001000 2)
        (device 0x1000 0x8000 true).me.tlb (device 0x1000 0x8000 true) ∧
      windowOf 0x20000001018 = .device ∧ offOf 0x20000001018 - 0x20000000000 = 0x1018) ∧
    reg (exec (.ld .d false 9 1 0x18) (device 0x1000 0 false)) 9 = some 0x6000 ∧
    reg (exec (.ld .d false 9 1 0) (device 0x3000 0 false)) 9 = some 7 ∧
    reg (exec (.ld .w false 9 1 0x10) (device 0x10000 0 true)) 9 = some 2400 ∧
    reg (exec (.ld .d false 9 1 0x10) (device 0x10000 0 false)) 9 = some 0 ∧
    reg (exec (.ld .d false 9 1 0) (device 0x5000 0 true)) 9 = some 0 ∧
    (after (exec (.ld .d false 9 1 8) (device 0x10000 0 true)) fun t => t.celog.length = 1 && t.me.get 9 ≠ 0) = true ∧
    (after (exec (.st .d 1 2 0x18) (device 0x1000 0x8000 false)) fun t => t.regs.jobdesc = 0x8000) = true ∧
    (after (exec (.st .d 1 2 0x18) (device 0x1000 0x8001 false)) fun t => t.regs.jobdesc = 0x6000) = true ∧
    (after (exec (.st .w 1 2 0) (device 0x3000 9 true)) fun t => t.regs.route = [(0, 7)]) = true ∧
    (after (exec (.st .d 1 2 0) (device 0x3000 9 true)) fun t => t.regs.route.getD 0 0 = 9) = true ∧
    (after (exec (.st .d 1 2 0x10) (device 0x10000 600 true)) fun t => t.regs.pwrcap = 600) = true ∧
    (after (exec (.st .d 1 2 0x10) (device 0x10000 600 false)) fun t => t.regs.pwrcap = 2400) = true := by
  unfold reaches; decide

/-! ## Ports, buffers, tiles, accumulators -/

/-- An MU.BUF frame: column, buffer, PROD, CONS, slots from FIRST (R218). -/
def muBufFrame (col b prod cons slots first : Nat) : Frame :=
  BitVec.ofNat 256 (2 ^ 253 + col * 2 ^ 249 + b * 2 ^ 240 + prod * 2 ^ 236 + cons * 2 ^ 233 + slots * 2 ^ 217 + first * 2 ^ 211)

/-- Launch 1 of job 5: one stage in a pinned band of one row at the origin of tower 0, with these image frames. -/
def oneRow (frames : List Frame) : Launch :=
  let l := { newLaunch 1 5 [BitVec.ofNat 64 (2 ^ 51 + 2 ^ 39)] (some 0) false 3 0 with st := .running, images := [frames] }
  { l with band := some (l.bandAt ⟨0, 0, 0, 0⟩) }

def jobZero : Job := jobOf []

/-- The clusters of that row, configured, the first as given. -/
def rowOf (c : Cluster) : Table Cluster :=
  let mine (c : Cluster) : Cluster := { c with launch := some (5, 1), done := true }
  [(0, mine c), (1, mine .reset), (2, mine .reset), (3, mine .reset)]

def runs (core : Core) (frames : List Frame) (c : Cluster) : State :=
  { coreIs core with launches := [oneRow frames], clusters := rowOf c, jobs := [(5, jobZero)] }

/-- Tiles of one line at lines 0, 1, …, in these states, the first READY with TCLK 9. -/
def tilesIn (l : List TileSt) : Table Tile :=
  l.zipIdx.map fun (st, k) => (k, ⟨st, 9, false, false, 0, 128, 1, 1, k, false⟩)

/-- Buffer 0 of cluster 0 as a source port, buffer 1 as a sink port, of two slots each. -/
def ports (st : List TileSt) : State :=
  runs { memCore [0x20000, 0xA1B2C3D4] with task := .chan 3 } [muBufFrame 0 0 0 1 2 0, muBufFrame 0 1 1 0 2 2]
    { Cluster.reset with
      cfg := [(entryKey 1 0 0 0, muBufFrame 0 0 0 1 2 0), (entryKey 1 0 0 1, muBufFrame 0 1 1 0 2 2)]
      bufs := [(0, { Buf.reset with slots := 2 }), (1, { Buf.reset with slots := 2, first := 2 })]
      tiles := tilesIn st
      leaf := [(256, 0x77)] }

def portsMem (st : List TileSt) : State := { ports st with mem := [(0x4000, 0x80), (0x407F, 0xEE)] }

theorem test_streams :
    (after (exec (.sconst 9 2 0) (ports [.empty, .empty])) fun t => t.me.get 9 = 128 && (t.cluster 0).leaf.readLe 0 8 = 0xA1B2C3D4A1B2C3D4 &&
      (t.cluster 0).leaf.readLe 124 4 = 0xA1B2C3D4 && ((t.cluster 0).tile 0).st = .ready) = true ∧
    (after (exec (.sin 9 1 0) (portsMem [.empty, .empty])) fun t => t.me.get 9 = 128 && (t.cluster 0).leaf = [(0, 0x80), (127, 0xEE), (256, 0x77)]) = true ∧
    (after (exec (.sout 9 1 1) (ports [.empty, .empty, .ready, .empty])) fun t => t.me.get 9 = 128 && t.mem = [(0x4000, 0x77)] &&
      t.me.pts = 9 && ((t.cluster 0).tile 2).st = .empty) = true ∧
    (after (exec (.seos 9 0) (ports [.ready, .empty])) fun t => (t.cluster 0).mu.cuts = [(1, true)] &&
      reg (exec (.sin 8 1 0) t) 8 = some 0xFFFFFFFFFFFFFFFD) = true ∧
    (after (exec (.smark 9 0) (ports [.ready, .ready])) fun t => (t.cluster 0).mu.cuts = [(2, false)]) = true ∧
    results (ports [.ready, .empty, .ready, .ready]) [(.pstat .src 9 0, 2 ^ 63 + 1), (.pstat .sink 9 1, 2 ^ 63 + 2), (.pstat .src 9 1, 2),
      (.pstat .src 9 4, 0)] = true := by decide

theorem wit_WholeSlots :
    let s := portsMem [.empty, .empty, .ready, .empty]
    s.binding 0 0 .src = .bound ∧ ((s.cluster 0).port 0).seos = false ∧ ((s.cluster 0).buf 0).slots ≠ 0 ∧
    ((s.cluster 0).tile 0).st = .empty ∧ ((s.cluster 0).tile 0).base + ((s.cluster 0).tile 0).lcount ≤ 2048 ∧
    s.checkLines needLoad (lineVas (s.me.get 1) 1) = .ok [(0x4000, page 0x4000 0)] s ∧
    (((ports [.ready]).cluster 0).tile 0).st ≠ .empty ∧ reg (exec (.sin 9 1 0) (ports [.ready])) 9 = some 0 ∧
    s.binding 0 1 .sink = .bound ∧ ((s.cluster 0).tile 2).st = .ready ∧
    s.checkLines needStore (lineVas (s.me.get 1) 1) = .ok [(0x4000, page 0x4000 0)] s ∧
    (((s.myDrain 0).setMe (s.me.raise 9)).storeTarget (page 0x4000 0) 0x4000 (((s.cluster 0).leaf.readN 256 128).take 128)).isSome = true ∧
    (((ports []).cluster 0).tile 2).st ≠ .ready ∧ reg (exec (.sout 9 1 1) (ports [])) 9 = some 0 := by decide

/-- A second line still to be read or stored; the last line of a SIN and of a SOUT. -/
theorem wit_WholeSlots_bursts :
    let s := portsMem [.empty, .empty, .ready, .empty]
    let pa : Nat × Xlate := (0x4000, page 0x4000 0)
    let sin := s.setMe { s.me with burst := some ⟨.sin 9 1 0, [pa], [], 0, 0⟩ }
    let two := s.setMe { s.me with burst := some ⟨.sin 9 1 0, [pa, pa], [], 0, 0⟩ }
    let out := s.setMe { s.me with burst := some ⟨.sout 9 1 1, [pa], (s.cluster 0).leaf.readN 256 128, 2, 0⟩ }
    windowOf 0x4000 = .hbm ∧ sin.binding 0 0 .src = .bound ∧ sin.me.burst.isSome = true ∧
    (after (exec (.sin 9 1 0) sin) fun t => t.me.burst = none && ((t.cluster 0).tile 0).st = .ready && t.me.get 9 = 128) = true ∧
    (after (exec (.sin 9 1 0) two) fun t => t.me.burst.any (fun b => b.lines.length = 1 && b.data.length = 128) && t.me.pc = 0) = true ∧
    out.binding 0 1 .sink = .bound ∧ ((s.cluster 0).leaf.readN 256 128).length = 128 ∧
    (out.storeTarget (page 0x4000 0) 0x4000 ((((s.cluster 0).leaf.readN 256 128).drop 0).take 128)).isSome = true ∧
    (after (exec (.sout 9 1 1) out) fun t => t.me.burst = none && ((t.cluster 0).tile 2).st = .empty && t.mem = [(0x4000, 0x77)]) = true := by
  decide

/-- The slot bound at the start is FILLING, or read by another, by the last line. -/
theorem wit_WholeSlots_lost :
    let pa : Nat × Xlate := (0x4000, page 0x4000 0)
    let s := portsMem [.filling, .empty, .draining, .ready]
    let sin := s.setMe { s.me with burst := some ⟨.sin 9 1 0, [pa], [], 0, 0⟩ }
    let out := s.setMe { s.me with burst := some ⟨.sout 9 1 1, [pa], List.replicate 128 1, 2, 0⟩ }
    ((sin.cluster 0).tile 0).st ≠ .empty ∧ ((out.cluster 0).tile 2).st ≠ .ready ∧
    (out.storeTarget (page 0x4000 0) 0x4000 (((List.replicate 128 1).drop 0).take 128)).isSome = true ∧
    (after (exec (.sin 9 1 0) sin) fun t => t.me.burst = none && (t.cluster 0).tiles = (s.cluster 0).tiles && t.me.get 9 = 128) = true ∧
    (after (exec (.sout 9 1 1) out) fun t => t.me.burst = none && (t.cluster 0).bufs = (s.cluster 0).bufs && t.me.get 9 = 128) = true := by
  decide

theorem wit_StreamPorts :
    let s := ports [.ready]
    s.binding 0 0 .src = .bound ∧ s.binding 0 1 .src = .unbound ∧ ((s.cluster 0).port 0).seos = false ∧
    (after (exec (.seos 0 0) s) fun t => (((t.cluster 0).port 0).seos)) = true ∧
    (let l := oneRow [muBufFrame 0 0 0 1 2 0]
     ({ State.reset with launches := [{ l with band := l.band.map fun b => { b with context := some [] } }] } : State).binding 0 0 .src = .suspended) ∧
    (s.cluster 0).mu.reading = false := by decide

theorem wit_PortState : ((ports [.ready]).cluster 0).readyRun (((ports [.ready]).cluster 0).buf 0) = 1 ∧
    ((ports [.ready]).cluster 0).runOf .empty (((ports [.ready]).cluster 0).buf 0).pSlot 2 0 = 0 := by decide

/-- A cluster outside every launch whose buffer 0 has two slots. -/
def freeBuf (g : List Word) (st : List TileSt) : State :=
  { coreIs { regsAre g with task := .chan 3 } with
    clusters := [(0, { Cluster.reset with bufs := [(0, { Buf.reset with slots := 2 })], tiles := tilesIn st })] }

theorem test_buffers :
    (after (exec (.badvp 9 0 16) (freeBuf [] [.empty, .empty])) fun t => t.me.get 9 = 2 && ((t.cluster 0).tile 1).st = .ready &&
      ((t.cluster 0).buf 0).pidx = 2) = true ∧
    (after (exec (.badvc 9 0 1) (freeBuf [] [.ready, .ready])) fun t => t.me.get 9 = 1 && t.me.pts = 9 && ((t.cluster 0).tile 0).st = .empty &&
      ((t.cluster 0).tile 1).st = .ready) = true ∧
    (after (exec (.bwaitf 9 0 16) (freeBuf [] [.ready, .empty])) fun t => t.me.task = .none && (t.me.chan 3).deferred.isSome) = true ∧
    results (freeBuf [] [.ready, .empty]) [(.bwaitf 9 0 1, 1), (.bwaite 9 0 0, 0), (.bnote .f 9 0 5 1, 1), (.bnote .f 9 0 5 2, 0)] = true ∧
    (after (exec (.bnote .f 9 0 5 1) (freeBuf [] [.ready, .empty])) fun t => t.mail = [⟨.buffer 0 0, 0, 5, ⟨0x10000, 0⟩⟩]) = true ∧
    (after (exec (.bnote .e 9 0 5 3) (freeBuf [] [.ready, .empty])) fun t => ((t.cluster 0).buf 0).noteE = some ⟨0, 5, 2⟩) = true := by decide

/-- Descriptors: two slots from 0; FIRST + SLOTS over 64; SLOTS of 17; a tile of no lines; a buffer of the image. -/
theorem wit_BufferInstructions :
    let s := freeBuf [2 * 64, 2 * 64 + 63, 17 * 64, 64 + 2, 2 ^ 32 + 64, 2 ^ 21 + 64, 2 ^ 11] [.draining, .ready]
    results s [(.binit 9 1 0, 0), (.binit 9 2 0, 1), (.binit 9 3 0, 1), (.binit 9 4 0, 1), (.binit 9 5 0, 1), (.binit 9 6 0, 1), (.binit 9 7 0, 1)] = true ∧
    s.imageBuf 0 0 = false ∧ (ports [.empty, .empty]).imageBuf 0 0 = true ∧
    reg (exec (.binit 9 0 0) (ports [.empty, .empty])) 9 = some 2 ∧
    (after (exec (.binit 9 1 0) s) fun t => ((t.cluster 0).tile 0).st = .empty && ((t.cluster 0).tile 0).tclk = 0 && ((t.cluster 0).buf 0).slots = 2) = true ∧
    ((s.cluster 0).buf 0).slots ≠ 0 ∧ s.me.task = .chan 3 := by decide

/-- Tile 12 of position 3: base 2047 and one line, the most that fits; one line more; a busy tile. -/
theorem wit_TileEntries :
    let s := freeBuf [2 ^ 11 + 2047, 128 * 2 ^ 13, 2 * 2 ^ 11 + 2047, 0, 2 ^ 11, 129 * 2 ^ 13, 1] [.filling]
    results s [(.tset 9 1 2 12 3, 0), (.tset 9 3 2 12 3, 1), (.tset 9 4 2 12 3, 1), (.tset 9 5 6 12 3, 1), (.tset 9 5 7 12 3, 1), (.tset 9 5 2 0 0, 2)] = true ∧
    ((s.cluster (clusterAt 0 0)).tile 0).st = .filling ∧ ((s.cluster (clusterAt 0 3)).tile 12).st = .empty ∧
    (after (exec (.tset 9 1 2 12 3) s) fun t => reg (exec (.tstat false 8 12 3) t) 8 = some 0xFFF && reg (exec (.tstat true 8 12 3) t) 8 = some 0x100000) = true := by
  decide

/-- Bank 1 of position 0: 2.5 at row 63, columns 62 and 63. -/
def accs (drain : Option Drain) : State :=
  { coreIs (regsAre [63 + 31 * 64]) with
    clusters := [(0, { Cluster.reset with arr := { Arr.reset with acc := [(4096 + 64 * 63 + 62, 0x40200000), (4096 + 64 * 63 + 63, 7)], touched := [(1, 2 ^ 63)], drain := drain } })] }

theorem test_accumulators :
    reg (exec (.aread false 9 1 1) (accs none)) 9 = some 0x740200000 ∧
    reg (exec (.astat false 9 1) (accs none)) 9 = some 0x8000000000000000 ∧
    reg (exec (.astat true 9 1) (accs (some ⟨1, []⟩))) 9 = some 0x10000 ∧
    reg (exec (.aread true 9 1 1) (accs none)) 9 ≠ none ∧
    (after (exec (.aclr 1) (accs none)) fun t => (t.cluster 0).arr.elem 1 63 62 = 0 && (t.cluster 0).arr.touchBits 1 = 0) = true := by decide

theorem wit_AccumulatorWords : ((accs none).cluster 0).arr.draining 1 = false ∧
    ((accs (some ⟨1, []⟩)).cluster 0).arr.draining 1 = true ∧ ((accs none).cluster 0).ctCfg.isSome = false ∧
    ({ Cluster.reset with cfg := [(entryKey 0 4 0 0, (0 : Frame))] } : Cluster).ctCfg.isSome = true := by decide

/-! ## Copy jobs, counters, launches, rows, tasks -/

/-- A card at 0x4000 with KIND 1 and handle bits all zero; its low half written out. -/
def cards (slots : Table CopyJob) (g : List Word) : State :=
  { memState g with
    mem := [(0x4000, 0x11), (0x403B, 7)]
    engines := [(0, { Engine.reset with slots := slots, maxFinal := 77, failures := 3 })]
    cores := [(0, { memCore g with task := .chan 3 })] }

def fullSlots : Table CopyJob := (List.range 64).map fun k => (k, { CopyJob.reset with st := .running })

theorem test_copyJobs :
    (after (exec (.xjob 9 1) (cards [(0, { CopyJob.reset with st := .running })] [0x20000])) fun t => t.me.get 9 = 1 &&
      (t.copyJob 0 1).st = .waiting && (t.copyJob 0 1).card = 0x11 + 7 * 2 ^ 472) = true ∧
    (after (exec (.pjob 9 1) (cards [] [0x20000])) fun t => t.me.get 9 = 0 && (t.copyJob 1 0).st = .waiting) = true ∧
    reg (exec (.xjob 9 1) (cards fullSlots [0x20000])) 9 = some 0xFFFFFFFFFFFFFFFF ∧
    reg (exec (.jstat .x 9 2) (cards [(2, { CopyJob.reset with st := .stopped, progress := 5, status := 32 })] [])) 9 = some 0x500002003 ∧
    (after (exec (.jwait .x false 9 2) (cards [(2, { CopyJob.reset with final := 50, status := 9 })] [])) fun t => t.me.get 9 = 9 && t.me.pts = 50) = true ∧
    (after (exec (.jwait .x true 9 0) (cards [] [])) fun t => t.me.get 9 = 3 && t.me.pts = 77 && (t.engine 0).failures = 0) = true := by decide

theorem wit_CopyJobInstructions :
    let s := cards [(0, { CopyJob.reset with st := .running })] [0x20000, 0x20020]
    (s.me.get 2).toNat % 64 ≠ 0 ∧ (s.me.get 1).toNat % 64 = 0 ∧
    (canonical (s.me.get 1).toNat = true ∧ (s.me.get 1).toNat % 8 = 0 ∧
      s.translate s.coreCtx s.me.tlb 256 needLoad (s.typeCheck (.any 8) true) (s.me.get 1).toNat = .ok 0x4000 (page 0x4000 0) s.me.tlb s) ∧
    (s.copyJob 0 1).st = .free ∧ (∀ j, j < 1 → (s.copyJob 0 j).st ≠ .free) ∧ ((s.line (lineOf 0x4000)).choices s.me.pts = []) ∧
    (∀ k, k < 64 → ((cards fullSlots []).copyJob 0 k).st ≠ .free) ∧ (s.copyJob 0 0).st ≠ .free ∧
    (∃ p ∈ (s.engine 0).slots, p.2.st ≠ .free) ∧ (∀ p ∈ (s.engine 1).slots, p.2.st = .free) ∧
    (after (exec (.xjob 9 2) s) fun t => t.me.code = 3) = true := by decide

/-- A counter of 5 at 0x4080, with a last store at clock 12. -/
def counters (g : List Word) (watches : List Watch) : State :=
  { memState g with
    lines := [(129, { LineInfo.reset with wts := 12, rts := 12 })]
    cores := [(0, { memCore g with task := .chan 3, watches := watches })] }

theorem test_counters :
    (after (exec (.cntrd 9 1) (counters [0x20080] [])) fun t => t.me.get 9 = 5 && t.me.pts = 12) = true ∧
    (after (exec (.cntwait 9 1 2) (counters [0x20080, 5] [])) fun t => t.me.get 9 = 5 && t.me.pc = 8) = true ∧
    (after (exec (.cntwait 9 1 2) (counters [0x20080, 6] [])) fun t => t.me.task = .none && (t.me.chan 3).deferred.isSome && t.me.pts = 0) = true ∧
    (after (exec (.cntadd 9 1 2) (counters [0x20080, 6] [])) fun t => t.me.get 9 = 5 && t.mem.readLe 0x4080 8 = 11 && t.me.pts = 13) = true ∧
    (after (exec (.cntnote 9 1 2 7) (counters [0x20080, 5] [])) fun t => t.me.get 9 = 1 && t.mail = [⟨.home 0, 0, 7, ⟨5, 12⟩⟩]) = true ∧
    (after (exec (.cntnote 9 1 2 7) (counters [0x20080, 6] [])) fun t => t.me.get 9 = 0 && t.me.watches = [⟨0xFFFF, 0x4080, 6, 7⟩]) = true ∧
    (after (exec (.cntnote 9 1 2 7) (counters [0x20080, 6] (List.replicate 16 ⟨1, 0, 0, 0⟩))) fun t => t.me.get 9 = 2) = true := by decide

theorem wit_CompletionCounters :
    let s := counters [0x20080, 5, 6] []
    windowOf 0x4080 = .hbm ∧ reaches s needLoad .counter 8 (s.me.get 1) 0x4080 (page 0x4000 0) s.me.tlb s ∧
    reaches s needBoth .counter 8 (s.me.get 1) 0x4080 (page 0x4000 0) s.me.tlb s ∧
    (s.me.get 2).toNat ≤ s.mem.readLe 0x4080 8 ∧ s.mem.readLe 0x4080 8 < (s.me.get 3).toNat ∧ s.me.watches.length < 16 ∧
    max s.me.pts ((s.line (lineOf 0x4080)).rts + 1) ≤ 0xFFFFFF := by
  unfold reaches; decide

/-- Job 0xFFFF with one template of a band of 4 rows whose PATCH_MASK allows word 2, and room for one launch. -/
def armJob : Job := { jobZero with templates := [[BitVec.ofNat 64 (4 * 2 ^ 51 + 4)]], pooln := 2, reserve := 1, nextId := 7 }

def arming (j : Job) : State := { coreIs { regsAre [0, 1, 0x1234] with pts := 33 } with jobs := [(0xFFFF, j)] }

theorem test_arming :
    (after (exec (.larm false 9 1) (arming armJob)) fun t => t.me.get 9 = 7 && t.launches.length = 1 &&
      (t.launches.map fun l => (l.id, l.start, l.entry)) = [(7, 33, some 0)] && ((t.job 0xFFFF).map (·.nextId)) = some 8) = true ∧
    reg (exec (.larm false 9 2) (arming armJob)) 9 = some 0xFFFFFFFFFFFFFFFF ∧
    (after (exec (.larm false 9 1) (arming armJob)) fun t => reg (exec (.larm false 9 1) t) 9 = some 0xFFFFFFFFFFFFFFFE) = true ∧
    (after (exec (.lpatch 9 1 3 2) (arming { armJob with templates := [List.replicate 16 4] })) fun t => t.me.get 9 = 0 &&
      ((t.job 0xFFFF).map fun j => nth (nth j.templates 0 []) 2 0) = some 0x1234) = true ∧
    results (arming armJob) [(.lpatch 9 1 3 3, 1), (.lpatch 9 2 3 2, 2)] = true ∧
    results (coreIs Core.reset) [(.lpatch 9 1 3 2, 2), (.cancel .job 9 0, 0), (.larm true 9 1, 0xFFFFFFFFFFFFFFFF)] = true := by decide

theorem wit_TemplatesAndArming :
    let s := arming armJob
    (coreIs Core.reset).job 0xFFFF = none ∧ s.job s.me.job = some armJob ∧ armJob.templates[1]? = none ∧
    armJob.templates[0]? = some [BitVec.ofNat 64 (4 * 2 ^ 51 + 4)] ∧
    (nth [BitVec.ofNat 64 (4 * 2 ^ 51 + 4)] 0 (0 : Word)).getLsbD 3 = false ∧
    (nth [BitVec.ofNat 64 (4 * 2 ^ 51 + 4)] 0 (0 : Word)).getLsbD 2 = true ∧
    bits (nth [BitVec.ofNat 64 (4 * 2 ^ 51 + 4)] 0 (0 : Word)) 56 51 ≠ 0 ∧ nth [BitVec.ofNat 64 (4 * 2 ^ 51 + 4)] 6 (0 : Word) = 0 ∧
    s.poolDue 0xFFFF armJob + armJob.reserve < armJob.pooln ∧ s.poolDue 0xFFFF armJob + 0 < armJob.pooln := by decide

/-- Two waiting launches and one that has ended. -/
def cancels : State :=
  let l (id : Nat) (st : LaunchSt) : Launch := { newLaunch id 0xFFFF (List.replicate 16 0) none false 0 id with st := st }
  { coreIs (regsAre [2]) with
    jobs := [(0xFFFF, armJob)], launches := [l 1 .waiting, l 2 .waiting, l 3 .ended, { l 1 .waiting with job := 5 }] }

theorem wit_CancelStopsLaunches :
    (cancels.launches.map fun l => (l.job, l.id)).Nodup ∧ cancels.job cancels.me.job = some armJob ∧
    (cancels.cancel 0xFFFF .launch 2).1 = 1 ∧ (cancels.cancel 0xFFFF .phase 0).1 = 2 ∧
    (cancels.cancel 0xFFFF .job 0).1 = 2 ∧ (cancels.cancel 0xFFFF .graph 2).1 = 0 ∧ cancels.me.burst = none ∧
    (after (exec (.cancel .launch 9 1) cancels) fun t => t.me.burst = some ⟨.cancel .launch 9 1, [], leBytes 8 1, 0, 0⟩ && t.me.pc = 0 &&
      ((t.launch? 0xFFFF 2).map fun l => (l.st, l.cancelled)) = some (.waiting, true) &&
      ((t.launch? 0xFFFF 1).map fun l => (l.st, l.cancelled)) = some (.waiting, false) &&
      gives (exec (.cancel .launch 9 1) t) t) = true ∧
    (let s := { cancels with launches := cancels.launches.map fun l => { l with st := .ended } }
     let t := s.setMe { s.me with burst := some ⟨.cancel .launch 9 1, [], leBytes 8 1, 0, 0⟩ }
     reg (exec (.cancel .launch 9 1) t) 9 = some 1 ∧ reg (exec (.cancel .phase 9 0) s) 9 = some 0) ∧
    reg (exec (.cancel .graph 9 1) cancels) 9 = some 0 ∧ (coreIs Core.reset).job 0xFFFF = none := by decide

/-- Core 0 runs a task of job 5, whose launch 1 is placed on four clusters; g1 names it, g2 no launch. -/
def placed : State := runs { regsAre [1, 2, 0x20000, 0x20010] with job := 5, task := .chan 3 } [] .reset

/-- The same with a hold of row 0. -/
def held (h : Hold) (sc : Bool) : State :=
  { placed with launches := [{ oneRow [] with band := (oneRow []).band.map fun b => { b with holds := [h], scroll := sc } }] }

theorem test_bands :
    results placed [(.band 9 1, 0x2400000), (.band 9 2, 2 ^ 63), (.scrollst 9 1 0, 2), (.scrollst 9 1 1, 2 ^ 63), (.scrollst 9 2 0, 2 ^ 63),
      (.cfgload 9 3 2 0, 0xFFFFFFFFFFFFFFFF), (.cfgload 9 3 1 1, 0xFFFFFFFFFFFFFFFF)] = true ∧
    (after (exec (.cfgload 9 3 1 0) placed) fun t => t.me.task = .none && (t.me.chan 3).deferred.isSome &&
      ((t.live 5 1).bind fun l => l.band.map (·.holds)) = some [⟨0, 3, false, false⟩]) = true ∧
    (after (exec (.cfgload 9 4 1 0) placed) fun t => t.me.code = 3) = true ∧
    (after (exec (.cfgload 9 3 1 0) (held ⟨0, 3, true, true⟩ false)) fun t => t.me.get 9 = 0 && t.me.pc = 8 &&
      ((t.live 5 1).bind fun l => l.band.map (·.holds)) = some []) = true ∧
    results (held ⟨0, 4, true, true⟩ false) [(.cfgload 9 3 1 0, 0xFFFFFFFFFFFFFFFF)] = true := by decide

theorem wit_BandsAndRows :
    placed.live 5 1 = some (oneRow []) ∧ placed.live 5 2 = none ∧
    ((oneRow []).band.map fun b => (b.height, b.width, b.scroll, b.context.isSome, b.depth)) = some (1, 4, false, false, 1) ∧
    (0 : BitVec 6).toNat < 1 ∧ ¬ (1 : BitVec 6).toNat < 1 ∧ (placed.me.get 3).toNat % 32 = 0 ∧ (placed.me.get 4).toNat % 32 ≠ 0 ∧
    (((held ⟨0, 3, true, true⟩ false).live 5 1).bind fun l => l.band.map fun b =>
      (b.holds.find? (·.row = 0), (held ⟨0, 3, true, true⟩ false).configured b 0)) = some (some ⟨0, 3, true, true⟩, true) ∧
    (((held ⟨0, 4, true, true⟩ true).live 5 1).bind fun l => l.band.map (·.scroll)) = some true := by decide

/-- RELATCH with the band above in core 0's address space, in another, and at its end. -/
theorem wit_RelatchCompletes :
    (placed.bandsOf placed.me.asid).length = 1 ∧ placed.me.relatch = none ∧ (coreIs Core.reset).bandsOf 0 = [] ∧
    (placed.launches.map fun l => (l.job, l.id)).Nodup ∧
    (after (exec (.relatch 9) placed) fun t => t.me.relatch = some 1 && t.me.pc = 0 &&
      ((t.live 5 1).bind fun l => l.band.bind (·.relatch)) = some 0) = true ∧
    reg (exec (.relatch 9) (coreIs Core.reset)) 9 = some 0 ∧
    (let s := placed.setMe { placed.me with relatch := some 1 }
     s.relatching s.me.asid = 0 ∧ (after (exec (.relatch 9) s) fun t => t.me.get 9 = 1 && t.me.relatch = none) = true) := by decide

/-- Channel 3 runs a task with two messages queued; g1 a target, g2 an entry, g3 a misaligned one, g4 core 192. -/
def tasks (q : List Msg) (out : List Mail) : State :=
  coreIs { regsAre [5, 0x2000, 0x2004, 192] with
    task := .chan 3, pts := 10, cycle := 100, out := out
    chans := [(3, { Channel.reset with queue := q, deferred := some ⟨0, [], .message, false, false, []⟩ })] }

theorem test_tasks :
    (after (exec .tend (tasks [] [])) fun t => t.me.task = .none && (t.me.chan 3).deferred.isSome) = true ∧
    (after (exec (.hold 9) (tasks [⟨0xAB, 20⟩, ⟨1, 5⟩] [])) fun t => t.me.get 9 = 0xAB && t.me.pts = 20 && (t.me.chan 3).queue = [⟨1, 5⟩]) = true ∧
    (after (exec (.cbind 4 2) (tasks [] [])) fun t => (t.me.chan 4).entry = some 0x2000) = true ∧
    (after (exec (.cbind 3 0) (tasks [] [])) fun t => (t.me.chan 3).entry = none && (t.me.chan 3).deferred = none) = true ∧
    (after (exec (.csend 9 1 2 63) (tasks [] [])) fun t => t.me.get 9 = 0 && t.me.out = [⟨.core 0, 5, 63, ⟨0x2000, 10⟩⟩]) = true ∧
    results (tasks [] (List.replicate 8 ⟨.core 0, 0, 0, ⟨0, 0⟩⟩)) [(.csend 9 1 2 63, 1), (.csend 9 4 2 63, 2)] = true ∧
    (after (exec (.cpri 4 7) (tasks [] [])) fun t => (t.me.chan 4).pri = 7) = true ∧
    (after (exec (.cmask 4 true) (tasks [] [])) fun t => (t.me.chan 4).mask) = true ∧
    (after (exec (.timer 4 1) (tasks [] [])) fun t => (t.me.chan 4).timer = some 105) = true := by decide

theorem wit_TaskInstructions :
    let s := tasks [⟨1, 5⟩] []
    s.me.task = .chan 3 ∧ (s.me.chan 3).queue = [⟨1, 5⟩] ∧ ((tasks [] []).me.chan 3).queue = [] ∧ (s.me.get 3).toNat % 8 ≠ 0 ∧
    (s.me.get 2).toNat % 8 = 0 ∧ s.me.get 2 ≠ 0 ∧ s.me.get 0 = 0 ∧ 192 ≤ (s.me.get 4).toNat % 256 ∧ (s.me.get 1).toNat % 256 < 192 ∧
    s.me.out.length < 8 ∧ 8 ≤ ((tasks [] (List.replicate 8 ⟨.core 0, 0, 0, ⟨0, 0⟩⟩)).me.out).length ∧
    (after (exec (.hold 9) (tasks [] [])) fun t => t.me.task = .none) = true ∧
    (after (exec (.cbind 4 3) s) fun t => t.me.code = 3) = true := by decide

/-- Channels 5 and 9 of priority 2 hold messages, 7 of priority 1; 5 was started last. -/
def picks (mine : Channel) : Core :=
  let ch (p : Nat) : Channel := { Channel.reset with entry := some 0x2000, pri := p, queue := [⟨0xAB, 20⟩] }
  { regsAre [1, 2, 3] with pts := 10, chans := [(5, ch 2), (7, ch 1), (9, mine)], lastAt := [(2, 5)] }

theorem test_starting :
    (picks { Channel.reset with entry := some 0x2000, pri := 2, queue := [⟨0xAB, 20⟩] }).pickChannel = some 9 ∧
    (picks .reset).pickChannel = some 5 ∧
    (after (exec (.taskResume 0) (coreIs (picks { Channel.reset with entry := some 0x2000, pri := 3, deferred := some ⟨0x48, [7, 8], .message, true, false, []⟩ }))) fun t =>
      t.me.task = .chan 9 && t.me.pc = 0x48 && t.me.get 1 = 7 && t.me.get 2 = 8 && (t.me.chan 9).deferred = none && t.me.pts = 10) = true := by
  decide

theorem wit_PickingAndStartingTasks :
    let s := coreIs (picks .reset)
    (s.core 0).pickChannel = some 5 ∧ (s.core 0).task = .none ∧ (s.core 0).halted = false ∧ ((s.core 0).chan 5).deferred = none ∧
    ((s.core 0).chan 5).queue = [⟨0xAB, 20⟩] ∧ ((s.core 0).chan 5).entry = some 0x2000 ∧ Core.reset.pickChannel = none := by decide

theorem wit_messages :
    let s := { tasks [] [⟨.core 0, 0, 3, ⟨7, 9⟩⟩] with mail := [⟨.scheduler, 0, 3, ⟨1, 2⟩⟩] }
    let full := { tasks (List.replicate 8 ⟨0, 0⟩) [⟨.core 0, 0, 3, ⟨7, 9⟩⟩] with mail := [⟨.scheduler, 0, 3, ⟨1, 2⟩⟩] }
    (s.core 0).out = [⟨.core 0, 0, 3, ⟨7, 9⟩⟩] ∧ ((s.core 0).chan 3).queue.length < 8 ∧ s.mail[0]? = some ⟨.scheduler, 0, 3, ⟨1, 2⟩⟩ ∧
    8 ≤ ((full.core 0).chan 3).queue.length ∧
    (after (exec (.channelMessageArrival (.core 0)) s) fun t => (t.me.chan 3).queue = [⟨7, 9⟩] && t.me.out = []) = true ∧
    (after (exec (.channelMessageArrival (.held 0)) s) fun t => (t.me.chan 3).queue = [⟨1, 2⟩] && t.mail = []) = true ∧
    gives (exec (.channelMessageArrival (.core 0)) full) full = true ∧ gives (exec (.channelMessageArrival (.held 0)) full) full = true ∧
    (let c := coreIs { Core.reset with cycle := 5, chans := [(4, { Channel.reset with timer := some 105 })] }
     ((c.core 0).chan 4).timer = some 105 ∧ (c.core 0).halted = false ∧
     (after (exec (.timerExpiry 0 4) c) fun t => t.me.cycle = 105 && t.mail = [⟨.timer 0 4, 0, 4, ⟨105, 0⟩⟩] && (t.me.chan 4).timer = none) = true) := by decide

/-- A held row whose first frame is read; a message behind another of its source; a halted core. -/
theorem wit_RowReplacement_and_order :
    let h := held ⟨0, 3, true, false⟩ false
    let s := h.setMe { h.me with tlb := [page 0x4000 0] }
    s.me.burst = none ∧ (s.me.get 3).toNat % 32 = 0 ∧
    s.translate s.coreCtx s.me.tlb 256 needLoad (s.typeCheck .atomic true) (s.me.get 3).toNat = .ok 0x4000 (page 0x4000 0) s.me.tlb s ∧
    (s.line (lineOf 0x4000)).choices s.me.pts = [] ∧ Frame.layout (BitVec.ofNat 256 (s.mem.readLe 0x4000 32)) ≠ 7 ∧
    (after (exec (.cfgload 9 3 1 0) s) fun t => t.me.burst = some ⟨.cfgload 9 3 1 0, [], List.replicate 32 0, 0, 0⟩ && t.me.pc = 0) = true ∧
    (let e := { s with mem := [(0x401F, 0xE0)] }
     let f := e.setMe { e.me with burst := some ⟨.cfgload 9 3 1 0, [], [], 0, 6⟩ }
     Frame.layout (BitVec.ofNat 256 (e.mem.readLe 0x4000 32)) = 7 ∧ (e.launches.map fun l => (l.job, l.id)).Nodup ∧
     (after (exec (.cfgload 9 3 1 0) f) fun t => t.me.burst = none && t.me.pts = 6 && t.me.pc = 0 &&
       ((t.launch? 5 1).bind fun l => l.band.map fun b => ((b.row 0).image.length, b.holds)) = some (1, [⟨0, 3, true, true⟩])) = true) ∧
    (let w := s.setMe { s.me with tlb := [{ page 0x4000 0 with rd := false }], burst := some ⟨.cfgload 9 3 1 0, [], List.replicate 32 0, 0, 6⟩ }
     w.translate w.coreCtx w.me.tlb 256 needLoad (w.typeCheck .atomic true) 0x20020 = .fault .permission 1 ∧
     (after (exec (.cfgload 9 3 1 0) w) fun t => t.me.code = 5 && t.me.eval = 0x20020 && t.me.pts = 0) = true) ∧
    (let m : Mail := ⟨.home 0, 0, 3, ⟨1, 2⟩⟩
     let q := { tasks [] [⟨.core 0, 0, 3, ⟨7, 9⟩⟩] with mail := [m, m] }
     let still := q.setMe { q.me with halted := true }
     gives (exec (.channelMessageArrival (.held 1)) q) q = true ∧ (still.core 0).halted = true ∧
     gives (exec (.channelMessageArrival (.core 0)) still) still = true) := by decide

/-! ## Cell operations: results by hand from R121 to R204 -/

/-- A slot configuration with n operands from q0 on, its result to q0 of SLOT_B. -/
def cell (n sub fmt : Nat) : SlotCfg :=
  let src (i : Nat) : BitVec 4 := if i < n then BitVec.ofNat 4 i else 0xF
  { slotCfgOf (0 : Frame) with
    sub := BitVec.ofNat 4 sub, fmt := BitVec.ofNat 4 fmt, src0 := src 0, src1 := src 1, src2 := src 2, src3 := src 3, dst := 2 }

/-- Cluster 0 with one slot, freshly configured with an operation, and a token at the head of each of its queues. -/
def slotState (op : Nat) (g : SlotCfg) (ts : List Token) : State :=
  let k := g.unit.toNat
  { State.reset with
    site := (0, k)
    clusters := [(0, { Cluster.reset with
      slots := [(k, freshSlot 0 0 k (slotFrame (BitVec.ofNat 8 op) g))]
      q := ts.zipIdx.map fun (t, i) => (4 * k + i, [t]) })] }

/-- A token whose lane 0 alone is valid. -/
def one (v : Nat) : Token := ⟨0, 3, 1, BitVec.ofNat 512 v⟩

/-- A token of a kind, no lane valid. -/
def bare (kind : Nat) : Token := ⟨kind, 3, 0, 0⟩

/-- A token of lanes, absent ones none. -/
def laneTok (l : List (Option Nat)) : Token := Token.ofLanes 0 3 l

/-- The flags and the tokens that queue 0 of SLOT_B holds after a turn. -/
def sent (o : Out) : Option (Flags × List Token) :=
  match o with
  | .next t => some ((t.cluster 0).flags, (t.cluster 0).queue 4)
  | _ => none

structure LaneRow where
  op : Nat
  ins : SlotCfg → Instr
  sub : Nat
  fmt : Nat
  xs : List Nat
  v : Nat
  f : Flags := 0

/-- Each row: operands in lane 0, the result there, the flags. -/
def laneRows (l : List LaneRow) (tweak : SlotCfg → SlotCfg := id) : Bool :=
  l.all fun r =>
    let g := tweak (cell r.xs.length r.sub r.fmt)
    sent (exec (r.ins g) (slotState r.op g (r.xs.map one))) = some (r.f, [one r.v])

theorem test_cell_int : laneRows
  [⟨0x00, .iadd, 0, 8, [0xFFFFFFFF, 2], 1, 0⟩, ⟨0x00, .iadd, 0, 10, [0x3FCFFBFF, 0x00100401], 0, 0⟩,
   ⟨0x01, .isub, 0, 9, [1, 2], 0xFFFFFFFF, 0⟩, ⟨0x02, .iadds, 0, 8, [0x7FFFFFFF, 1], 0x7FFFFFFF, flagOF⟩,
   ⟨0x02, .iadds, 0, 9, [0xFFFFFFFF, 1], 0xFFFFFFFF, flagOF⟩, ⟨0x03, .imul, 0, 8, [0x10000, 0x10001], 0x10000, 0⟩,
   ⟨0x04, .imulh, 0, 8, [0xFFFFFFFF, 2], 0xFFFFFFFF, 0⟩, ⟨0x04, .imulh, 0, 9, [0xFFFFFFFF, 2], 1, 0⟩,
   ⟨0x05, .imad, 0, 8, [3, 4, 5], 17, 0⟩, ⟨0x06, .ineg, 0, 8, [1], 0xFFFFFFFF, 0⟩, ⟨0x07, .iabs, 0, 8, [0xFFFFFFFE], 2, 0⟩,
   ⟨0x08, .imin, 0, 8, [0xFFFFFFFF, 1], 0xFFFFFFFF, 0⟩, ⟨0x09, .imax, 0, 9, [0xFFFFFFFF, 1], 0xFFFFFFFF, 0⟩,
   ⟨0x0A, .ishl, 0, 8, [1, 33], 2, 0⟩, ⟨0x0B, .ishr, 0, 8, [0x80000000, 31], 0xFFFFFFFF, 0⟩,
   ⟨0x0B, .ishr, 0, 9, [0x80000000, 31], 1, 0⟩, ⟨0x0C, .irol, 0, 9, [0x80000001, 1], 3, 0⟩] = true := by decide

theorem test_cell_bits : laneRows
  [⟨0x0D, .cellAnd, 0, 9, [0xF0F0, 0xFF00], 0xF000, 0⟩, ⟨0x0E, .cellOr, 0, 9, [0xF0F0, 0xFF00], 0xFFF0, 0⟩,
   ⟨0x0F, .cellXor, 0, 9, [0xF0F0, 0xFF00], 0x0FF0, 0⟩, ⟨0x10, .cellAndn, 0, 9, [0xF0F0, 0xFF00], 0x00F0, 0⟩,
   ⟨0x11, .cellPopc, 0, 9, [0xFF], 8, 0⟩, ⟨0x12, .cellClz, 0, 9, [1], 31, 0⟩, ⟨0x13, .cellCtz, 0, 9, [8], 3, 0⟩,
   ⟨0x14, .brev, 0, 9, [1], 0x80000000, 0⟩, ⟨0x15, .bfx, 0, 9, [0xABCD1234, 0xE8], 0x12, 0⟩,
   ⟨0x15, .bfx, 0, 8, [0xABCD1234, 0xF8], 0xFFFFFFAB, 0⟩, ⟨0x16, .bfi, 0, 8, [0xFFFFFFFF, 5, 0x64], 0xFFFFFF5F, 0⟩,
   ⟨0x17, .icmp, 2, 8, [0xFFFFFFFF, 1], 0xFFFFFFFF, 0⟩, ⟨0x17, .icmp, 2, 9, [0xFFFFFFFF, 1], 0, 0⟩] = true := by decide

theorem test_cell_packed : laneRows
  [⟨0x20, .padd, 0, 13, [0xFF01FF01, 0x01010101], 0x00020002, 0⟩, ⟨0x21, .psub, 0, 11, [0x80000001, 0x00010002], 0x7FFFFFFF, 0⟩,
   ⟨0x22, .pmin, 0, 6, [0x80018001, 0x7F7F7F7F], 0x80018001, 0⟩, ⟨0x23, .pmax, 0, 13, [0x80018001, 0x7F7F7F7F], 0x807F807F, 0⟩,
   ⟨0x24, .pmulH, 1, 12, [0xFFFFFFFF, 0xFFFFFFFF], 0xFFFEFFFE, 0⟩, ⟨0x25, .pdot4, 0, 6, [0xFFFFFFFF, 0x01010101, 10], 6, 0⟩,
   ⟨0x26, .pdot2, 0, 12, [0x00040002, 0x00050003, 1], 27, 0⟩] = true ∧
  laneRows [⟨0x20, .padd, 0, 13, [0xFF01FF01, 0x01010101], 0xFF02FF02, flagOF⟩] (fun g => { g with sat := true }) = true := by decide

theorem test_cell_float : laneRows
  [⟨0x30, .fadd, 0, 0, [0x3F800000, 0x40000000], 0x40400000, 0⟩, ⟨0x30, .fadd, 0, 0, [0x7F800000, 0xFF800000], 0x7FC00000, flagNV⟩,
   ⟨0x31, .fsub, 0, 0, [0x3F800000, 0x40000000], 0xBF800000, 0⟩, ⟨0x32, .fmul, 0, 0, [0x40400000, 0x40000000], 0x40C00000, 0⟩,
   ⟨0x33, .ffma, 0, 0, [0x40000000, 0x40400000, 0x3F800000], 0x40E00000, 0⟩,
   ⟨0x34, .ffms, 0, 0, [0x40000000, 0x40400000, 0x3F800000], 0x40A00000, 0⟩,
   ⟨0x35, .fnma, 0, 0, [0x40000000, 0x40400000, 0x3F800000], 0xC0A00000, 0⟩,
   ⟨0x36, .ftriad, 0, 0, [0x40000000, 0x40000000, 0x40000000, 0x3F800000], 0x41100000, 0⟩,
   ⟨0x37, .fmin, 0, 0, [0x3F800000, 0x7FC00000], 0x3F800000, 0⟩, ⟨0x38, .fmax, 0, 0, [0x3F800000, 0x40000000], 0x40000000, 0⟩,
   ⟨0x39, .fminp, 0, 0, [0x3F800000, 0x7FC00000], 0x7FC00000, 0⟩, ⟨0x3A, .fmaxp, 0, 0, [0x3F800000, 0x7F800001], 0x7FC00000, flagNV⟩,
   ⟨0x3B, .fabs, 0, 0, [0xBF800000], 0x3F800000, 0⟩, ⟨0x3C, .fneg, 0, 0, [0x3F800000], 0xBF800000, 0⟩,
   ⟨0x3D, .fsgn, 0, 0, [0x3F800000, 0x80000000], 0xBF800000, 0⟩, ⟨0x3E, .fcmp, 2, 0, [0x3F800000, 0x40000000], 0xFFFFFFFF, 0⟩,
   ⟨0x3E, .fcmp, 2, 0, [0x3F800000, 0x7FC00000], 0, flagNV⟩, ⟨0x3F, .fclass, 0, 0, [0x3F800000], 64, 0⟩] = true := by decide

theorem test_cell_special : laneRows
  [⟨0x40, .frcp, 0, 0, [0x40000000], 0x3F000000, 0⟩, ⟨0x41, .frsq, 0, 0, [0x40800000], 0x3F000000, 0⟩,
   ⟨0x42, .fsqrt, 0, 0, [0x40800000], 0x40000000, 0⟩, ⟨0x43, .fexp2, 0, 0, [0x40400000], 0x41000000, 0⟩,
   ⟨0x44, .flog2, 0, 0, [0x41000000], 0x40400000, 0⟩, ⟨0x45, .ftanh, 0, 0, [0], 0, 0⟩, ⟨0x47, .fsinpi, 0, 0, [0x3F000000], 0x3F800000, 0⟩,
   ⟨0x48, .fcospi, 0, 0, [0x3F800000], 0xBF800000, 0⟩, ⟨0x46, .fsigm, 0, 0, [0], 0x3F000000, 0⟩] (fun g => { g with unit := 1 }) = true := by
  decide

theorem test_cell_convert : laneRows
  [⟨0x49, .bfma2, 0, 1, [0x3F803F80, 0x40004000, 0x40404040], 0x40A040A0, 0⟩, ⟨0x4A, .hfma2, 0, 2, [0x3C003C00, 0x40004000, 0x42004200], 0x45004500, 0⟩,
   ⟨0x4B, .fdot2b, 0, 0, [0x40003F80, 0x40804040, 0x3F800000], 0x41400000, 0⟩, ⟨0x50, .cvt, 0, 1, [0x3F800000, 0x40000000], 0x40003F80, 0⟩,
   ⟨0x52, .cvti, 0, 8, [0x40200000], 2, flagNX⟩, ⟨0x53, .cvtf, 8, 0, [3], 0x40400000, 0⟩, ⟨0x56, .rtenc, 0, 10, [5], 0x501405, 0⟩,
   ⟨0x57, .rtdec, 0, 8, [0x501405], 5, 0⟩] = true ∧
  laneRows [⟨0x51, .cvtsr, 0, 1, [0x3F800000, 0x40000000], 0x40003F80, 0⟩] (fun g => { g with rnd := 5, seed := 7 }) = true := by decide

/-- Lanes 100 to 115. -/
def hundred : List (Option Nat) := (List.range 16).map fun i => some (100 + i)

def moves (op : Nat) (mk : SlotCfg → Instr) (g : SlotCfg) (xs : List (List (Option Nat))) (r : List (Option Nat)) : Bool :=
  sent (exec (mk g) (slotState op g (xs.map laneTok))) = some (0, [laneTok r])

theorem test_cell_lanes :
    moves 0x60 .lperm (cell 2 0 0) [hundred, [some 5, none, some 15]] [some 105, none, some 115] ∧
    moves 0x61 .lrot { cell 1 0 0 with cst := 1 } [hundred] (hundred.drop 1 ++ [some 100]) ∧
    moves 0x62 .lbcast { cell 1 0 0 with cst := 3 } [hundred] (List.replicate 16 (some 103)) ∧
    moves 0x63 .lscan (cell 1 0 8) [[some 1, none, some 2, some 3]] [some 1, none, some 3, some 6] ∧
    moves 0x64 .lred (cell 1 0 8) [[some 1, none, some 2, some 3]] [some 6] ∧
    moves 0x65 .lpack (cell 1 0 0) [[none, some 7, none, some 9]] [some 7, some 9] ∧
    moves 0x66 .lexpand (cell 2 0 0) [[some 7, some 9], [some 0, some 1, some 0, some 1]] [none, some 7, none, some 9] ∧
    moves 0x67 .lidx { cell 1 0 0 with cst := 7 } [[some 5, none, some 5]] [some 7, none, some 9] ∧
    moves 0x68 .lsort (cell 2 2 8) [[some 3, some 0xFFFFFFFF, none, some 3], [some 1, some 2, some 3, some 4]] [some 2, some 1, some 4] ∧
    moves 0x69 .lmatch (cell 1 0 0) [[some 5, none, some 6, some 5]] [some 0x80000009, none, some 0x80020004, some 9] ∧
    moves 0x54 .pack (cell 2 0 12) [[some 0x11111, some 0x22222], []] [some 0x22221111] ∧
    moves 0x55 .unpack (cell 1 0 12) [[some 0x44443333]] [some 0x3333, some 0x4444] := by decide

/-- SLOT_D. -/
def flow (n sub fmt : Nat) : SlotCfg := { cell n sub fmt with unit := 3 }

def flows (op : Nat) (mk : SlotCfg → Instr) (g : SlotCfg) (ts r : List Token) : Bool :=
  sent (exec (mk g) (slotState op g ts)) = some (0, r)

def lastTok (v : Nat) : Token := { one v with kind := 1 }

theorem test_cell_flow :
    flows 0x70 .pass (flow 1 0 0) [one 5] [one 5] ∧
    flows 0x71 .const { flow 1 1 0 with cst := 9 } [one 5] [⟨0, 3, 1, (laneTok (List.replicate 16 (some 9))).lanes⟩] ∧
    flows 0x72 .sel (flow 3 0 0) [one 5, one 6, one 0] [one 6] ∧ flows 0x72 .sel (flow 3 0 0) [one 5, one 6, one 2] [one 5] ∧
    flows 0x75 .gate (flow 2 0 0) [one 5, one 1] [one 5] ∧ flows 0x75 .gate (flow 2 0 0) [one 5, one 0] [] ∧
    flows 0x75 .gate (flow 2 0 0) [lastTok 5, one 0] [⟨1, 3, 0, 0⟩] ∧
    flows 0x7B .drop (flow 1 0 0) [⟨0, 3, 0, 0⟩] [] ∧ flows 0x7B .drop (flow 1 0 0) [⟨1, 3, 0, 0⟩] [⟨1, 3, 0, 0⟩] ∧
    flows 0x7C .onmark (flow 1 0 0) [one 5] [one 5] ∧
    flows 0x77 .accrun { flow 1 4 8 with cst := 10 } [lastTok 5] [⟨1, 3, 1, (laneTok (some 15 :: List.replicate 15 (some 10))).lanes⟩] ∧
    flows 0x78 .rmaxs (flow 1 0 0) [one 0x40000000] [one 0] ∧
    flows 0x79 .count (flow 1 0 0) [lastTok 5] [{ laneTok [some 1, some 1] with kind := 1 }] ∧
    flows 0x73 .steer { flow 2 0 0 with cst := 4 } [one 5, one 1] [one 5] ∧ flows 0x73 .steer { flow 2 0 0 with cst := 4 } [one 5, one 0] [] ∧
    flows 0x74 .merge (flow 2 1 0) [one 5, one 6] [one 5] ∧
    flows 0x74 .merge { flow 2 0 0 with cst := 2 } [{ one 5 with seq := 1 }, { one 6 with seq := 2 }] [{ one 6 with seq := 2 }] ∧
    flows 0x76 .loop { flow 3 0 0 with cst := 1 } [one 5] [one 5] ∧ flows 0x7A .delay { flow 1 0 0 with cst := 1 } [one 5] [] := by decide

/-! ### Hypotheses of the statements on firings -/

/-- A firing of IADD; under TRAPINV FADD of opposite infinities is held; a full destination. -/
theorem wit_lanes :
    let g := cell 2 0 8
    let s := slotState 0x00 g [one 1, one 2]
    (Instr.iadd { g with dst := 2 }).wf = true ∧ (.iadd g, (0x00 : BitVec 8), 2) ∈ intOps g ∧
    mayFire s 0x00 g (freshSlot 0 0 0 (slotFrame 0 g)) [(0, one 1), (1, one 2)] [0, 1] (one 1) ∧
    (s.cluster 0).fullDest 0 g [(g.dst.toNat, one 1)] = none ∧
    laneArgs g 2 [(0, one 1), (1, one 2)] 0 = some [some 1, some 2] ∧ laneArgs g 2 [(0, one 1), (1, one 2)] 15 = none ∧
    (let f := s.cluster 0
     (f.setQueue 4 (List.replicate 4 (one 0))).fullDest 0 g [(g.dst.toNat, one 1)] = some (1, .queue 4)) := by
  unfold mayFire intOps; decide

theorem wit_trapinv :
    let g := { cell 2 0 0 with trapinv := true }
    let s := slotState 0x30 g [one 0x7F800000, one 0xFF800000]
    (Instr.fadd g).wf = true ∧ (.fadd g, (0x30 : BitVec 8), 2) ∈ floatOps g ∧
    mayFire s 0x30 g (freshSlot 0 0 0 (slotFrame 0x30 g)) [(0, one 0x7F800000), (1, one 0xFF800000)] [0, 1] (one 0x7F800000) ∧
    g.trapinv = true ∧ (floatLane (.fadd g) g [0x7F800000, 0xFF800000]).flags &&& flagNV ≠ 0 ∧
    (floatLane (.fadd g) g [0x3F800000, 0xFF800000]).flags &&& flagNV = 0 ∧
    (after (exec (.fadd g) s) fun t => ((t.cluster 0).slot 0).stall && (t.cluster 0).queue 0 = [one 0x7F800000] && (t.cluster 0).queue 4 = []) = true := by
  unfold mayFire floatOps; decide

theorem wit_SpecialAndConvertLanes :
    let g := cell 2 0 1
    let s := slotState 0x50 g [one 0x3F800000, one 0x40000000]
    (Instr.cvt g).wf = true ∧ (.cvt g, (0x50 : BitVec 8), 2) ∈ otherOps g ∧ (packedOps g).length = 7 ∧
    mayFire s 0x50 g (freshSlot 0 0 0 (slotFrame 0x50 g)) [(0, one 0x3F800000), (1, one 0x40000000)] [0, 1] (one 0x3F800000) := by
  unfold mayFire otherOps packedOps; decide

theorem wit_LaneMoves :
    let g := cell 2 0 12
    let sr := { cell 2 0 1 with rnd := 5 }
    (.pack g, (0x54 : BitVec 8)) ∈ moveOps g ∧ (Instr.pack g).wf = true ∧ (Instr.lscan (cell 1 0 8)).wf = true ∧
    (Instr.lred (cell 1 0 8)).wf = true ∧ (Instr.cvtsr sr).wf = true ∧
    mayFire (slotState 0x54 g [one 1, one 2]) 0x54 g (freshSlot 0 0 0 (slotFrame 0x54 g)) [(0, one 1), (1, one 2)] [0, 1] (one 1) ∧
    mayFire (slotState 0x63 (cell 1 0 8) [one 1]) 0x63 (cell 1 0 8) (freshSlot 0 0 0 (slotFrame 0x63 (cell 1 0 8))) [(0, one 1)] [0] (one 1) ∧
    mayFire (slotState 0x64 (cell 1 0 8) [one 1]) 0x64 (cell 1 0 8) (freshSlot 0 0 0 (slotFrame 0x64 (cell 1 0 8))) [(0, one 1)] [0] (one 1) ∧
    mayFire (slotState 0x51 sr [one 1, one 2]) 0x51 sr (freshSlot 0 0 0 (slotFrame 0x51 sr)) [(0, one 1), (1, one 2)] [0, 1] (one 1) := by
  unfold mayFire moveOps; decide

/-- A firing of each operation, its configuration well-formed. -/
theorem wit_StreamOperations :
    [((0x70 : Nat), Instr.pass, flow 1 0 0), (0x7C, .onmark, flow 1 0 0), (0x71, .const, flow 1 1 0), (0x72, .sel, flow 3 0 0),
      (0x75, .gate, flow 2 0 0), (0x7B, .drop, flow 1 0 0), (0x77, .accrun, flow 1 4 8), (0x77, .accrun, flow 1 0 0),
      (0x78, .rmaxs, flow 1 0 0), (0x79, .count, flow 1 0 0)].all (fun (op, mk, g) =>
        (mk g).wf && (slotState op g [one 1, one 0, one 2]).slotFor (BitVec.ofNat 8 op) g = some (0, 3, freshSlot 0 0 3 (slotFrame (BitVec.ofNat 8 op) g)) &&
        (match ((slotState op g [one 1, one 0, one 2]).cluster 0).heads 3 g with | .fire _ pop base => pop = g.inputs && base = one 1 | _ => false)) = true ∧
    resLane (flow 2 0 0) (operandTok (flow 2 0 0) [(0, one 1), (1, one 0)]) 1 0 = some 0 ∧
    resLane (flow 2 0 0) (operandTok (flow 2 0 0) [(0, one 1), (1, one 7)]) 1 0 = some 7 := by decide

theorem wit_RecordOperations :
    let ready (op : Nat) (g : SlotCfg) (ts : List Token) : Bool :=
      (slotState op g ts).slotFor (BitVec.ofNat 8 op) g = some (0, 3, freshSlot 0 0 3 (slotFrame (BitVec.ofNat 8 op) g))
    let head (op : Nat) (g : SlotCfg) (ts : List Token) (i : Nat) : Option Token := ((slotState op g ts).cluster 0).operand 3 g i
    ready 0x73 { flow 2 0 0 with cst := 4 } [one 5, one 1] = true ∧ head 0x73 { flow 2 0 0 with cst := 4 } [one 5, one 1] 0 = some (one 5) ∧
    (freshSlot 0 0 3 (slotFrame 0x73 { flow 2 0 0 with cst := 4 })).st.m ≠ 1 ∧ (Instr.steer { flow 2 0 0 with cst := 4 }).wf = true ∧
    ready 0x74 (flow 2 1 0) [one 5, one 6] = true ∧ head 0x74 (flow 2 1 0) [one 5] 1 = none ∧ (Instr.merge (flow 2 1 0)).wf = true ∧
    (freshSlot 0 0 3 (slotFrame 0x74 (flow 2 1 0))).st.m = 0 ∧
    ready 0x76 { flow 3 0 0 with cst := 1 } [one 5] = true ∧ (Instr.loop { flow 3 0 0 with cst := 1 }).wf = true ∧
    (freshSlot 0 0 3 (slotFrame 0x76 { flow 3 0 0 with cst := 1 })).st.n < 1 ∧
    ready 0x7A { flow 1 0 0 with cst := 1 } [one 5] = true ∧ (Instr.delay { flow 1 0 0 with cst := 1 }).wf = true ∧
    (freshSlot 0 0 3 (slotFrame 0x7A { flow 1 0 0 with cst := 1 })).st.fifo = [] := by decide

/-- Records in the middle: STEER on its else route, MERGE in a record of b, LOOP in a body record, DELAY with its line full. -/
theorem wit_records_under_way :
    let mid (op : Nat) (g : SlotCfg) (ts : List Token) (st : SlotSt) : State :=
      (slotState op g ts).setCluster 0 (((slotState op g ts).cluster 0).setSlot 3 { freshSlot 0 0 3 (slotFrame (BitVec.ofNat 8 op) g) with st := st })
    (sent (exec (.steer { flow 2 0 0 with cst := 2, dst := 4 }) (mid 0x73 { flow 2 0 0 with cst := 2, dst := 4 } [lastTok 5] { SlotSt.reset with m := 1 })) =
      some (0, [lastTok 5])) ∧
    (sent (exec (.merge (flow 2 0 0)) (mid 0x74 (flow 2 0 0) [one 5, one 6] { SlotSt.reset with m := 2 })) = some (0, [one 6])) ∧
    (let g := { flow 3 0 0 with dst := 0, cst := 0x20001 }
     sent (exec (.loop g) (mid 0x76 g [one 5, one 6, one 0] { SlotSt.reset with n := 1 })) = some (0, [one 6])) ∧
    (let g := { flow 1 0 0 with cst := 1 }
     sent (exec (.delay g) (mid 0x7A g [] { SlotSt.reset with fifo := [one 8] })) = some (0, [one 8])) := by decide

/-! ## Tokens at slots, links and routers -/


/-- A SWITCH token with one frame in lane group 0 (R169). -/
def switchTok (f : Frame) : Token := ⟨4, 3, 0xFF, f.setWidth 512⟩

theorem test_end_tokens :
    (sent (exec (.endTokenAlign 0 0) (slotState 0x00 (cell 2 0 8) [bare 2, bare 2])) = some (0, [bare 2])) ∧
    (sent (exec (.endTokenAlign 0 3) (slotState 0x77 { flow 1 8 8 with cst := 6 } [bare 3])) =
      some (0, [⟨1, 0xFFFF, 0, (laneTok (List.replicate 16 (some 6))).lanes⟩, bare 3])) ∧
    (sent (exec (.endTokenAlign 0 3) (slotState 0x79 (flow 1 1 0) [bare 3])) =
      some (0, [{ laneTok [some 0, some 0, some 0] with kind := 1, seq := 0xFFFF }, bare 3])) ∧
    (sent (exec (.endTokenAlign 0 3) (slotState 0x7C { flow 1 0 0 with cst := 7 } [bare 3])) =
      some (0, [{ laneTok (List.replicate 16 (some 7)) with kind := 1, seq := 0xFFFF }, bare 3])) ∧
    (sent (exec (.endTokenAlign 0 3) (slotState 0x7C (flow 1 1 0) [bare 3])) =
      some (0, [{ laneTok [some 0] with kind := 1, seq := 0xFFFF }, bare 3])) := by decide

/-- Heads of one kind; a discard under TRUNCATE; a length mismatch; a SWITCH. -/
theorem wit_TokensAtSlots :
    let k (ts : List Token) (g : SlotCfg) : Heads := ((slotState 0x00 g ts).cluster 0).heads 0 g
    k [bare 3, bare 3] (cell 2 0 8) = .align 3 ∧ k [one 1, bare 2] { cell 2 0 8 with len := 1 } = .discard [0] ∧
    k [one 1, bare 2] (cell 2 0 8) = .mismatch 0 1 false ∧ k [bare 2, bare 3] (cell 2 0 8) = .mismatch 0 1 true ∧
    k [bare 4, bare 4] (cell 2 0 8) = .switch ∧
    (slotState 0x00 (cell 2 0 8) [bare 3, bare 3]).slotAt 0 0 = some (0, cell 2 0 8, freshSlot 0 0 0 (slotFrame 0 (cell 2 0 8))) ∧
    endsRecord ((slotState 0x00 (cell 2 0 8) [bare 3, bare 3]).cluster 0) 0 0 (cell 2 0 8) .reset = false ∧
    ((slotState 0x00 (cell 2 0 8) [bare 3, bare 3]).cluster 0).fullDest 0 (cell 2 0 8) [((cell 2 0 8).dst.toNat, bare 3)] = none ∧
    [0].Nodup ∧ (freshSlot 0 0 0 (slotFrame 0 (cell 2 0 8))).skip = false ∧
    (after (exec (.endTokenAlign 0 0) (slotState 0x00 { cell 2 0 8 with len := 1 } [one 1, bare 2])) fun t => (t.cluster 0).queue 0 = [] && (t.cluster 0).queue 1 = [bare 2]) = true ∧
    (after (exec (.endTokenAlign 0 0) (slotState 0x00 (cell 2 0 8) [one 1, bare 2])) fun t => ((t.cluster 0).slot 0).stall) = true := by decide

/-- SWITCH tokens that name the slot, with ISUB for it, and another column. -/
theorem wit_switches :
    let g := { cell 2 0 8 with dst := 0 }
    let new := slotFrame 0x01 g
    let other := slotFrame 0x01 { g with col := 1 }
    let s (f : Frame) : State := slotState 0x00 g [switchTok f, switchTok f]
    ((s new).cluster 0).heads 0 g = .switch ∧ ((s new).cluster 0).head? 0 = some (switchTok new) ∧ (switchTok new).frame 0 = some new ∧
    (switchTok new).frame 1 = none ∧ Frame.layout new = 0 ∧ Frame.unit new ≤ 3 ∧ Frame.col new = 0 ∧ Frame.unit new = 0 ∧
    switchFrames (switchTok new) 0 0 = [(0, new)] ∧ switchFrames (switchTok other) 0 0 = [] ∧ frameCode new = 0 ∧
    (s new).placeOf 0 = (0, 0, [0]) ∧
    (⟨[0], true, new :: (((s new).cluster 0).frames.filter fun h => !(entryName h = entryName new))⟩ : RowImage).slotOk
      (new :: (((s new).cluster 0).frames.filter fun h => !(entryName h = entryName new))) 0 0 (bits new 239 232) (slotCfgOf new) = true ∧
    ((s new).cluster 0).fullDest 0 g [(Frames.maskOf 0 g, switchTok new)] = none ∧
    ((s new).setCluster 0 (((s new).cluster 0).setSlot 0 { freshSlot 0 0 0 new with switched := true })).rowStateBytes [0] ≤ 16384 ∧
    (after (exec (.switchApply 0 0) (s new)) fun t => (t.cluster 0).slot 0 = { freshSlot 0 0 0 new with switched := true }) = true ∧
    (after (exec (.switchApply 0 0) (s other)) fun t => (t.cluster 0).slot 0 = freshSlot 0 0 0 (slotFrame 0 g) && (t.cluster 0).queue 0 = []) = true := by
  decide

/-- A stage of one slot on a cluster of its own: two frames, then the image end. -/
theorem wit_configuration :
    let f := slotFrame 0x00 { cell 2 0 8 with dst := 0 }
    let s : State := { State.reset with site := (0, 0), clusters := [(0, { Cluster.reset with kept := [f] })] }
    (s.cluster 0).done = false ∧ RowImage.faults s (s.rowImage 0) = [] ∧ Frame.layout f = 0 ∧ Frame.unit f ≤ 3 ∧
    (after (exec .imageEnd s) fun t => (t.cluster 0).done && (t.cluster 0).slot 0 = freshSlot 0 0 0 f) = true ∧
    (after (exec (.configFrame f) { s with clusters := [] }) fun t => (t.cluster 0).kept = [f]) = true := by decide

/-- SW.ROUTE pair 0 of a frame (R224). -/
def pairFrame (inp ivc out ovc lq spill hi lo : Nat) : Frame :=
  BitVec.ofNat 256 (2 * 2 ^ 253 + 2 ^ 239 + inp * 2 ^ 235 + ivc * 2 ^ 234 + out * 2 ^ 230 + ovc * 2 ^ 229 + lq * 2 ^ 227 +
    spill * 2 ^ 226 + hi * 2 ^ 210 + lo * 2 ^ 194)

/-- A cluster outside every launch whose router has this pair and whose west input (VC 0) holds tokens. -/
def router (f : Frame) (ts : List Token) : State :=
  { State.reset with
    clusters := [(17, { Cluster.reset with cfg := [(entryKey 2 0 0 0, f)], rq := [(6, ts.map fun t => (0, t))] })] }

/-- From the west to the east; to SLOT_B q3; with a spill. -/
theorem wit_LinksAndRouters :
    let s := router (pairFrame 3 0 2 0 0 0 0 0) [one 5]
    s.routerRuns 17 = true ∧
    (((s.cluster 17).pairs.filter fun q => q.2.inp = 3 && q.2.ivc = 0).map fun q => (q.1, q.2.out, q.2.ovc)) = [(0, 2, 0)] ∧
    ((s.cluster 17).rqueue 3 0).head? = some (0, one 5) ∧ s.hop 17 2 0 = .into 18 3 0 ∧ ((s.cluster 17).spillOf 0).toks = [] ∧
    s.routerRoom 18 3 0 = true ∧
    (after (exec (.routerTokenHop 17 6 .good) s) fun t => (t.cluster 18).rqueue 3 0 = [(0, one 5)] && (t.cluster 17).rqueue 3 0 = []) = true ∧
    (after (exec (.routerTokenHop 17 6 .failed) s) fun t => (t.cluster 17).rqueue 3 0 = [(0, one 5)] && (t.cluster 18).rqueue 3 0 = []) = true ∧
    (let d := router (pairFrame 3 0 7 0 3 0 0 0) [one 5]
     (((d.cluster 17).pairs.filter fun q => q.2.inp = 3 && q.2.ivc = 0).map fun q => (q.2.out, q.2.lq)) = [(7, 3)] ∧
     ((d.cluster 17).queue (Cluster.localQueue 7 3)).length < 4 ∧ Cluster.localQueue 7 3 = 7 ∧
     (after (exec (.routerTokenHop 17 6 .good) d) fun t => (t.cluster 17).queue 7 = [one 5]) = true) := by decide

/-- SW.REPL from the west to the east and to SLOT_A q0 (R226). -/
theorem wit_replication :
    let f : Frame := BitVec.ofNat 256 (2 * 2 ^ 253 + 2 ^ 244 + 3 * 2 ^ 236 + 2 * 2 ^ 232 + 2 * 2 ^ 228 + 6 * 2 ^ 220)
    let s : State := { State.reset with
      clusters := [(17, { Cluster.reset with cfg := [(entryKey 2 1 0 0, f)], rq := [(6, [(0, one 5)])] })] }
    (s.cluster 17).swRepl = some ⟨3, 0, 2, [(2, 0, 0), (6, 0, 0)]⟩ ∧ s.routerRuns 17 = true ∧
    s.branchDest 17 (2, 0, 0) = some (.inl (18, 3, 0)) ∧ s.branchDest 17 (6, 0, 0) = some (.inr 0) ∧
    ([(2, 0, 0), (6, 0, 0)].map (s.branchDest 17)).Nodup ∧
    (after (exec (.swReplToken 17) s) fun t => (t.cluster 18).rqueue 3 0 = [(0, one 5)] && (t.cluster 17).queue 0 = [one 5] && (t.cluster 17).rqueue 3 0 = []) = true := by
  decide

/-- A spilling link east whose far queue is full, and one with room and a spilled token. -/
theorem wit_spill :
    let f := pairFrame 3 0 2 0 0 1 2 1
    let depth : Frame := BitVec.ofNat 256 (2 ^ 253 + 2 * 2 ^ 244 + 2 ^ 239 + 2 * 2 ^ 236 + 4 * 2 ^ 208)
    let c : Cluster := { Cluster.reset with cfg := [(entryKey 1 2 0 0, depth), (entryKey 2 0 0 0, f)], rq := [(6, [(0, one 5)])] }
    let full : State := { State.reset with clusters := [(17, c), (18, { Cluster.reset with rq := [(6, List.replicate 8 (0, one 1))] })] }
    let back : State := { State.reset with clusters := [(17, { c with spill := [(0, ⟨[one 7], false⟩)] })] }
    ((full.cluster 17).pairs.find? fun q => q.1 = 0 && q.2.spill).isSome = true ∧ full.hop 17 2 0 = .into 18 3 0 ∧
    full.routerRoom 18 3 0 = false ∧ ((full.cluster 17).spillOf 0) = ⟨[], true⟩ ∧ (full.cluster 17).spillDepth 2 0 = 64 ∧
    (((full.cluster 17).pairs.find? fun q => q.1 = 0).bind fun q => (full.cluster 17).pairHead 0 q.2) = some (0, one 5) ∧
    (after (exec (.linkSpill 17 0 false) full) fun t => ((t.cluster 17).spillOf 0).toks = [one 5] && (t.cluster 17).rqueue 3 0 = []) = true ∧
    back.routerRoom 18 3 0 = true ∧ ((back.cluster 17).spillOf 0).toks = [one 7] ∧
    (after (exec (.linkSpill 17 0 true) back) fun t => (t.cluster 18).rqueue 3 0 = [(0, one 7)] && ((t.cluster 17).spillOf 0) = ⟨[], true⟩) = true := by
  decide

/-- Skip links: SW.PARK on the down link, its parked token released into row 0, and a RELATCH token at row 0. -/
theorem wit_skips :
    let park : Frame := BitVec.ofNat 256 (2 * 2 ^ 253 + 3 * 2 ^ 244 + 1 * 2 ^ 237 + 2 * 2 ^ 230 + 3 * 2 ^ 214)
    let s := runs Core.reset [] { Cluster.reset with cfg := [(entryKey 2 0 0 0, pairFrame 3 0 1 0 0 0 0 0), (entryKey 2 3 0 0, park)], rq := [(6, [(0, one 5)])] }
    let withBand (f : Band → Band) : State := { placed with launches := [{ oneRow [] with band := (oneRow []).band.map f }] }
    let rel := withBand fun b => { b with parked := [⟨0, 2, 1, one 5⟩] }
    let rlt := withBand fun b => { b with relatch := some 0 }
    ((s.hostOf 0).map fun h => (h.2.2.1, h.2.2.2)) = some (0, 0) ∧ (s.cluster 0).swPark = some ⟨1, 0, 2, 3⟩ ∧
    ((((s.cluster 0).pairs.find? fun p => p.2.out = 1 && p.2.ovc = 0).bind fun q => (s.cluster 0).pairHead q.1 q.2)) = some (0, one 5) ∧
    s.routerRuns 0 = true ∧
    (after (exec (.skipPark 0) s) fun t => ((t.live 5 1).bind fun l => l.band.map (·.parked)) = some [⟨2, 0, 2, one 5⟩]) = true ∧
    (((rel.live 5 1).bind (·.placed)).map fun b => ((rel.releasable b).map fun r => (r.1, r.2.2), b.frozen)) = some (some (0, 2), false) ∧
    (after (exec (.parkedTokenRelease 5 1) rel) fun t => (t.cluster 2).rqueue 4 1 = [(0, one 5)]) = true ∧
    (((rlt.live 5 1).bind (·.placed)).map fun b => (b.relatch, (b.row 0).st, rlt.rowAcked (b.rowClusters 0))) = some (some 0, .resident, true) ∧
    (after (exec (.relatchToken 5 1 0) rlt) fun t => ((t.live 5 1).bind fun l => l.band.bind (·.relatch)) = none) = true := by decide

/-- Parity that fails twice on the link from cluster 0 of a running launch to cluster 1, and into a local queue. -/
theorem wit_parityFails :
    let s (f : Frame) := runs Core.reset [] { Cluster.reset with cfg := [(entryKey 2 0 0 0, f)], rq := [(6, [(0, one 5)])] }
    let link := s (pairFrame 3 0 2 0 0 0 0 0)
    let local_ := s (pairFrame 3 0 7 0 3 0 0 0)
    (link.routerRuns 0 = true ∧ link.hop 0 2 0 = .into 1 3 0 ∧ link.routerRoom 1 3 0 = true ∧
      ((link.hostOf 1).map fun h => (h.1.job, h.1.status, h.1.ending.isNone, decide (h.1.st ≠ .ended))) = some (5, 0, true, true)) ∧
    (after (exec (.routerTokenHop 0 6 .failed) link) fun t => ((t.launch? 5 1).map (·.status)) = some 9 &&
      (t.cluster 0).rqueue 3 0 = [(0, one 5)] && (t.cluster 1).rqueue 3 0 = []) = true ∧
    (after (exec (.routerTokenHop 0 6 .failed) local_) fun t => ((t.launch? 5 1).map (·.status)) = some 9 && (t.cluster 0).queue 7 = []) = true := by
  decide

/-- The token that SW.PARK takes leaves its queue; the rows of a RELATCH token are configured. -/
theorem wit_parkLeaves :
    let park : Frame := BitVec.ofNat 256 (2 * 2 ^ 253 + 3 * 2 ^ 244 + 1 * 2 ^ 237 + 2 * 2 ^ 230 + 3 * 2 ^ 214)
    let s := runs Core.reset [] { Cluster.reset with cfg := [(entryKey 2 0 0 0, pairFrame 3 0 1 0 0 0 0 0), (entryKey 2 3 0 0, park)], rq := [(6, [(0, one 5)])] }
    (((s.cluster 0).pairs.find? fun p => p.2.out = 1 && p.2.ovc = 0).map fun q => decide (q.2.inp ≤ 5)) = some true ∧
    (after (exec (.skipPark 0) s) fun t => (t.cluster 0).rqueue 3 0 = []) = true ∧
    (((placed.live 5 1).bind (·.placed)).map fun b => (decide ((b.row 0).st ≠ .loading), b.frozen, b.stageRows.all (placed.configured b))) =
      some (true, false, true) := by decide

/-- STEER, MERGE and LOOP with nothing to fire; a STEER whose heads are MARKs, and the mask that it goes to. -/
theorem wit_endsAtFlow :
    let g := { flow 2 0 0 with cst := 4, dst := 2 }
    let s := slotState 0x73 g [bare 3, bare 3]
    (s.cluster 0).slotFires 3 0x73 g ((s.cluster 0).slot 3) = false ∧ (s.cluster 0).heads 3 g = .align 3 ∧ ((s.cluster 0).slot 3).st.m ≠ 1 ∧
    endsRecord (s.cluster 0) 3 0x73 g ((s.cluster 0).slot 3).st = false ∧
    (after (exec (.endTokenAlign 0 3) s) fun t => (t.cluster 0).queue 4 = [bare 3] && (t.cluster 0).queue 12 = [] && (t.cluster 0).queue 13 = []) = true := by
  decide

/-! ## Address generators, the memory unit, the array, copy jobs -/

/-- A shape record (R83): format, flags at bit 72, BASE, and START, EXTENT, STRIDE and TILE of each dimension. -/
def shapeRec (fmt flags base : Nat) (dims : List (Nat × Nat × Nat × Nat)) : Shape :=
  BitVec.ofNat 1024 (fmt * 2 ^ 64 + dims.length * 2 ^ 68 + flags * 2 ^ 72 + base + 0x77 * 2 ^ 96 +
    (dims.zipIdx.map fun ((st, ex, sd, ti), d) =>
      ex * 2 ^ (128 + 32 * d) + st * 2 ^ (288 + 32 * d) + sd * 2 ^ (448 + 48 * d) + ti * 2 ^ (688 + 16 * d)).sum)

/-- INT32 elements of one dimension: EXTENT and TILE, 4 bytes apart. -/
def flat (flags base extent tile : Nat) : Shape := shapeRec 8 flags base [(0, extent, 4, tile)]

/-- A generator of unit 0 with a target, its output to q0 of SLOT_B. -/
def agc (tgt : Nat) : AgCfg :=
  ⟨0, 0, 0, BitVec.ofNat 2 tgt, 0, 0, 1, 0, 0, 0, 0, 8, 0, false, false, 4, 8, 0, false⟩

/-- Cluster 0, in no launch, with a generator configured, and tokens at iq and vq. -/
def agState (mode : Nat) (g : AgCfg) (a : Ag) (is vs : List Token) : State :=
  { State.reset with
    site := (0, 8)
    clusters := [(0, { Cluster.reset with q := [(16, is), (17, vs)], leaf := [(0, 0x11), (4, 5), (8, 6), (12, 7)] }.setAg 0
      { a with frame := some (agFrame (BitVec.ofNat 4 mode) g) })] }

def agOf (s : State) : Ag := (s.cluster 0).ag 0

theorem test_agRead :
    let x := flat 1 0 3 4
    let a : Ag := { Ag.reset with shape := some x }
    -- elements 0 and 1 of the leaf store, element 3 out of range under PERMIT, then the record
    (after (exec (.agRead (agc 2)) (agState 0 (agc 2) a [] [])) fun t => (agOf t).vals = [some 0x11]) = true ∧
    (after (exec (.agRead (agc 2)) (agState 0 (agc 2) { a with elem := 1 } [] [])) fun t => (agOf t).vals = [some 5]) = true ∧
    (after (exec (.agRead (agc 2)) (agState 0 (agc 2) { a with elem := 3 } [] [])) fun t => (agOf t).vals = [some 0x77]) = true ∧
    (after (exec (.agRead (agc 2)) (agState 0 (agc 2) { a with elem := 4, seq := 9, vals := [some 1, some 2, some 3, some 4] } [] [])) fun t =>
      (agOf t).outq = [{ laneTok [some 1, some 2, some 3, some 4] with kind := 1, seq := 9 }] && (agOf t).seq = 10) = true := by decide

theorem wit_AddressGeneratorReads :
    let x := flat 1 0 3 4
    let a : Ag := { Ag.reset with shape := some x }
    let s (mode : Nat) (a : Ag) : State := agState mode (agc 2) a [one 2] []
    let full : Ag := { a with outq := [one 1] }
    let conv : Shape := BitVec.ofNat 1024 ((shapeRec 8 8 0 [(0, 2, 4, 1), (0, 1, 4, 1), (0, 1, 4, 1)]).toNat + 2 ^ 768 + 2 ^ 784 + 2 ^ 800 + 2 ^ 816)
    ((s 0 full).agFor 0 (agc 2) = some (0, 0, agOf (s 0 full)) ∧ (s 7 full).agFor 7 (agc 2) = some (0, 0, agOf (s 7 full)) ∧
      (s 2 full).agFor 2 (agc 2) = some (0, 0, agOf (s 2 full)) ∧
      ((s 0 full).cluster 0).room (((s 0 full).cluster 0).codeDest 10 1 0) 1 = true) ∧
    ((s 0 a).wavePause 0 32 = false ∧ (shpOf x).tiles = 1 ∧ (shpOf x).elems = 4 ∧ (s 0 a).waveLen 0 = 0 ∧
      (shpOf x).at true ((shpOf x).coords 0 1) = .loc 4 false ∧ (s 0 a).leafTarget 0 4 4 = some (0, 4) ∧ (shpOf x).bitsOf = 32 ∧
      (shpOf x).at true ((shpOf x).coords 0 3) = .pad ∧
      (shpOf (flat 0 0 3 4)).at true ((shpOf (flat 0 0 3 4)).coords 0 3) = .range [3] ∧ (shpOf x).at false ((shpOf x).coords 0 2) = .loc 8 false ∧
      linesOf 8 4 = [0]) ∧
    ((shpOf conv).tiles = 2 ∧ (shpOf conv).elems = 1 ∧ 0 + 1 ≠ max 1 (BitVec.toNat (2 : BitVec 8)) ∧ 0 + 1 < (shpOf conv).tiles) ∧
    ((shpOf x).rank = 1 ∧ ((s 2 a).cluster 0).agHeads 0 2 (agc 2) = .valued (one 2) (one 2) ∧ (one 2).isValid 0 = true ∧
      (one 2).isValid 1 = false ∧ (shpOf x).at true [sextNat 32 ((one 2).lane 0)] = .loc 8 false) := by decide

/-- A READ of buffer 0. -/
theorem wit_readOfABuffer :
    let s : State := { State.reset with
      site := (0, 8)
      clusters := [(0, { Cluster.reset with
        bufs := [(0, { Buf.reset with slots := 2 })], tiles := tilesIn [.ready], leaf := [(0, 3)] }.setAg 0
          { Ag.reset with frame := some (agFrame 0 (agc 1)) })] }
    s.agFor 0 (agc 1) = some (0, 0, agOf s) ∧ (agOf s).outq = [] ∧ s.wavePause 0 32 = false ∧ (agOf s).ended = false ∧
    ((s.cluster 0).buf 0).slots ≠ 0 ∧ ((s.cluster 0).tile 0).st = .ready ∧
    (after (exec (.agRead (agc 1)) s) fun t => (agOf t).pts = 9 && ((agOf t).outq.map (·.lane 0)) = [3, 0]) = true := by decide

/-- CONV gathers the taps of two channels: channel 0 is elements 0 and 1 of the tile, channel 1 elements 2 and 3; a lane with
no element of the tile is invalid (R363). -/
theorem test_agConv :
    let conv : Shape := BitVec.ofNat 1024 ((shapeRec 8 8 0 [(0, 2, 4, 2), (0, 1, 4, 1), (0, 2, 8, 2)]).toNat + 2 ^ 768 + 2 ^ 784 + 2 ^ 800 + 2 ^ 816)
    let a : Ag := { Ag.reset with shape := some conv, elem := 4, vals := [some 10, some 11, some 12, some 13] }
    let g := { agc 2 with rpr := 2 }
    (after (exec (.agConv g) (agState 7 g a [] [])) fun t => (agOf t).vals.take 5 = [some 10, some 12, some 11, some 13, none] &&
      (agOf t).vals.length = 16 && (agOf t).lane = 1) = true := by decide

theorem test_agGather :
    let a : Ag := { Ag.reset with shape := some (flat 0 0 4 4) }
    (after (exec (.agGather (agc 2)) (agState 2 (agc 2) a [one 2] [])) fun t => (agOf t).vals = [some 6]) = true ∧
    (after (exec (.agGather (agc 2)) (agState 2 (agc 2) { a with elem := 16, seq := 4, vals := some 6 :: List.replicate 15 none } [one 2] [])) fun t =>
      (agOf t).outq = [⟨0, 4, 1, 6⟩] && (t.cluster 0).queue 16 = []) = true := by decide

theorem test_agWrites :
    let a : Ag := { Ag.reset with shape := some (flat 0 0 4 4) }
    -- SCATTER lane 0 to element 2; SCATADD 5 + 30 at word 4 + 0; WRITE of element 0, then the token leaves
    (after (exec (.agScatter (agc 2)) (agState 3 (agc 2) a [one 2] [one 0xABCD])) fun t => (t.cluster 0).leaf.readLe 8 4 = 0xABCD) = true ∧
    (after (exec (.agScatadd { agc 2 with lbase := 1 }) (agState 4 { agc 2 with lbase := 1 } Ag.reset [one 0] [one 30])) fun t =>
      (t.cluster 0).leaf.readLe 4 4 = 35) = true ∧
    (after (exec (.agWrite (agc 2)) (agState 1 (agc 2) a [] [lastTok 7])) fun t => (t.cluster 0).leaf.readLe 0 4 = 7 &&
      (agOf t).elem = 1 && (t.cluster 0).queue 17 = [lastTok 7]) = true ∧
    (after (exec (.agWrite (agc 2)) (agState 1 (agc 2) { a with elem := 4 } [] [lastTok 7])) fun t => (t.cluster 0).queue 17 = [] &&
      (agOf t).tile = 1) = true := by
  decide

theorem wit_AddressGeneratorWrites :
    let x := flat 0 0 4 4
    let a : Ag := { Ag.reset with shape := some x }
    let s (mode : Nat) (g : AgCfg) (a : Ag) : State := agState mode g a [one 2] [one 30]
    let c := (s 3 (agc 2) a).cluster 0
    ((s 1 (agc 2) a).agFor 1 (agc 2) = some (0, 0, agOf (s 1 (agc 2) a)) ∧ c.agHeads 0 1 (agc 2) = .valued (one 30) (one 30) ∧
      0 < (shpOf x).tiles ∧ 0 < (shpOf x).recordToks ∧ perToken (shpOf x).bitsOf = 16 ∧ (shpOf x).elems = 4 ∧
      runValid [one 30] 32 0 = some 30 ∧ runValid [one 30] 32 1 = none ∧
      (shpOf x).at true ((shpOf x).coords 0 0) = .loc 0 false ∧ (s 1 (agc 2) a).leafTarget 0 0 4 = some (0, 0)) ∧
    ((s 3 (agc 2) a).agFor 3 (agc 2) = some (0, 0, agOf (s 3 (agc 2) a)) ∧ c.agHeads 0 3 (agc 2) = .valued (one 2) (one 30) ∧
      (shpOf x).at true [sextNat 32 ((one 2).lane 0)] = .loc 8 false ∧ (s 3 (agc 2) a).leafTarget 0 8 4 = some (0, 8) ∧
      ¬ ((one 2).isValid 1 = true ∧ (one 30).isValid 1 = true)) ∧
    ((s 4 (agc 2) a).agFor 4 (agc 2) = some (0, 0, agOf (s 4 (agc 2) a)) ∧ c.agHeads 0 4 (agc 2) = .valued (one 2) (one 30) ∧
      ((List.range 16).filter fun l => (one 2).isValid l && (one 30).isValid l) = [0] ∧ (one 2).lane 0 < (agc 2).lwords.toNat ∧
      0 ≤ (one 2).lane 0 ∧ (one 2).lane 0 < 3) ∧
    ((s 6 (agc 0) a).agFor 6 (agc 0) = some (0, 0, agOf (s 6 (agc 0) a)) ∧ c.agHeads 0 6 (agc 0) = .valued (one 2) (one 30)) ∧
    ((s 3 (agc 2) a).cluster 0).agCfg? 0 = some (3, agc 2) := by decide

/-- A WRITE into buffer 0. -/
theorem wit_writeIntoABuffer :
    let s : State := { State.reset with
      site := (0, 8)
      clusters := [(0, { Cluster.reset with
        bufs := [(0, { Buf.reset with slots := 2 })], tiles := tilesIn [.empty], q := [(17, [{ one 7 with kind := 1 }])] }.setAg 0
          { Ag.reset with frame := some (agFrame 1 (agc 1)), wtok := 1 })] }
    s.agFor 1 (agc 1) = some (0, 0, agOf s) ∧ (s.cluster 0).agHeads 0 1 (agc 1) = .valued { one 7 with kind := 1 } { one 7 with kind := 1 } ∧
    ((s.cluster 0).buf 0).slots ≠ 0 ∧ ((s.cluster 0).tile 0).st = .empty ∧ 64 * (1 + 1) ≤ 128 * ((s.cluster 0).tile 0).lcount ∧
    (after (exec (.agWrite (agc 1)) s) fun t => (t.cluster 0).leaf.readLe 64 4 = 7 && ((t.cluster 0).tile 0).st = .ready) = true := by decide

/-- A WRITE to memory: its last element, its line stored with the record's last token. -/
theorem wit_writeToMemory :
    let a : Ag := { Ag.reset with shape := some (flat 0 0x21000 4 4), bases := [{ page 0x5000 1 with va := 0x21000 }] }
    let s (a : Ag) : State := agState 1 (agc 0) a [] [lastTok 7]
    let full : Ag := { a with elem := 4, wlines := [(0x420, [(0, 7), (1, 0)])] }
    let p := { page 0x5000 1 with va := 0x21000 }
    (s a).agFor 1 (agc 0) = some (0, 0, agOf (s a)) ∧ a.pend = [] ∧ a.drop = false ∧ 0 + 1 = (shpOf (flat 0 0x21000 4 4)).recordToks ∧
    (after (exec (.agWrite (agc 0)) (s a)) fun t => (agOf t).wlines.map (·.1) = [0x420] && (agOf t).elem = 1) = true ∧
    (s full).translate ((s full).agCtx 0 full.pts) full.bases 0 needStore ((s full).agentCheck false) (128 * 0x420) = .ok 0x5000 p [p] (s full) ∧
    (((s full).onAg 0 0 fun a => { a with bases := useBase a.bases p }).agentStore
      (((s full).onAg 0 0 fun a => { a with bases := useBase a.bases p }).agentOf 0 0) p 0x5000 [(0, 7), (1, 0)]).isSome = true ∧
    (after (exec (.agWrite (agc 0)) (s full)) fun t => t.mem = [(0x5000, 7)] && (agOf t).tile = 1 && (t.cluster 0).queue 17 = []) = true := by
  decide

/-- BIN with one word a lane, a bin table of 4 bins at word 16, bin 2 of capacity 8 at word 64, filled to 3; its shape is loaded
(R308). -/
def binning (held vq : List Token) (elem : Nat) : State :=
  let f : Frame := BitVec.ofNat 256 (2 ^ 253 + 3 * 2 ^ 244 + 2 * 2 ^ 238 + 16 * 2 ^ 222 + 4 * 2 ^ 209)
  { State.reset with
    site := (0, 8)
    clusters := [(0, { Cluster.reset with
      cfg := [(entryKey 1 3 0 0, f)], q := [(16, [one 2]), (17, vq)]
      leaf := [(80, 64), (82, 8), (84, 3)] }.setAg 0
        { Ag.reset with frame := some (agFrame 5 (agc 0)), shape := some 0, held := held, elem := elem })] }

theorem wit_binning :
    let s := binning [] [one 99] 0
    s.agFor 5 (agc 0) = some (0, 0, agOf s) ∧ (s.cluster 0).muBintab = some ⟨2, 16, 4, 1, 0, 0⟩ ∧ (agOf s).shape ≠ none ∧
    (s.cluster 0).agHeads 0 5 (agc 0) = .valued (one 2) (one 99) ∧ (s.cluster 0).head? 16 = some (one 2) ∧
    (one 2).isValid 0 = true ∧ (one 2).isValid 1 = false ∧ (one 2).lane 0 < 4 ∧
    leNat ((s.cluster 0).read (4 * 16 + 8 * 2) 8) = 3 * 2 ^ 32 + 8 * 2 ^ 16 + 64 ∧
    (∀ n, 4 * (64 + 3) ≤ n → n < 4 * (64 + 3 + 1) → n < 80 + 4 ∨ 80 + 6 ≤ n) ∧
    (after (exec (.agBin (agc 0)) s) fun t => (t.cluster 0).leaf.readLe 268 4 = 99 && (t.cluster 0).leaf.readLe 84 2 = 4 &&
      (agOf t).elem = 1 && (t.cluster 0).queue 17 = [one 99]) = true ∧
    (after (exec (.agBin (agc 0)) (binning [] [one 99] 16)) fun t => (t.cluster 0).queue 16 = [] && (t.cluster 0).queue 17 = []) = true := by
  refine ⟨by decide, by decide, by decide, by decide, by decide, by decide, by decide, by decide, by decide,
    fun n h _ => .inr (by omega), by decide, by decide⟩

/-- Six words a lane: VQ is full before all six tokens are there, so its first is held. -/
theorem wit_binningHolds :
    let f : Frame := BitVec.ofNat 256 (2 ^ 253 + 3 * 2 ^ 244 + 2 * 2 ^ 238 + 16 * 2 ^ 222 + 4 * 2 ^ 209 + 5 * 2 ^ 205)
    let s := (binning [] (List.replicate 4 (one 99)) 0).onCluster 0 fun c => { c with cfg := [(entryKey 1 3 0 0, f)] }
    ((s.cluster 0).muBintab.map (·.w)) = some 6 ∧ ((s.cluster 0).queue 17).length = 4 ∧
    (s.cluster 0).agHeads 0 5 (agc 0) = .valued (one 2) (one 99) ∧
    (after (exec (.agBin (agc 0)) s) fun t => (agOf t).held = [one 99] && ((t.cluster 0).queue 17).length = 3) = true := by
  decide

/-- ATOM adds 30 to the uncached word 0x5008 through a latched base. -/
theorem wit_atom :
    let x := flat 0 0x21000 4 4
    let base := { page 0x5000 1 with va := 0x21000 }
    let s := { agState 6 (agc 0) { Ag.reset with shape := some x, bases := [base] } [one 2] [one 30] with mem := [(0x5008, 7)] }
    s.agFor 6 (agc 0) = some (0, 0, agOf s) ∧ (s.cluster 0).agHeads 0 6 (agc 0) = .valued (one 2) (one 30) ∧
    (shpOf x).at false [sextNat 32 ((one 2).lane 0)] = .loc 0x21008 false ∧
    s.translate (s.agCtx 0 0) [base] 0 needBoth s.atomCheck 0x21008 = .ok 0x5008 base [base] s ∧ windowOf 0x5008 = .hbm ∧
    max (s.homeClock (pkgOf 0x5008)) ((s.line (lineOf 0x5008)).rts + 1) ≤ 0xFFFFFF ∧
    (after (exec (.agAtom (agc 0)) s) fun t => t.mem = [(0x5008, 37)] && (agOf t).vals = [some 7]) = true ∧
    (after (exec (.agAtom (agc 0)) { s with clusters := [(0, (s.cluster 0).setAg 0 { agOf s with elem := 16, vals := [some 4] })] }) fun t =>
      ((agOf t).outq.map (·.lane 0)) = [4] && (t.cluster 0).queue 16 = []) = true := by decide

theorem wit_endTokenAtUnit :
    let s (mode : Nat) : State := agState mode (agc 2) Ag.reset [bare 2] [bare 2]
    ((s 3).cluster 0).agCfg? 0 = some (3, agc 2) ∧ ((s 3).cluster 0).agHeads 0 3 (agc 2) = .ends (bare 2) ∧ agSink 3 (agc 2) = true ∧
    agSink 2 (agc 2) = false ∧ ((s 2).cluster 0).agHeads 0 2 (agc 2) = .ends (bare 2) ∧
    (after (exec (.endTokenAtUnit 0 8) (s 3)) fun t => (agOf t).eos && (t.cluster 0).queue 16 = []) = true ∧
    (after (exec (.endTokenAtUnit 0 8) (s 2)) fun t => (agOf t).outq = [bare 2] && (t.cluster 0).queue 17 = [bare 2]) = true := by decide

/-- A memory unit with buffer 0 as its source and buffer 1 as its sink, in no launch. -/
def muState (st : List TileSt) (mu : Mu) (sink : List Token) (cfg : Table Frame := []) : State :=
  { State.reset with
    scratch := [(0x10000F00000, 0x21)]
    banks := [(0, { Bank.reset with home := 15, scratch := 1 })]
    clusters := [(0, { Cluster.reset with
      cfg := [(entryKey 1 0 0 0, muBufFrame 0 0 0 1 2 0), (entryKey 1 0 0 1, muBufFrame 0 1 1 0 2 2)] ++ cfg
      bufs := [(0, { Buf.reset with slots := 2 }), (1, { Buf.reset with slots := 2, first := 2 })]
      tiles := tilesIn st, leaf := [(0, 0x77)], q := [(24, sink)], mu := mu, lines := [(0, ⟨true, 12, false⟩)] })] }

theorem wit_MemoryUnitMoves :
    let s := muState [.ready] { Mu.reset with seq := 5 } []
    let out := muState [] { Mu.reset with outq := [one 1] } []
    let sink := muState [.empty, .empty, .empty] { Mu.reset with wtok := 1 } [{ one 7 with kind := 1 }]
    (((s.cluster 0).sourceBuf.map fun p => (p.1, p.2.nrec)) = some (0, 0) ∧ s.mayAct 0 = true ∧ (s.cluster 0).launch = none ∧
      s.wavePause 0 36 = false ∧ ((s.cluster 0).tile 0).st = .ready ∧
      ((out.cluster 0).room ((out.cluster 0).codeDest 14 0 0) 1) = true) ∧
    (after (exec (.muSourceRecord 0) s) fun t => ((t.cluster 0).mu.outq.map fun x => (x.kind, x.seq, x.lane 0)) = [(0, 5, 0x77), (1, 5, 0)] &&
      (t.cluster 0).mu.slots = 1 && ((t.cluster 0).tile 0).st = .draining) = true ∧
    (after (exec (.muSourceRecord 0) out) fun t => (t.cluster 0).queue 0 = [one 1]) = true ∧
    (((sink.cluster 0).sinkBuf.map (·.1)) = some 1 ∧ (sink.cluster 0).head? 24 = some { one 7 with kind := 1 } ∧
      ((sink.cluster 0).tile 2).st = .empty ∧ 64 * (1 + 1) ≤ 128 * ((sink.cluster 0).tile 2).lcount) ∧
    (after (exec (.muSinkRecord 0) sink) fun t => (t.cluster 0).leaf.readLe (128 * 2 + 64) 4 = 7 && ((t.cluster 0).tile 2).st = .ready &&
      (t.cluster 0).mu.wtok = 0) = true ∧
    (after (exec (.muSinkRecord 0) (muState [] Mu.reset [bare 2])) fun t => (t.cluster 0).mu.eos && (t.cluster 0).queue 24 = []) = true := by
  decide

/-- SW.VERT of one tile of 2, down and up, at crown scratch 0xF00000 (R227). -/
theorem wit_vert :
    let f (down : Nat) : Frame := BitVec.ofNat 256 (2 * 2 ^ 253 + 2 * 2 ^ 244 + down * 2 ^ 239 + 0xF00000 * 2 ^ 207 + 2 * 2 ^ 191 + 128 * 2 ^ 167)
    let s (down : Nat) (st : TileSt) : State := muState [st] Mu.reset [] [(entryKey 2 2 0 0, f down)]
    ((s 1 .empty).cluster 0).swVert = some ⟨true, 0, 0xF00000, 2, 128⟩ ∧ 0 < 2 ∧ ((s 1 .empty).cluster 0).rblocked = false ∧
    (s 1 .empty).towerId (clTower 0) * 2 ^ 42 + 0x10000000000 + 0xF00000 = 0x10000F00000 ∧
    (∀ i, i < ((((s 1 .empty).cluster 0).tile 0).lcount) → (s 1 .empty).scratchBacked (0x10000F00000 + 128 * i) = true) ∧
    (after (exec (.swVertTile 0) (s 1 .empty)) fun t => (t.cluster 0).leaf = [(0, 0x21)] && ((t.cluster 0).tile 0).st = .ready) = true ∧
    (after (exec (.swVertTile 0) (s 0 .ready)) fun t => (t.posted.map fun p => (p.pa, p.data.head?)) = [(0x10000F00000, some 0x77)] &&
      ((t.cluster 0).tile 0).st = .draining) = true := by decide

theorem wit_slotsComplete :
    let t := muState [.draining, .filling] Mu.reset []
    let s := { t with clusters := [(0, (t.cluster 0).setBuf 0 { Buf.reset with slots := 2, pidx := 2 })] }
    (s.cluster 0).fillingSlots 0 = [1] ∧ ((s.cluster 0).buf 0).slots ≠ 0 ∧ ((s.cluster 0).tile 0).st = .draining ∧
    (after (exec (.slotFillComplete 0 0) s) fun t => ((t.cluster 0).tile 1).st = .ready && ((t.cluster 0).tile 1).tclk = 0) = true ∧
    (after (exec (.slotDrainComplete 0 0) s) fun t => ((t.cluster 0).tile 0).st = .empty && (t.cluster 0).leaf = [(0, 0x77)] &&
      (t.cluster 0).line 0 = ⟨false, 0, false⟩ && ((t.cluster 0).buf 0).cidx = 1) = true := by decide

/-- An array with formats of P and S as given, its plane loads from buffer 0 or from arr.q, ACC at row 3 (R229 to
R231). -/
def ctCfgFrame (role qmode pfmt sfmt : Nat) : Frame :=
  BitVec.ofNat 256 (4 * 2 ^ 244 + role * 2 ^ 236 + qmode * 2 ^ 233 + pfmt * 2 ^ 225 + sfmt * 2 ^ 217)

def ctLoadFrame (fmt krows jcols : Nat) : Frame :=
  BitVec.ofNat 256 (4 * 2 ^ 244 + 2 ^ 238 + fmt * 2 ^ 232 + krows * 2 ^ 225 + jcols * 2 ^ 218)

def ctAccFrame (row0 dout rsc : Nat) : Frame :=
  BitVec.ofNat 256 (5 * 2 ^ 244 + row0 * 2 ^ 234 + 2 ^ 232 + dout * 2 ^ 228 + rsc * 2 ^ 217)

def arrState (role fmt : Nat) (a : Arr) (ps qs : List Token) (rsc : Nat := 0) : State :=
  { State.reset with
    clusters := [(0, { Cluster.reset with
      cfg := [(entryKey 0 4 0 0, ctCfgFrame role 0 fmt fmt), (entryKey 0 4 1 0, ctLoadFrame fmt 2 3), (entryKey 0 5 0 0, ctAccFrame 3 0 rsc)]
      bufs := [(0, { Buf.reset with slots := 1 })]
      tiles := [(0, ⟨.ready, 0, false, false, fmt, 2048, 16, 16, 0, false⟩)]
      leaf := [(0, 5), (128, 6)]
      q := [(25, ps), (26, qs)], arr := a })] }

/-- A sparse plane of BF16: KROWS 2, JCOLS 3, S[0][0] = 2.0, S[1][0] = 3.0, S[0][1] = 1.0, logical k 0 and 1 in each group. -/
def bf16Plane : Plane := ⟨1, true, 2, 3, [0x4000, 0x3F80, 0] ++ List.replicate 61 0 ++ [0x4040], [], [4, 4, 4], []⟩

/-- A token of P in BF16: elements 0 and 1 are 1.0 and 2.0. -/
def pTok : Token := ⟨0, 1, 1, 0x40003F80⟩

theorem wit_ArraySteps :
    let on : Arr := { Arr.reset with active := some bf16Plane, swapDue := false }
    let s := arrState 0 1 on [pTok] []
    let due := arrState 0 1 { Arr.reset with shadow := some bf16Plane } [] []
    let scale := arrState 0 1 { on with acc := [(192, 0x40400000)] } [⟨5, 0, 1, 0x40000000⟩] [] 1
    ((s.arrayAt 0).isSome = true ∧ bf16Plane.kmax * fmtWidth 1 = 512 ∧ (s.cluster 0).head? 25 = some pTok ∧
      on.draining on.bank = false ∧ (s.cluster 0).ctChain = none ∧ ((s.cluster 0).ctAcc.map (·.row0)) = some 3) ∧
    -- 1·2 + 2·3 = 8 in column 0 and 1 in column 1 of row 3
    (after (exec (.arrayPass 0) s) fun t => (t.cluster 0).arr.elem 0 3 0 = 0x41000000 && (t.cluster 0).arr.elem 0 3 1 = 0x3F800000 &&
      (t.cluster 0).arr.n = 1 && (t.cluster 0).queue 25 = []) = true ∧
    ((due.cluster 0).arr.swapDue = true ∧ pairOk 1 1 none = true) ∧
    (after (exec (.planeSwap 0) due) fun t => (t.cluster 0).arr.active = some bf16Plane && (t.cluster 0).arr.shadow = none) = true ∧
    ((scale.cluster 0).head? 25 = some ⟨5, 0, 1, 0x40000000⟩ ∧ ((scale.cluster 0).ctAcc.map (·.rsc)) = some 1) ∧
    (after (exec (.arrayRescale 0) scale) fun t => (t.cluster 0).arr.elem 0 3 0 = 0x40C00000 && (t.cluster 0).arr.n = 0) = true := by
  decide

/-- A dense plane of 32 tokens in buffer 0, and one whose last token waits at arr.q. -/
theorem wit_planeLoad :
    let isPlane (l : Loaded) : Bool := match l with | .plane p => p.s.take 65 = 5 :: List.replicate 63 0 ++ [6] | _ => false
    let g := ctCfgOf (ctCfgFrame 0 0 1 1)
    let ld := ctLoadOf (ctLoadFrame 1 2 3)
    let s := arrState 0 1 Arr.reset [] []
    let q := arrState 1 1 { Arr.reset with load := List.replicate 31 (one 5) } [] [{ one 6 with kind := 1 }]
    (s.arrayAt 0 = some g ∧ (s.cluster 0).ctLoad = some ld ∧ (s.cluster 0).arr.shadow = none ∧ ((s.cluster 0).buf 0).slots ≠ 0 ∧
      ((s.cluster 0).tile 0).st = .ready) ∧
    isPlane (judgePlane g ld ((s.cluster 0).slotTokens ((s.cluster 0).tile 0) 0)) = true ∧
    (after (exec (.planeLoad 0) s) fun t => (t.cluster 0).arr.shadow.isSome && ((t.cluster 0).tile 0).st = .draining) = true ∧
    (q.cluster 0).head? 26 = some { one 6 with kind := 1 } ∧
    (match judgePlane (ctCfgOf (ctCfgFrame 1 0 1 1)) ld (List.replicate 31 (one 5) ++ [{ one 6 with kind := 1 }]) with | .plane _ => true | _ => false) = true ∧
    (after (exec (.planeLoad 0) q) fun t => (t.cluster 0).arr.shadow.isSome && (t.cluster 0).queue 26 = []) = true := by decide

theorem wit_drainAndRepair :
    let a : Arr := { Arr.reset with drain := some ⟨1, [{ one 3 with kind := 1 }]⟩, acc := [(4096, 5)], touched := [(1, 1)] }
    let s := arrState 0 1 a [] []
    ((s.cluster 0).room (s.cluster 0).drainDest 1) = true ∧
    (after (exec (.accumulatorDrain 0) s) fun t => (t.cluster 0).queue 0 = [{ one 3 with kind := 1 }] && (t.cluster 0).arr.drain = none &&
      (t.cluster 0).arr.elem 1 0 0 = 0 && (t.cluster 0).arr.touchBits 1 = 0) = true ∧
    (after (exec (.columnRepair 0 5) s) fun t => (t.cluster 0).arr.retired = some 5 && (t.celog.map fun e => (e.kind, e.detail)) = [(2, 5)]) = true ∧
    (after (exec (.columnRepair 0 6) (arrState 0 1 { a with retired := some 5 } [] [])) fun t => (t.cluster 0).arr.blocked) = true := by decide

/-- A card: KIND, a fill into handle 0 or a drain from it, SHAPE and DEST, a message to channel 7 (R80, R81). -/
def cardOf (kind shape dest : Nat) : Card := BitVec.ofNat 512 (kind + shape * 2 ^ 64 + dest * 2 ^ 128 + 7 * 2 ^ 384 + 2 ^ 446)

/-- Two tiles of 32 INT32 elements at 0x20080, the record in memory at 0x4000. -/
def tileShape : Shape := flat 0 0x20080 64 32

/-- A copy job in slot 0 of an engine of core 0, for job 5; buffer 0 of cluster 0 has two slots. -/
def copying (e : Nat) (j : CopyJob) (st : List TileSt) (buf : Buf) : State :=
  { State.reset with
    mem := (Memory.writeN [] 0x4000 (leBytes 128 tileShape.toNat)).writeN 0x4080 [0xAB, 0xCD]
    jobs := [(5, jobZero)]
    engines := [(e, { Engine.reset with tlb := [page 0x4000 0], slots := [(0, { j with job := 5 }), (1, { CopyJob.reset with edges := [64 * e, 3] })] })]
    clusters := [(0, { Cluster.reset with bufs := [(0, { buf with slots := 2, fmt := 8 })], tiles := tilesIn st, leaf := [(0, 0x77)] })] }

theorem wit_copyJobStart :
    let j := { CopyJob.reset with st := .waiting, card := cardOf 1 0x20000 0, admitted := true }
    let s := copying 0 j [.empty, .empty] .reset
    let i : CopyJob := { (s.copyJob 0 0) with sshape := tileShape }
    (cardLegal 0 (s.copyJob 0 0) = true ∧ cardLegal 1 (s.copyJob 0 0) = false ∧ (s.copyJob 0 0).kind = 1 ∧ (s.copyJob 0 0).edges = [] ∧
      (s.copyJob 0 0).shapeVa % 128 = 0) ∧
    s.translate (s.copyJob 0 0).ctx (s.engine 0).tlb 256 needLoad (s.agentCheck true) 0x20000 =
      .ok 0x4000 (page 0x4000 0) (s.engine 0).tlb s ∧
    ((s.line (lineOf 0x4000)).choices 0 = [] ∧ s.mem.readLe 0x4000 128 = tileShape.toNat) ∧
    (s.startCode i = 0 ∧ (shpOf tileShape).tiles = 2) ∧
    (after (exec (.copyJobStart 0 0) s) fun t => (t.copyJob 0 0).st = .running && (t.copyJob 0 0).limit = 2) = true ∧
    (after (exec (.copyJobStart 1 0) (copying 1 j [] .reset)) fun t => (t.copyJob 1 0).fail = 32 && (t.copyJob 1 0).st = .running) = true ∧
    (after (exec (.copyJobStart 0 0) (copying 0 { j with admitted := false } [] .reset)) fun t => (t.copyJob 0 0).fail = 32) = true := by
  decide

/-- A running job of a kind for tiles of two lines' worth of elements. -/
def running (kind : Nat) : CopyJob :=
  { CopyJob.reset with
    st := .running, card := cardOf kind 0x20000 0, limit := 2, sshape := tileShape, admitted := true }

/-- The first tile of a fill of two, both slots free; a later one by its notice; the write of the tile in hand. -/
theorem wit_fillTiles :
    let first := copying 0 (running 1) [.empty, .empty] .reset
    let next := copying 0 (running 1) [.empty, .empty] { Buf.reset with credit := 1, claim := some 0 }
    let hand := copying 0 { running 1 with started := true, taken := [[0]], lines := [(0x401, [0xAB, 0xCD])] } [.filling] { Buf.reset with claim := some 0 }
    ((first.copyJob 0 0).handles.map (handleOf 0) = [(0, 0)] ∧ ((first.cluster 0).buf 0).claim = none ∧
      first.startCode (first.copyJob 0 0) = 0 ∧ (∀ t, t < 2 → (shpOf tileShape).badElem t = none) ∧ first.freeAll (first.copyJob 0 0) = 2) ∧
    (after (exec (.copyJobTile 0 0) first) fun t => (t.copyJob 0 0).taken = [[0], [1]] && ((t.cluster 0).buf 0).claim = some 0 &&
      ((t.cluster 0).tile 0).st = .filling && ((t.cluster 0).tile 1).st = .filling && ((t.cluster 0).buf 0).pidx = 2) = true ∧
    (((next.cluster 0).buf 0).credit ≠ 0 ∧ ((next.cluster 0).tile 0).st = .empty) ∧
    (after (exec (.copyJobTile 0 0) next) fun t => (t.copyJob 0 0).taken = [[0]] && ((t.cluster 0).buf 0).credit = 0 &&
      ((t.cluster 0).tile 0).due && after (exec (.copyJobTile 0 0) t) fun u => (u.copyJob 0 0).started && (u.copyJob 0 0).pend.length = 1) = true ∧
    ((hand.copyJob 0 0).fills = [] ∧ (hand.copyJob 0 0).pend = []) ∧
    (after (exec (.copyJobTile 0 0) hand) fun t => (t.copyJob 0 0).progress = 1 && (t.copyJob 0 0).taken = [] &&
      (t.cluster 0).leaf.readLe 0 2 = 0xCDAB && !((t.cluster 0).tile 0).due) = true := by decide

theorem wit_CopyJobSteps :
    let run (kind : Nat) : CopyJob := { running kind with started := true }
    let rd := copying 0 { run 1 with pend := [0x401] } [.empty] .reset
    let wr := copying 0 { run 4 with wlines := [(0x401, [(0, 5), (3, 9)])] } [] .reset
    let drain := copying 1 { run 3 with started := false, dshape := tileShape } [.ready] .reset
    let gone := drain.onCluster 0 fun c => { c with bufs := [] }
    let done := copying 0 { run 1 with started := false, progress := 2, pts := 6 } [] { Buf.reset with claim := some 0 }
    (rd.translate (rd.copyJob 0 0).ctx (rd.engine 0).tlb 256 needLoad (rd.agentCheck true) (128 * 0x401) =
        .ok 0x4080 (page 0x4000 0) (rd.engine 0).tlb rd ∧ (rd.line (lineOf 0x4080)).choices 0 = []) ∧
    (after (exec (.copyJobTile 0 0) rd) fun t => (t.copyJob 0 0).pend = [] &&
      ((t.copyJob 0 0).lines.get 0x401).map (·.take 2) = some [0xAB, 0xCD]) = true ∧
    (wr.copyJob 0 0).kind = 4 ∧
    (match wr.translate (wr.copyJob 0 0).ctx (wr.engine 0).tlb 256 needStore (wr.agentCheck true) (128 * 0x401) with | .ok 0x4080 x _ _ => decide (x.mtype = 0) | _ => false) = true ∧
    (after (exec (.copyJobTile 0 0) wr) fun t => t.mem.readLe 0x4080 2 = 0x9DA5 && (t.copyJob 0 0).progress = 1 && (t.copyJob 0 0).pts = 1) = true ∧
    ((drain.copyJob 1 0).kind = 3 ∧ (drain.copyJob 1 0).handles.map (handleOf 0) = [(0, 0)] ∧ ((drain.cluster 0).tile 0).st = .ready ∧
      (shpOf tileShape).badElem 0 = none) ∧
    (after (exec (.drainTile 1 0) drain) fun t => ((t.cluster 0).tile 0).st = .draining && (t.copyJob 1 0).started && (t.copyJob 1 0).pts = 9) = true ∧
    (after (exec (.drainTile 1 0) gone) fun t => (t.copyJob 1 0).fail = 32) = true ∧
    ((∀ p ∈ done.posted, p.agent ≠ done.jobAgent 0 0) ∧ (done.copyJob 0 0).dkind = 1) ∧
    (after (exec (.copyJobComplete 0 0) done) fun t => (t.copyJob 0 0).st = .free && (t.copyJob 0 0).final = 6 && (t.copyJob 0 1).edges = [3] &&
      ((t.cluster 0).buf 0).claim = none && t.mail = [⟨.engine 0, 0, 7, ⟨0x200000000, 6⟩⟩]) = true := by decide

/-- A WRITE with a whole record in hand writes it before it takes the EOS behind it (R212); under SWAP 2 a swap waits for the
next record's first token (R148). -/
theorem test_turns :
    let held : Ag := { Ag.reset with held := [{ one 7 with kind := 1 }] }
    let s := agState 1 (agc 2) held [] [⟨2, 0, 0, 0⟩]
    let due (ps : List Token) := arrState 0 1 { Arr.reset with shadow := some bf16Plane } ps []
    let mark (ps : List Token) : State := (due ps).onCluster 0 fun c => { c with cfg := c.cfg.map fun p => if p.1 = entryKey 0 4 0 0 then (p.1, p.2 ||| 2 ^ 230) else p }
    (s.cluster 0).agTurn 0 (agc 2).unit.toNat ≠ some (.endTokenAtUnit 0 (8 + (agc 2).unit.toNat)) ∧
    ((mark []).cluster 0).arrTurn 0 = .arrayPass 0 ∧ ((mark [pTok]).cluster 0).arrTurn 0 = .planeSwap 0 ∧
    ((due []).cluster 0).arrTurn 0 = .planeSwap 0 := by decide

/-- SCATTER of one lane to memory: the line of its element, then the store and the next lane. -/
theorem wit_scatterToMemory :
    let p := { page 0x5000 1 with va := 0x21000 }
    let a : Ag := { Ag.reset with shape := some (flat 0 0x21000 4 4), bases := [p] }
    let s (a : Ag) : State := agState 3 (agc 0) a [one 2] [one 30]
    let ls : Table (List (Nat × Nat)) := addCells [] ((shpOf (flat 0 0x21000 4 4)).cells 0x21008 false 30)
    let full : Ag := { a with wlines := ls }
    ((s a).agFor 3 (agc 0) = some (0, 0, agOf (s a)) ∧ ((s a).cluster 0).agHeads 0 3 (agc 0) = .valued (one 2) (one 30) ∧
      (shpOf (flat 0 0x21000 4 4)).at false [sextNat 32 ((one 2).lane 0)] = .loc 0x21008 false ∧ ls ≠ [] ∧ ls.map (·.1) = [0x420]) ∧
    (after (exec (.agScatter (agc 0)) (s a)) fun t => (agOf t).wlines = ls && (agOf t).elem = 0) = true ∧
    (s full).translate ((s full).agCtx 0 full.pts) full.bases 0 needStore ((s full).agentCheck false) (128 * 0x420) = .ok 0x5000 p [p] (s full) ∧
    (((s full).onAg 0 0 fun a => { a with bases := useBase a.bases p }).agentStore
      (((s full).onAg 0 0 fun a => { a with bases := useBase a.bases p }).agentOf 0 0) p 0x5000 ((ls.get 0x420).getD [])).isSome = true ∧
    (after (exec (.agScatter (agc 0)) (s full)) fun t => t.mem = [(0x5008, 30)] && (agOf t).elem = 1 && (t.cluster 0).queue 16 = [one 2]) = true := by
  decide

/-- A second column mismatch fails the launch that runs there; a data token of a record from arr.q; slots of a legal layout. -/
theorem wit_secondMismatch :
    let s := runs Core.reset [] { (arrState 0 1 .reset [] []).cluster 0 with arr := { Arr.reset with retired := some 5 } }
    let q := arrState 1 1 Arr.reset [] [one 5]
    let tile := ((arrState 0 1 .reset [] []).cluster 0).tile 0
    ((s.arrayAt 0).isSome = true ∧ (s.cluster 0).arr.retired = some 5 ∧
      ((s.hostOf 0).map fun h => (h.1.status, h.1.ending.isNone, decide (h.1.st ≠ .ended))) = some (0, true, true)) ∧
    (after (exec (.columnRepair 0 6) s) fun t => (t.cluster 0).arr.blocked && ((t.launch? 5 1).map (·.status)) = some 38) = true ∧
    ((q.cluster 0).head? 26 = some (one 5) ∧ (one 5).kind = 0 ∧ (q.cluster 0).arr.load.getLast? = none) ∧
    (after (exec (.planeLoad 0) q) fun t => (t.cluster 0).arr.load = [one 5] && (t.cluster 0).queue 26 = []) = true ∧
    tile.badLayout = false := by decide

/-- A FILLREPL claims both its buffers; a tile whose slots are bound starts; an uncached line read. -/
theorem wit_fillsOfTwo :
    let two (j : CopyJob) : State := (copying 0 { j with card := cardOf 2 0x20000 (2 ^ 7 * (64 + 1)) } [.empty, .empty] .reset).onCluster 1 fun c =>
      { c with bufs := [(0, { Buf.reset with slots := 2, fmt := 8 })], tiles := tilesIn [.empty, .empty] }
    let s := copying 0 { running 1 with taken := [[0]] } [.filling] { Buf.reset with claim := some 0 }
    let rd : State := { copying 0 { running 1 with started := true, pend := [0x401] } [.empty] .reset with
      engines := [(0, { Engine.reset with tlb := [page 0x4000 1], slots := [(0, { running 1 with started := true, pend := [0x401], job := 5 })] })] }
    ((s.copyJob 0 0).taken ≠ [] ∧ (s.copyJob 0 0).kind ≠ 3 ∧ (s.copyJob 0 0).progress < (s.copyJob 0 0).limit) ∧
    (after (exec (.copyJobTile 0 0) s) fun t => (t.copyJob 0 0).started && (t.copyJob 0 0).pend = (shpOf tileShape).tileLines 0) = true ∧
    (rd.translate (rd.copyJob 0 0).ctx (rd.engine 0).tlb 256 needLoad (rd.agentCheck true) (128 * 0x401) =
        .ok 0x4080 (page 0x4000 1) (rd.engine 0).tlb rd ∧ (rd.line (lineOf 0x4080)).choices (rd.homeClock (pkgOf 0x4080)) = []) ∧
    (after (exec (.copyJobTile 0 0) rd) fun t => (t.copyJob 0 0).pend = [] && (t.copyJob 0 0).pts = 0) = true ∧
    ((two (running 2)).copyJob 0 0).kind = 2 := by decide

/-! ## Lines, turns, launches, rows -/

/-- Line 0x81 (0x4080) as given; a byte there that HBM has not. -/
def lineIs (li : LineInfo) : State := { State.reset with mem := [(0x4080, 5)], lines := [(0x81, li)] }

def lineAfter (o : Out) (p : LineInfo → Bool) : Bool := after o fun t => p (t.line 0x81)

theorem wit_LineEvents :
    let own (st : LineSt) : State := lineIs { LineInfo.reset with st := st, owner := 1, wts := 4, rts := 9 }
    -- the forwarded load of tower 2 at clock 6: lease to 262
    ((own .e).line 0x81).owned = true ∧ (own .e).isFenced (2 / 4) = false ∧ (own .e).lineFault (128 * 0x81) = none ∧
    (own .m).noAlloc 1 (128 * 0x81) = true ∧ (own .m).noAlloc 0 (128 * 0x81) = false ∧
    lineAfter (exec (.ownerForward 0x81 2 6 false) (own .e)) (fun l => l.st = .s && l.owner = 0x3FF && l.rts = 262) = true ∧
    lineAfter (exec (.ownerForward 0x81 2 6 false) (own .m)) (fun l => l.st = .o && l.owner = 1 && l.recRts = 262) = true ∧
    lineAfter (exec (.ownerForward 0x81 0 6 true) (own .m)) (fun l => l.st = .m && l.owner = 0 && l.wts = 10 && l.rts = 10) = true ∧
    (after (exec (.writeBack 0x81) (own .m)) fun t => t.hbm = [(0x4080, 5)] && (t.line 0x81).st = .i) = true ∧
    lineAfter (exec (.writeBack 0x81) (own .o)) (fun l => l.st = .s && l.rts = 9) = true ∧
    lineAfter (exec (.evictionNotice 0x81) (own .e)) (fun l => l.st = .i && l.owner = 0x3FF) = true ∧
    -- the forwarded store of tower 2 takes the remote way behind its bank's two home ways; a fenced owner, a lost copy
    (let r := { own .m with banks := [(64 * 2 + crownBankOf 0x4080, { Bank.reset with home := 2, remote := 3 })] }
     2 / 4 = r.pkg ∧ 2 ≠ homeOf 0x4080 ∧ r.noAlloc 2 0x4080 = false ∧ (r.bank 2 (crownBankOf 0x4080)).home = 2 ∧
     (∀ x ∈ r.lines.keys, x = 0x81) ∧ max 6 ((r.line 0x81).rts + 1) ≤ 0xFFFFFF ∧
     lineAfter (exec (.ownerForward 0x81 2 6 true) r) (fun l => l.st = .m && l.owner = 2 && l.rway = 2 && l.wts = 10) = true) ∧
    (let gone := { own .m with lines := [(0x81, { LineInfo.reset with st := .m, owner := 5 })], fenced := [1] }
     gone.isFenced ((gone.line 0x81).owner / 4) = true ∧ lineAfter (exec (.writeBack 0x81) gone) (fun l => l.st = .m && l.owner = 5) = true) ∧
    (let lost := lineIs { LineInfo.reset with st := .e, owner := 1, copy := .lost }
     (lost.line 0x81).copy = .lost ∧ lineAfter (exec (.evictionNotice 0x81) lost) (fun l => l.st = .e && l.copy = .lost) = true) ∧
    lineAfter (exec (.leaseRenewal 0x81 4 300) (own .s)) (fun l => l.rts = 556) = true ∧
    lineAfter (exec (.leaseRenewal 0x81 3 300) (own .s)) (fun l => l.rts = 556) = true := by decide

theorem wit_treesAndScrub :
    let tree := lineIs { LineInfo.reset with place := .tree 7 }
    let warm := { lineIs .reset with regions := [(7, [⟨5, 1, 0x80, 4, true⟩])] }
    let sick := { lineIs { LineInfo.reset with sym := true, recTurn := true, recWts := 3, recRts := 4 } with scrub := [(0, 0x81)] }
    (tree.line 0x81).place = .tree 7 ∧ tree.hasHomeWays 0x81 = true ∧
    lineAfter (exec (.treeBankEviction 0x81) tree) (fun l => l.place = .home) = true ∧
    (windowOf (128 * 0x81) = .hbm ∧ homeOf (128 * 0x81) = warm.towerId (7 / 252) ∧ warm.treeRoom 7 = true ∧ (warm.line 0x81).owned = false ∧ 0x80 ≤ 0x81 ∧ 0x81 < 0x80 + 4) ∧
    lineAfter (exec (.warmPrefetch 5 1 0x81) warm) (fun l => l.place = .tree 7) = true ∧
    (sick.scrub.getD (homeOf (128 * 0x81)) 0 % 2 ^ 30 = offOf (128 * 0x81) / 128 ∧ (sick.line 0x81).bad = false ∧ (sick.line 0x81).recTurn ≠ sick.turn) ∧
    (after (exec (.scrubVisit 0x81) sick) fun t => (t.line 0x81).sym = false && (t.line 0x81).recWts = 0 && t.celog.length = 1) = true := by
  decide

/-- FORFEIT of a line that HBM lost, by the management core in a privileged mode; a twig switch with two writes. -/
theorem wit_forfeit :
    let s (bad : Bool) : State := { memState [0x20080] with lines := [(0x81, { LineInfo.reset with bad := bad, recRts := 7 })] }
    (s true).me.priv = true ∧ windowOf 0x4080 = .hbm ∧
    (match (s true).translate (s true).coreCtx (s true).me.tlb 256 needStore (fun _ _ => none) 0x20080 with | .ok 0x4080 _ _ _ => true | _ => false) = true ∧
    (after (exec (.forfeit 9 1) (s true)) fun t => t.me.get 9 = 2 && t.me.pts = 8 && (t.line 0x81).bad = false && t.mem.readLe 0x4080 1 = 0) = true ∧
    (after (exec (.forfeit 9 1) (s false)) fun t => t.me.get 9 = 0 && t.mem.readLe 0x4080 1 = 5) = true := by decide

theorem wit_twigSwitch :
    let s : State := { State.reset with twig := [⟨9, 1, 0, [1], none, 5⟩, ⟨9, 1, 0, [2], none, 5⟩, ⟨8, 1, 0, [0xA], some true, 6⟩] }
    s.twig[0]? = some ⟨9, 1, 0, [1], none, 5⟩ ∧ (∃ v ∈ s.twig.take 1, v.agent = 9 ∧ v.cl = 1) ∧
    (∀ v ∈ s.twig.take 2, v.agent ≠ 8 ∨ v.cl ≠ 1) ∧
    (after (exec (.twigSwitchWrite 0) s) fun t => (t.cluster 1).leaf = [(0, 1)] && t.twig.length = 2 &&
      (t.cluster 1).line 0 = ⟨true, 5, false⟩) = true ∧
    (after (exec (.twigSwitchWrite 2) s) fun t => (t.cluster 1).leaf = [(0, 0xA0)] && t.twig.length = 2 &&
      (t.cluster 1).line 0 = ⟨true, 6, false⟩) = true ∧
    (after (exec (.twigSwitchWrite 1) s) fun t => t.twig.length = 3) = true := by decide

theorem wit_TurnAdvances :
    let s : State := { lineIs { LineInfo.reset with wts := 4, rts := 9, st := .m, owner := 1 } with
      turnReq := true, twig := [⟨9, 1, 0, [1], none, 5⟩], launches := [{ oneRow [] with clock := 7, reached := some 8 }]
      mail := [⟨.home 0, 0, 7, ⟨5, 12⟩⟩], clocks := [(0, 30)], engines := [(0, { Engine.reset with maxFinal := 9 })]
      cores := [(0, { regsAre [3] with pts := 5, chans := [(7, { Channel.reset with queue := [⟨1, 4⟩] })] })], scrub := [0, 1, 2, 3].map fun t => (t, 2 ^ 30) }
    s.turnReq = true ∧ (∀ t, t < 4 → 2 ^ 30 ≤ s.scrub.getD (s.towerId t) 0) ∧
    (after (exec .turnAdvance s) fun t => t.turn && !t.turnReq && t.me.pts = 0 && t.me.get 1 = 3 && (t.line 0x81).rts = 0 && (t.line 0x81).st = .m &&
      t.scrub.get (t.towerId 3) = some 0 && (t.me.chan 7).queue = [⟨1, 0⟩] && t.mail = [⟨.home 0, 0, 7, ⟨5, 0⟩⟩] && t.homeClock 0 = 0 &&
      t.twig.map (·.pts) = [0] && (t.engine 0).maxFinal = 0 && t.launches.map (fun l => (l.clock, l.reached)) = [(0, some 0)]) = true ∧
    (after (exec .turnAdvance { s with scrub := [(0, 2 ^ 30), (1, 2 ^ 30), (2, 5), (3, 2 ^ 30)] }) fun t => !t.turn) = true := by decide

/-- Launch 1 of job 5: a band of 4 by 2 with one stage of one slot, its image at VA 0x20000. -/
def sinkImage : List Frame := [slotFrame 0x00 { cell 2 0 8 with dst := 0 }, BitVec.ofNat 256 (7 * 2 ^ 253)]

def waiting (l : Launch) : State :=
  { State.reset with
    mem := Memory.writeN [] 0x4000 (sinkImage.map fun f => leBytes 32 f.toNat).flatten
    jobs := [(5, { jobZero with ctxper := 81920 * 8 })]
    l2 := [(0, [page 0x4000 0])]
    launches := [l] }

def twoRows : Launch :=
  { newLaunch 1 5 [BitVec.ofNat 64 (2 * 2 ^ 51 + 2 ^ 39), 0x20000] (some 0) false 3 0 with entry := some 0, reached := some 11 }

def checkJob : Job := { jobZero with ctxper := 81920 * 8 }

/-- That launch, ELIGIBLE, its checks so far, its image at va. -/
def checkedTo (check : Check) (va : Nat := 0x20000) : Launch :=
  { twoRows with st := .eligible, check := check, words := [BitVec.ofNat 64 (2 * 2 ^ 51 + 2 ^ 39), BitVec.ofNat 64 va] }

/-- STATE, the checks so far, the images read and the status of launch 1 after a step. -/
def checkNow (o : Out) : Option (LaunchSt × Check × List (List Frame) × Nat) :=
  match o with
  | .next t => (t.live 5 1).map fun l => (l.st, l.check, l.images, l.status)
  | _ => none

noncomputable def checks (l : Launch) : Option (LaunchSt × Check × List (List Frame) × Nat) := checkNow (exec (.launchEligible 5 1) (waiting l))

def readsAs (va : Nat) (bs : List Byte) : Bool :=
  match (waiting twoRows).imageRead checkJob va with
  | .ok xs _ _ => xs = bs
  | _ => false

def wordsGood (l : Launch) : Option Bool :=
  match (waiting l).checkWords checkJob l with
  | .ok _ _ => some true
  | .bad _ => some false
  | .wait _ => none

/-- A counter that is reached, and the words checked with STATE noted; a misaligned counter. -/
theorem wit_launchEligible :
    let s := waiting twoRows
    let odd : Launch := { checkedTo .due with words := [BitVec.ofNat 64 (2 * 2 ^ 51 + 2 ^ 39), 0x20000, 0x20004] }
    s.live 5 1 = some twoRows ∧ twoRows.isBarrier = false ∧ s.barriersDone twoRows = true ∧
    (((s.settle s).live 5 1).map fun l => (l.st, l.start, l.check)) = some (.eligible, 11, .due) ∧
    (s.job 5 = some checkJob ∧ s.noteSnapshot (checkedTo .due) = .ok [] 0 s ∧ wordsGood (checkedTo .due) = some true ∧
      checks (checkedTo .due) = some (.eligible, .reading [], [], 0)) ∧
    (wordsGood odd = some false ∧ ((checks odd).map fun x => x.2.2.2) = some 32) := by decide

/-- The image's slot frame and its end; an image of an end alone; a page that does not translate. -/
theorem wit_imageReads :
    let f := sinkImage.headD 0
    let e := sinkImage.getD 1 0
    (readsAs 0x20000 (leBytes 32 f.toNat) = true ∧ Frame.layout f ≠ 7 ∧
      checks (checkedTo (.reading [])) = some (.eligible, .reading [f], [], 0)) ∧
    (readsAs 0x20020 (leBytes 32 e.toNat) = true ∧ Frame.layout e = 7 ∧ twoRows.depth = 1 ∧
      ({ checkedTo .due with images := [sinkImage] }).imageFault checkJob = none ∧
      checks (checkedTo (.reading [f])) = some (.eligible, .made, [sinkImage], 0)) := by
  refine ⟨⟨?_, ?_, ?_⟩, ?_, ?_, ?_, ?_, ?_⟩ <;> decide

/-- An image of an end alone; a page that does not translate; the first image of two. -/
theorem wit_imageFaults :
    let f := sinkImage.headD 0
    let e := sinkImage.getD 1 0
    let two : Launch := { checkedTo (.reading [f]) with words := [BitVec.ofNat 64 (2 * 2 ^ 51 + 2 * 2 ^ 39), 0x20000] }
    (({ checkedTo .due with images := [[e]] }).imageFault checkJob = some none ∧
      ((checks (checkedTo (.reading []) 0x20020)).map fun x => x.2.2.2) = some 32) ∧
    ((match (waiting twoRows).imageRead checkJob 0x30000 with | .fault _ _ => true | _ => false) = true ∧
      ((checks (checkedTo (.reading []) 0x30000)).map fun x => x.2.2.2) = some 32) ∧
    (two.depth = 2 ∧ checks two = some (.eligible, .reading [], [sinkImage], 0)) := by decide

theorem wit_launchDispatch :
    let l := { twoRows with st := .eligible, check := .made, images := [sinkImage] }
    let s := waiting l
    l.seeks = true ∧ s.turnOf l = true ∧ ((s.findBand l).map fun b => (b.tower, b.layer, b.x, b.y, b.width)) = some (0, 0, 0, 0, 4) ∧
    ((s.findBand l).map fun b => (s.demandFault b.demands, s.demandFits b.demands)) = some (none, true) ∧
    ((s.findBand l).map fun b => match s.declare { jobZero with ctxper := 81920 * 8 } l b with | .ok r _ => decide (r = []) | _ => false) = some true ∧
    (after (exec (.launchDispatch 5 1) s) fun t => ((t.live 5 1).map (·.st)) = some .running && (t.cluster 17).launch = some (5, 1) &&
      (t.cluster 4).launch = none) = true := by decide

theorem wit_starvation :
    let l := { twoRows with st := .eligible, check := .made, images := [sinkImage], eligible := 7 }
    let s := { waiting l with time := 263 }
    l.seeks = true ∧ s.reserved = none ∧ l.eligible + 256 ≤ s.time ∧ (∀ x ∈ s.launches, x.seeks = true → s.precedes x l = false) ∧
    (after (exec (.starvationReserve 5 1) s) fun t => t.reserved = some (5, 1, 0)) = true ∧
    (after (exec (.starvationReserve 5 1) { s with time := 262 }) fun t => t.reserved = none) = true := by decide

/-- A running launch whose one row has ended, or that failed, or was cancelled; a barrier of the same job. -/
theorem wit_LaunchLifecycle :
    let l := { twoRows with st := .running, images := [sinkImage] }
    let l := { l with band := some (l.bandAt ⟨0, 0, 0, 0⟩), clock := 40 }
    let mine : Cluster := { Cluster.reset with launch := some (5, 1), done := true }
    let s (l : Launch) : State := { waiting l with clusters := (l.band.map fun b => b.clusters.map fun cl => (cl, mine)).getD [] }
    let bar := { newLaunch 2 5 [] (some 0) false 0 1 with reached := some 0 }
    let sb : State := { waiting l with launches := [{ l with st := .ended, band := none }, bar] }
    let begun (o : Out) (lid : Nat) : Option (Nat × Option (Ending × EndStep)) :=
      match o with | .next t => (t.launch? 5 lid).map fun x => (x.clock, x.ending) | _ => none
    (l.placed.map fun b => (s l).bandDone b) = some true ∧ l.ending = none ∧ (l.band.bind (·.context)) = none ∧
    begun (exec (.launchComplete 5 1) (s l)) 1 = some (40, some (.completed, .discard [] 0 0)) ∧
    begun (exec (.launchComplete 5 1) (s { l with status := 32 })) 1 = some (40, some (.failed, .tell)) ∧
    begun (exec (.launchComplete 5 1) (s { l with cancelled := true })) 1 = some (40, some (.cancelled, .count)) ∧
    (bar.isBarrier = true ∧ sb.live 5 2 = some bar ∧ sb.job 5 = some checkJob ∧ bar.status = 0 ∧ bar.cancelled = false ∧ bar.band = none ∧
      (∀ x ∈ sb.launches, x.job = 5 → x.order < bar.order → x.st = .ended)) ∧
    (match sb.checkWords checkJob bar with | .ok _ _ => true | _ => false) = true ∧
    begun (exec (.barrierComplete 5 2) sb) 2 = some (40, some (.completed, .discard [] 0 0)) := by
  refine ⟨?_, ?_, ?_, ?_, ?_, ?_, ⟨?_, ?_, ?_, ?_, ?_, ?_, ?_⟩, ?_, ?_⟩ <;> decide

/-- That launch on its band as it ends: USE 2 of its stream 0, of one line at 0x4000; SIGNAL_COUNTER at 0x4080; ENDED at 0x4088. -/
def endingAt (e : EndStep) (core : Option Nat := some 0) (how : Ending := .completed) : Launch :=
  let l := { twoRows with
    words := [BitVec.ofNat 64 (2 * 2 ^ 51 + 2 ^ 39 + 2 * 2 ^ 23), 0x20000, 0x20000, 0, 0, 0, 0, 0x20080]
    st := .running, core := core, clock := 40, ending := some (how, e), ranges := [(0, 0x400, 1)] }
  { l with band := some (l.bandAt ⟨0, 0, 0, 0⟩) }

def endJob : Job := { checkJob with ended := 0x20088, vf := 1 }

def ends (l : Launch) : State :=
  { State.reset with
    mem := [(0x4000, 9), (0x4080, 3), (0x4088, 7)]
    hbm := [(0x4000, 1)]
    jobs := [(5, endJob)]
    l2 := [(0, [page 0x4000 0])]
    launches := [l]
    reserved := some (5, 1, 0)
    clusters := (l.band.map fun b => b.clusters.map fun cl => (cl, { Cluster.reset with launch := some (5, 1), done := true })).getD []
    cores := [(0, { Core.reset with chans := [(62, { Channel.reset with entry := some 0 })] })] }

noncomputable def endMove (l : Launch) (p : State → Launch → Bool) : Bool :=
  after (exec (.launchComplete 5 1) (ends l)) fun t => ((t.launch? 5 1).map (p t)).getD false

def nextEnd (e : EndStep) (clock : Nat) (x : Launch) : Bool := x.ending = some (.completed, e) && x.clock = clock

theorem wit_endMoves :
    let s := ends (endingAt .signal)
    let ctx := s.endCtx endJob (endingAt .signal) 40
    let reaches (va pa : Nat) : Bool := match s.counterPa ctx needBoth va with | .ok q _ _ t => q = pa && t = s | _ => false
    let lineAt (line : Nat) : Option Bool := match s.streamLine ctx needStore s.jobCheck line with | .ok _ t => some (t = s) | .bad t => some (t ≠ s) | _ => none
    (s.launch? 5 1 = some (endingAt .signal) ∧ s.job 5 = some endJob ∧ lineAt 0x400 = some true ∧ lineAt 0x600 = some false ∧
      (match s.deadRange endJob (endingAt .signal) 0 with | .ok r t => decide (r = (0x400, 1)) && t = s | _ => false) = true) ∧
    endMove (endingAt (.discard [(1, 0)] 0 0)) (fun _ => nextEnd (.discard [] 0x400 1) 40) = true ∧
    endMove (endingAt (.discard [] 0x400 1)) (fun t l => nextEnd (.discard [] 0x401 0) 40 l && t.mem.read 0x4000 = 1 &&
      (t.line 0x80).wts = 40 && (t.line 0x80).st = .i) = true ∧
    endMove (endingAt (.discard [] 0x600 1)) (fun t l => nextEnd (.discard [] 0x601 0) 40 l && t.mem = s.mem) = true ∧
    endMove (endingAt (.discard [] 0 0)) (fun _ => nextEnd .signal 40) = true ∧
    (reaches 0x20080 0x4080 = true ∧ windowOf 0x4080 = .hbm ∧ max 40 ((s.line (lineOf 0x4080)).rts + 1) ≤ 0xFFFFFF) ∧
    endMove (endingAt .signal) (fun t l => nextEnd .tell 40 l && t.mem.readLe 0x4080 8 = 4) = true ∧
    endMove { endingAt .signal with words := [BitVec.ofNat 64 (2 * 2 ^ 51)] } (fun t l => nextEnd .tell 40 l && t.mem = s.mem) = true := by
  decide

theorem wit_endTells :
    let full : State := { ends (endingAt .tell none) with regs := { (ends (endingAt .tell none)).regs with donq := [(1, List.replicate 64 0)] } }
    let j := endJob
    endMove (endingAt .tell) (fun t l => nextEnd .count 40 l && (t.mail.map fun m => (m.core, m.chan, m.msg.word)) = [(0, 62, 1)]) = true ∧
    endMove (endingAt .tell none) (fun t l => nextEnd .count 40 l && (t.regs.donq.get 1) = some [0x8000000000000001] &&
      t.regs.msix.getD 4 false) = true ∧
    (64 ≤ (full.regs.donq.getD j.vf []).length ∧ gives (exec (.launchComplete 5 1) full) full = true) ∧
    endMove (endingAt .count) (fun t l => nextEnd .close 40 l && t.mem.readLe 0x4088 8 = 8) = true := by decide

/-- The last moves: the band, its clusters and the reservation are free; the pool takes the next pending snapshot, or none is. -/
theorem wit_endClose :
    let s := ends (endingAt .close)
    let gone : Launch := { endingAt .refill with st := .ended, band := none, entry := none }
    let pending := newLaunch 2 5 [BitVec.ofNat 64 (2 * 2 ^ 51)] (some 0) false 0 1
    let two : State := { ends gone with launches := [gone, pending], jobs := [(5, { endJob with pooln := 4 })] }
    (s.noteSnapshot { endingAt .close with st := .ended } = .ok [] 0 s) ∧
    endMove (endingAt .close) (fun t x => x.st = .ended && x.band = none && x.clock = 40 && x.ending = some (.completed, .refill) &&
      (t.cluster 17).launch = none && t.reserved = none) = true ∧
    ((((ends gone).ofJob 5).find? fun x => x.admissible && endJob.admits ((ends gone).poolUse 5) x.res) = none ∧
      endMove gone (fun _ x => x.ending = none) = true) ∧
    (((two.ofJob 5).find? fun x => x.admissible && ({ endJob with pooln := 4 }).admits (two.poolUse 5) x.res) = some pending ∧ pending.pq = none ∧
      (after (exec (.launchComplete 5 1) two) fun t => ((t.launch? 5 2).map fun x => x.entry.isSome) = some true) = true) := by decide

theorem wit_reports :
    let withBand (f : Band → Band) : State := { placed with launches := [{ oneRow [] with band := (oneRow []).band.map f }] }
    let held := withBand fun b => { b with holds := [⟨0, 65, false, false⟩] }
    let dead := withBand fun b => { b with deadlock := 2 ^ 20 }
    (((held.live 5 1).bind (·.placed)).map fun b => (b.held 0, held.storesDone (b.rowClusters 0))) = some (true, true) ∧
    (after (exec (.quiescenceReport 5 1 0) held) fun t => ((t.live 5 1).bind fun l => l.band.map fun b => b.holds.map (·.quiet)) = some [true]) = true ∧
    (after (exec (.deadlockDetected 5 1) dead) fun t => ((t.live 5 1).map (·.status)) = some 36 && t.faultq.length = 1) = true := by decide

/-- MU.STATE of column 0 with its area at VA 0x22000 (R223). -/
def stateFrame (slen : Nat) : Frame := BitVec.ofNat 256 (2 ^ 253 + 4 * 2 ^ 244 + 0x22000 * 2 ^ 183 + slen * 2 ^ 151)

/-- A scrolling band of one row and one stage: the row, the EOS wave, saved state; the row's clusters. -/
def scrolled (x : Row) (slen : Nat) (eos : Option Nat) (saved : List SavedStage) (c : Cluster) : State :=
  let l := oneRow [stateFrame slen]
  { State.reset with
    scratch := [(0x10000F00000, 0x21)]
    banks := [(0, { Bank.reset with home := 15, scratch := 1 })]
    jobs := [(5, jobZero)]
    l2 := [(0, [{ page 0x10000F00000 1 with va := 0x22000 }])]
    clusters := rowOf c
    launches := [{ l with band := l.band.map fun b => { b with scroll := true, rows := [x], eosWave := eos, saved := saved } }] }

def rowNowIs (o : Out) (st : RowSt) (p : Nat) : Bool :=
  after o fun t => ((t.live 5 1).bind fun l => l.band.map fun b => ((b.row 0).st, (b.row 0).p)) = some (st, p)

theorem wit_RowMoves :
    let row (st : RowSt) (p : Nat) : Row := ⟨st, p, 0, false, false, false, []⟩
    let s (st : RowSt) (p : Nat) : State := scrolled (row st p) 0x4000 none [] .reset
    let granted (s : State) : Bool := ((s.scrolling 5 1).map fun q => q.2.granted 0) = some true
    let saves (s : State) : Bool := match s.scrolling 5 1 with
      | some (l, b) => (match s.saveRow l b 0 with | .ok _ _ => true | _ => false)
      | none => false
    let through (s : State) : Bool := ((s.scrolling 5 1).map fun q => (q.2.beforeGone 0, s.rowThrough q.2 0 false)) = some (true, true)
    (granted (s .empty 0) = true ∧ [0, 1, 2, 3].Nodup) ∧
    (after (exec (.rowLoadStart 5 1 0) (s .empty 0)) fun t => rowNowIs (.next t) .loading 0 && !(t.cluster 2).done &&
      (t.cluster 0).kept = [stateFrame 0x4000] && (t.cluster 1).kept = []) = true ∧
    ((s .loading 0).scrolling 5 1).map (fun q => (s .loading 0).configured q.2 0) = some true ∧
    rowNowIs (exec (.rowLoadComplete 5 1 0) (s .loading 0)) .resident 0 = true ∧
    through (s .resident 0) = true ∧ rowNowIs (exec (.rowDrained 5 1 0) (s .resident 0)) .drained 0 = true ∧
    (granted (s .drained 0) = true ∧ saves (s .drained 0) = true) ∧
    (after (exec (.rowSaveStart 5 1 0) (s .drained 0)) fun t => rowNowIs (.next t) .saving 0 && t.posted.length ≠ 0) = true ∧
    (after (exec (.rowSaveStart 5 1 0) (scrolled (row .drained 0) 0x3FFF none [] .reset)) fun t => rowNowIs (.next t) .saving 0 &&
      t.posted = [] && (t.faultq.map (·.unit)) = [.save 5 1 0]) = true ∧
    rowNowIs (exec (.rowSaveComplete 5 1 0) (scrolled { row .saving 0 with wrote := true } 0x4000 none [] .reset)) .loading 1 = true ∧
    rowNowIs (exec (.rowSaveComplete 5 1 0) (scrolled { row .saving 0 with wrote := true } 0x4000 (some 0) [] .reset)) .empty 1 = true ∧
    rowNowIs (exec (.rowEosRetire 5 1 0) (scrolled (row .resident 0) 0x4000 (some 0) [] .reset)) .empty 1 = true := by decide

/-- Wave 1 of stage 0 restores a generator's traversal; other bytes in the area do not. -/
theorem wit_restore :
    let old : Cluster := Cluster.reset.setAg 0 { Ag.reset with tile := 6 }
    let bytes : List Byte := 0x21 :: List.replicate 127 0
    let v (bs : List Byte) : SavedStage := ⟨0, 0, [old], bs, true⟩
    let s (bs : List Byte) : State := scrolled ⟨.loading, 1, 0, false, false, false, []⟩ 0x4000 none [v bs] (Cluster.reset.setAg 0 .reset)
    ((s bytes).scrolling 5 1).map (fun q => (q.2.stageAt 0, (q.2.savedOf 0).isSome, (q.2.area 0).map (·.2.1))) = some ((0, 1), true, some 0x22000) ∧
    ((s bytes).scrolling 5 1).map (fun q => (q.2.waveBeforeSaved (q.2.row 0).p, (q.2.rowClusters 0))) = some (true, [0, 1, 2, 3]) ∧
    (after (exec (.rowLoadComplete 5 1 0) (s bytes)) fun t => rowNowIs (.next t) .resident 1 && ((t.cluster 0).ag 0).tile = 6) = true ∧
    (after (exec (.rowLoadComplete 5 1 0) (s (List.replicate 128 0))) fun t => ((t.live 5 1).map (·.status)) = some 9) = true := by decide

/-! ## Whole steps -/

/-- A core in a privileged task with a word at its PC 0x20008 (ADD g3, g4, g5: 0x01190A0000000000). -/
def fetching (w : Nat) (f : Core → Core) (r : List Move) : State :=
  { State.reset with
    sched := .core 0 :: r
    mem := Memory.writeN [] 0x4008 (leBytes 8 w)
    cores := [(0, f { regsAre [0, 0, 0, 7, 8] with
      pc := 0x20008, task := .chan 3, tlb := [{ page 0x4000 0 with ex := true, user := false }] })] }

theorem test_step_core :
    (after (step (fetching 0x01190A0000000000 id [])) fun t => t.me.get 3 = 15 && t.me.pc = 0x20010 && t.sched = []) = true ∧
    (after (step (fetching 0xFF00000000000000 id [])) fun t => t.me.code = 1 && t.me.eval = 0xFF00000000000000 && t.me.epc = 0x20008) = true ∧
    (after (step (fetching 0x01190A0000000001 id [])) fun t => t.me.code = 2) = true ∧
    (after (step (fetching 0xF100000000000001 (fun c => { c with priv := false, tlb := [{ page 0x4000 0 with ex := true }] }) [])) fun t =>
      t.me.code = 7 && t.me.priv) = true ∧
    (after (step (fetching 0x01190A0000000000 (fun c => { c with halted := true }) [])) fun t => t.me.get 3 = 0 && t.me.pc = 0x20008) = true := by
  decide

theorem wit_StepRunsDecoded :
    let s := fetching 0x01190A0000000000 id [.unit 0 0]
    let s0 : State := { s with sched := [.unit 0 0], actor := 0 }
    let slot : State := { slotState 0x00 (cell 2 0 8) [one 1, one 2] with sched := [.unit 0 0] }
    s.sched = .core 0 :: [.unit 0 0] ∧ s0.me.halted = false ∧ s0.me.task ≠ .none ∧
    (match s0.translate s0.coreCtx s0.me.tlb 256 needFetch (fun x pa =>
        if x.mtype ≠ 0 || windowOf pa ≠ .hbm then some (.permission, x.level)
        else (s0.lineFault pa).map fun c => (c, 0)) s0.me.pc.toNat with
      | .ok 0x4008 _ _ t => decide (t = s0) | _ => false) = true ∧
    latest s0 s0.me.pts 0x4008 ∧ decodeWord (BitVec.ofNat 64 (s0.mem.readLe (0x4008 / 8 * 8) 8)) = .instr (.add 3 4 5) ∧
    ((slot.cluster 0).unitTurn 0 0 = some (.iadd (cell 2 0 8)) ∧ (slot.cluster 0).slotCfg? 0 = some (0, cell 2 0 8) ∧
      (slot.cluster 0).slotFires 0 0 (cell 2 0 8) ((slot.cluster 0).slot 0) = true ∧
      decodeFrame (slotFrame 0 (cell 2 0 8)) = .instr (.iadd (cell 2 0 8))) ∧
    (after (step slot) fun t => (t.cluster 0).queue 4 = [one 3]) = true ∧
    (after (step { lineIs { LineInfo.reset with st := .e } with sched := [.event (.evictionNotice 0x81)] }) fun t => (t.line 0x81).st = .i) = true ∧
    (match step { State.reset with sched := [.core 192] } with | .fault .noSuchAgent => true | _ => false) = true ∧
    (match step { State.reset with sched := [.unit 3072 0] } with | .fault .noSuchAgent => true | _ => false) = true := by
  unfold latest; decide

/-- The first instruction after reset is the one that withFetchWord stores (log 11). -/
theorem test_withFetchWord :
    (after (step (State.reset.withFetchWord 64 0x2010800000000005)) fun t => t.me.get 2 = 5) = true := by decide

theorem wit_DecodeEncode :
    Instr.wf (.add 3 4 5) = true ∧ encodeWord (.add 3 4 5) = some 0x01190A0000000000 ∧
    Instr.wf (.ffma (slotCfgOf ffmaFrame)) = true ∧ encodeFrame (.ffma (slotCfgOf ffmaFrame)) = some ffmaFrame ∧
    encode (.add 3 4 5) ≠ [] ∧ decodeTableWord 64 0x01190A0000000000 = some (.add 3 4 5) ∧
    decodeTableWord 256 ffmaFrame.toNat = some (.ffma (slotCfgOf ffmaFrame)) := by decide

/-- A store that changes memory, from a state in canonical form. -/
theorem wit_StepKeepsMemories :
    memoriesWf (fetching 0x5101028000000000 (fun c => (c.put 4 0x20000)) []) ∧
    (after (step (fetching 0x5101028000000000 (fun c => { c.put 4 0x20000 with tlb := [{ page 0x4000 0 with ex := true, user := false }] }) [])) fun t =>
      t.mem.wf && t.mem.length = 4) = true := by
  refine ⟨by unfold memoriesWf; decide, by decide⟩

/-- A core in the middle of a SIN, and one whose LLD ran before the word before it (R66, R78). -/
theorem wit_burst_and_ahead :
    let s := fetching 0x01190A0000000000 (fun c => { c with burst := some ⟨.add 3 4 5, [], [], 0, 0⟩ }) []
    let a := fetching 0x01190A0000000000 (fun c => { c with ahead := [0x20008] }) []
    s.me.halted = false ∧ s.me.task ≠ .none ∧ s.me.burst = some ⟨.add 3 4 5, [], [], 0, 0⟩ ∧ a.me.ahead.contains a.me.pc = true ∧
    (after (step s) fun t => t.me.get 3 = 15) = true ∧
    (after (step a) fun t => t.me.get 3 = 0 && t.me.pc = 0x20010 && t.me.ahead = []) = true ∧
    -- LD.W g3, g6, 0x10 (0x20018, which is 0x4018) before ADD g7, g5, g5: it is done, and the PC stays
    (let two : State := { fetching 0x01394A0000000000 (fun c => (c.put 6 0x20008)) [] with
       sched := [.ahead 0 1]
       mem := ((Memory.writeN [] 0x4008 (leBytes 8 0x01394A0000000000)).writeN 0x4010
         (leBytes 8 0x5019802100000010)).writeN 0x4018 [0x21] }
     let s0 : State := { two with sched := [], actor := 0 }
     two.sched = .ahead 0 1 :: [] ∧ s0.me.halted = false ∧ s0.me.task ≠ .none ∧ s0.me.burst = none ∧
     (s0.wordsOn 2).map (·.1) = some [.add 7 5 5, .ld .w true 3 6 0x10] ∧
     (after (step two) fun t => t.me.get 3 = 0x21 && t.me.pc = 0x20008 && t.me.ahead = [0x20010] && t.me.get 7 = 0) = true ∧
     (match step { State.reset with sched := [.ahead 192 0] } with | .fault .noSuchAgent => true | _ => false) = true) := by decide

/-! ## Faults, control, jobs, links, host, resets -/

/-- A fault of job 5 that slot 0 of cluster 0 waits on: id 1, RETRY and SKIP; the fault queue of 4 entries at VA 0x20000. -/
def faultOf (n : Option Nat) (options : Nat) : FaultItem :=
  ⟨5, n, [BitVec.ofNat 64 (2 ^ 63 + options * 2 ^ 48 + 1), 2, 3, 4, 5, 6, 7, 8], .slot 0 0, 0, 9⟩

def faulted (f : FaultItem) (mem : Memory) : State :=
  { runs Core.reset [] { Cluster.reset with slots := [(0, { Slot.reset with stall := true })] } with
    mem := mem
    jobs := [(5, { jobZero with fqbase := 0x20000, fqn := 4, vf := 2, faults := if f.n.isSome then 1 else 0 })]
    l2 := [(0, [page 0x4000 0])]
    cores := [(0, { Core.reset with job := 5, chans := [(63, { Channel.reset with entry := some 0 })] })]
    faultq := [f] }

theorem wit_FaultRecordsAndResumption :
    let s := faulted (faultOf none 3) []
    let t := faulted (faultOf (some 0) 3) [(0x4000, 1), (0x4007, 0x80)]
    let isHbm (s : State) : Bool := match s.translate (s.jobCtx { jobZero with fqbase := 0x20000, fqn := 4, vf := 2 }) [] 0 needBoth s.jobCheck 0x20000 with
      | .ok 0x4000 _ _ u => decide (u = s)
      | _ => false
    (s.faultq.findIdx? (fun g => g.job = 5 && g.n.isNone) = some 0 ∧ isHbm s = true ∧ s.mem.readLe 0x4000 8 < 2 ^ 63 ∧
      2 ^ 63 ≤ (faulted (faultOf none 3) [(0x4007, 0x80)]).mem.readLe 0x4000 8) ∧
    (after (exec (.faultRecordWrite 5) s) fun t => t.mem.readLe 0x4038 8 = 8 && (t.mail.map fun m => (m.core, m.chan, m.msg)) = [(0, 63, ⟨2 ^ 32, 1⟩)] &&
      (t.faultq.map (·.n)) = [some 0] && t.regs.msix.getD 9 false) = true ∧
    ((t.performWriter (.root 0)).faultsAt 0 1 ((t.performWriter (.root 0)).fresumeJobs (.root 0))).1 = [faultOf (some 0) 3] ∧ writerExists (.root 0) = true ∧
    (after (exec (.fresumeSkip (.root 0) 0 1) t) fun u => u.stat (.root 0) = 0 && u.faultq = [] && !((u.cluster 0).slot 0).stall && ((u.cluster 0).slot 0).skip) = true ∧
    (after (exec (.fresumeRetry (.root 0) 1 1) t) fun u => u.stat (.root 0) = 1 && u.faultq.length = 1) = true ∧
    (after (exec (.fresumeSkip (.root 0) 0 1) { t with faultq := [faultOf (some 0) 1] }) fun u => u.stat (.root 0) = 2) = true ∧
    -- two jobs with the same record, asked for by the management core
    (after (exec (.fresumeRetry (.mgmt 0) 0 1) { t with
      jobs := t.jobs ++ [(6, { jobZero with fqbase := 0x20000, fqn := 4, faults := 1 })]
      faultq := t.faultq ++ [{ faultOf (some 0) 1 with job := 6 }] }) fun u => u.stat (.mgmt 0) = 3 && u.faultq.length = 2) = true := by decide

/-- A request in PREEMPT: BUSY, the action, the job, and a launch or core. -/
def asking (s : State) (act job target : Nat) : State :=
  { s with regs := { s.regs with preempt := BitVec.ofNat 64 (2 ^ 63 + act * 2 ^ 59 + job * 2 ^ 32 + target) } }

theorem wit_PreemptionAndControl :
    let s := asking { placed with engines := [(0, { Engine.reset with slots := [(0, { CopyJob.reset with st := .running, job := 5 })] })] } 1 5 0
    let core (act : Nat) (c : Core) : State := asking (coreIs c) act 0 0
    let banded (act : Nat) : State := asking placed act 5 1
    let f (o : Out) : Option Bool := match o with
      | .next t => (t.live 5 1).bind fun l => l.band.map (·.frozen)
      | _ => none
    (s.request 1 = true ∧ s.requestJob = 5 ∧ (s.launches.map fun l => (l.job, l.id)).Nodup ∧ s.regs.preempting = none) ∧
    (after (exec (.preemptJob 5) s) fun t => ((t.live 5 1).bind fun l => l.band.map (·.closing)) = some true && (t.copyJob 0 0).halt) = true ∧
    ((core 3 .reset).coreRequest 3 0 = true ∧ (core 4 .reset).coreRequest 4 0 = true ∧ (core 7 { Core.reset with halted := true }).coreRequest 7 0 = true) ∧
    (after (exec (.haltCore 0) (core 3 .reset)) fun t => t.me.halted && !bitAt t.regs.preempt 63) = true ∧
    (after (exec (.releaseCore 0) (core 4 { Core.reset with halted := true })) fun t => !t.me.halted) = true ∧
    (after (exec (.startCore 0) (core 7 { regsAre [5, 6, 7] with halted := true })) fun t => t.me.task = .start && t.me.get 1 = 0 && t.me.get 3 = 7) = true ∧
    ((banded 5).request 5 = true ∧ (banded 5).requestTarget = 1) ∧
    f (exec (.freezeLaunch 5 1) (banded 5)) = some true ∧ f (exec (.thawLaunch 5 1) (banded 6)) = some false := by decide

/-- A band of a launch that is scanned out, with n lines of context at VA 0x20000. -/
def leaving (n : Nat) : State :=
  { runs Core.reset [] { Cluster.reset with q := [(0, [one 1])] } with
    jobs := [(5, { jobZero with ctxbase := 0x20000 })]
    l2 := [(0, [page 0x4000 0])]
    launches := [{ oneRow [] with entry := some 0, band := (oneRow []).band.map fun b => { b with closing := true, leaving := true, ctxLines := n } }] }

/-- The first context line of launch 1 translates to 0x4000. -/
def contextLine (s : State) (need : Need) : Bool :=
  match (s.job 5).map fun j => s.translate (s.jobCtx j) [] 0 need s.jobCheck (j.ctxbase % 2 ^ 64) with
  | some (.ok 0x4000 _ _ _) => true
  | _ => false

/-- A pinned band whose window expires, and its context placed again. -/
theorem wit_suspendAndPlace :
    let closing : State := { runs Core.reset [] { Cluster.reset with q := [(0, [one 1])] } with launches := [{ oneRow [] with band := (oneRow []).band.map fun b => { b with closing := true } }] }
    let l := { oneRow [] with entry := some 0, band := (oneRow []).band.map fun b => { b with context := some [[.reset, .reset, .reset, .reset]], resume := true } }
    let away : State := { State.reset with jobs := [(5, jobZero)], launches := [l] }
    ((closing.live 5 1).bind fun l => l.placed.map fun b => (b.closing, closing.bandDone b, b.scroll, l.status)) = some (true, false, false, 0) ∧
    (after (exec (.drainWindowExpiry 5 1) closing) fun t => ((t.live 5 1).bind fun l => l.band.map fun b => (b.leaving, b.closing, b.ctxDone)) = some (true, true, 0) &&
      (t.cluster 0).q = [(0, [one 1])]) = true ∧
    (after (exec (.drainWindowExpiry 5 1) (leaving 0)) fun t => ((t.live 5 1).bind fun l => l.band.map fun b => (b.context.isSome, b.closing, b.leaving)) =
      some (true, false, false) && (t.cluster 0).launch = none) = true ∧
    (contextLine (leaving 1) needStore = true ∧ windowOf 0x4000 = .hbm ∧
      max ((leaving 1).homeClock (pkgOf 0x4000)) (((leaving 1).line (lineOf 0x4000)).rts + 1) ≤ 0xFFFFFF) ∧
    (after (exec (.resumeJob 5) (asking { away with launches := [{ l with band := l.band.map fun b => { b with resume := false } }] } 2 5 0)) fun t =>
      ((t.live 5 1).bind fun l => l.band.map (·.resume)) = some true) = true ∧
    (l.seeks = true ∧ away.turnOf l = true ∧ ((away.findBand l).map fun b => (away.demandFault b.demands, away.demandFits b.demands)) = some (none, true)) ∧
    (l.band.map fun b => (b.context.map (·.length), b.height, b.ctxLines)) = some (some 1, 1, 0) ∧
    (((away.findBand l).bind fun at' => l.band.map fun b => (match (away.dropRegions 5 1).reenter jobZero l { b with tower := at'.tower, context := none } with | .ok _ _ => true | _ => false)) = some true) ∧
    (let far : State := { away with jobs := (leaving 1).jobs, l2 := (leaving 1).l2, launches := [{ l with band := l.band.map fun b => { b with ctxLines := 1 } }] }
     contextLine far needLoad = true ∧ (after (exec (.launchResumePlace 5 1) far) fun t =>
      ((t.live 5 1).bind fun l => l.band.map fun b => (b.ctxDone, b.context.isSome)) = some (1, true)) = true) ∧
    (after (exec (.launchResumePlace 5 1) away) fun t => ((t.live 5 1).bind fun l => l.band.map (·.context)) = some none &&
      (t.cluster 3).launch = some (5, 1)) = true := by decide

theorem wit_scan :
    let s := coreIs { Core.reset with halted := true }
    let open_ : State := { runs { regsAre [1] with job := 5 } [] { Cluster.reset with q := [(5, [one 1, one 2])] } with
      launches := [{ oneRow [] with band := (oneRow []).band.map fun b => { b with frozen := true } }] }
    (s.core 0).halted = true ∧ open_.scanOpen 0 = true ∧ (State.reset).scanOpen 0 = false ∧ (State.reset.core 0).halted = false ∧
    (after (exec (.scanWrite 0 0x20070000018 9) s) fun t => t.me.get 3 = 9) = true ∧
    -- entry 1 of queue 1 of SLOT_B at 0x1000 + 0x800 + 0x200 + 0x80; a stall record and SYS_CAUSE are read-only
    (((open_.cluster 0).queue 5)[1]? = some (one 2) ∧ (after (exec (.scanWrite 0 0x20040001A80 7) open_) fun t =>
      (t.cluster 0).queue 5 = [one 1, one 7]) = true) ∧
    (after (exec (.scanWrite 0 0x20040000008 0x2000000000000001) open_) fun t => (t.cluster 0).slot 1 = (open_.cluster 0).slot 1) = true ∧
    (after (exec (.scanWrite 0 0x20070000118 1) s) fun t => t.me.code = 0) = true := by
  decide

/-- JOBCTL with a request; the descriptor of a job in HBM at 0x6000, its table at 0x7000 one page for everything. -/
def jobAsk (act n : Nat) (s : State) : State :=
  { s with regs := { s.regs with jobctl := BitVec.ofNat 64 (2 ^ 63 + act * 2 ^ 60 + n), jobdesc := 0x6000 } }

def jobReason (o : Out) (n : Nat) : Bool :=
  after o fun t => !bitAt t.regs.jobctl 63 && bits t.regs.jobctl 61 56 % 16 = n

theorem wit_JobsAdmitAndRetire :
    let s := { State.reset with jobs := [(5, jobZero)], launches := [oneRow []] }
    (jobAsk 1 5 s).jobRequest 1 5 = true ∧ jobReason (exec (.jobAdmit 5) (jobAsk 1 5 s)) 2 = true ∧
    jobReason (exec (.jobAdmit 6) (jobAsk 1 6 s)) 3 = true ∧ descriptorOk (wordsOf 16 (s.homeLoad 0x6000 128).1) = false ∧
    (jobAsk 2 5 s).jobRequest 2 5 = true ∧ jobReason (exec (.jobRetire 5) (jobAsk 2 5 s)) 6 = true ∧
    jobReason (exec (.jobRetire 6) (jobAsk 2 6 s)) 2 = true ∧
    (after (exec (.jobRetire 5) (jobAsk 2 5 { s with launches := [{ oneRow [] with st := .ended }] })) fun t => t.jobs = [] && t.launches = []) = true := by
  decide

/-- A descriptor of one template at 0x20000 and the regions in the same page; the walk ends in a 1 GB leaf of HBM. -/
def descriptor : List Word :=
  [2 ^ 24, 0x8000, 0x20000, 2 ^ 32 + 2 ^ 16, 0, 0, 0x20000, 1, 0x20000, 0x21000, 0, 0, 0, 0, 0, 0]

def served (r : Found Unit) : Option Bool :=
  match r with
  | .ok _ _ => some true
  | .bad _ => some false
  | .wait _ => none

theorem wit_admit :
    let s (template : Nat) : State := jobAsk 1 5 { State.reset with
      mem := ((((Memory.writeN [] 0x6000 (descriptor.map fun w => leBytes 8 w.toNat).flatten).writeN 0x8000 (leBytes 8 0x9001)).writeN
        0x9000 (leBytes 8 0xA001)).writeN 0xA000 (leBytes 8 0xF)).writeN 0x20000 (leBytes 8 template) }
    let due (template : Nat) : State := { s template with regs := { (s template).regs with admitting := some (jobOf descriptor) } }
    (descriptorOk descriptor = true ∧ windowOf 0x6000 = .hbm ∧ (s 2).lineFault 0x6000 = none ∧
      wordsOf 16 ((s 2).homeLoad 0x6000 128).1 = descriptor ∧ (s 2).regs.admitting = none ∧ (s 2).reachable 0x6000 = true ∧
      ((s 2).line (lineOf 0x6000)).copy = .held ∧ served (((s 2).homeLoad 0x6000 128).2.2.pagesServe (jobOf descriptor) (jobOf descriptor).regionPages) = some true) ∧
    (after (exec (.jobAdmit 5) (s 2)) fun t => t.regs.admitting = some (jobOf descriptor) && t.jobs = [] && bitAt t.regs.jobctl 63) = true ∧
    (after (exec (.jobAdmit 5) (due 2)) fun t => jobReason (.next t) 0 && ((t.job 5).map fun j => (j.vf, nth (nth j.templates 0 []) 0 0)) = some (1, 2)) = true ∧
    (after (exec (.jobAdmit 5) { due 2 with regs := { (due 2).regs with admitting := some { jobOf descriptor with tcount := 2 } } }) fun t =>
      (t.regs.admitting.map fun j => j.templates.length) = some 1) = true ∧
    jobReason (exec (.jobAdmit 5) (due 3)) 5 = true ∧
    jobReason (exec (.jobAdmit 5) { due 2 with regs := { (due 2).regs with admitting := some { jobOf descriptor with tmplBase := 2 ^ 48 } } }) 5 = true ∧
    served ((s 2).pagesServe (jobOf descriptor) [2 ^ 48]) = some false ∧
    jobReason (exec (.jobAdmit 5) { s 2 with mem := (s 2).mem.writeN 0xA000 [0] }) 4 = true := by decide

/-- FENCECTL, a graft port, two towers' link, a bank. -/
theorem wit_PackageEvents :
    let fence (act k : Nat) : State := { State.reset with fenced := [9], regs := { DevRegs.reset with fencectl := BitVec.ofNat 64 (2 ^ 63 + act * 2 ^ 60 + k) } }
    let up : State := { State.reset with regs := { DevRegs.reset with gport := [(2, 2 ^ 63 + 7 * 2 ^ 53 + 4 * 2 ^ 49 + 33)] } }
    ((fence 1 3).fenceRequest 1 3 = true ∧ 3 ≠ (fence 1 3).pkg ∧ (fence 2 9).fenceRequest 2 9 = true) ∧
    (after (exec (.packageFence 3) (fence 1 3)) fun t => t.isFenced 3 && !bitAt t.regs.fencectl 63) = true ∧
    (after (exec (.packageUnfence 9) (fence 2 9)) fun t => !t.isFenced 9) = true ∧
    (after (exec (.fenceMessage 0) (fence 0 0)) fun t => t.fenced = [9]) = true ∧
    (after (exec (.fenceMessage 4) (fence 0 0)) fun t => t.isFenced 4 && t.isFenced 9) = true ∧
    bitAt (up.gport 2) 63 = true ∧
    (after (exec (.graftPortDown 2) up) fun t => t.gport 2 = 0x7FE0000000000021 && (t.celog.map fun e => (e.kind, e.detail)) = [(6, 2)]) = true ∧
    (after (exec (.graftPortUp 3 12 8) up) fun t => t.gport 3 = 0x8190000000000000) = true ∧
    (after (exec (.towerLinkBypass 2 1) .reset) fun t => t.regs.bypass = [(1, 2)] && t.celog.length = 1) = true ∧
    (after (exec (.linkLaneRepair 2 1 5) .reset) fun t => t.regs.linkLanes.get 6 = some 5) = true ∧
    (after (exec (.bankOffline 65) .reset) fun t => (t.bank 1 1).offline && !(t.bank 1 2).offline) = true := by decide

/-- HOST_ARM by function 0 of template 0 of job 5; an aperture of function 1 on 0x4000. -/
theorem wit_HostAndDevice :
    let armed : State := { State.reset with jobs := [(5, { armJob with vf := 0, templates := [[BitVec.ofNat 64 (4 * 2 ^ 51)]] })] }
    let host : State := { State.reset with regs := { DevRegs.reset with
      iaper := [(16, 0x4000), (17, 3 * 2 ^ 62 + 1)], donq := [(1, [7, 8])], attnonce := [(0, 5)] } }
    let busy : State := { host with regs := { host.regs with attctl := 2 ^ 63, attcopy := [5, 0, 0, 0, 0, 0, 0, 0] } }
    (after (exec (.hostArm 0 (BitVec.ofNat 64 (5 * 2 ^ 32))) armed) fun t => t.regs.armres.getD 0 0 = 7 && (t.launches.map fun l => (l.id, l.start)) = [(7, 0)]) = true ∧
    (after (exec (.hostArm 1 (BitVec.ofNat 64 (5 * 2 ^ 32))) armed) fun t => t.regs.armres.getD 1 0 = 0x300000000000000 && t.launches = []) = true ∧
    (after (exec (.donePop 1) host) fun t => t.regs.donq.getD 1 [] = [8]) = true ∧
    (host.inbound 1 0x10 2 true = some 0x4010 ∧ host.inbound 1 0x1000 2 true = none ∧ windowOf 0x4010 = .hbm) ∧
    (after (exec (.hostBar2Access 1 0x10 (.write [0xAB, 0xCD])) host) fun t => t.mem = [(0x4010, 0xAB), (0x4011, 0xCD)]) = true ∧
    (after (exec (.nvmeDmaWrite 0 0x10 [1]) { host with regs := { host.regs with iaper := [(2 * 8 * 129, 0x5000), (2 * 8 * 129 + 1, 3 * 2 ^ 62 + 1)] } }) fun t =>
      t.mem = [(0x5010, 1)]) = true ∧
    (after (exec .attestationRequest host) fun t => bitAt t.regs.attctl 63 && nth t.regs.attcopy 0 0 = 5) = true ∧
    (bitAt busy.regs.attctl 63 = true ∧ busy.regs.attcopy.length = 8) ∧
    (after (exec .attestationComplete busy) fun t => !bitAt t.regs.attctl 63 && bitAt t.regs.attctl 62 && t.regs.attrep.getD 0 0 = 5 && t.regs.msix.getD 3 false) = true ∧
    (after (exec (.powerSample 2400 3) { host with regs := { host.regs with layclk := List.replicate 12 15 } }) fun t => t.regs.layclk.getD 3 0 = 16) = true ∧
    (after (exec (.thermalClockStep 3) host) fun t => t.regs.thermal.getD 3 0 = 18) = true ∧
    (after (exec (.deviceRegisterWrite 0 0x20000010010 600) host) fun t => t.regs.pwrcap = 600) = true ∧
    (after (exec (.deviceRegisterWrite 0 0x20000010010 599) host) fun t => t.regs.pwrcap = 2400) = true ∧
    (after (exec (.deviceRegisterWrite 1 0x20000003010 11) host) fun t => t.regs.route.getD 2 15 = 11) = true := by decide

theorem wit_ResetsOfThePackage :
    let s : State := { coreIs { regsAre [5] with job := 6 } with
      mem := [(0x4080, 5), (0x5000, 7)], hbm := [(0x4080, 3), (0x5000, 7)]
      lines := [(0x81, { LineInfo.reset with st := .m, owner := 1 })]
      jobs := [(6, { jobZero with vf := 2 })], pkg := 4 }
    (after (exec (.powerOn ⟨true, 9, true, true, [(3, 70)]⟩) s) fun t => t.pkg = 9 && bitAt t.regs.hstatus 63 && t.mem = [] && t.cores = [] && t.regs.repairLanes.get 3 = some 6) = true ∧
    (after (exec (.powerOn ⟨true, 9, false, true, []⟩) s) fun t => bits t.regs.hstatus 15 8 = 2 && !bitAt t.regs.hstatus 63) = true ∧
    (after (exec .coldReset s) fun t => t.pkg = 4 && t.mem = []) = true ∧
    (s.clusters.keys.Nodup ∧ s.job 0xFFFF = none) ∧
    ((s.line 0x81).owned = true ∧ (s.line 0x81).owner / 4 ≠ s.pkg) ∧
    (let d := { s with pkg := 0, scrub := [0, 1, 2, 3].map fun t => (t, 2 ^ 30), lines := [(0x81, { LineInfo.reset with st := .m, owner := 0, place := .tree 3 })] }
     (∀ t, t < 4 → 2 ^ 30 ≤ d.scrub.getD (d.towerId t) 0) ∧ (d.line 0x81).owner / 4 = d.pkg ∧ (d.line 0x81).owner = homeOf 0x4080 ∧
     d.copyLost true 0x81 = true) ∧
    (after (exec (.functionLevelReset 2) s) fun t => (t.core 0).halted && (t.core 0).get 1 = 0 && (t.core 1).halted = false) = true := by decide

/-- Fence messages: one port up towards every package; the list of those told; an acknowledgement; a message of another package. -/
theorem wit_fenceMessages :
    let s (act k : Nat) (ms : List FenceMsg) : State := { State.reset with regs := { DevRegs.reset with
      fences := ms
      route := [(7, 0)]
      gport := [(0, 2 ^ 63 + 8 * 2 ^ 49)]
      fencectl := BitVec.ofNat 64 (2 ^ 63 + act * 2 ^ 60 + k) } }
    let own : FenceMsg := ⟨7, 3, true, true⟩
    let passed : FenceMsg := ⟨7, 4, true, false⟩
    (s 1 3 []).routed 7 = true ∧ (s 1 3 []).routed 8 = false ∧ (∀ m ∈ (s 1 3 []).regs.fences, m.own = false) ∧
    (after (exec (.packageFence 3) (s 1 3 [])) fun t => t.isFenced 3 && t.regs.fences = [own] && bitAt t.regs.fencectl 63) = true ∧
    ((s 1 3 [own]).fenceRequest 1 3 = true ∧ ¬ (∀ m ∈ (s 1 3 [own]).regs.fences, m.own = false)) ∧
    (after (exec (.packageFence 3) (s 1 3 [own])) fun t => t.regs.fences = [] && !bitAt t.regs.fencectl 63 && !t.isFenced 3) = true ∧
    (after (exec (.fenceMessage 4) (s 0 0 [])) fun t => t.isFenced 4 && t.regs.fences = [passed]) = true ∧
    ((s 0 0 [passed]).fenceRequest 1 4 = false ∧ (after (exec (.packageFence 4) (s 0 0 [passed])) fun t => t.regs.fences = [] && !t.isFenced 4) = true) := by
  decide

/-- The first access to a line whose copy is lost, and to one that a package that rejoined may hold. -/
theorem wit_touch :
    let s (copy : Copy) : State := lineIs { LineInfo.reset with st := .m, owner := 5, wts := 4, rts := 9, copy := copy }
    ((s .lost).line 0x81).copy = .lost ∧ max ((s .lost).homeClock 0) (((s .lost).line 0x81).rts + 1) ≤ 0xFFFFFF ∧ ((s .asked).line 0x81).copy = .asked ∧
    (s .held).touch 0x4080 = some (s .held) ∧
    (((s .lost).touch 0x4080).map fun t => (t.mem, (t.line 0x81).st, (t.line 0x81).wts, (t.line 0x81).copy)) = some ([], .i, 10, .held) ∧
    (after (exec (.packageUnfence 1) { s .held with fenced := [1], regs := { DevRegs.reset with fencectl := BitVec.ofNat 64 (2 ^ 63 + 2 * 2 ^ 60 + 1) } })
      fun t => (t.line 0x81).copy = .asked && (t.line 0x81).st = .m) = true ∧
    (after (exec (.packageFence 0) { s .held with pkg := 1, regs := { DevRegs.reset with fencectl := BitVec.ofNat 64 (2 ^ 63 + 2 ^ 60) } })
      fun t => (t.line 0x81).copy = .lost) = true := by decide

/-- A write of a function for a line of another package without a route waits, and what the function sends next waits behind it. -/
theorem wit_hostQueue :
    let far : State := { State.reset with regs := { DevRegs.reset with iaper := [(16, BitVec.ofNat 64 (2 ^ 44)), (17, 3 * 2 ^ 62 + 1)] } }
    let q : State := { State.reset with hostq := [(1, .write 0x10 [1])] }
    far.inbound 1 0x10 1 true = some (2 ^ 44 + 0x10) ∧ windowOf (2 ^ 44 + 0x10) = .hbm ∧ far.reachable (2 ^ 44 + 0x10) = false ∧
    (after (exec (.hostBar2Access 1 0x10 (.write [1])) far) fun t => t.hostq = [(1, .write 0x10 [1])] && t.mem = []) = true ∧
    q.inbound 1 0x10 1 true = none ∧ (after (exec (.hostArm 1 7) q) fun t => t.hostq = [(1, .arm 7)]) = true := by decide

/-- Above the cap the one layer that is not at 1.0 GHz goes down a step. -/
def hot : State := { State.reset with regs := { DevRegs.reset with layclk := 12 :: List.replicate 11 10 } }

theorem test_powerSample : (match exec (.powerSample 2401 0) hot with | .next t => t.regs.layclk.head? | _ => none) = some 11 := by
  have h : hot.busiest 0 = true := by simp [State.busiest, nth, List.range_succ, hot]
  show some (if hot.busiest 0 = true then 11 else 12) = some 11
  rw [h]; rfl

/-- A DRAINED row of a scrolling band that is scanned out is saved, and a SAVING row finishes. -/
theorem wit_keptRows :
    let out (x : Row) : State :=
      let s := scrolled x 0x4000 none [] .reset
      { s with launches := s.launches.map fun l => { l with band := l.band.map fun b => { b with closing := true, leaving := true } } }
    let row (st : RowSt) : Row := ⟨st, 0, 0, false, false, false, []⟩
    let s := out (row .drained)
    let find (s : State) : Option (Option Nat) := (s.live 5 1).bind fun l => l.band.map fun b => b.byPosition.find? b.unkept
    let saves (s : State) : Bool := match (s.live 5 1).bind fun l => l.band.map fun b => (l, b) with
      | some (l, b) => (match s.saveRow l b 0 with | .ok _ _ => true | _ => false)
      | none => false
    let now (o : Out) : Option (RowSt × Nat × Bool × Nat) :=
      match o with
      | .next t => (t.live 5 1).bind fun l => l.band.map fun b => ((b.row 0).st, (b.row 0).p, (b.row 0).resumed, b.saved.length)
      | _ => none
    (find s = some (some 0) ∧ saves s = true) ∧
    now (exec (.drainWindowExpiry 5 1) s) = some (.empty, 1, false, 1) ∧
    now (exec (.drainWindowExpiry 5 1) (out (row .resident))) = some (.empty, 0, true, 1) ∧
    now (exec (.drainWindowExpiry 5 1) (out { row .saving with wrote := true })) = some (.empty, 1, false, 0) := by decide

end Sys2Proof.Tests
end

/-! # O50: decoding and encoding -/

section
open Sys2Proof
namespace Sys2Proof

theorem eq_ofNat_of_toNat_eq {n : Nat} {x : BitVec n} {k : Nat} (h : x.toNat = k) : x = BitVec.ofNat n k := by
  simp [← h]

/-! ## Fields and words -/

theorem fieldsOf_wordOf (f : Fields) : fieldsOf (wordOf f) = f := by
  obtain ⟨o, d, a, b, c, n, i⟩ := f
  simp only [fieldsOf, wordOf, Fields.mk.injEq]
  refine ⟨?_, ?_, ?_, ?_, ?_, ?_, ?_⟩ <;>
    (apply BitVec.eq_of_getLsbD_eq; intro i hi; simp [hi]; grind)

theorem wordOf_fieldsOf (w : Word) : wordOf (fieldsOf w) = w := by
  apply BitVec.eq_of_getLsbD_eq
  intro i hi
  simp [fieldsOf, wordOf]
  grind

/-! ## Coded fields -/

@[simp] theorem signOf_eq_some {x : BitVec 4} {sg : Sign} : signOf x = some sg ↔ x = signFn sg := by
  revert x; cases sg <;> decide

@[simp] theorem sizeOf?_eq_some {x : BitVec 5} {s : Size} : sizeOf? x = some s ↔ x = sizeCode s := by
  revert x; cases s <;> decide

@[simp] theorem widthOf_eq_some {x : BitVec 5} {k : Width} : widthOf x = some k ↔ x = widthCode k := by
  revert x; cases k <;> decide

@[simp] theorem amoFnOf_eq_some {x : BitVec 4} {g : AmoFn} : amoFnOf x = some g ↔ x = amoFnCode g := by
  revert x; cases g <;> decide

@[simp] theorem flagOf_eq_some {x : BitVec 4} {b : Bool} : flagOf x = some b ↔ x = if b then 1 else 0 := by
  revert x; cases b <;> decide

@[simp] theorem cancelLevelOf_eq_some {x : BitVec 4} {l : CancelLevel} : cancelLevelOf x = some l ↔ x = cancelLevelFn l := by
  revert x; cases l <;> decide

@[simp] theorem jwaitFn_eq_some {x : BitVec 4} {p : Eng × Bool} :
    jwaitFn x = some p ↔ x = (if engBit p.1 then 1 else 0) ||| (if p.2 then 2 else 0) := by
  obtain ⟨e, b⟩ := p; revert x; cases e <;> cases b <;> decide

@[simp] theorem dblOf_c_eq_some {x : BitVec 5} {b : Bool} : dblOf x.toNat = some b ↔ x = if b then 3 else 2 := by
  revert x; cases b <;> decide

@[simp] theorem dblOf_fn_eq_some {x : BitVec 4} {b : Bool} : dblOf x.toNat = some b ↔ x = if b then 3 else 2 := by
  revert x; cases b <;> decide

@[simp] theorem ldExt_eq_some {sz : Size} {x : BitVec 4} {b : Bool} :
    ldExt sz x = some b ↔ x = (if b then 1 else 0) ∧ (sz = .d → b = false) := by
  revert x; cases sz <;> cases b <;> decide

@[simp] theorem tlbScopeOf_eq_some {x : BitVec 32} {c : TlbScope} : tlbScopeOf x = some c ↔ x = tlbScopeCode c := by
  constructor
  · intro h; unfold tlbScopeOf at h; split at h <;> cases h <;> exact eq_ofNat_of_toNat_eq ‹_›
  · rintro rfl; cases c <;> rfl

@[simp] theorem sysRegOf_eq_some {x : BitVec 32} {r : SysReg} : sysRegOf x = some r ↔ x = sysRegCode r := by
  constructor
  · intro h; unfold sysRegOf at h; split at h <;> cases h <;> exact eq_ofNat_of_toNat_eq ‹_›
  · rintro rfl; cases r <;> rfl

@[simp] theorem engOf_engBit (e : Eng) : engOf (engBit e) = e := by cases e <;> rfl

@[simp] theorem engBit_engOf (b : Bool) : engBit (engOf b) = b := by cases b <;> rfl

/-! ## The outcome of a form -/

@[simp] theorem Dec.when_eq_instr {ok : Bool} {i j : Instr} : Dec.when ok i = .instr j ↔ ok = true ∧ i = j := by
  cases ok <;> simp [Dec.when]

@[simp] theorem Dec.whenP_eq_instr {p ok : Bool} {i j : Instr} : Dec.whenP p ok i = .instr j ↔ ok = true ∧ i = j := by
  cases ok <;> simp [Dec.whenP]

@[simp] theorem Dec.defined_eq_instr {α : Type} {o : Option α} {k : α → Dec} {j : Instr} :
    Dec.defined o k = .instr j ↔ ∃ x, o = some x ∧ k x = .instr j := by
  cases o <;> simp [Dec.defined]

/-! ## The immediate -/

theorem toNat_immAt (k : Nat) {n : Nat} (x : BitVec n) (low : BitVec 32) (hn : n + k ≤ 32) (hl : low.toNat < 2 ^ k) :
    (immAt k x low).toNat = low.toNat + 2 ^ k * x.toNat := by
  have hx : 2 ^ k * x.toNat < 2 ^ 32 :=
    calc 2 ^ k * x.toNat < 2 ^ k * 2 ^ n := by have := x.isLt; gcongr
      _ = 2 ^ (k + n) := (pow_add 2 k n).symm
      _ ≤ 2 ^ 32 := Nat.pow_le_pow_right (by norm_num) (by omega)
  have hx' : x.toNat < 2 ^ 32 := lt_of_le_of_lt (Nat.le_mul_of_pos_left _ (by positivity)) hx
  rw [immAt, BitVec.toNat_or, BitVec.toNat_shiftLeft, BitVec.toNat_setWidth, Nat.mod_eq_of_lt hx', Nat.shiftLeft_eq,
    mul_comm, Nat.mod_eq_of_lt hx, Nat.or_comm, ← Nat.two_pow_add_eq_or_of_lt hl, Nat.add_comm]

@[simp] theorem toNat_imm6 (n : BitVec 6) : (imm6 n).toNat = n.toNat := by
  have := n.isLt; simp [imm6]; omega

/-- A field at bit k and what lies below it, of an immediate without higher bits. -/
theorem immAt_extract (k n : Nat) (im : BitVec 32) (hk : n + k ≤ 32) (h : im.toNat < 2 ^ (k + n)) :
    immAt k (im.extractLsb' k n) ((im.extractLsb' 0 k).setWidth 32) = im := by
  have hl : ((im.extractLsb' 0 k).setWidth 32).toNat = im.toNat % 2 ^ k := by
    have : im.toNat % 2 ^ k < 2 ^ 32 := lt_of_le_of_lt (Nat.mod_le _ _) im.isLt
    simpa using this
  apply BitVec.eq_of_toNat_eq
  rw [toNat_immAt _ _ _ hk (by rw [hl]; exact Nat.mod_lt _ (by positivity)), hl, BitVec.extractLsb'_toNat,
    Nat.shiftRight_eq_div_pow, Nat.mod_eq_of_lt (a := im.toNat / 2 ^ k), Nat.mod_add_div]
  exact Nat.div_lt_of_lt_mul (by rwa [← pow_add])

/-- The field that immAt puts at bit k. -/
theorem extract_immAt_same (k : Nat) {n : Nat} (x : BitVec n) (low : BitVec 32) (hn : n + k ≤ 32) (hl : low.toNat < 2 ^ k) :
    (immAt k x low).extractLsb' k n = x := by
  apply BitVec.eq_of_toNat_eq
  rw [BitVec.extractLsb'_toNat, toNat_immAt k x low hn hl, Nat.shiftRight_eq_div_pow,
    Nat.add_mul_div_left _ _ (by positivity),
    Nat.div_eq_of_lt hl, Nat.zero_add, Nat.mod_eq_of_lt x.isLt]

/-- A field below the one that immAt puts at bit k. -/
theorem extract_immAt_below (k : Nat) {n : Nat} (x : BitVec n) (low : BitVec 32) (j m : Nat) (h : j + m ≤ k) :
    (immAt k x low).extractLsb' j m = low.extractLsb' j m := by
  apply BitVec.eq_of_getLsbD_eq
  intro i hi
  have : j + i < k := by omega
  simp [immAt, hi, this]

@[simp] theorem extract_imm6 (n : BitVec 6) : (imm6 n).extractLsb' 0 6 = n := by
  apply BitVec.eq_of_toNat_eq
  have := n.isLt
  simp; omega

/-- A name alone in the immediate (R158). -/
theorem Fields.immAbove_six (f : Fields) : f.immAbove 6 = true ↔ imm6 f.name = f.imm := by
  simp only [Fields.immAbove, Fields.name, beq_iff_eq, Nat.div_eq_zero_iff]
  constructor
  · intro h
    apply BitVec.eq_of_toNat_eq
    simp; omega
  · intro h; right; rw [← h, toNat_imm6]; exact BitVec.isLt _

/-- A name and a field above it in the immediate (R263). -/
theorem Fields.immAbove_two (f : Fields) (n : Nat) {k : Nat} (hk : k = 6 + n) (hn : n + 6 ≤ 32) :
    f.immAbove k = true ↔ immAt 6 (f.imm.extractLsb' 6 n) (imm6 f.name) = f.imm := by
  subst hk
  simp only [Fields.immAbove, Fields.name, beq_iff_eq, Nat.div_eq_zero_iff]
  constructor
  · intro h
    exact immAt_extract 6 n f.imm hn (by simpa using h)
  · intro h; right
    rw [← h, toNat_immAt 6 _ _ hn (by rw [toNat_imm6]; exact BitVec.isLt _), toNat_imm6, pow_add]
    have := (f.imm.extractLsb' 6 n).isLt
    have := (f.imm.extractLsb' 0 6).isLt
    omega

/-- A name and a flag above it in the immediate (R263). -/
theorem Fields.immAbove_seven (f : Fields) :
    f.immAbove 7 = true ↔ immAt 6 (BitVec.ofBool (f.imm.getLsbD 6)) (imm6 f.name) = f.imm := by
  have : BitVec.ofBool (f.imm.getLsbD 6) = f.imm.extractLsb' 6 1 := by
    apply BitVec.eq_of_getLsbD_eq; intro i hi; obtain rfl : i = 0 := by omega
    simp
  rw [this, Fields.immAbove_two f 1 rfl (by decide)]

/-- A name and two fields above it in the immediate (BNOTE, R263). -/
theorem Fields.immAbove_seventeen (f : Fields) :
    f.immAbove 17 = true ↔ immAt 11 (f.imm.extractLsb' 11 6) (immAt 6 (f.imm.extractLsb' 6 5) (imm6 f.name)) = f.imm := by
  have low : immAt 6 (f.imm.extractLsb' 6 5) (imm6 f.name) = (f.imm.extractLsb' 0 11).setWidth 32 := by
    have h := (f.imm.extractLsb' 0 11).isLt
    have e := immAt_extract 6 5 ((f.imm.extractLsb' 0 11).setWidth 32) (by decide) (by simp; omega)
    rw [← e]
    congr 1 <;> apply BitVec.eq_of_getLsbD_eq <;> intro i hi
    · simp [hi, show 6 + i < 11 by omega, show 6 + i < 32 by omega]
    · simp [imm6, Fields.name]; grind
  rw [low]
  simp only [Fields.immAbove, beq_iff_eq, Nat.div_eq_zero_iff]
  constructor
  · intro h
    exact immAt_extract 11 6 f.imm (by decide) (by simpa using h)
  · intro h; right
    have hl : ((f.imm.extractLsb' 0 11).setWidth 32).toNat = f.imm.toNat % 2 ^ 11 := by
      have : f.imm.toNat % 2 ^ 11 < 2 ^ 32 := by omega
      simpa using this
    rw [← h, toNat_immAt 11 _ _ (by decide) (by rw [hl]; omega), hl]
    have := (f.imm.extractLsb' 11 6).isLt
    omega

theorem countOf_eq_some {im : BitVec 32} {n : BitVec 5} : countOf im = some n ↔ im.extractLsb' 6 5 = n ∧ n.toNat ≤ 16 := by
  simp only [countOf]; split <;> simp <;> grind

/-- An accumulator's name is a name below 32 (R158). -/
theorem accOf_eq_some {im : BitVec 32} {n : BitVec 5} : accOf im = some n ↔ im.extractLsb' 0 6 = n.setWidth 6 := by
  have key : (im.extractLsb' 0 6 = n.setWidth 6) ↔ im.toNat % 64 = n.toNat := by
    rw [← BitVec.toNat_inj]
    have := n.isLt
    simp; omega
  have e : (im.extractLsb' 0 5 = n) ↔ im.toNat % 32 = n.toNat := by
    rw [← BitVec.toNat_inj]; simp
  have := n.isLt
  unfold accOf; split <;> simp [key, e] <;> omega

@[simp] theorem imm6_setWidth (n : BitVec 5) : imm6 (n.setWidth 6) = n.setWidth 32 := by
  apply BitVec.eq_of_toNat_eq; have := n.isLt; simp; omega

/-! ## Well-formed words -/

namespace Instr

@[simp] theorem wf_ld (sz : Size) (x : Bool) (d a : Reg) (i : BitVec 32) : (ld sz x d a i).wf = !(sz = .d && x) :=
  Bool.and_true _

@[simp] theorem wf_amo (g : AmoFn) (dbl : Bool) (d a b : Reg) (i : BitVec 32) :
    (amo g dbl d a b i).wf = !(g = .fadd && dbl) :=
  Bool.and_true _

@[simp] theorem wf_bwaitf (d : Reg) (h : BitVec 6) (n : BitVec 5) : (bwaitf d h n).wf = countOk n := Bool.and_true _

@[simp] theorem wf_bwaite (d : Reg) (h : BitVec 6) (n : BitVec 5) : (bwaite d h n).wf = countOk n := Bool.and_true _

@[simp] theorem wf_badvp (d : Reg) (h : BitVec 6) (n : BitVec 5) : (badvp d h n).wf = countOk n := Bool.and_true _

@[simp] theorem wf_badvc (d : Reg) (h : BitVec 6) (n : BitVec 5) : (badvc d h n).wf = countOk n := Bool.and_true _

@[simp] theorem wf_bnote (dir : BufDir) (d : Reg) (h c : BitVec 6) (n : BitVec 5) : (bnote dir d h c n).wf = countOk n :=
  Bool.and_true _

@[simp] theorem wf_jwait (e : Eng) (all : Bool) (d : Reg) (n : BitVec 6) : (jwait e all d n).wf = (!all || n == 0) :=
  Bool.and_true _

@[simp] theorem wf_cancel (lv : CancelLevel) (d a : Reg) :
    (cancel lv d a).wf = (lv = .launch || lv = .graph || a == 0) := Bool.and_true _

@[simp] theorem wf_syswr (r : SysReg) (a : Reg) : (syswr r a).wf = !(r = .clock || r = .cycle) := Bool.and_true _

end Instr

/-- The fields of a word that encode a well-formed instruction. -/
def Fields.Encode (f : Fields) (i : Instr) : Prop := encodeFields i = some f ∧ i.wf = true

theorem some_fields_congr {o : BitVec 8} {d a b : Reg} {c : BitVec 5} {n : BitVec 4} {x y : BitVec 32} (h : x = y) :
    some (Fields.mk o d a b c n x) = some (Fields.mk o d a b c n y) := h ▸ rfl

theorem decodeAlu_sound {f : Fields} {i : Instr} (h : decodeAlu f = .instr i) : f.Encode i := by
  obtain ⟨o, d, a, b, c, n, im⟩ := f
  unfold decodeAlu at h
  split at h <;> rename_i ho <;>
    simp [Fields.rrr, Fields.rrrS, Fields.rr, Fields.c0, Fields.fn0, Fields.imm0, Fields.b0, and_assoc] at h
  all_goals
    obtain rfl := eq_ofNat_of_toNat_eq ho
    repeat obtain ⟨_, h⟩ := h
    subst_vars
    exact ⟨rfl, rfl⟩

theorem decodeImm_sound {f : Fields} {i : Instr} (h : decodeImm f = .instr i) : f.Encode i := by
  obtain ⟨o, d, a, b, c, n, im⟩ := f
  unfold decodeImm at h
  split at h <;> rename_i ho <;>
    simp [Fields.c0, Fields.fn0, Fields.a0, Fields.b0, Fields.name, Fields.immAbove_six, and_assoc] at h
  all_goals
    obtain rfl := eq_ofNat_of_toNat_eq ho
    repeat obtain ⟨_, h⟩ := h
    subst_vars
    refine ⟨?_, rfl⟩
  case h_5 | h_6 => exact some_fields_congr ‹_›
  all_goals rfl

theorem decodeBr_sound {f : Fields} {i : Instr} (h : decodeBr f = .instr i) : f.Encode i := by
  obtain ⟨o, d, a, b, c, n, im⟩ := f
  unfold decodeBr at h
  split at h <;> rename_i ho <;>
    simp [Fields.c0, Fields.fn0, Fields.imm0, Fields.a0, Fields.b0, Fields.d0, and_assoc] at h
  all_goals
    obtain rfl := eq_ofNat_of_toNat_eq ho
    repeat obtain ⟨_, h⟩ := h
    subst_vars
    exact ⟨rfl, rfl⟩

theorem decodeMem_sound {f : Fields} {i : Instr} (h : decodeMem f = .instr i) : f.Encode i := by
  obtain ⟨o, d, a, b, c, n, im⟩ := f
  unfold decodeMem at h
  split at h <;> rename_i ho <;>
    simp [-Bool.exists_bool, Fields.c0, Fields.fn0, Fields.imm0, Fields.a0, Fields.b0, Fields.d0, and_assoc] at h
  all_goals
    obtain rfl := eq_ofNat_of_toNat_eq ho
    repeat obtain ⟨_, h⟩ := h
    subst_vars
  case h_1 sz x hx => exact ⟨rfl, by cases sz <;> simp_all⟩
  case h_9 =>
    split at h
    · cases h
    · rename_i k; cases h; exact ⟨rfl, by simpa [imp_iff_not_or] using k⟩
  all_goals exact ⟨rfl, rfl⟩

theorem decide_sink (b : Bool) : decide ((if b = true then PortKind.sink else PortKind.src) = PortKind.sink) = b := by
  cases b <;> rfl

theorem decodeStr_sound {f : Fields} {i : Instr} (h : decodeStr f = .instr i) : f.Encode i := by
  obtain ⟨o, d, a, b, c, n, im⟩ := f
  unfold decodeStr at h
  split at h <;> rename_i ho <;>
    simp [-Bool.exists_bool, Fields.c0, Fields.fn0, Fields.a0, Fields.b0, Fields.d0, Fields.name, Fields.immAbove_six,
      Fields.immAbove_two _ 4 (k := 10) rfl,Fields.immAbove_two _ 5 (k := 11) rfl, Fields.immAbove_seven,
        Fields.immAbove_seventeen, countOf_eq_some, accOf_eq_some, and_assoc] at h
  all_goals
    obtain rfl := eq_ofNat_of_toNat_eq ho
    repeat obtain ⟨_, h⟩ := h
    subst_vars
  case h_6 e => exact ⟨some_fields_congr (by rw [decide_sink]; exact e), rfl⟩
  case h_8 | h_9 | h_10 | h_11 => exact ⟨some_fields_congr ‹_›, by simpa [countOk]⟩
  case h_12 dir _ _ => cases dir <;> exact ⟨some_fields_congr ‹_›, by simpa [countOk]⟩
  case h_15 k e | h_16 k e | h_17 k e => exact ⟨some_fields_congr (by rwa [← imm6_setWidth, ← k]), rfl⟩
  all_goals exact ⟨some_fields_congr ‹_›, rfl⟩

theorem decodeTask_sound {f : Fields} {i : Instr} (h : decodeTask f = .instr i) : f.Encode i := by
  obtain ⟨o, d, a, b, c, n, im⟩ := f
  unfold decodeTask at h
  split at h <;> rename_i ho <;>
    simp [-Bool.exists_bool, Fields.c0, Fields.fn0, Fields.imm0, Fields.a0, Fields.b0, Fields.d0, Fields.name,
      Fields.immAbove_six,
      Fields.immAbove_two _ 4 (k := 10) rfl, Fields.immAbove_two _ 6 (k := 12) rfl,
        Fields.immAbove_two _ 3 (k := 9) rfl, Fields.immAbove_seven, and_assoc] at h
  all_goals
    obtain rfl := eq_ofNat_of_toNat_eq ho
    repeat obtain ⟨_, h⟩ := h
    subst_vars
  case h_3 p _ => cases p <;> exact ⟨some_fields_congr ‹_›, rfl⟩
  case h_4 all e k => exact ⟨some_fields_congr e, by rcases k with rfl | rfl <;> simp⟩
  case h_5 n e | h_19 n e | h_21 n e => exact ⟨some_fields_congr (by rwa [n] at e), rfl⟩
  case h_7 k => exact ⟨rfl, by simpa using k⟩
  case h_11 | h_14 | h_15 | h_16 | h_17 | h_18 => exact ⟨some_fields_congr ‹_›, rfl⟩
  all_goals exact ⟨rfl, rfl⟩

theorem decodeSys_sound {f : Fields} {i : Instr} (h : decodeSys f = .instr i) : f.Encode i := by
  obtain ⟨o, d, a, b, c, n, im⟩ := f
  unfold decodeSys at h
  split at h <;> rename_i ho <;>
    simp [Fields.c0, Fields.fn0, Fields.imm0, Fields.a0, Fields.b0, Fields.d0, and_assoc] at h
  all_goals
    obtain rfl := eq_ofNat_of_toNat_eq ho
    repeat obtain ⟨_, h⟩ := h
    subst_vars
  case h_4 r => cases r <;> exact ⟨rfl, rfl⟩
  all_goals exact ⟨rfl, rfl⟩

/-- Accepted fields are the encoding of a well-formed instruction. -/
theorem decodeFields_sound {f : Fields} {i : Instr} (h : decodeFields f = .instr i) : f.Encode i := by
  unfold decodeFields at h
  split_ifs at h
  · exact decodeAlu_sound h
  · exact decodeImm_sound h
  · exact decodeBr_sound h
  · exact decodeMem_sound h
  · exact decodeStr_sound h
  · exact decodeTask_sound h
  · exact decodeSys_sound h

theorem toNat_imm6_lt (h : BitVec 6) : (imm6 h).toNat < 2 ^ 6 := by rw [toNat_imm6]; exact h.isLt

theorem toNat_immAt_lt {k : Nat} (x : BitVec k) (h : BitVec 6) (hk : k + 6 ≤ 32) :
    (immAt 6 x (imm6 h)).toNat < 2 ^ (k + 6) := by
  rw [toNat_immAt 6 x _ hk (toNat_imm6_lt h), toNat_imm6, pow_add]
  have := x.isLt; have := h.isLt; omega

section
variable (o : BitVec 8) (d a b : Reg) (c : BitVec 5) (n : BitVec 4)

@[simp] theorem Fields.name_imm6 (h : BitVec 6) : (Fields.mk o d a b c n (imm6 h)).name = h := extract_imm6 h

@[simp] theorem Fields.name_immAt {k j : Nat} (x : BitVec k) (low : BitVec 32) (hj : 6 ≤ j) :
    (Fields.mk o d a b c n (immAt j x low)).name = (Fields.mk o d a b c n low).name :=
  extract_immAt_below j x low 0 6 hj

theorem Fields.immAbove_of_lt {k : Nat} {im : BitVec 32} (h : im.toNat < 2 ^ k) :
    (Fields.mk o d a b c n im).immAbove k = true := by
  simpa [Fields.immAbove, Nat.div_eq_zero_iff] using h

@[simp] theorem Fields.immAbove_imm6 (h : BitVec 6) : (Fields.mk o d a b c n (imm6 h)).immAbove 6 = true :=
  Fields.immAbove_of_lt o d a b c n (toNat_imm6_lt h)

@[simp] theorem Fields.immAbove_immAt {k : Nat} (x : BitVec k) (h : BitVec 6) (hk : k + 6 ≤ 32) :
    (Fields.mk o d a b c n (immAt 6 x (imm6 h))).immAbove (k + 6) = true :=
  Fields.immAbove_of_lt o d a b c n (toNat_immAt_lt x h hk)

@[simp] theorem Fields.immAbove_setWidth (x : BitVec 5) : (Fields.mk o d a b c n (x.setWidth 32)).immAbove 6 = true := by
  rw [← imm6_setWidth, Fields.immAbove_imm6]

@[simp] theorem Fields.immAbove_immAt_bnote (x : BitVec 6) (y : BitVec 5) (h : BitVec 6) :
    (Fields.mk o d a b c n (immAt 11 x (immAt 6 y (imm6 h)))).immAbove 17 = true := by
  have hl := toNat_immAt_lt y h (by decide)
  refine Fields.immAbove_of_lt o d a b c n ?_
  rw [toNat_immAt 11 x _ (by decide) hl]
  have := x.isLt; omega

end

@[simp] theorem extract_immAt_imm6 {k : Nat} (x : BitVec k) (h : BitVec 6) (hk : k + 6 ≤ 32) :
    (immAt 6 x (imm6 h)).extractLsb' 6 k = x := extract_immAt_same 6 x _ hk (toNat_imm6_lt h)

@[simp] theorem getElem_immAt_imm6 (b : Bool) (h : BitVec 6) : (immAt 6 (BitVec.ofBool b) (imm6 h))[6] = b := by
  have e := extract_immAt_imm6 (BitVec.ofBool b) h (by decide)
  simpa [-extract_immAt_imm6] using congrArg (fun v => v.getLsbD 0) e

@[simp] theorem extract_immAt_bnote_count (x : BitVec 6) (y : BitVec 5) (h : BitVec 6) :
    (immAt 11 x (immAt 6 y (imm6 h))).extractLsb' 6 5 = y := by
  rw [extract_immAt_below 11 x _ 6 5 (by decide), extract_immAt_imm6 y h (by decide)]

@[simp] theorem extract_immAt_bnote_chan (x : BitVec 6) (y : BitVec 5) (h : BitVec 6) :
    (immAt 11 x (immAt 6 y (imm6 h))).extractLsb' 11 6 = x :=
  extract_immAt_same 11 x _ (by decide) (toNat_immAt_lt y h (by decide))

theorem countOf_of_extract {im : BitVec 32} {n : BitVec 5} (h : im.extractLsb' 6 5 = n) (hn : countOk n = true) :
    countOf im = some n := countOf_eq_some.2 ⟨h, by simpa [countOk] using hn⟩

@[simp] theorem accOf_setWidth (n : BitVec 5) : accOf (n.setWidth 32) = some n := by
  rw [accOf_eq_some, ← imm6_setWidth, extract_imm6]

theorem imm6_zero : imm6 0 = 0 := rfl

/-- The encoding of a well-formed instruction decodes to it. -/
theorem decodeFields_encodeFields {i : Instr} {f : Fields} (hi : i.wf = true) (h : encodeFields i = some f) :
    decodeFields f = .instr i := by
  cases i <;> cases h
  case mulh sg _ _ _ | div sg _ _ _ | rem sg _ _ _ | shr sg _ _ _ | slt sg _ _ _ | min sg _ _ _ | max sg _ _ _
    | slti sg _ _ _ | blt sg _ _ _ | bge sg _ _ _ => cases sg <;> rfl
  case sext k _ _ | zext k _ _ => cases k <;> rfl
  case st sz _ _ _ | ldl sz _ _ _ | lld sz _ _ _ | lst sz _ _ _ => cases sz <;> rfl
  case ld sz x _ _ _ =>
    cases x
    · cases sz <;> rfl
    · cases sz
      case d => cases hi
      all_goals rfl
  case amo g x _ _ _ _ =>
    cases x
    · cases g <;> rfl
    · cases g
      case fadd => cases hi
      all_goals rfl
  case cas x _ _ _ _ _ | larm x _ _ => cases x <;> rfl
  case syswr r _ =>
    cases r
    case clock | cycle => cases hi
    all_goals rfl
  case sysrd r | tlbinv r => cases r <;> rfl
  case cancel lv _ a =>
    cases lv
    case phase | job => simp at hi; subst hi; rfl
    all_goals rfl
  case shri sg _ _ _ => simp [-Bool.exists_bool, decodeFields, decodeImm, Fields.c0, Fields.b0]
  case shli => simp [decodeFields, decodeImm, Fields.c0, Fields.b0, Fields.fn0]
  case sin | sout | sconst | seos | smark | binit | tset => simp [decodeFields, decodeStr, Fields.c0, Fields.b0,
        Fields.fn0, Fields.a0]
  case pstat k _ _ =>
    cases k <;> simp [-BitVec.ofBool_false, -BitVec.ofBool_true, decodeFields, decodeStr, Fields.c0, Fields.b0,
          Fields.fn0, Fields.a0]
  case bwaitf n | bwaite n | badvp n | badvc n =>
    simp [decodeFields, decodeStr, Fields.c0, Fields.b0, Fields.fn0, Fields.a0,
      countOf_of_extract (extract_immAt_imm6 n _ (by decide)) (by simpa using hi)]
  case bnote dir _ _ _ n =>
    cases dir <;>
    simp [-Bool.exists_bool, decodeFields, decodeStr, Fields.c0, Fields.b0, Fields.a0,
      countOf_of_extract (extract_immAt_bnote_count _ n _) (by simpa using hi)]
  case tstat | aclr | aread | astat =>
    simp [-Bool.exists_bool, decodeFields, decodeStr, Fields.c0, Fields.b0, Fields.fn0, Fields.a0, Fields.d0]
  case jstat e _ _ => cases e <;> simp [-Bool.exists_bool, decodeFields, decodeTask, engBit, engOf, flagOf,
        Dec.defined, Fields.c0, Fields.b0, Fields.a0]
  case jwait e all _ n =>
    cases all
    · cases e <;> simp [decodeFields, decodeTask, engBit, jwaitFn, Dec.defined, Fields.c0, Fields.b0, Fields.a0]
    · obtain rfl : n = 0 := by simpa using hi
      cases e <;> simp [decodeFields, decodeTask, engBit, jwaitFn, Dec.defined, Fields.c0, Fields.b0, Fields.a0,
            Fields.imm0] <;> rfl
  case lpatch | cfgload | scrollst => rw [← imm6_zero]; simp [decodeFields, decodeTask, Fields.c0, Fields.b0, Fields.fn0]
  case cntnote | cbind | csend | cpri | cmask | timer =>
    simp [decodeFields, decodeTask, Fields.c0, Fields.b0, Fields.fn0, Fields.a0, Fields.d0]
  all_goals rfl

theorem bits_eq_toNat_extract {n : Nat} (x : BitVec n) (hi lo : Nat) :
    bits x hi lo = (x.extractLsb' lo (hi + 1 - lo)).toNat :=
  (BitVec.extractLsb'_toNat ..).symm

/-- Bits 255:196 of a slot frame. -/
def slotTop (op : BitVec 8) (c : SlotCfg) : BitVec 60 :=
    (0 : BitVec 3) ++ (c.col ++ ((0 : BitVec 3) ++ (c.unit ++ ((0 : BitVec 4) ++ (op ++ (c.sub ++
      (c.src3 ++ (c.src2 ++ (c.src1 ++ (c.src0 ++ c.dst))))))))))

/-- Bits 195:140 of a slot frame. -/
def slotMid (c : SlotCfg) : BitVec 56 :=
  c.emp3 ++ (c.emp2 ++ (c.emp1 ++ (c.emp0 ++ ((0 : BitVec 2) ++ (c.len ++ (c.cst ++ (c.fmt ++
      (c.rnd ++ (0 : BitVec 4)))))))))

def slotFlags (c : SlotCfg) : BitVec 4 := (0 : BitVec 1) ++ (BitVec.ofBool c.sat ++ (BitVec.ofBool c.ftz ++ BitVec.ofBool c.trapinv))

def slotLow (c : SlotCfg) : BitVec 46 := c.seed ++ (c.qselD ++ (c.qselC ++ (c.qselB ++ (c.qselA ++ (c.agsel ++ c.dos)))))

section
variable (f : Frame)

/-- Neighbouring fields of a pattern make one field. -/
theorem extract_append_extract {n : Nat} (x : BitVec n) (s l k : Nat) :
    x.extractLsb' (s + l) k ++ x.extractLsb' s l = x.extractLsb' s (k + l) := by
  apply BitVec.eq_of_getLsbD_eq; intro i hi
  rw [BitVec.getLsbD_append]
  split <;> rename_i h
  · simp [h, hi]
  · simp [hi, show i - l < k by omega, show s + l + (i - l) = s + i by omega]

theorem ofBool_getLsbD {n : Nat} (x : BitVec n) (i : Nat) : BitVec.ofBool (x.getLsbD i) = x.extractLsb' i 1 := by
  apply BitVec.eq_of_getLsbD_eq; intro j hj; obtain rfl : j = 0 := by omega
  simp

theorem extract_eq_zero {n : Nat} {x : BitVec n} {hi lo k : Nat} (h : bits x hi lo = 0) (hk : k = hi + 1 - lo) :
    x.extractLsb' lo k = 0 := by
  subst hk; exact BitVec.eq_of_toNat_eq (by simpa [bits_eq_toNat_extract] using h)

theorem slotLow_slotCfgOf : slotLow (slotCfgOf f) = f.extractLsb' 94 46 := by
  simp only [slotLow, slotCfgOf]
  rw [extract_append_extract f 94 4 2, extract_append_extract f 94 6 2, extract_append_extract f 94 8 2,
    extract_append_extract f 94 10 2, extract_append_extract f 94 12 2, extract_append_extract f 94 14 32]

theorem slotFlags_slotCfgOf (h : f.extractLsb' 143 1 = 0) : slotFlags (slotCfgOf f) = f.extractLsb' 140 4 := by
  simp only [slotFlags, slotCfgOf, ofBool_getLsbD, ← h]
  rw [extract_append_extract f 140 1 1, extract_append_extract f 140 2 1, extract_append_extract f 140 3 1]

theorem slotTop_slotCfgOf (h : f.extractLsb' 253 3 = 0) (h' : f.extractLsb' 246 3 = 0) (h'' : f.extractLsb' 240 4 = 0) :
    slotTop (f.extractLsb' 232 8) (slotCfgOf f) = f.extractLsb' 196 60 := by
  simp only [slotTop, slotCfgOf]
  rw [← h'', extract_append_extract f 196 16 4, extract_append_extract f 196 20 4, extract_append_extract f 196 24 4,
    extract_append_extract f 196 28 4,
    extract_append_extract f 196 32 4, extract_append_extract f 196 36 8, extract_append_extract f 196 44 4,
    extract_append_extract f 196 48 2]
  nth_rw 2 [← h']
  rw [extract_append_extract f 196 50 3, extract_append_extract f 196 53 4, ← h, extract_append_extract f 196 57 3]

/-- A field that begins within the lower part of a pattern and ends with the upper part. -/
theorem extract_append_high {n m : Nat} (x : BitVec n) (y : BitVec m) (j k : Nat) (h : j + k = m) :
    (x ++ y).extractLsb' j (n + k) = x ++ y.extractLsb' j k := by
  apply BitVec.eq_of_getLsbD_eq; intro i hi
  rw [BitVec.getLsbD_append, BitVec.getLsbD_extractLsb', BitVec.getLsbD_append]
  by_cases hk : i < k
  · simp [hk, hi, show j + i < m by omega]
  · simp [hk, hi, show ¬ j + i < m by omega, show j + i - m = i - k by omega]

theorem slotMid_slotCfgOf (h : f.extractLsb' 186 2 = 0) :
    (slotMid (slotCfgOf f)).extractLsb' 4 52 = f.extractLsb' 144 52 := by
  simp only [slotMid, slotCfgOf]
  rw [extract_append_high _ _ 4 50 rfl, extract_append_high _ _ 4 48 rfl, extract_append_high _ _ 4 46 rfl,
    extract_append_high _ _ 4 44 rfl, extract_append_high _ _ 4 42 rfl, extract_append_high _ _ 4 40 rfl,
    extract_append_high _ _ 4 8 rfl, extract_append_high _ _ 4 4 rfl, extract_append_high _ _ 4 0 rfl, ← h,
    show (0 : BitVec 4).extractLsb' 4 0 = f.extractLsb' 144 0 from BitVec.eq_of_zero_length rfl,
    extract_append_extract f 144 0 4, extract_append_extract f 144 4 4, extract_append_extract f 144 8 32,
   extract_append_extract f 144 40 2, extract_append_extract f 144 42 2, extract_append_extract f 144 44 2,
   extract_append_extract f 144 46 2, extract_append_extract f 144 48 2, extract_append_extract f 144 50 2]

theorem slotFrame_eq (op : BitVec 8) (c : SlotCfg) : slotFrame op c =
    (slotTop op c ++ ((slotMid c).extractLsb' 4 52 ++ (slotFlags c ++ (slotLow c ++ (0 : BitVec 94)))) : BitVec (60 + (52 + (4 + (46 + 94))))) := rfl
end
/-- The upper bits of UNIT are zero when it is at most 3. -/
theorem extract_unit_high {f : Frame} (h : bits f 248 244 ≤ 3) : f.extractLsb' 246 3 = 0 := by
  have : bits f 248 246 = 0 := by simp [bits, Nat.shiftRight_eq_div_pow] at h ⊢; omega
  exact extract_eq_zero this rfl

theorem slotFrame_slotCfgOf {f : Frame} (h1 : bits f 255 253 = 0) (h2 : bits f 248 244 ≤ 3) (h3 : bits f 243 240 = 0)
    (h4 : bits f 187 186 = 0) (h5 : bits f 143 143 = 0) (h6 : bits f 93 0 = 0) :
    slotFrame (f.extractLsb' 232 8) (slotCfgOf f) = f := by
  rw [slotFrame_eq, slotTop_slotCfgOf f (extract_eq_zero h1 rfl) (extract_unit_high h2) (extract_eq_zero h3 rfl),
    slotMid_slotCfgOf f (extract_eq_zero h4 rfl), slotFlags_slotCfgOf f (extract_eq_zero h5 rfl), slotLow_slotCfgOf,
    ← extract_eq_zero h6 rfl, extract_append_extract f 0 94 46, extract_append_extract f 0 140 4,
    extract_append_extract f 0 144 52, extract_append_extract f 0 196 60]
  exact BitVec.extractLsb'_eq_self

theorem toNat_append_add {n m : Nat} (x : BitVec n) (y : BitVec m) : (x ++ y).toNat = x.toNat * 2 ^ m + y.toNat := by
  rw [BitVec.toNat_append, Nat.shiftLeft_eq, mul_comm, Nat.two_pow_add_eq_or_of_lt y.isLt]

theorem toNat_slotTop (op : BitVec 8) (c : SlotCfg) : (slotTop op c).toNat =
    c.dst.toNat + 2 ^ 16 * (c.src0.toNat + 2 ^ 4 * (c.src1.toNat + 2 ^ 4 * (c.src2.toNat + 2 ^ 4 * (c.src3.toNat +
      2 ^ 4 * (c.sub.toNat + 2 ^ 4 * (op.toNat + 2 ^ 8 * (2 ^ 4 * (c.unit.toNat + 2 ^ 2 * (2 ^ 3 * c.col.toNat))))))))) := by
  rw [slotTop, toNat_append_add, toNat_append_add, toNat_append_add, toNat_append_add, toNat_append_add, toNat_append_add,
    toNat_append_add, toNat_append_add, toNat_append_add, toNat_append_add, toNat_append_add]
  simp only [BitVec.ofNat_eq_ofNat, BitVec.toNat_zero, Nat.reducePow]; omega

theorem toNat_slotMid (c : SlotCfg) : (slotMid c).toNat =
    2 ^ 4 * (c.rnd.toNat + 2 ^ 4 * (c.fmt.toNat + 2 ^ 4 * (c.cst.toNat + 2 ^ 32 * (c.len.toNat + 2 ^ 2 * (2 ^ 2 * (c.emp0.toNat +
      2 ^ 2 * (c.emp1.toNat + 2 ^ 2 * (c.emp2.toNat + 2 ^ 2 * c.emp3.toNat)))))))) := by
  rw [slotMid, toNat_append_add, toNat_append_add, toNat_append_add, toNat_append_add, toNat_append_add, toNat_append_add,
    toNat_append_add, toNat_append_add, toNat_append_add]
  simp only [BitVec.ofNat_eq_ofNat, BitVec.toNat_zero, Nat.reducePow]; omega

theorem toNat_slotFlags (c : SlotCfg) : (slotFlags c).toNat = c.trapinv.toNat + 2 * (c.ftz.toNat + 2 * c.sat.toNat) := by
  have e (b : Bool) : (BitVec.ofBool b).toNat = b.toNat := by cases b <;> rfl
  rw [slotFlags, toNat_append_add, toNat_append_add, toNat_append_add, e, e, e]
  simp only [BitVec.ofNat_eq_ofNat, BitVec.toNat_zero, Nat.reducePow]; omega

theorem toNat_slotLow (c : SlotCfg) : (slotLow c).toNat =
    c.dos.toNat + 2 ^ 4 * (c.agsel.toNat + 2 ^ 2 * (c.qselA.toNat + 2 ^ 2 * (c.qselB.toNat + 2 ^ 2 * (c.qselC.toNat +
      2 ^ 2 * (c.qselD.toNat + 2 ^ 2 * c.seed.toNat))))) := by
  rw [slotLow, toNat_append_add, toNat_append_add, toNat_append_add, toNat_append_add, toNat_append_add, toNat_append_add]
  omega

/-- Bits 195:0 of a slot frame. -/
def slotRest (c : SlotCfg) : BitVec 196 := (slotMid c).extractLsb' 4 52 ++ (slotFlags c ++ (slotLow c ++ (0 : BitVec 94)))

theorem toNat_slotRest (c : SlotCfg) : (slotRest c).toNat =
    2 ^ 94 * ((slotLow c).toNat + 2 ^ 46 * ((slotFlags c).toNat + 2 ^ 4 * ((slotMid c).toNat / 2 ^ 4))) := by
  have h := (slotMid c).isLt
  have e : ((slotMid c).extractLsb' 4 52).toNat = (slotMid c).toNat / 2 ^ 4 := by
    rw [BitVec.extractLsb'_toNat, Nat.shiftRight_eq_div_pow]; omega
  rw [slotRest, toNat_append_add, toNat_append_add, toNat_append_add, e]
  simp only [BitVec.ofNat_eq_ofNat, BitVec.toNat_zero, Nat.reduceAdd, Nat.reducePow]; omega

theorem toNat_slotFrame (op : BitVec 8) (c : SlotCfg) : (slotFrame op c).toNat =
    (slotTop op c).toNat * 2 ^ 196 + (slotRest c).toNat := toNat_append_add (slotTop op c) (slotRest c)

/-- The parts of a slot frame by position. -/
theorem slotFrame_top (op : BitVec 8) (c : SlotCfg) : (slotFrame op c).toNat / 2 ^ 196 = (slotTop op c).toNat := by
  have := (slotRest c).isLt
  rw [toNat_slotFrame]; omega

theorem slotFrame_mid (op : BitVec 8) (c : SlotCfg) :
    (slotFrame op c).toNat / 2 ^ 144 % 2 ^ 52 = (slotMid c).toNat / 2 ^ 4 := by
  have := (slotLow c).isLt
  have := (slotFlags c).isLt
  have := (slotMid c).isLt
  rw [toNat_slotFrame, toNat_slotRest]; omega

theorem slotFrame_flags (op : BitVec 8) (c : SlotCfg) : (slotFrame op c).toNat / 2 ^ 140 % 2 ^ 4 = (slotFlags c).toNat := by
  have := (slotLow c).isLt
  have := (slotFlags c).isLt
  have := (slotMid c).isLt
  rw [toNat_slotFrame, toNat_slotRest]; omega

theorem slotFrame_low (op : BitVec 8) (c : SlotCfg) : (slotFrame op c).toNat / 2 ^ 94 % 2 ^ 46 = (slotLow c).toNat := by
  have := (slotLow c).isLt
  have := (slotFlags c).isLt
  have := (slotMid c).isLt
  rw [toNat_slotFrame, toNat_slotRest]; omega

theorem slotFrame_zero (op : BitVec 8) (c : SlotCfg) : (slotFrame op c).toNat % 2 ^ 94 = 0 := by
  rw [toNat_slotFrame, toNat_slotRest]; omega

theorem getLsbD_eq_decide {n : Nat} (x : BitVec n) (i : Nat) : x.getLsbD i = decide (x.toNat / 2 ^ i % 2 = 1) :=
  Nat.testBit_eq_decide_div_mod_eq

theorem decide_eq_one_of_eq_toNat {b : Bool} {n : Nat} (h : n = b.toNat) : decide (n = 1) = b := by
  subst h; cases b <;> rfl

theorem slotCfgOf_slotFrame (op : BitVec 8) (c : SlotCfg) : slotCfgOf (slotFrame op c) = c := by
  have ht := (slotFrame_top op c).trans (toNat_slotTop op c)
  have hm := slotFrame_mid op c
  rw [toNat_slotMid] at hm
  have hf := (slotFrame_flags op c).trans (toNat_slotFlags c)
  have hl := (slotFrame_low op c).trans (toNat_slotLow c)
  generalize slotFrame op c = f at *
  obtain ⟨col, unit, sub, src3, src2, src1, src0, dst, emp3, emp2, emp1, emp0, len, cst, fmt, rnd, sat, ftz, trapinv,
    seed, qselD, qselC, qselB, qselA, agsel, dos⟩ := c
  simp only [Nat.reducePow] at ht hm hf hl
  simp only [slotCfgOf, SlotCfg.mk.injEq, ← BitVec.toNat_inj, BitVec.extractLsb'_toNat, Nat.shiftRight_eq_div_pow,
    Nat.reducePow, getLsbD_eq_decide]
  refine ⟨?_, ?_, ?_, ?_, ?_, ?_, ?_, ?_, ?_, ?_, ?_, ?_, ?_, ?_, ?_, ?_, ?_, ?_, ?_, ?_, ?_, ?_, ?_, ?_, ?_, ?_⟩
  iterate 8
    · clear hm hf hl
      have := op.isLt
      omega
  iterate 8
    · clear ht hf hl
      omega
  iterate 3
    · clear ht hm hl
      have := sat.toNat_lt; have := ftz.toNat_lt; have := trapinv.toNat_lt
      exact decide_eq_one_of_eq_toNat (by omega)
  iterate 7
    · clear ht hm hf
      omega

/-- The fixed fields of a slot frame, and its OP (R162, R164). -/
theorem bits_slotFrame (op : BitVec 8) (c : SlotCfg) :
    let f := slotFrame op c
    bits f 255 253 = 0 ∧ bits f 248 244 = c.unit.toNat ∧ bits f 243 240 = 0 ∧ bits f 239 232 = op.toNat ∧
      bits f 187 186 = 0 ∧ bits f 143 143 = 0 ∧ bits f 93 0 = 0 := by
  have ht := (slotFrame_top op c).trans (toNat_slotTop op c)
  have hm := slotFrame_mid op c
  rw [toNat_slotMid] at hm
  have hf := (slotFrame_flags op c).trans (toNat_slotFlags c)
  have hz := slotFrame_zero op c
  generalize slotFrame op c = f at *
  have := op.isLt
  simp only [bits, Nat.shiftRight_eq_div_pow, Nat.reducePow, Nat.reduceAdd, Nat.reduceSub] at *
  refine ⟨?_, ?_, ?_, ?_, ?_, ?_, ?_⟩
  iterate 4
    · clear hm hf hz
      omega
  · clear ht hf hz
    omega
  · clear ht hm hz
    have := c.sat.toNat_lt; have := c.ftz.toNat_lt; have := c.trapinv.toNat_lt
    omega
  · omega

/-! ### Address-generator frames -/

/-- Bits 255:236 of an address-generator frame. -/
def agTop (mode : BitVec 4) (c : AgCfg) : BitVec 20 :=
  (3 : BitVec 3) ++ (c.col ++ ((0 : BitVec 3) ++ (c.unit ++ ((0 : BitVec 4) ++ mode))))

/-- Bits 235:203 of an address-generator frame. -/
def agMid (c : AgCfg) : BitVec 33 :=
  c.ctype ++ (c.tgt ++ (c.shsel ++ (c.bufn ++ (c.out ++ (c.oq ++ (c.isrc ++ (c.vsrc ++ (c.afn ++
    (c.fmt ++ (c.rnd ++ BitVec.ofBool c.ftz))))))))))

/-- Bits 202:160 of an address-generator frame. -/
def agLow (c : AgCfg) : BitVec 43 :=
  BitVec.ofBool c.waitf ++ (c.lbase ++ (c.lwords ++ (c.rpr ++ BitVec.ofBool c.kw)))

/-- Bits 235:0 of an address-generator frame. -/
def agRest (c : AgCfg) : BitVec 236 := agMid c ++ (agLow c ++ (0 : BitVec 160))

theorem toNat_ofBool (b : Bool) : (BitVec.ofBool b).toNat = b.toNat := by cases b <;> rfl

theorem toNat_agTop (mode : BitVec 4) (c : AgCfg) : (agTop mode c).toNat =
    mode.toNat + 2 ^ 4 * (2 ^ 4 * (c.unit.toNat + 2 ^ 2 * (2 ^ 3 * (c.col.toNat + 2 ^ 4 * 3)))) := by
  rw [agTop, toNat_append_add, toNat_append_add, toNat_append_add, toNat_append_add, toNat_append_add]
  simp only [BitVec.ofNat_eq_ofNat, BitVec.toNat_ofNat, Nat.reducePow, Nat.reduceMod]; omega

theorem toNat_agMid (c : AgCfg) : (agMid c).toNat =
    c.ftz.toNat + 2 * (c.rnd.toNat + 2 ^ 3 * (c.fmt.toNat + 2 ^ 4 * (c.afn.toNat + 2 ^ 4 * (c.vsrc.toNat +
      2 ^ 3 * (c.isrc.toNat + 2 ^ 3 * (c.oq.toNat + 2 ^ 2 * (c.out.toNat + 2 ^ 4 * (c.bufn.toNat + 2 ^ 2 * (c.shsel.toNat +
        2 ^ 3 * (c.tgt.toNat + 2 ^ 2 * c.ctype.toNat)))))))))) := by
  rw [agMid, toNat_append_add, toNat_append_add, toNat_append_add, toNat_append_add, toNat_append_add, toNat_append_add,
    toNat_append_add, toNat_append_add, toNat_append_add, toNat_append_add, toNat_append_add, toNat_ofBool]
  omega

theorem toNat_agLow (c : AgCfg) : (agLow c).toNat =
    c.kw.toNat + 2 * (c.rpr.toNat + 2 ^ 8 * (c.lwords.toNat + 2 ^ 17 * (c.lbase.toNat + 2 ^ 16 * c.waitf.toNat))) := by
  rw [agLow, toNat_append_add, toNat_append_add, toNat_append_add, toNat_append_add, toNat_ofBool, toNat_ofBool]
  omega

theorem toNat_agRest (c : AgCfg) : (agRest c).toNat = 2 ^ 160 * ((agLow c).toNat + 2 ^ 43 * (agMid c).toNat) := by
  rw [agRest, toNat_append_add, toNat_append_add]
  simp only [BitVec.ofNat_eq_ofNat, BitVec.toNat_zero, Nat.reduceAdd, Nat.reducePow]; omega

theorem toNat_agFrame (mode : BitVec 4) (c : AgCfg) : (agFrame mode c).toNat =
    (agTop mode c).toNat * 2 ^ 236 + (agRest c).toNat := toNat_append_add (agTop mode c) (agRest c)

theorem agFrame_top (mode : BitVec 4) (c : AgCfg) : (agFrame mode c).toNat / 2 ^ 236 = (agTop mode c).toNat := by
  have := (agRest c).isLt
  rw [toNat_agFrame]; omega

theorem agFrame_mid (mode : BitVec 4) (c : AgCfg) : (agFrame mode c).toNat / 2 ^ 203 % 2 ^ 33 = (agMid c).toNat := by
  have := (agLow c).isLt
  have := (agMid c).isLt
  rw [toNat_agFrame, toNat_agRest]; omega

theorem agFrame_low (mode : BitVec 4) (c : AgCfg) : (agFrame mode c).toNat / 2 ^ 160 % 2 ^ 43 = (agLow c).toNat := by
  have := (agLow c).isLt
  have := (agMid c).isLt
  rw [toNat_agFrame, toNat_agRest]; omega

theorem agCfgOf_agFrame (mode : BitVec 4) (c : AgCfg) : agCfgOf (agFrame mode c) = c := by
  have ht := (agFrame_top mode c).trans (toNat_agTop mode c)
  have hm := (agFrame_mid mode c).trans (toNat_agMid c)
  have hl := (agFrame_low mode c).trans (toNat_agLow c)
  generalize agFrame mode c = f at *
  obtain ⟨col, unit, ctype, tgt, shsel, bufn, out, oq, isrc, vsrc, afn, fmt, rnd, ftz, waitf, lbase, lwords, rpr, kw⟩ := c
  simp only [Nat.reducePow] at ht hm hl
  simp only [agCfgOf, AgCfg.mk.injEq, ← BitVec.toNat_inj, BitVec.extractLsb'_toNat, Nat.shiftRight_eq_div_pow,
    Nat.reducePow, getLsbD_eq_decide]
  have := ftz.toNat_lt; have := waitf.toNat_lt; have := kw.toNat_lt
  refine ⟨?_, ?_, ?_, ?_, ?_, ?_, ?_, ?_, ?_, ?_, ?_, ?_, ?_, ?_, ?_, ?_, ?_, ?_, ?_⟩
  iterate 2
    · clear hm hl
      have := mode.isLt
      omega
  iterate 11
    · clear ht hl
      omega
  · clear ht hl
    exact decide_eq_one_of_eq_toNat (by omega)
  · clear ht hm
    exact decide_eq_one_of_eq_toNat (by omega)
  iterate 3
    · clear ht hm
      omega
  · clear ht hm
    exact decide_eq_one_of_eq_toNat (by omega)

/-- The fixed fields of an address-generator frame, and its MODE (R162, R209). -/
theorem bits_agFrame (mode : BitVec 4) (c : AgCfg) :
    let f := agFrame mode c
    bits f 255 253 = 3 ∧ bits f 248 244 = c.unit.toNat ∧ bits f 243 240 = 0 ∧ bits f 239 236 = mode.toNat ∧
      bits f 159 0 = 0 := by
  have ht := (agFrame_top mode c).trans (toNat_agTop mode c)
  have hz : (agFrame mode c).toNat % 2 ^ 160 = 0 := by rw [toNat_agFrame, toNat_agRest]; omega
  generalize agFrame mode c = f at *
  have := mode.isLt
  simp only [bits, Nat.shiftRight_eq_div_pow, Nat.reducePow, Nat.reduceAdd, Nat.reduceSub] at *
  refine ⟨?_, ?_, ?_, ?_, ?_⟩
  iterate 4
    · clear hz
      omega
  · omega

theorem agTop_agCfgOf (f : Frame) (h : f.extractLsb' 253 3 = 3) (h' : f.extractLsb' 246 3 = 0)
    (h'' : f.extractLsb' 240 4 = 0) :
    agTop (f.extractLsb' 236 4) (agCfgOf f) = f.extractLsb' 236 20 := by
  simp only [agTop, agCfgOf]
  rw [← h, ← h', ← h'', extract_append_extract f 236 4 4, extract_append_extract f 236 8 2,
    extract_append_extract f 236 10 3,
    extract_append_extract f 236 13 4, extract_append_extract f 236 17 3]

theorem agMid_agCfgOf (f : Frame) : agMid (agCfgOf f) = f.extractLsb' 203 33 := by
  simp only [agMid, agCfgOf, ofBool_getLsbD]
  rw [extract_append_extract f 203 1 3, extract_append_extract f 203 4 4, extract_append_extract f 203 8 4,
    extract_append_extract f 203 12 3, extract_append_extract f 203 15 3, extract_append_extract f 203 18 2,
    extract_append_extract f 203 20 4, extract_append_extract f 203 24 2, extract_append_extract f 203 26 3,
    extract_append_extract f 203 29 2, extract_append_extract f 203 31 2]

theorem agLow_agCfgOf (f : Frame) : agLow (agCfgOf f) = f.extractLsb' 160 43 := by
  simp only [agLow, agCfgOf, ofBool_getLsbD]
  rw [extract_append_extract f 160 1 8, extract_append_extract f 160 9 17, extract_append_extract f 160 26 16,
    extract_append_extract f 160 42 1]

theorem agFrame_eq (mode : BitVec 4) (c : AgCfg) : agFrame mode c =
    (agTop mode c ++ (agMid c ++ (agLow c ++ (0 : BitVec 160))) : BitVec (20 + (33 + (43 + 160)))) := rfl

theorem agFrame_agCfgOf {f : Frame} (h1 : bits f 255 253 = 3) (h2 : bits f 248 244 ≤ 3) (h3 : bits f 243 240 = 0)
    (h4 : bits f 159 0 = 0) : agFrame (f.extractLsb' 236 4) (agCfgOf f) = f := by
  have e1 : f.extractLsb' 253 3 = 3 := BitVec.eq_of_toNat_eq (by simpa [bits_eq_toNat_extract] using h1)
  rw [agFrame_eq, agTop_agCfgOf f e1 (extract_unit_high h2) (extract_eq_zero h3 rfl), agMid_agCfgOf, agLow_agCfgOf,
    ← extract_eq_zero h4 rfl, extract_append_extract f 0 160 43, extract_append_extract f 0 203 33,
    extract_append_extract f 0 236 20]
  exact BitVec.extractLsb'_eq_self

/-! ### Names of operations -/

theorem cellOp_of_cellInstr {n : Nat} {c : SlotCfg} {i : Instr} (h : cellInstr n c = some i) :
    cellOp i = some (BitVec.ofNat 8 n, c) := by
  unfold cellInstr at h
  split at h <;> cases h <;> rfl

theorem cellInstr_of_cellOp {op : BitVec 8} {c : SlotCfg} {i : Instr} (h : cellOp i = some (op, c)) :
    cellInstr op.toNat c = some i := by
  cases i <;> cases h <;> rfl

theorem agOp_of_agInstr {n : Nat} {c : AgCfg} {i : Instr} (h : agInstr n c = some i) :
    agOp i = some (BitVec.ofNat 4 n, c) := by
  unfold agInstr at h
  split at h <;> cases h <;> rfl

theorem agInstr_of_agOp {m : BitVec 4} {c : AgCfg} {i : Instr} (h : agOp i = some (m, c)) : agInstr m.toNat c = some i := by
  cases i <;> cases h <;> rfl

theorem cellOp_of_agOp {m : BitVec 4} {c : AgCfg} {i : Instr} (h : agOp i = some (m, c)) : cellOp i = none := by
  cases i <;> cases h <;> rfl

/-! ### Well-formed frames -/

theorem Instr.wf_of_cellOp {op : BitVec 8} {c : SlotCfg} {i : Instr} (h : cellOp i = some (op, c)) :
    i.wf = slotLegal op.toNat c := by
  unfold Instr.wf; rw [h]

theorem Instr.wf_of_agOp {m : BitVec 4} {c : AgCfg} {i : Instr} (h : agOp i = some (m, c)) : i.wf = agLegal m.toNat c := by
  unfold Instr.wf; rw [cellOp_of_agOp h, h]

theorem encodeFrame_of_cellOp {op : BitVec 8} {c : SlotCfg} {i : Instr} (h : cellOp i = some (op, c)) :
    encodeFrame i = some (slotFrame op c) := by
  unfold encodeFrame; rw [h]

theorem encodeFrame_of_agOp {m : BitVec 4} {c : AgCfg} {i : Instr} (h : agOp i = some (m, c)) :
    encodeFrame i = some (agFrame m c) := by
  unfold encodeFrame; rw [cellOp_of_agOp h, h]

theorem decodeFrame_slotFrame {op : BitVec 8} {c : SlotCfg} {i : Instr} (hi : cellOp i = some (op, c))
    (hl : slotLegal op.toNat c = true) : decodeFrame (slotFrame op c) = .instr i := by
  obtain ⟨b1, b2, b3, b4, b5, b6, b7⟩ := bits_slotFrame op c
  have hu : c.unit.toNat ≤ 3 := by have := c.unit.isLt; omega
  have hc : frameCode (slotFrame op c) = 0 := by
    simp [frameCode, Frame.layout, Frame.unit, Frame.seq, b1, b2, b3, b4, b5, b6, b7, slotCfgOf_slotFrame, hu, hl]
  simp [decodeFrame, hc, Frame.layout, Frame.unit, b1, b2, b4, hu, slotCfgOf_slotFrame, cellInstr_of_cellOp hi]

theorem decodeFrame_agFrame {m : BitVec 4} {c : AgCfg} {i : Instr} (hi : agOp i = some (m, c))
    (hl : agLegal m.toNat c = true) : decodeFrame (agFrame m c) = .instr i := by
  obtain ⟨b1, b2, b3, b4, b5⟩ := bits_agFrame m c
  have hu : c.unit.toNat ≤ 3 := by have := c.unit.isLt; omega
  have hc : frameCode (agFrame m c) = 0 := by
    simp [frameCode, Frame.layout, Frame.unit, Frame.seq, b1, b2, b3, b4, b5, agCfgOf_agFrame, hu, hl]
  simp [decodeFrame, hc, Frame.layout, b1, b4, agCfgOf_agFrame, agInstr_of_agOp hi]

/-- The image end's frame (R116). -/
def endFrame : Frame := ((7 : BitVec 3) ++ (0 : BitVec 253) : BitVec (3 + 253))

theorem toNat_endFrame : endFrame.toNat = 7 * 2 ^ 253 := toNat_append_add (7 : BitVec 3) (0 : BitVec 253)

theorem decodeFrame_endFrame : decodeFrame endFrame = .instr .imageEnd := by
  have b1 : bits endFrame 255 253 = 7 := by rw [bits, toNat_endFrame]; decide
  have b2 : bits endFrame 252 0 = 0 := by rw [bits, toNat_endFrame]; decide
  have hc : frameCode endFrame = 0 := by simp [frameCode, Frame.layout, b1, b2]
  simp [decodeFrame, hc, Frame.layout, b1]

theorem eq_endFrame {f : Frame} (h1 : bits f 255 253 = 7) (h2 : bits f 252 0 = 0) : endFrame = f := by
  apply BitVec.eq_of_toNat_eq
  rw [toNat_endFrame]
  simp only [bits, Nat.shiftRight_eq_div_pow, Nat.reducePow, Nat.reduceAdd, Nat.reduceSub] at *
  omega

/-- The frame of a well-formed instruction decodes to it. -/
theorem decodeFrame_encodeFrame {i : Instr} {f : Frame} (hi : i.wf = true) (h : encodeFrame i = some f) :
    decodeFrame f = .instr i := by
  unfold encodeFrame at h
  split at h
  next op c e =>
    cases h; exact decodeFrame_slotFrame e (by rwa [Instr.wf_of_cellOp e] at hi)
  next e =>
    split at h
    next m c e => cases h; exact decodeFrame_agFrame e (by rwa [Instr.wf_of_agOp e] at hi)
    next =>
      split at h
      · cases h; exact decodeFrame_endFrame
      · cases h; exact of_decide_eq_true hi
      · cases h

/-- A slot frame that is accepted is made of its OP and its fields (R164). -/
theorem slotFrame_of_frameCode {f : Frame} (hl : Frame.layout f = 0) (hu : Frame.unit f ≤ 3) (hc : frameCode f = 0) :
    slotFrame (f.extractLsb' 232 8) (slotCfgOf f) = f ∧ slotLegal (bits f 239 232) (slotCfgOf f) = true := by
  simp only [frameCode, hl, hu, if_true, Frame.seq, ite_eq_left_iff, OfNat.ofNat_ne_zero, imp_false, not_not,
    Bool.and_eq_true, beq_iff_eq] at hc
  obtain ⟨⟨⟨⟨h1, h2⟩, h3⟩, h4⟩, h5⟩ := hc
  exact ⟨slotFrame_slotCfgOf hl hu h1 h2 h3 h4, h5⟩

/-- An address-generator frame that is accepted is made of its MODE and its fields (R209). -/
theorem agFrame_of_frameCode {f : Frame} (hl : Frame.layout f = 3) (hc : frameCode f = 0) :
    agFrame (f.extractLsb' 236 4) (agCfgOf f) = f ∧ agLegal (bits f 239 236) (agCfgOf f) = true := by
  simp only [frameCode, hl, Frame.seq, ite_eq_left_iff, OfNat.ofNat_ne_zero, imp_false, not_not, Bool.and_eq_true,
    beq_iff_eq, decide_eq_true_eq] at hc
  obtain ⟨⟨⟨h1, h2⟩, h3⟩, h4⟩ := hc
  exact ⟨agFrame_agCfgOf hl h1 h2 h3, h4⟩

/-- An accepted frame is the encoding of the well-formed instruction it decodes to. -/
theorem decodeFrame_sound {f : Frame} {i : Instr} (h : decodeFrame f = .instr i) : i.wf = true ∧ encodeFrame i = some f := by
  have config (e : FDec.instr (.configFrame f) = .instr i) : i.wf = true ∧ encodeFrame i = some f := by
    cases e; exact ⟨decide_eq_true h, rfl⟩
  have hd := h
  simp only [decodeFrame] at hd
  split at hd
  · cases hd
  next hc =>
    have hc : frameCode f = 0 := not_not.1 hc
    split at hd
    next hl =>
      split at hd
      next hu =>
        obtain ⟨hf, hs⟩ := slotFrame_of_frameCode hl hu hc
        split at hd
        next e =>
          cases hd
          have e' := cellOp_of_cellInstr e
          rw [bits_eq_toNat_extract, BitVec.ofNat_toNat, BitVec.setWidth_eq] at e'
          rw [bits_eq_toNat_extract] at hs
          exact ⟨(Instr.wf_of_cellOp e').trans hs, (encodeFrame_of_cellOp e').trans (congrArg some hf)⟩
        · cases hd
      · exact config hd
    next hl =>
      obtain ⟨hf, hs⟩ := agFrame_of_frameCode hl hc
      split at hd
      next e =>
        cases hd
        have e' := agOp_of_agInstr e
        rw [bits_eq_toNat_extract, BitVec.ofNat_toNat, BitVec.setWidth_eq] at e'
        rw [bits_eq_toNat_extract] at hs
        exact ⟨(Instr.wf_of_agOp e').trans hs, (encodeFrame_of_agOp e').trans (congrArg some hf)⟩
      · cases hd
    next hl =>
      cases hd
      simp [frameCode, hl] at hc
      exact ⟨rfl, congrArg some (eq_endFrame hl hc)⟩
    · exact config hd

/-! ## Words and bytes -/

theorem decodeWord_encodeWord {i : Instr} {w : Word} (hi : i.wf = true) (h : encodeWord i = some w) :
    decodeWord w = .instr i := by
  obtain ⟨f, hf, rfl⟩ := Option.map_eq_some_iff.1 h
  rw [decodeWord, fieldsOf_wordOf]
  exact decodeFields_encodeFields hi hf

theorem decodeWord_sound {w : Word} {i : Instr} (h : decodeWord w = .instr i) : i.wf = true ∧ encodeWord i = some w := by
  obtain ⟨he, hw⟩ := decodeFields_sound h
  exact ⟨hw, by rw [encodeWord, he, Option.map_some, wordOf_fieldsOf]⟩

@[simp] theorem length_leBytes (n x : Nat) : (leBytes n x).length = n := by
  induction n generalizing x with
  | zero => rfl
  | succ n ih => simp [leBytes, ih]

/-- Bytes of a number read back (R2). -/
theorem leNat_leBytes (n x : Nat) (h : x < 256 ^ n) : leNat (leBytes n x) = x := by
  induction n generalizing x with
  | zero => simp [leBytes, leNat]; omega
  | succ n ih =>
    rw [leBytes, leNat, ih (x / 256) (Nat.div_lt_of_lt_mul (by rwa [← Nat.pow_succ'])), BitVec.toNat_ofNat]
    omega

/-- The bytes of an instruction decode to it (R2, R156, R162). -/
theorem decodeTableWord_encode {i : Instr} (hi : i.wf = true) (h : encode i ≠ []) :
    decodeTableWord (8 * (encode i).length) (leNat (encode i)) = some i := by
  unfold encode at h ⊢
  split
  next w hw =>
    have hb : w.toNat < 256 ^ 8 := w.isLt
    simp [decodeTableWord, leNat_leBytes 8 _ hb, decodeWord_encodeWord hi hw]
  next hw =>
    rw [hw] at h
    split
    next f hf =>
      have hb : f.toNat < 256 ^ 32 := f.isLt
      simp [decodeTableWord, leNat_leBytes 32 _ hb, decodeFrame_encodeFrame hi hf]
    next hf => rw [hf] at h; exact absurd rfl h

end Sys2Proof

/-- Settles O50: each form's fields are read back from its word or frame,
  and what a form leaves unused the decoder finds zero. -/
theorem decodeEncode : Obligations.DecodeEncode := by
  unfold Obligations.DecodeEncode
  refine ⟨fun i hi => ⟨fun w hw => ?_, fun f hf => ?_, fun hn => ?_⟩, fun w i h => ?_, fun f i h => ?_⟩
  · exact decodeWord_encodeWord hi hw
  · exact decodeFrame_encodeFrame hi hf
  · exact decodeTableWord_encode hi hn
  · exact decodeWord_sound h
  · exact decodeFrame_sound h

end

/-! # O9: writes of system registers -/

section
open Sys2Proof Sys2Proof.Machine Sys2Proof.Claims
namespace Sys2Proof.Machine

/-- A privileged write with its ZERO fields zero completes (R291). -/
theorem State.sysWriteExec_of_ok {s : State} {r : SysReg} {a : Reg} (hp : r.privWrite = true → s.me.priv = true)
    (hz : sysZeroOk r (s.me.get a) = true) :
    s.sysWriteExec r a = .next (moved (s.sysWrite r (s.me.get a))) := by
  have hp : (r.privWrite && !s.me.priv) = false := by cases h : r.privWrite <;> simp_all
  simp [State.sysWriteExec, hp, hz, moved]

/-- A privileged write with a ZERO field set takes RESERVED_FIELD (R291). -/
theorem State.sysWriteExec_of_reserved {s : State} {r : SysReg} {a : Reg} (hp : s.me.priv = true)
    (hz : sysZeroOk r (s.me.get a) = false) : s.sysWriteExec r a = .next (s.trap .reservedField) := by
  simp [State.sysWriteExec, hp, hz]

theorem moved_setMe (s : State) (c : Core) : moved (s.setMe c) = s.setMe { c with pc := c.pc + 8 } := by
  simp [moved, Core.advance]

theorem trapped_trap (s : State) (code : Code) (level : Nat) (eval : Word) :
    trapped s (s.trap code level eval) code.num level eval := by
  have m : (s.trap code level eval).me = s.me.trap code level eval := (s.setMe_spec _).1
  refine ⟨(s.setMe_spec _).2.1, (s.setMe_spec _).2.2, ?_⟩
  rw [m]
  exact ⟨rfl, rfl, rfl, rfl, rfl, rfl, rfl, rfl, rfl, rfl, rfl⟩

/-! ## The ZERO fields as numbers (R35, R239, R241, R56) -/

theorem bits_high_eq_zero_iff (v : Word) (lo : Nat) (h : lo ≤ 63) : bits v 63 lo = 0 ↔ v.toNat < 2 ^ lo := by
  have hv : v.toNat / 2 ^ lo < 2 ^ (63 + 1 - lo) :=
    Nat.div_lt_of_lt_mul (by rw [← pow_add, show lo + (63 + 1 - lo) = 64 by omega]; exact v.isLt)
  rw [bits, Nat.shiftRight_eq_div_pow, Nat.mod_eq_of_lt hv, Nat.div_eq_zero_iff]
  simp

theorem sysZeroOk_status (v : Word) : sysZeroOk .status v = true ↔ v.toNat < 8 := by
  simp [sysZeroOk, bits_high_eq_zero_iff]

theorem sysZeroOk_epc (v : Word) : sysZeroOk .epc v = true ↔ v.toNat % 8 = 0 := decide_eq_true_iff

theorem sysZeroOk_vbase (v : Word) : sysZeroOk .vbase v = true ↔ v.toNat % 8 = 0 := decide_eq_true_iff

theorem sysZeroOk_asid (v : Word) : sysZeroOk .asid v = true ↔ v.toNat < 2 ^ 16 := by
  simp [sysZeroOk, bits_high_eq_zero_iff]

theorem sysZeroOk_job (v : Word) : sysZeroOk .job v = true ↔ v.toNat < 2 ^ 16 := by
  simp [sysZeroOk, bits_high_eq_zero_iff]

theorem sysZeroOk_tbase (v : Word) : sysZeroOk .tbase v = true ↔ v.toNat < 2 ^ 52 ∧ v.toNat % 4096 = 0 := by
  simp only [sysZeroOk, Bool.and_eq_true, decide_eq_true_iff, bits_high_eq_zero_iff v 52 (by decide)]; rfl

theorem sysZeroOk_waypart (v : Word) :
    sysZeroOk .waypart v = true ↔ v.toNat / 2 ^ 50 % 2 ^ 12 = 0 ∧ v.toNat / 2 ^ 20 % 2 ^ 22 = 0 := by
  simp [sysZeroOk, waypartZeroOk, bits, Nat.shiftRight_eq_div_pow]

/-! ## The written states -/

/-- A write that changes the acting core alone. -/
theorem State.sysWriteExec_eq_setMe {s : State} {r : SysReg} {a : Reg} {c : Core} (hp : s.me.priv = true)
    (hz : sysZeroOk r (s.me.get a) = true) (hw : s.sysWrite r (s.me.get a) = s.setMe c) :
    s.sysWriteExec r a = .next (s.setMe { c with pc := c.pc + 8 }) := by
  rw [sysWriteExec_of_ok (fun _ => hp) hz, hw, moved_setMe]

/-- SYS_CLOCK is raised, and a clock at the limit requests a turn advance (R240, R29). -/
theorem State.sysWrite_clock (s : State) (v : Word) :
    s.sysWrite .clock v =
      { s with turnReq := s.turnReq || decide (0xFFF000 ≤ max s.me.pts (v.toNat % 2 ^ 24)) }.setMe
        (s.me.raise (v.toNat % 2 ^ 24)) :=
  State.noteClock_eq _ _

/-- A timer after a write of SYS_CYCLE (R240). -/
def Channel.retimed (old new : Nat) (ch : Channel) : Channel := { ch with timer := ch.timer.map fun d => new + (d - old) }

theorem Core.chan_retimed (c : Core) (old new k : Nat) :
    ({ c with chans := c.chans.mapVals (Channel.retimed old new) } : Core).chan k = (c.chan k).retimed old new :=
  Table.getD_mapVals c.chans (Channel.retimed old new) k Channel.reset

theorem sysClockWrite_spec {s : State} (hp : s.me.priv = true) (a : Reg) :
    ∃ t, exec (.sysClockWrite a) s = .next t ∧ t.me.pts = max s.me.pts ((s.me.get a).toNat % 2 ^ 24) ∧
      t.turnReq = (s.turnReq || decide (0xFFF000 ≤ t.me.pts)) ∧
      { t.me with pts := s.me.pts, pc := s.me.pc } = s.me ∧ t.me.pc = s.me.pc + 8 ∧
      { t with cores := s.cores, turnReq := s.turnReq } = s := by
  have h := State.sysWriteExec_of_ok (s := s) (r := .clock) (a := a) (fun _ => hp) rfl
  rw [State.sysWrite_clock, moved_setMe] at h
  refine ⟨_, h, ?_⟩
  rw [State.me_setMe]
  exact ⟨rfl, rfl, rfl, rfl, rfl⟩

theorem sysCycleWrite_spec {s : State} (hp : s.me.priv = true) (a : Reg) :
    ∃ t, exec (.sysCycleWrite a) s = .next t ∧ t.me.cycle = (s.me.get a).toNat ∧ t.me.pc = s.me.pc + 8 ∧
      (∀ k n, (s.me.chan k).timer = some n → s.me.cycle ≤ n →
        (t.me.chan k).timer = some ((s.me.get a).toNat + (n - s.me.cycle))) ∧
      { t.me with cycle := s.me.cycle, pc := s.me.pc, chans := s.me.chans } = s.me ∧ { t with cores := s.cores } = s := by
  refine ⟨_, State.sysWriteExec_eq_setMe hp rfl rfl, ?_⟩
  rw [State.me_setMe]
  refine ⟨rfl, rfl, fun k n ht _ => ?_, rfl, rfl⟩
  exact (congrArg Channel.timer (Core.chan_retimed s.me s.me.cycle (s.me.get a).toNat k)).trans
    (by rw [Channel.retimed, ht]; rfl)

end Sys2Proof.Machine

/-- Settles O9: a write passes the checks of privilege and of the ZERO fields, or traps at them. -/
theorem systemRegisterWrites : Obligations.SystemRegisterWrites := by
  unfold Obligations.SystemRegisterWrites
  refine ⟨fun s a => ⟨?_, fun hp => ⟨?_, fun h => ?_, fun h => ?_, ?_, fun h => ?_, fun h => ?_, fun h h' => ?_,
    fun h => ?_, ?_, sysClockWrite_spec hp a, sysCycleWrite_spec hp a⟩⟩, fun s a r hp h => ?_⟩
  · exact State.sysWriteExec_of_ok (s := s) (r := .chpri) (a := a) nofun rfl
  · exact State.sysWriteExec_of_ok (fun _ => hp) rfl
  · exact State.sysWriteExec_eq_setMe hp ((sysZeroOk_status _).2 h) rfl
  · exact State.sysWriteExec_eq_setMe hp ((sysZeroOk_epc _).2 h) rfl
  · exact State.sysWriteExec_eq_setMe hp rfl rfl
  · exact State.sysWriteExec_eq_setMe hp ((sysZeroOk_vbase _).2 h) rfl
  · exact State.sysWriteExec_eq_setMe hp ((sysZeroOk_asid _).2 h) rfl
  · exact State.sysWriteExec_eq_setMe hp ((sysZeroOk_tbase _).2 ⟨h, h'⟩) rfl
  · exact State.sysWriteExec_eq_setMe hp ((sysZeroOk_job _).2 h) rfl
  · exact State.sysWriteExec_of_ok (fun _ => hp) rfl
  · have hz : ¬ sysZeroOk r (s.me.get a) = true := by
      cases r
      case status => rw [sysZeroOk_status]; exact Nat.not_lt.2 h
      case epc => rwa [sysZeroOk_epc]
      case vbase => rwa [sysZeroOk_vbase]
      case asid => rw [sysZeroOk_asid]; exact Nat.not_lt.2 h
      case job => rw [sysZeroOk_job]; exact Nat.not_lt.2 h
      case tbase => rw [sysZeroOk_tbase, not_and_or, Nat.not_lt]; exact h
      case waypart => rw [sysZeroOk_waypart, not_and_or]; exact h
      all_goals exact h.elim
    exact ⟨s.trap .reservedField, State.sysWriteExec_of_reserved hp (Bool.eq_false_iff.2 hz),
      trapped_trap s .reservedField 0 0⟩

end

/-! # O53: every step keeps the memories canonical -/

section
open Sys2Proof Sys2Proof.Machine Sys2Proof.Claims
namespace Sys2Proof.Machine

/-!
A step is a composition of the model's functions, and few of them write memory, HBM data or crown scratch. For each function
that a step is made of, a lemma `f_wf` says that what it gives keeps the three canonical when its state has them so, for each
state in its result; its proof follows the branches of the function and cites the lemmas of the functions it calls. For the
steps on lines and walks these are the lemmas of `State.LineSteps`.
-/

/-! ## The states in a result have canonical memories -/

def OutWf : Out → Prop
  | .next t => memoriesWf t
  | _ => True

theorem OutWf.next {o : Out} {t : State} (h : OutWf o) (e : o = .next t) : memoriesWf t := by subst e; exact h

def OptWf (o : Option State) : Prop := ∀ t, o = some t → memoriesWf t

theorem OptWf_none : OptWf none := nofun

theorem OptWf_some {t : State} (h : memoriesWf t) : OptWf (some t) := fun _ e => Option.some.inj e ▸ h

theorem OptWf.some {o : Option State} {t : State} (h : OptWf o) (e : o = some t) : memoriesWf t := h t e

def OptPairWf {α : Type} (o : Option (α × State)) : Prop := ∀ p, o = some p → memoriesWf p.2

theorem OptPairWf_none {α : Type} : OptPairWf (none : Option (α × State)) := nofun

theorem OptPairWf_some {α : Type} {p : α × State} (h : memoriesWf p.2) : OptPairWf (some p) :=
  fun _ e => Option.some.inj e ▸ h

theorem OptPairWf.some {α : Type} {o : Option (α × State)} {a : α} {t : State} (h : OptPairWf o) (e : o = some (a, t)) :
    memoriesWf t := h _ e

def OptTripleWf {α β : Type} (o : Option (α × β × State)) : Prop := ∀ p, o = some p → memoriesWf p.2.2

theorem OptTripleWf_none {α β : Type} : OptTripleWf (none : Option (α × β × State)) := nofun

theorem OptTripleWf_some {α β : Type} {p : α × β × State} (h : memoriesWf p.2.2) : OptTripleWf (some p) :=
  fun _ e => Option.some.inj e ▸ h

theorem OptTripleWf.some {α β : Type} {o : Option (α × β × State)} {a : α} {b : β} {t : State} (h : OptTripleWf o)
    (e : o = some (a, b, t)) : memoriesWf t := h _ e

def OptOutWf (o : Option Out) : Prop := ∀ p, o = some p → OutWf p

theorem OptOutWf_none : OptOutWf none := nofun

theorem OptOutWf_some {o : Out} (h : OutWf o) : OptOutWf (some o) := fun _ e => Option.some.inj e ▸ h

theorem OptOutWf.next {o : Option Out} {t : State} (h : OptOutWf o) (e : o = some (.next t)) : memoriesWf t := h _ e

def WalkRes.Wf : WalkRes → Prop
  | .leaf _ s | .wait s => memoriesWf s
  | .fault _ _ => True

theorem WalkRes.Wf.leaf {r : WalkRes} {a s} (h : r.Wf) (e : r = .leaf a s) : memoriesWf s := by subst e; exact h

theorem WalkRes.Wf.wait {r : WalkRes} {s} (h : r.Wf) (e : r = .wait s) : memoriesWf s := by subst e; exact h

def Xl.Wf : Xl → Prop
  | .ok _ _ _ s | .wait s => memoriesWf s
  | .fault _ _ => True

theorem Xl.Wf.ok {r : Xl} {a b c s} (h : r.Wf) (e : r = .ok a b c s) : memoriesWf s := by subst e; exact h

theorem Xl.Wf.wait {r : Xl} {s} (h : r.Wf) (e : r = .wait s) : memoriesWf s := by subst e; exact h

def Acc.Wf : Acc → Prop
  | .ok _ _ s | .wait s => memoriesWf s
  | .fault _ _ => True

theorem Acc.Wf.ok {r : Acc} {a b s} (h : r.Wf) (e : r = .ok a b s) : memoriesWf s := by subst e; exact h

theorem Acc.Wf.wait {r : Acc} {s} (h : r.Wf) (e : r = .wait s) : memoriesWf s := by subst e; exact h

def Found.Wf {α : Type} : Found α → Prop
  | .bad s | .wait s | .ok _ s => memoriesWf s

theorem Found.Wf.bad {α : Type} {r : Found α} {s} (h : r.Wf) (e : r = .bad s) : memoriesWf s := by subst e; exact h

theorem Found.Wf.wait {α : Type} {r : Found α} {s} (h : r.Wf) (e : r = .wait s) : memoriesWf s := by subst e; exact h

theorem Found.Wf.ok {α : Type} {r : Found α} {x s} (h : r.Wf) (e : r = .ok x s) : memoriesWf s := by subst e; exact h

def OptFoundWf {α : Type} (o : Option (Found α)) : Prop := ∀ r, o = some r → r.Wf

theorem OptFoundWf.ok {α : Type} {o : Option (Found α)} {x : α} {t : State} (h : OptFoundWf o) (e : o = some (.ok x t)) :
    memoriesWf t := h _ e

theorem OptFoundWf.wait {α : Type} {o : Option (Found α)} {t : State} (h : OptFoundWf o) (e : o = some (.wait t)) :
    memoriesWf t := h _ e

theorem OptFoundWf.bad {α : Type} {o : Option (Found α)} {t : State} (h : OptFoundWf o) (e : o = some (.bad t)) :
    memoriesWf t := h _ e

def Armed.Wf : Armed → Prop
  | .noTemplate | .full => True
  | .wait s | .ok _ _ s => memoriesWf s

theorem Armed.Wf.wait {r : Armed} {s} (h : r.Wf) (e : r = .wait s) : memoriesWf s := by subst e; exact h

theorem Armed.Wf.ok {r : Armed} {a b s} (h : r.Wf) (e : r = .ok a b s) : memoriesWf s := by subst e; exact h

def AreaAcc.Wf : AreaAcc → Prop
  | .ok _ s | .wait s => memoriesWf s
  | .fault _ _ _ | .badPage => True

theorem AreaAcc.Wf.wait {r : AreaAcc} {s} (h : r.Wf) (e : r = .wait s) : memoriesWf s := by subst e; exact h

theorem AreaAcc.Wf.ok {r : AreaAcc} {a s} (h : r.Wf) (e : r = .ok a s) : memoriesWf s := by subst e; exact h

def Saved.Wf : Saved → Prop
  | .ok _ s | .wait s => memoriesWf s
  | .fault _ _ _ _ | .badPage => True

theorem Saved.Wf.wait {r : Saved} {s} (h : r.Wf) (e : r = .wait s) : memoriesWf s := by subst e; exact h

theorem Saved.Wf.ok {r : Saved} {a s} (h : r.Wf) (e : r = .ok a s) : memoriesWf s := by subst e; exact h

def Kept.Wf : Kept → Prop
  | .ok _ s | .wait s => memoriesWf s
  | .badPage => True

theorem Kept.Wf.wait {r : Kept} {s} (h : r.Wf) (e : r = .wait s) : memoriesWf s := by subst e; exact h

theorem Kept.Wf.ok {r : Kept} {a s} (h : r.Wf) (e : r = .ok a s) : memoriesWf s := by subst e; exact h

def Fetched.Wf : Fetched → Prop
  | .word _ s | .trap s | .wait s => memoriesWf s

theorem Fetched.Wf.word {r : Fetched} {a s} (h : r.Wf) (e : r = .word a s) : memoriesWf s := by subst e; exact h

theorem Fetched.Wf.wait {r : Fetched} {s} (h : r.Wf) (e : r = .wait s) : memoriesWf s := by subst e; exact h

theorem Fetched.Wf.trap {r : Fetched} {s} (h : r.Wf) (e : r = .trap s) : memoriesWf s := by subst e; exact h

def Lines.Wf : Lines → Prop
  | .ok _ s | .trap s | .wait s => memoriesWf s

theorem Lines.Wf.ok {r : Lines} {a s} (h : r.Wf) (e : r = .ok a s) : memoriesWf s := by subst e; exact h

theorem Lines.Wf.wait {r : Lines} {s} (h : r.Wf) (e : r = .wait s) : memoriesWf s := by subst e; exact h

theorem Lines.Wf.trap {r : Lines} {s} (h : r.Wf) (e : r = .trap s) : memoriesWf s := by subst e; exact h

def Chosen.Wf : Chosen → Prop
  | .run _ s | .done s => memoriesWf s
  | .noAgent => True

theorem Chosen.Wf.run {r : Chosen} {i s} (h : r.Wf) (e : r = .run i s) : memoriesWf s := by subst e; exact h

theorem Chosen.Wf.done {r : Chosen} {s} (h : r.Wf) (e : r = .done s) : memoriesWf s := by subst e; exact h

theorem snd_wf {α : Type} {p : α × State} {a : α} {t : State} (h : memoriesWf p.2) (e : p = (a, t)) : memoriesWf t := by
  subst e; exact h

/-! ## What results are composed of: changes of other fields, branches, options, folds -/

/-- A change of fields other than the three memories. -/
theorem update_wf {t : State} {sched actor site fresh time ticks pkg cores mail lines turn turnReq scrub stalls clocks fenced
    banks posted regions l2 walks celog clusters twig engines jobs launches armed faultq reserved hostq regs}
    (h : memoriesWf t) :
    memoriesWf { t with
      sched := sched, actor := actor, site := site, fresh := fresh, time := time, ticks := ticks, pkg := pkg, cores := cores
      mail := mail, lines := lines, turn := turn, turnReq := turnReq, scrub := scrub, stalls := stalls, clocks := clocks
      fenced := fenced, banks := banks, posted := posted, regions := regions, l2 := l2, walks := walks, celog := celog
      clusters := clusters, twig := twig, engines := engines, jobs := jobs, launches := launches, armed := armed
      faultq := faultq, reserved := reserved, hostq := hostq, regs := regs } := h

theorem ite_wf {c : Prop} [Decidable c] {s t : State} (hs : memoriesWf s) (ht : memoriesWf t) :
    memoriesWf (if c then s else t) := by
  split
  · exact hs
  · exact ht

theorem ite_outWf {c : Prop} [Decidable c] {a b : Out} (ha : OutWf a) (hb : OutWf b) : OutWf (if c then a else b) := by
  split
  · exact ha
  · exact hb

theorem OptWf_map {α : Type} {o : Option (α × State)} {f : α × State → State}
    (hf : ∀ {p}, memoriesWf p.2 → memoriesWf (f p)) (h : OptPairWf o) : OptWf (o.map f) := fun _ e => by
  obtain ⟨p, hp, rfl⟩ := Option.map_eq_some_iff.1 e
  exact hf (h p hp)

theorem OptPairWf_map {α β : Type} {o : Option (α × State)} {f : α × State → β × State}
    (hf : ∀ {p}, memoriesWf p.2 → memoriesWf (f p).2) (h : OptPairWf o) : OptPairWf (o.map f) := fun _ e => by
  obtain ⟨p, hp, rfl⟩ := Option.map_eq_some_iff.1 e
  exact hf (h p hp)

theorem OptPairWf_bind {α : Type} {o : Option State} {f : State → Option (α × State)}
    (hf : ∀ {t}, memoriesWf t → OptPairWf (f t)) (h : OptWf o) : OptPairWf (o.bind f) := fun p e => by
  obtain ⟨t, ht, e⟩ := Option.bind_eq_some_iff.1 e
  exact hf (h t ht) p e

theorem OptFoundWf_map {α β : Type} {o : Option β} {f : β → Found α} (hf : ∀ {x}, (f x).Wf) :
    OptFoundWf (o.map f) := fun _ e => by
  obtain ⟨p, hp, rfl⟩ := Option.map_eq_some_iff.1 e
  exact hf

theorem OptWf_findSome {α : Type} {l : List α} {f : α → Option State} (hf : ∀ {x}, OptWf (f x)) :
    OptWf (l.findSome? f) := fun t e => by
  obtain ⟨x, _, hx⟩ := List.exists_of_findSome?_eq_some e
  exact hf t hx

theorem getD_map_wf {α : Type} {s : State} {o : Option α} {f : α → State} (hf : ∀ {x}, memoriesWf (f x))
    (h : memoriesWf s) : memoriesWf ((o.map f).getD s) := by
  cases o with
  | none => exact h
  | some x => exact hf

theorem foldl_wf {α : Type} {s : State} {f : State → α → State} {l : List α}
    (hf : ∀ {t x}, memoriesWf t → memoriesWf (f t x)) (h : memoriesWf s) : memoriesWf (l.foldl f s) := by
  induction l generalizing s with
  | nil => exact h
  | cons x l ih => exact ih (hf h)

theorem foldl_fst_wf {α β : Type} {p : State × β} {f : State × β → α → State × β} {l : List α}
    (hf : ∀ {q x}, memoriesWf q.1 → memoriesWf (f q x).1) (h : memoriesWf p.1) : memoriesWf (l.foldl f p).1 := by
  induction l generalizing p with
  | nil => exact h
  | cons x l ih => exact ih (hf h)

/-- Steps on lines and walks (R40 to R45, R67 to R70). -/
theorem State.LineSteps.memoriesWf {s t : State} (l : s.LineSteps t) (h : memoriesWf s) : memoriesWf t := by
  obtain ⟨hmem, hhbm, hscratch⟩ := h
  exact ⟨(l.wf hmem hhbm).1, (l.wf hmem hhbm).2, l.scratch ▸ hscratch⟩

open State

/-! ### Machine/State -/

theorem State.reset_wf : memoriesWf State.reset := ⟨rfl, rfl, rfl⟩

/-! ### Machine/Ops -/

theorem State.setCore_wf {s n c} (h : memoriesWf s) : memoriesWf (s.setCore n c) := h

theorem State.setMe_wf {s c} (h : memoriesWf s) : memoriesWf (s.setMe c) := setCore_wf h

theorem State.result_wf {s d v} (h : memoriesWf s) : OutWf (s.result d v) := setMe_wf h

theorem State.skip_wf {s} (h : memoriesWf s) : OutWf s.skip := setMe_wf h

theorem State.choose_wf {s n} (h : memoriesWf s) : memoriesWf (s.choose n).2 :=
  ((LineSteps.refl s).choose ..).memoriesWf h

theorem State.trap_wf {s code level eval} (h : memoriesWf s) : memoriesWf (s.trap code level eval) := setMe_wf h

theorem State.defer_wf {s w} (h : memoriesWf s) : OutWf (s.defer w) := setMe_wf h

theorem State.between_wf {s b} (h : memoriesWf s) : OutWf (s.between b) := setMe_wf h

theorem State.post_wf {s src core chan word clock} (h : memoriesWf s) :
    memoriesWf (s.post src core chan word clock) :=
  h

theorem State.logEvent_wf {s e} (h : memoriesWf s) : memoriesWf (s.logEvent e) := h

theorem State.logPa_wf {s kind pa} (h : memoriesWf s) : memoriesWf (s.logPa kind pa) :=
  ((LineSteps.refl s).logPa ..).memoriesWf h

theorem State.stallTurn_wf {s tower} (h : memoriesWf s) : memoriesWf (s.stallTurn tower) :=
  ((LineSteps.refl s).stallTurn ..).memoriesWf h

/-! ### Machine/LeafStore -/

theorem State.setCluster_wf {s cl c} (h : memoriesWf s) : memoriesWf (s.setCluster cl c) := h

theorem State.onCluster_wf {s cl f} (h : memoriesWf s) : memoriesWf (s.onCluster cl f) := setCluster_wf h

theorem State.twigArrive_wf {s w} (h : memoriesWf s) : memoriesWf (s.twigArrive w) := onCluster_wf h

theorem State.twigPerform_wf {s p} (h : memoriesWf s) : memoriesWf (s.twigPerform p) :=
  foldl_wf twigArrive_wf (update_wf h)

theorem State.twigDrain_wf {s agent at_} (h : memoriesWf s) : memoriesWf (s.twigDrain agent at_) := twigPerform_wf h

theorem State.myDrain_wf {s cl} (h : memoriesWf s) : memoriesWf (s.myDrain cl) := twigDrain_wf h

/-! ### Machine/Coherent -/

theorem State.setLine_wf {s l li} (h : memoriesWf s) : memoriesWf (s.setLine l li) :=
  ((LineSteps.refl s).setLine ..).memoriesWf h

theorem State.setBank_wf {s tower bank b} (h : memoriesWf s) : memoriesWf (s.setBank tower bank b) := h

theorem State.logUnbacked_wf {s pa} (h : memoriesWf s) : memoriesWf (s.logUnbacked pa) :=
  ((LineSteps.refl s).logUnbacked ..).memoriesWf h

theorem State.correct_wf {s T pa} (h : memoriesWf s) : memoriesWf (s.correct T pa) :=
  ((LineSteps.refl s).correct ..).memoriesWf h

theorem State.noteClock_wf {s t} (h : memoriesWf s) : memoriesWf (s.noteClock t) :=
  ((LineSteps.refl s).noteClock ..).memoriesWf h

theorem State.writeBackLine_wf {s l} (h : memoriesWf s) : memoriesWf (s.writeBackLine l) :=
  ((LineSteps.refl s).writeBackLine ..).memoriesWf h

theorem State.noSram_wf {s l} (h : memoriesWf s) : memoriesWf (s.noSram l) :=
  ((LineSteps.refl s).noSram ..).memoriesWf h

theorem State.leaveHome_wf {s l} (h : memoriesWf s) : memoriesWf (s.leaveHome l) :=
  ((LineSteps.refl s).leaveHome ..).memoriesWf h

theorem State.leaveRemote_wf {s l} (h : memoriesWf s) : memoriesWf (s.leaveRemote l) :=
  ((LineSteps.refl s).leaveRemote ..).memoriesWf h

theorem State.enterHome_wf {s l} (h : memoriesWf s) : memoriesWf (s.enterHome l) :=
  ((LineSteps.refl s).enterHome ..).memoriesWf h

theorem State.peekAmong_wf {s cs pa n} (h : memoriesWf s) : memoriesWf (s.peekAmong cs pa n).2.2 :=
  ((LineSteps.refl s).peekAmong ..).memoriesWf h

theorem State.peek_wf {s pts pa n} (h : memoriesWf s) : memoriesWf (s.peek pts pa n).2.2 := peekAmong_wf h

theorem State.loadLatest_wf {s T pts pa n} (h : memoriesWf s) : memoriesWf (s.loadLatest T pts pa n).2.2 :=
  ((LineSteps.refl s).loadLatest ..).memoriesWf h

theorem State.loadStep_wf {s T pts pa n} (h : memoriesWf s) : memoriesWf (s.loadStep T pts pa n).2.2 :=
  ((LineSteps.refl s).loadStep ..).memoriesWf h

theorem State.storeStep_wf {s T pts pa data} (h : memoriesWf s) : OptPairWf (s.storeStep T pts pa data) :=
  fun _ e => ((LineSteps.refl s).storeStep e).memoriesWf h

theorem State.amoStep_wf {s T pts pa n f} (h : memoriesWf s) : OptTripleWf (s.amoStep T pts pa n f) :=
  fun _ e => ((LineSteps.refl s).amoStep e).memoriesWf h

theorem State.readHbm_wf {s pa} (h : memoriesWf s) : memoriesWf (s.readHbm pa) :=
  ((LineSteps.refl s).readHbm ..).memoriesWf h

theorem State.discardStep_wf {s pts pa} (h : memoriesWf s) : OptPairWf (s.discardStep pts pa) :=
  fun _ e => ((LineSteps.refl s).discardStep e).memoriesWf h

theorem State.setHomeClock_wf {s pkg t} (h : memoriesWf s) : memoriesWf (s.setHomeClock pkg t) :=
  ((LineSteps.refl s).setHomeClock ..).memoriesWf h

theorem State.homeLoad_wf {s pa n} (h : memoriesWf s) : memoriesWf (s.homeLoad pa n).2.2 :=
  ((LineSteps.refl s).homeLoad ..).memoriesWf h

theorem State.homeStore_wf {s pa data} (h : memoriesWf s) : OptPairWf (s.homeStore pa data) :=
  fun _ e => ((LineSteps.refl s).homeStore e).memoriesWf h

theorem State.homeAmo_wf {s pa n f} (h : memoriesWf s) : OptTripleWf (s.homeAmo pa n f) :=
  fun _ e => ((LineSteps.refl s).homeAmo e).memoriesWf h

theorem State.touch_wf {s pa} (h : memoriesWf s) : OptWf (s.touch pa) :=
  fun _ e => ((LineSteps.refl s).touch e).memoriesWf h

theorem State.postScratch_wf {s agent pa data} (h : memoriesWf s) : memoriesWf (s.postScratch agent pa data) := h

theorem State.arrive_wf {s p} (h : memoriesWf s) : memoriesWf (s.arrive p) := by
  obtain ⟨m, e, hm⟩ := s.arrive_spec p
  rw [e]
  exact ⟨h.1, h.2.1, hm h.2.2⟩

theorem State.drainPosted_wf {s agent} (h : memoriesWf s) : memoriesWf (s.drainPosted agent) :=
  foldl_wf arrive_wf (update_wf h)

/-! ### Machine/Translate -/

theorem walkFrom_wf {s ctx va path lv table} (h : memoriesWf s) : WalkRes.Wf (walkFrom s ctx va path lv table) := by
  have k := State.LineSteps.walkFrom (ctx := ctx) (va := va) lv (path := path) (table := table)
    (State.LineSteps.refl s)
  revert k
  generalize walkFrom s ctx va path lv table = r
  rintro (⟨_, k⟩ | k | _)
  · exact k.memoriesWf h
  · exact k.memoriesWf h
  · trivial

theorem State.translate_wf {s ctx tlb cap need post va} (h : memoriesWf s) :
    Xl.Wf (s.translate ctx tlb cap need post va) := by
  obtain ⟨ok, wait⟩ := (LineSteps.refl s).translate ctx tlb cap need post va
  cases e : s.translate ctx tlb cap need post va
  case ok => exact (ok _ _ _ _ e).memoriesWf h
  case wait => exact (wait _ e).memoriesWf h
  case fault => trivial

/-! ### Machine/Launches -/

theorem State.setLaunch_wf {s l} (h : memoriesWf s) : memoriesWf (s.setLaunch l) := h

theorem State.onBand_wf {s l f} (h : memoriesWf s) : memoriesWf (s.onBand l f) := setLaunch_wf h

theorem State.raiseFlags_wf {s cl f} (h : memoriesWf s) : memoriesWf (s.raiseFlags cl f) := onCluster_wf h

theorem State.dropFaults_wf {s p} (h : memoriesWf s) : memoriesWf (s.dropFaults p) := h

theorem State.launchFault_wf {s l code act cl stage wave u i} (h : memoriesWf s) :
    memoriesWf (s.launchFault l code act cl stage wave u i) :=
  h

theorem State.stall_wf {s cl code u i} (h : memoriesWf s) : memoriesWf (s.stall cl code u i) := by
  simp only [State.stall]
  split
  · exact launchFault_wf h
  · exact h

theorem State.failLaunch_wf {s l code cl stage wave i} (h : memoriesWf s) :
    memoriesWf (s.failLaunch l code cl stage wave i) :=
  ite_wf h (launchFault_wf (setLaunch_wf h))

theorem State.failAt_wf {s cl code i} (h : memoriesWf s) : memoriesWf (s.failAt cl code i) := by
  simp only [State.failAt]
  split
  · exact failLaunch_wf h
  · exact h

/-! ### Machine/Waypart -/

theorem State.waypartWrite_wf {s v} (h : memoriesWf s) : memoriesWf (s.waypartWrite v) := by
  simp only [State.waypartWrite]
  split
  · exact setMe_wf h
  · exact ite_wf (setMe_wf h) (setBank_wf (setMe_wf h))

theorem State.repartitionDone_wf {s t k} (h : memoriesWf s) : memoriesWf (s.repartitionDone t k) := by
  simp only [State.repartitionDone]
  split
  · exact h
  · refine setBank_wf ?_
    obtain ⟨hmem, hhbm, hscratch⟩ := foldl_wf leaveRemote_wf (foldl_wf leaveHome_wf h)
    exact ⟨hmem, hhbm, Memory.wf_clear _ _ _ hscratch⟩

theorem State.waypartExec_wf {s v write} (h : memoriesWf s) (hwrite : ∀ {t v}, memoriesWf t → memoriesWf
    (write t v)) :
    OutWf (s.waypartExec v write) :=
  ite_outWf (trap_wf h) (ite_outWf (trap_wf h) (setMe_wf (hwrite h)))

/-! ### Machine/Tree -/

theorem State.leaveTree_wf {s l} (h : memoriesWf s) : memoriesWf (s.leaveTree l) :=
  ite_wf (enterHome_wf h) (leaveHome_wf h)

theorem State.enterTree_wf {s b l} (h : memoriesWf s) : memoriesWf (s.enterTree b l) := by
  simp only [State.enterTree]
  refine setLine_wf (ite_wf h ?_)
  split
  · exact leaveTree_wf (choose_wf h)
  · exact choose_wf h

theorem State.placeLine_wf {s cl fromTwig pa} (h : memoriesWf s) : memoriesWf (s.placeLine cl fromTwig pa) := by
  simp only [State.placeLine]
  split
  · exact h
  · split
    · exact enterTree_wf h
    · exact ite_wf (enterHome_wf h) (noSram_wf h)

theorem execTreeBankEviction_wf {line s} (h : memoriesWf s) : OutWf (execTreeBankEviction line s) := by
  simp only [execTreeBankEviction]
  split
  · exact leaveTree_wf h
  · exact h

theorem execOwnerForward_wf {line tower pts store s} (h : memoriesWf s) :
    OutWf (execOwnerForward line tower pts store s) := by
  simp only [execOwnerForward]
  split
  · exact h
  · split
    · exact stallTurn_wf h
    · split
      · split
        · exact (storeStep_wf ((touch_wf h).some ‹_›)).some ‹_›
        · exact stallTurn_wf ((touch_wf h).some ‹_›)
      · exact loadLatest_wf ((touch_wf h).some ‹_›)

theorem execScrubVisit_wf {line s} (h : memoriesWf s) : OutWf (execScrubVisit line s) := by
  simp only [execScrubVisit]
  split
  · exact h
  · split
    · exact logPa_wf (update_wf h)
    · split
      · split
        · exact logPa_wf (setLine_wf (update_wf h))
        · exact setLine_wf (logPa_wf (setLine_wf (update_wf h)))
      · exact ite_wf (update_wf h) (setLine_wf (update_wf h))

/-! ### Machine/Agents -/

theorem State.hostBytes_wf {s n} (h : memoriesWf s) : memoriesWf (s.hostBytes n).2 := h

theorem State.agentLoad_wf {s a x pa n} (h : memoriesWf s) : memoriesWf (s.agentLoad a x pa n).2.2 := by
  unfold State.agentLoad
  split
  · split
    · simp only []
      exact placeLine_wf (loadStep_wf h)
    · simp only []
      exact homeLoad_wf h
  · exact h
  · split
    · simp only []
      exact hostBytes_wf h
    · exact logPa_wf h
  · exact logPa_wf h

theorem State.agentStore_wf {s a x pa cells} (h : memoriesWf s) : OptPairWf (s.agentStore a x pa cells) := by
  simp only [State.agentStore]
  split
  · split
    · exact OptPairWf_map placeLine_wf (storeStep_wf h)
    · exact OptPairWf_map id (homeStore_wf h)
  · exact OptPairWf_some (foldl_wf postScratch_wf h)
  · exact OptPairWf_some (ite_wf h (logPa_wf h))
  · exact OptPairWf_some (logPa_wf h)

theorem State.jobRead_wf {s j ok va n} (h : memoriesWf s) : Acc.Wf (s.jobRead j ok va n) := by
  simp only [State.jobRead]
  split
  · trivial
  · exact (translate_wf h).wait ‹_›
  · split
    · exact logPa_wf ((translate_wf h).ok ‹_›)
    · exact homeLoad_wf ((translate_wf h).ok ‹_›)

theorem State.jobPeek_wf {s j pts va n} (h : memoriesWf s) : Acc.Wf (s.jobPeek j pts va n) := by
  simp only [State.jobPeek]
  split
  · trivial
  · exact (translate_wf h).wait ‹_›
  · exact peek_wf (logUnbacked_wf ((translate_wf h).ok ‹_›))

theorem State.jobWrite_wf {s j va data} (h : memoriesWf s) : Acc.Wf (s.jobWrite j va data) := by
  simp only [State.jobWrite]
  split
  · trivial
  · exact (translate_wf h).wait ‹_›
  · split
    · exact logPa_wf ((translate_wf h).ok ‹_›)
    · split
      · exact (homeStore_wf ((translate_wf h).ok ‹_›)).some ‹_›
      · exact stallTurn_wf ((translate_wf h).ok ‹_›)

theorem State.counterPa_wf {s ctx need va} (h : memoriesWf s) : Xl.Wf (s.counterPa ctx need va) := translate_wf h

theorem State.countUp_wf {s ctx va clock} (h : memoriesWf s) : Acc.Wf (s.countUp ctx va clock) := by
  simp only [State.countUp]
  split
  · trivial
  · exact (counterPa_wf h).wait ‹_›
  · split
    · exact logPa_wf ((counterPa_wf h).ok ‹_›)
    · split
      · exact (amoStep_wf ((counterPa_wf h).ok ‹_›)).some ‹_›
      · exact stallTurn_wf ((counterPa_wf h).ok ‹_›)

theorem Acc.after_wf {r s k} (hr : Acc.Wf r) (h : memoriesWf s) (hk : ∀ {t}, memoriesWf t → OutWf (k t)) :
    OutWf (Acc.after r s k) := by
  simp only [Acc.after]
  split
  · exact hk hr
  · exact hk h
  · exact hr

/-! ### Machine/CellCore -/

theorem State.slotStall_wf {s cl k code i} (h : memoriesWf s) : memoriesWf (s.slotStall cl k code i) :=
  stall_wf (onCluster_wf h)

theorem State.commit.go_wf {cl k g pop f s c x} (h : memoriesWf s) : OutWf (State.commit.go cl k g pop f s c x) :=
  raiseFlags_wf (setCluster_wf h)

theorem State.commit_wf {s cl k op g pop f} (h : memoriesWf s) : OutWf (s.commit cl k op g pop f) := by
  simp only [State.commit]
  split
  · exact setCluster_wf h
  · split
    · exact ite_outWf (slotStall_wf h) (commit.go_wf h)
    · exact commit.go_wf h

theorem State.fire_wf {s op g f} (h : memoriesWf s) : OutWf (s.fire op g f) := by
  simp only [State.fire]
  split
  · exact h
  · split
    · exact commit_wf h
    · exact setCluster_wf h
    · exact h

theorem State.laneOp_wf {s op g n f} (h : memoriesWf s) : OutWf (s.laneOp op g n f) := fire_wf h

/-! ### Machine/MemUnit -/

theorem State.noteSource_wf {s cl key kind} (h : memoriesWf s) : memoriesWf (s.noteSource cl key kind) := by
  simp only [State.noteSource]
  split
  · exact onCluster_wf h
  · split
    · split
      · exact ite_wf (onBand_wf (onCluster_wf h)) (onCluster_wf h)
      · exact onCluster_wf h
    · exact onCluster_wf h

theorem execMuSourceRecord_wf {cl s} (h : memoriesWf s) : OutWf (execMuSourceRecord cl s) := by
  simp only [execMuSourceRecord]
  split
  · exact h
  · split
    · exact h
    · split
      · exact ite_outWf (noteSource_wf (setCluster_wf h)) h
      · split
        · exact h
        · split
          · exact setCluster_wf h
          · exact ite_outWf (failAt_wf (onCluster_wf h)) (setCluster_wf h)

theorem State.sinkStall_wf {s cl} (h : memoriesWf s) : memoriesWf (s.sinkStall cl) := stall_wf (onCluster_wf h)

theorem State.blockMu_wf {s cl} (h : memoriesWf s) : memoriesWf (s.blockMu cl) := failAt_wf (onCluster_wf h)

theorem execMuSinkRecord_wf {cl s} (h : memoriesWf s) : OutWf (execMuSinkRecord cl s) := by
  simp only [execMuSinkRecord]
  split
  · split
    · exact h
    · split
      · exact blockMu_wf h
      · split
        · exact ite_outWf (setCluster_wf h) (setCluster_wf h)
        · split
          · exact setCluster_wf h
          · split
            · exact ite_outWf (sinkStall_wf h) (setCluster_wf h)
            · exact ite_outWf h (ite_outWf (sinkStall_wf h) (setCluster_wf h))
  · exact h

theorem execSwVertTile_wf {cl s} (h : memoriesWf s) : OutWf (execSwVertTile cl s) := by
  simp only [execSwVertTile]
  split
  · exact h
  · split
    · exact h
    · split
      · exact ite_outWf h (ite_outWf (stall_wf (onCluster_wf h)) (setCluster_wf h))
      · split
        · exact h
        · split
          · exact stall_wf (onCluster_wf h)
          · exact onCluster_wf (foldl_wf postScratch_wf h)

/-! ### Machine/AddrGen -/

theorem State.onAg_wf {s cl u f} (h : memoriesWf s) : memoriesWf (s.onAg cl u f) := onCluster_wf h

theorem State.agStall_wf {s cl u code i} (h : memoriesWf s) : OutWf (s.agStall cl u code i) := stall_wf (onAg_wf h)

theorem State.agFail_wf {s cl u code} (h : memoriesWf s) : OutWf (s.agFail cl u code) := failAt_wf (onAg_wf h)

theorem State.agSkipOr_wf {s cl u code i f} (h : memoriesWf s) (hf : ∀ {t}, memoriesWf t → OutWf (f t)) :
    OutWf (s.agSkipOr cl u code i f) :=
  ite_outWf (hf (onAg_wf h)) (agStall_wf h)

theorem State.agAccess_wf {s cl u need post va lane f} (h : memoriesWf s) (hf : ∀ {x y t}, memoriesWf t → OutWf
    (f x y t)) :
    OutWf (s.agAccess cl u need post va lane f) := by
  simp only [State.agAccess]
  split
  · exact agStall_wf h
  · exact (translate_wf h).wait ‹_›
  · exact hf (onAg_wf ((translate_wf h).ok ‹_›))

theorem State.latch_wf {s cl u va} (h : memoriesWf s) : OutWf (s.latch cl u va) := by
  simp only [State.latch]
  split
  · exact onAg_wf ((translate_wf h).ok ‹_›)
  · exact (translate_wf h).wait ‹_›
  · exact onAg_wf h

theorem State.loadShape_wf {s cl u mode g} (h : memoriesWf s) : OutWf (s.loadShape cl u mode g) := by
  simp only [State.loadShape]
  split
  · exact agFail_wf h
  · exact agAccess_wf h (fun hu => ite_outWf (onAg_wf (onAg_wf (agentLoad_wf hu))) (agFail_wf (onAg_wf
      (agentLoad_wf hu))))

theorem State.withShape_wf {s cl u mode g f} (h : memoriesWf s) (hf : ∀ {sh}, OutWf (f sh)) :
    OutWf (s.withShape cl u mode g f) := by
  simp only [State.withShape]
  split
  · exact latch_wf h
  · exact hf
  · exact ite_outWf (loadShape_wf h) (ite_outWf (onAg_wf h) hf)

theorem State.readElem_wf {s cl u g sh conv lane c f} (h : memoriesWf s) (hf : ∀ {x t}, memoriesWf t → OutWf
    (f x t)) :
    OutWf (s.readElem cl u g sh conv lane c f) := by
  simp only [State.readElem]
  split
  · exact hf h
  · exact ite_outWf (hf h) (agSkipOr_wf h hf)
  · exact agSkipOr_wf h hf
  · split
    · split
      · exact agSkipOr_wf h hf
      · exact ite_outWf (ite_outWf (hf (onAg_wf h)) h) (hf h)
    · split
      · exact hf h
      · exact agAccess_wf h (fun hu => onAg_wf (agentLoad_wf hu))

theorem State.leafStore_wf {s cl u at_ off sh high v} (h : memoriesWf s) :
    memoriesWf (s.leafStore cl u at_ off sh high v) :=
  ite_wf (twigArrive_wf h) (update_wf h)

theorem State.writeElem_wf {s cl u g sh lane c v f} (h : memoriesWf s) (hf : ∀ {t}, memoriesWf t → OutWf (f t)) :
    OutWf (s.writeElem cl u g sh lane c v f) := by
  simp only [State.writeElem]
  split
  · exact hf h
  · exact agSkipOr_wf h hf
  · exact agSkipOr_wf h hf
  · split
    · split
      · exact agSkipOr_wf h hf
      · exact hf (leafStore_wf h)
    · exact hf (onAg_wf h)

theorem State.storeLine_wf {s cl u lane l cells rest f} (h : memoriesWf s) (hf : ∀ {t}, memoriesWf t → memoriesWf
    (f t)) :
    OutWf (s.storeLine cl u lane l cells rest f) := by
  simp only [State.storeLine]
  refine agAccess_wf h (fun hu => ?_)
  split
  · exact stallTurn_wf hu
  · split
    · exact hf (onAg_wf ((agentStore_wf hu).some ‹_›))
    · exact onAg_wf ((agentStore_wf hu).some ‹_›)

theorem State.agSend_wf {s cl u g f} (h : memoriesWf s) (hf : OutWf f) : OutWf (s.agSend cl u g f) := by
  simp only [State.agSend]
  split
  · exact ite_outWf (noteSource_wf (setCluster_wf h)) h
  · exact hf

theorem State.agPause_wf {s cl u} (h : memoriesWf s) : memoriesWf (s.agPause cl u) := onCluster_wf h

theorem State.agClose_wf {s cl u} (h : memoriesWf s) : memoriesWf (s.agClose cl u) := onAg_wf h

theorem State.readBuf_wf {s cl u g} (h : memoriesWf s) : OutWf (s.readBuf cl u g) := by
  simp only [State.readBuf]
  split
  · exact h
  · split
    · exact agClose_wf h
    · split
      · exact ite_outWf (agFail_wf h) (setCluster_wf h)
      · exact ite_outWf (agClose_wf h) h

theorem State.readTile_wf {s cl u g sh conv done} (h : memoriesWf s) : OutWf (s.readTile cl u g sh conv done) := by
  simp only [State.readTile]
  split
  · exact agClose_wf h
  · split
    · exact h
    · exact ite_outWf (onAg_wf h) (readElem_wf h onAg_wf)

theorem execAgRead_wf {g s} (h : memoriesWf s) : OutWf (execAgRead g s) := by
  simp only [execAgRead]
  split
  · exact h
  · exact withShape_wf h (agSend_wf h (ite_outWf (agPause_wf h) (ite_outWf (readBuf_wf h) (readTile_wf h))))

theorem execAgConv_wf {g s} (h : memoriesWf s) : OutWf (execAgConv g s) := by
  simp only [execAgConv]
  split
  · exact h
  · exact withShape_wf h (agSend_wf h (ite_outWf (agPause_wf h) (readTile_wf h)))

theorem State.agMismatch_wf {s cl u i v} (h : memoriesWf s) : OutWf (s.agMismatch cl u i v) := agStall_wf h

theorem State.agDisagree_wf {s cl u i v} (h : memoriesWf s) : OutWf (s.agDisagree cl u i v) := by
  simp only [State.agDisagree]
  split
  · exact agMismatch_wf h
  · exact ite_outWf (setCluster_wf h) (setCluster_wf h)

theorem State.agEnds_wf {s cl u} (h : memoriesWf s) : OutWf (s.agEnds cl u) := by
  simp only [State.agEnds]
  split
  · exact h
  · split
    · exact h
    · split
      · exact agFail_wf h
      · exact setCluster_wf h
      · exact agDisagree_wf h
      · split
        · exact ite_outWf (onAg_wf h) (agMismatch_wf h)
        · exact ite_outWf h (ite_outWf (setCluster_wf h) (setCluster_wf h))
      · exact h

theorem State.writeBuf_wf {s cl u g t} (h : memoriesWf s) : OutWf (s.writeBuf cl u g t) := by
  simp only [State.writeBuf]
  split
  · exact h
  · exact ite_outWf (ite_outWf (onAg_wf h) (agMismatch_wf h)) (setCluster_wf h)

theorem State.writeTile_wf {s cl u g sh t} (h : memoriesWf s) : OutWf (s.writeTile cl u g sh t) := by
  simp only [State.writeTile]
  split
  · split
    · exact writeElem_wf h onAg_wf
    · exact onAg_wf h
  · split
    · exact storeLine_wf h onCluster_wf
    · exact onCluster_wf h

theorem execAgWrite_wf {g s} (h : memoriesWf s) : OutWf (execAgWrite g s) := by
  simp only [execAgWrite]
  split
  · exact h
  · refine withShape_wf h ?_
    intro _
    split
    · split
      · exact onCluster_wf h
      · split
        · exact writeBuf_wf h
        · exact ite_outWf (ite_outWf (onAg_wf h) (agMismatch_wf h)) (writeTile_wf h)
    · exact agFail_wf h
    · exact h

theorem State.gatherFlat_wf {s cl u g sh t} (h : memoriesWf s) : OutWf (s.gatherFlat cl u g sh t) := by
  simp only [State.gatherFlat]
  split
  · exact setCluster_wf h
  · exact ite_outWf (readElem_wf h onAg_wf) (onAg_wf h)

theorem State.gatherRows_wf {s cl u g sh t} (h : memoriesWf s) : OutWf (s.gatherRows cl u g sh t) := by
  simp only [State.gatherRows]
  split
  · exact setCluster_wf h
  · split
    · exact onAg_wf h
    · exact ite_outWf (onAg_wf h) (readElem_wf h onAg_wf)

theorem execAgGather_wf {g s} (h : memoriesWf s) : OutWf (execAgGather g s) := by
  simp only [execAgGather]
  split
  · exact h
  · refine withShape_wf h (agSend_wf h ?_)
    split
    · exact ite_outWf h (ite_outWf (gatherFlat_wf h) (gatherRows_wf h))
    · exact agFail_wf h
    · exact h

theorem State.agDone_wf {s cl u mode} (h : memoriesWf s) : memoriesWf (s.agDone cl u mode) := onCluster_wf h

theorem State.agPair_wf {s cl u mode g f} (h : memoriesWf s) (hf : ∀ {x y}, OutWf (f x y)) :
    OutWf (s.agPair cl u mode g f) := by
  simp only [State.agPair]
  split
  · exact hf
  · exact agDisagree_wf h
  · exact agFail_wf h
  · exact h

theorem execAgScatter_wf {g s} (h : memoriesWf s) : OutWf (execAgScatter g s) := by
  simp only [execAgScatter]
  split
  · exact h
  · refine withShape_wf h (agPair_wf h ?_)
    intro _ _
    split
    · exact storeLine_wf h onAg_wf
    · split
      · exact agDone_wf h
      · split
        · exact writeElem_wf h (fun hu => ite_wf (onAg_wf hu) hu)
        · exact onAg_wf h

theorem State.atomStep_wf {s cl u g lane va x} (h : memoriesWf s) : OutWf (s.atomStep cl u g lane va x) := by
  simp only [State.atomStep]
  refine agAccess_wf h (fun hu => ite_outWf (onAg_wf (logPa_wf hu)) (ite_outWf ?_ ?_))
  · split
    · exact onAg_wf (raiseFlags_wf (placeLine_wf (onAg_wf ((amoStep_wf hu).some ‹_›))))
    · exact stallTurn_wf hu
  · split
    · exact onAg_wf (raiseFlags_wf ((homeAmo_wf hu).some ‹_›))
    · exact stallTurn_wf hu

theorem execAgAtom_wf {g s} (h : memoriesWf s) : OutWf (execAgAtom g s) := by
  simp only [execAgAtom]
  split
  · exact h
  · refine withShape_wf h (agSend_wf h (agPair_wf h (ite_outWf h (ite_outWf (ite_wf (agDone_wf h) (onAg_wf
      (agDone_wf h))) (ite_outWf (onAg_wf h) ?_)))))
    split
    · exact onAg_wf h
    · exact agSkipOr_wf h onAg_wf
    · exact agSkipOr_wf h onAg_wf
    · exact ite_outWf (agSkipOr_wf h onAg_wf) (atomStep_wf h)

theorem execAgScatadd_wf {g s} (h : memoriesWf s) : OutWf (execAgScatadd g s) := by
  simp only [execAgScatadd]
  split
  · exact h
  · refine agPair_wf h ?_
    intro _ _
    split
    · exact agSkipOr_wf h agDone_wf
    · split
      · exact agDone_wf h
      · split
        · exact h
        · exact raiseFlags_wf (setCluster_wf h)

theorem State.binLane_wf {s cl u b held i l} (h : memoriesWf s) : OutWf (s.binLane cl u b held i l) := by
  simp only [State.binLane]
  split
  · exact agSkipOr_wf h onAg_wf
  · split
    · split
      · exact agSkipOr_wf h onAg_wf
      · exact onAg_wf (setCluster_wf h)
    · split
      · split
        · exact agSkipOr_wf h onAg_wf
        · exact onCluster_wf (onAg_wf h)
      · exact agSkipOr_wf h onAg_wf

theorem execAgBin_wf {g s} (h : memoriesWf s) : OutWf (execAgBin g s) := by
  simp only [execAgBin]
  split
  · exact h
  · refine withShape_wf h ?_
    intro _
    split
    · exact h
    · exact storeLine_wf h onAg_wf
    · exact agPair_wf h (ite_outWf (ite_outWf (setCluster_wf h) (ite_outWf (binLane_wf h) (onAg_wf h))) (ite_outWf
        (setCluster_wf h) h))

/-! ### Machine/CopyEngine -/

theorem State.setEngine_wf {s e x} (h : memoriesWf s) : memoriesWf (s.setEngine e x) := h

theorem State.setCopyJob_wf {s e k j} (h : memoriesWf s) : memoriesWf (s.setCopyJob e k j) := setEngine_wf h

theorem State.copyStall_wf {s e k code level va} (h : memoriesWf s) : memoriesWf (s.copyStall e k code level va) :=
  update_wf (setCopyJob_wf h)

theorem State.copyFail_wf {s e k code level va detail} (h : memoriesWf s) :
    memoriesWf (s.copyFail e k code level va detail) :=
  setCopyJob_wf h

theorem State.copyFault_wf {s e k code level va} (h : memoriesWf s) : memoriesWf (s.copyFault e k code level va) := by
  simp only [State.copyFault]
  split
  · exact copyStall_wf h
  · exact copyStall_wf h
  · exact copyStall_wf h
  · exact copyFail_wf h

theorem State.copyAccess_wf {s e k need va f} (h : memoriesWf s) (hf : ∀ {x y t}, memoriesWf t → OutWf (f x y t)) :
    OutWf (s.copyAccess e k need va f) := by
  simp only [State.copyAccess]
  split
  · exact copyFault_wf h
  · exact (translate_wf h).wait ‹_›
  · exact hf (setEngine_wf ((translate_wf h).ok ‹_›))

theorem State.shapeAt_wf {s pts x pa} (h : memoriesWf s) : memoriesWf (s.shapeAt pts x pa).2 := by
  unfold State.shapeAt
  split
  · simp only []
    exact peek_wf h
  · split
    · exact h
    · split
      · simp only []
        exact hostBytes_wf h
      · exact logPa_wf h

theorem State.copyShape_wf {s e k wanted va f} (h : memoriesWf s) (hf : ∀ {x t}, memoriesWf t → OutWf (f x t)) :
    OutWf (s.copyShape e k wanted va f) := by
  simp only [State.copyShape]
  split
  · exact hf h
  · split
    · exact copyFail_wf h
    · exact copyAccess_wf h (fun hu => hf (shapeAt_wf hu))

theorem State.onBufs_wf {s j f} (h : memoriesWf s) : memoriesWf (s.onBufs j f) := foldl_wf onCluster_wf h

theorem State.copyGoOn_wf {s e k} (h : memoriesWf s) : memoriesWf (s.copyGoOn e k) := ite_wf (setCopyJob_wf h) h

theorem execCopyJobStart_wf {e k s} (h : memoriesWf s) : OutWf (execCopyJobStart e k s) := by
  simp only [execCopyJobStart]
  split
  · exact copyGoOn_wf h
  · split
    · exact h
    · split
      · exact copyFail_wf h
      · split
        · exact copyFail_wf h
        · exact copyShape_wf h (fun hu => copyShape_wf hu (fun hv => ite_outWf (copyFail_wf hv) (ite_outWf
            (copyFail_wf hv) (setCopyJob_wf hv))))

theorem State.tileBegin_wf {s e k} (h : memoriesWf s) : memoriesWf (s.tileBegin e k) := setCopyJob_wf h

theorem State.tileLoad_wf {s e k l rest} (h : memoriesWf s) : OutWf (s.tileLoad e k l rest) := by
  simp only [State.tileLoad]
  refine copyAccess_wf h (fun hu => ite_outWf (copyFail_wf ?_) (setCopyJob_wf (agentLoad_wf ?_)))
  · split
    · exact choose_wf hu
    · exact hu
  · split
    · exact choose_wf hu
    · exact hu

theorem State.tileStore_wf {s e k l cells rest} (h : memoriesWf s) : OutWf (s.tileStore e k l cells rest) := by
  simp only [State.tileStore]
  refine copyAccess_wf h (fun hu => ?_)
  split
  · exact stallTurn_wf hu
  · exact setCopyJob_wf ((agentStore_wf hu).some ‹_›)

theorem State.startTiles_wf {s e k n} (h : memoriesWf s) : memoriesWf (s.startTiles e k n) := by
  induction n generalizing s with
  | zero => exact h
  | succ n ih =>
    simp only [State.startTiles]
    split
    · exact h
    · exact ih (setCopyJob_wf (foldl_wf onCluster_wf h))

theorem State.fillStart_wf {s e k} (h : memoriesWf s) : memoriesWf (s.fillStart e k) := by
  simp only [State.fillStart]
  split
  · exact ite_wf (startTiles_wf h) h
  · split
    · exact copyFail_wf h
    · exact ite_wf (copyFail_wf h) (ite_wf (startTiles_wf (onBufs_wf h)) h)

theorem State.fillStep_wf {s e k} (h : memoriesWf s) : memoriesWf (s.fillStep e k) := by
  simp only [State.fillStep]
  split
  · exact choose_wf h
  · exact setCopyJob_wf (onCluster_wf (choose_wf h))

theorem State.writeProgress_wf {s j} (h : memoriesWf s) : Acc.Wf (s.writeProgress j) := by
  simp only [State.writeProgress]
  split
  · split
    · exact h
    · split
      · exact h
      · split
        · exact (OptPairWf_bind homeStore_wf (touch_wf h)).some ‹_›
        · exact stallTurn_wf h
  · exact arrive_wf h
  · exact logPa_wf h
  · exact h

theorem State.copyHalt_wf {s e k} (h : memoriesWf s) : OutWf (s.copyHalt e k) := by
  simp only [State.copyHalt]
  split
  · exact setCopyJob_wf h
  · exact Acc.after_wf (writeProgress_wf h) h setCopyJob_wf

theorem execCopyJobTile_wf {e k s} (h : memoriesWf s) : OutWf (execCopyJobTile e k s) := by
  simp only [execCopyJobTile]
  split
  · exact copyGoOn_wf h
  · split
    · exact copyHalt_wf h
    · split
      · exact h
      · split
        · split
          · exact tileBegin_wf h
          · split
            · exact copyFail_wf h
            · exact ite_wf (tileBegin_wf h) (fillStart_wf h)
        · split
          · exact tileLoad_wf h
          · exact tileStore_wf h
          · split
            · split
              · exact tileStore_wf h
              · exact setCopyJob_wf h
            · exact ite_outWf (fillStep_wf (setCopyJob_wf h)) (fillStep_wf h)

theorem execDrainTile_wf {e k s} (h : memoriesWf s) : OutWf (execDrainTile e k s) := by
  simp only [execDrainTile]
  split
  · exact copyGoOn_wf h
  · split
    · exact copyHalt_wf h
    · split
      · exact h
      · split
        · split
          · exact tileStore_wf h
          · exact setCopyJob_wf h
        · split
          · exact copyFail_wf h
          · split
            · exact copyFail_wf h
            · exact ite_outWf h (setCopyJob_wf (setCluster_wf h))

theorem execSlotFillComplete_wf {cl b s} (h : memoriesWf s) : OutWf (execSlotFillComplete cl b s) := by
  simp only [execSlotFillComplete]
  split
  · exact setCluster_wf h
  · exact h

theorem State.copyRelease_wf {s e k final status} (h : memoriesWf s) : memoriesWf (s.copyRelease e k final status) :=
  setCopyJob_wf (foldl_wf setEngine_wf (dropFaults_wf (onBufs_wf h)))

theorem execCopyJobComplete_wf {e k s} (h : memoriesWf s) : OutWf (execCopyJobComplete e k s) := by
  simp only [execCopyJobComplete]
  split
  · exact h
  · split
    · split
      · exact (writeProgress_wf h).wait ‹_›
      · exact h
      next u e =>
        have hu : memoriesWf u := (writeProgress_wf h).ok e
        exact setEngine_wf (copyRelease_wf
          (ite_wf (post_wf (ite_wf (update_wf hu) hu)) (ite_wf (update_wf hu) hu)))
    · split
      · exact setEngine_wf (copyRelease_wf (post_wf h))
      · split
        · exact copyFault_wf h
        · exact (countUp_wf h).wait ‹_›
        · exact setEngine_wf (copyRelease_wf ((countUp_wf h).ok ‹_›))
      · exact setEngine_wf (copyRelease_wf h)

/-! ### Machine/CellConv -/

theorem State.moveOp_wf {s op g f} (h : memoriesWf s) : OutWf (s.moveOp op g f) := fire_wf h

theorem execPack_wf {g s} (h : memoriesWf s) : OutWf (execPack g s) := by
  unfold execPack
  exact moveOp_wf h

theorem execUnpack_wf {g s} (h : memoriesWf s) : OutWf (execUnpack g s) := by
  simp only [execUnpack]
  exact moveOp_wf h

/-! ### Machine/CellLane -/

theorem State.foldOp_wf {s op g f} (h : memoriesWf s) : OutWf (s.foldOp op g f) := fire_wf h

/-! ### Machine/CellStream -/

theorem State.streamOp_wf {s op g f} (h : memoriesWf s) : OutWf (s.streamOp op g f) := fire_wf h

theorem execSteer_wf {g s} (h : memoriesWf s) : OutWf (execSteer g s) := by
  simp only [execSteer]
  split
  · exact h
  · split
    · split
      · exact ite_outWf (commit_wf h) h
      · exact setCluster_wf h
    · split
      · exact commit_wf h
      · exact setCluster_wf h
      · exact h

theorem execMerge_wf {g s} (h : memoriesWf s) : OutWf (execMerge g s) := by
  simp only [execMerge]
  split
  · exact h
  · split
    · exact setCluster_wf h
    · exact ite_outWf (commit_wf h) h
    · exact setCluster_wf h

theorem execLoop_wf {g s} (h : memoriesWf s) : OutWf (execLoop g s) := by
  simp only [execLoop]
  split
  · exact h
  · split
    · split
      · exact ite_outWf (commit_wf h) h
      · exact setCluster_wf h
    · split
      · exact ite_outWf (commit_wf h) h
      · exact setCluster_wf h
    · split
      · exact h
      · split
        · exact ite_outWf (ite_outWf (commit_wf h) (ite_outWf (setCluster_wf h) h)) h
        · exact ite_outWf (ite_outWf (commit_wf h) (setCluster_wf h)) h
        · exact setCluster_wf h

theorem execDelay.take_wf {g s cl k x c d inp full} (h : memoriesWf s) :
    OutWf (execDelay.take g s cl k x c d inp full) := by
  simp only [execDelay.take]
  split
  · split
    · exact setCluster_wf h
    · exact ite_outWf (setCluster_wf h) (setCluster_wf h)
  · exact setCluster_wf h

theorem execDelay_wf {g s} (h : memoriesWf s) : OutWf (execDelay g s) := by
  simp only [execDelay]
  split
  · exact h
  · split
    · split
      · exact execDelay.take_wf h
      · exact ite_outWf (commit_wf h) (execDelay.take_wf h)
    · exact execDelay.take_wf h

/-! ### Machine/Fabric -/

theorem execConfigFrame_wf {f s} (h : memoriesWf s) : OutWf (execConfigFrame f s) := by
  simp only [execConfigFrame]
  split
  · refine onBand_wf ?_
    split <;> exact onCluster_wf h
  · exact onCluster_wf h

theorem execImageEnd_wf {s} (h : memoriesWf s) : OutWf (execImageEnd s) := by
  simp only [execImageEnd]
  split
  · exact h
  · split
    · exact failAt_wf (foldl_wf onCluster_wf h)
    · exact setCluster_wf h

theorem State.passEnd_wf {s cl k op g pop t} (h : memoriesWf s) : OutWf (s.passEnd cl k op g pop t) := by
  unfold State.passEnd
  exact commit_wf h

theorem State.mismatchAt_wf {s cl k op g qa qb ends} (h : memoriesWf s) :
    OutWf (s.mismatchAt cl k op g qa qb ends) := by
  simp only [State.mismatchAt]
  split
  · exact ite_outWf (setCluster_wf h) (setCluster_wf h)
  · exact slotStall_wf h

theorem State.loopEnd_wf {s cl k g} (h : memoriesWf s) : OutWf (s.loopEnd cl k g) := by
  simp only [State.loopEnd]
  split
  · exact mismatchAt_wf h
  · split
    · exact mismatchAt_wf h
    · split
      · exact ite_outWf (passEnd_wf h) (setCluster_wf h)
      · exact h

theorem State.blockSlot_wf {s cl k} (h : memoriesWf s) : memoriesWf (s.blockSlot cl k) := failAt_wf (onCluster_wf h)

theorem execEndTokenAlign_wf {cl unit s} (h : memoriesWf s) : OutWf (execEndTokenAlign cl unit s) := by
  simp only [execEndTokenAlign]
  split
  · exact h
  · split
    · exact blockSlot_wf h
    · split
      · exact h
      · split
        · exact setCluster_wf h
        · split
          · exact h
          · split
            · exact loopEnd_wf h
            · split
              · split
                · exact passEnd_wf h
                · exact h
              · exact mismatchAt_wf h
              · exact setCluster_wf h
              · exact blockSlot_wf h
              · exact h

theorem State.takeSwitch_wf {s cl k op g t} (h : memoriesWf s) : OutWf (s.takeSwitch cl k op g t) := by
  simp only [State.takeSwitch]
  split
  · split
    · exact blockSlot_wf h
    · split <;> exact setCluster_wf h
  · split
    · exact blockSlot_wf h
    · split <;> exact setCluster_wf h

theorem execSwitchApply_wf {cl slot s} (h : memoriesWf s) : OutWf (execSwitchApply cl slot s) := by
  simp only [execSwitchApply]
  split
  · exact h
  · split
    · exact h
    · split
      · split
        · split
          · exact h
          · split
            · exact takeSwitch_wf h
            · exact h
        · exact ite_outWf (setCluster_wf h) (slotStall_wf (setCluster_wf h))
      · exact h

theorem State.routerPush_wf {s cl port vc t} (h : memoriesWf s) : memoriesWf (s.routerPush cl port vc t) :=
  onCluster_wf h

theorem State.parityFault_wf {s cl src unit} (h : memoriesWf s) : memoriesWf (s.parityFault cl src unit) :=
  failAt_wf h

theorem State.pairHop_wf {s cl n r parity} (h : memoriesWf s) : OptWf (s.pairHop cl n r parity) := by
  simp only [State.pairHop]
  split
  · exact OptWf_none
  · split
    · split
      · split
        · split
          · exact OptWf_some (parityFault_wf h)
          · exact OptWf_some (routerPush_wf (setCluster_wf h))
        · exact OptWf_none
      · exact OptWf_none
    · split
      · split
        · exact OptWf_some (setCluster_wf h)
        · exact OptWf_some (parityFault_wf h)
      · exact OptWf_none

theorem execRouterTokenHop_wf {cl key parity s} (h : memoriesWf s) : OutWf (execRouterTokenHop cl key parity s) := by
  simp only [execRouterTokenHop]
  split
  · exact ite_wf (parityFault_wf h) h
  · split
    · exact ite_wf (parityFault_wf h) h
    · split
      · exact h
      · split
        · exact (OptWf_findSome (pairHop_wf h)).some ‹_›
        · exact h

theorem execSwReplToken_wf {cl s} (h : memoriesWf s) : OutWf (execSwReplToken cl s) := by
  simp only [execSwReplToken]
  split
  · exact h
  · split
    · exact h
    · split
      · exact h
      · refine foldl_wf (fun hu => ?_) (setCluster_wf h)
        split
        · exact routerPush_wf hu
        · exact onCluster_wf hu
        · exact hu

theorem execLinkSpill.enter_wf {cl pair s c r sp need} (h : memoriesWf s) :
    OutWf (execLinkSpill.enter cl pair s c r sp need) := by
  simp only [execLinkSpill.enter]
  split
  · exact ite_outWf (setCluster_wf h) h
  · exact h

theorem execLinkSpill_wf {cl pair back s} (h : memoriesWf s) : OutWf (execLinkSpill cl pair back s) := by
  simp only [execLinkSpill]
  split
  · exact h
  · split
    · exact h
    · split
      · split
        · split
          · exact ite_outWf (routerPush_wf (setCluster_wf h)) h
          · exact h
        · exact execLinkSpill.enter_wf h
      · exact ite_outWf h (execLinkSpill.enter_wf h)
      · exact h

theorem execSkipPark_wf {cl s} (h : memoriesWf s) : OutWf (execSkipPark cl s) := by
  simp only [execSkipPark]
  split
  · split
    · split
      · exact ite_outWf (onBand_wf (setCluster_wf h)) h
      · exact h
    · exact h
  · exact h

theorem execParkedTokenRelease_wf {job lid s} (h : memoriesWf s) : OutWf (execParkedTokenRelease job lid s) := by
  simp only [execParkedTokenRelease]
  split
  · split
    · split
      · exact h
      · split
        · exact onBand_wf (routerPush_wf h)
        · exact h
    · exact h
  · exact h

theorem execRelatchToken_wf {job lid row s} (h : memoriesWf s) : OutWf (execRelatchToken job lid row s) := by
  simp only [execRelatchToken]
  split
  · split
    · exact ite_outWf h (onBand_wf (foldl_wf onCluster_wf h))
    · exact h
  · exact h

/-! ### Machine/RootSys -/

theorem State.sysRead_wf {s r} (h : memoriesWf s) : memoriesWf (s.sysRead r).2 := by
  simp only [State.sysRead]
  split
  case h_10 => exact update_wf (setMe_wf h)
  all_goals exact h

theorem State.sysWrite_wf {s r v} (h : memoriesWf s) : memoriesWf (s.sysWrite r v) := by
  simp only [State.sysWrite]
  split
  case h_8 => exact noteClock_wf (setMe_wf h)
  case h_10 => exact waypartWrite_wf h
  case h_11 => exact h
  case h_12 => exact h
  case h_13 => exact h
  all_goals exact setMe_wf h

theorem State.sysWriteExec_wf {s r a} (h : memoriesWf s) : OutWf (s.sysWriteExec r a) := by
  simp only [State.sysWriteExec]
  split
  · exact trap_wf h
  · exact ite_outWf (trap_wf h) (setMe_wf (sysWrite_wf h))

theorem State.forfeitLine_wf {s l t zero} (h : memoriesWf s) : memoriesWf (s.forfeitLine l t zero) := by
  obtain ⟨hmem, hhbm, hscratch⟩ := h
  simp only [State.forfeitLine]
  split
  · exact ⟨Memory.wf_clear _ _ _ hmem, Memory.wf_clear _ _ _ hhbm, hscratch⟩
  · exact ⟨Memory.wf_copyFrom _ _ _ _ hmem, hhbm, hscratch⟩

theorem execForfeit_wf {d a s} (h : memoriesWf s) : OutWf (execForfeit d a s) := by
  simp only [execForfeit]
  split
  · exact trap_wf h
  · split
    · exact trap_wf h
    · exact (translate_wf h).wait ‹_›
    next u e =>
      have hu : memoriesWf u := (translate_wf h).ok e
      have forfeited {c l t zero b} {p : Prop} [Decidable p] :
          memoriesWf ((if p then (u.setMe c).readHbm b else u.setMe c).forfeitLine l t zero) :=
        forfeitLine_wf (ite_wf (readHbm_wf (setMe_wf hu)) (setMe_wf hu))
      split
      · exact result_wf (logPa_wf (setMe_wf hu))
      · refine ite_outWf (result_wf (setMe_wf hu)) (ite_outWf (stallTurn_wf (setMe_wf hu)) ?_)
        exact result_wf (setMe_wf (noteClock_wf (setHomeClock_wf forfeited)))

/-! ### Machine/RootTask -/

theorem State.scramble_wf {s n rs} (h : memoriesWf s) : memoriesWf (s.scramble n rs) := by
  induction rs generalizing s with
  | nil => exact h
  | cons r rs ih =>
    simp only [State.scramble]
    refine ih ?_
    split
    · exact choose_wf h
    · exact setCore_wf (choose_wf h)

theorem execTaskStart_wf {core s} (h : memoriesWf s) : OutWf (execTaskStart core s) := by
  simp only [execTaskStart]
  split
  · split
    · exact scramble_wf (setCore_wf h)
    · exact h
  · exact h

theorem execTaskResume_wf {core s} (h : memoriesWf s) : OutWf (execTaskResume core s) := by
  simp only [execTaskResume]
  split
  · split
    · exact ite_outWf (setCore_wf h) h
    · exact h
  · exact h

theorem execHold_wf {d s} (h : memoriesWf s) : OutWf (execHold d s) := by
  simp only [execHold]
  split
  · split
    · exact setMe_wf h
    · exact defer_wf h
  · exact defer_wf h

theorem execCsend_wf {d a b k s} (h : memoriesWf s) : OutWf (execCsend d a b k s) := by
  simp only [execCsend]
  split
  · exact result_wf h
  · exact ite_outWf (result_wf h) (result_wf (setMe_wf h))

theorem State.deliver_wf {s m} (h : memoriesWf s) : OptWf (s.deliver m) := by
  simp only [State.deliver]
  split
  · exact OptWf_some (setCore_wf h)
  · exact OptWf_none

theorem execChannelMessageArrival_wf {src s} (h : memoriesWf s) : OutWf (execChannelMessageArrival src s) := by
  simp only [execChannelMessageArrival]
  split
  · split
    · split
      · exact (deliver_wf (setCore_wf h)).some ‹_›
      · exact h
    · exact h
  · split
    · split
      · exact (deliver_wf (update_wf h)).some ‹_›
      · exact h
    · exact h

theorem execTimerExpiry_wf {core chan s} (h : memoriesWf s) : OutWf (execTimerExpiry core chan s) := by
  simp only [execTimerExpiry]
  split
  · exact post_wf (setCore_wf h)
  · exact h

/-! ### Machine/Ending -/

theorem State.noteSnapshot_wf {s l} (h : memoriesWf s) : Acc.Wf (s.noteSnapshot l) := by
  simp only [State.noteSnapshot]
  split
  · exact jobWrite_wf h
  · exact h

theorem State.admitNext_wf {s l} (h : memoriesWf s) : OutWf (s.admitNext l) := by
  simp only [State.admitNext]
  split
  · exact setLaunch_wf h
  · split
    · exact setLaunch_wf h
    · split
      · exact setLaunch_wf h
      · split
        · exact setLaunch_wf ((jobRead_wf h).ok ‹_›)
        · exact setLaunch_wf h
        · exact (jobRead_wf h).wait ‹_›

theorem State.reserve_wf {s ds release} (h : memoriesWf s) : memoriesWf (s.reserve ds release) :=
  foldl_wf setBank_wf h

theorem State.performAll_wf {s agent} (h : memoriesWf s) : memoriesWf (s.performAll agent) :=
  twigPerform_wf (drainPosted_wf h)

theorem State.releaseBand_wf {s b} (h : memoriesWf s) : memoriesWf (s.releaseBand b) := by
  simp only [State.releaseBand]
  split
  · exact h
  · exact reserve_wf (foldl_wf onCluster_wf (foldl_wf performAll_wf h))

theorem State.dropRegions_wf {s job lid} (h : memoriesWf s) : memoriesWf (s.dropRegions job lid) := h

theorem State.streamRange_wf {s j l n} (h : memoriesWf s) : Found.Wf (s.streamRange j l n) := by
  simp only [State.streamRange]
  split
  · split <;> exact (jobPeek_wf h).ok ‹_›
  · exact (jobPeek_wf h).wait ‹_›
  · exact h

theorem State.streamLine_wf {s ctx need ok line} (h : memoriesWf s) : Found.Wf (s.streamLine ctx need ok line) := by
  simp only [State.streamLine]
  split
  · split <;> exact (translate_wf h).ok ‹_›
  · exact (translate_wf h).wait ‹_›
  · exact h

theorem State.lineRuns_wf {s ctx line k fuel} (h : memoriesWf s) : Found.Wf (s.lineRuns ctx line k fuel) := by
  induction fuel generalizing s line k with
  | zero => exact h
  | succ fuel ih =>
    simp only [State.lineRuns]
    split
    · exact h
    · split
      · exact (streamLine_wf h).wait ‹_›
      · exact ih ((streamLine_wf h).bad ‹_›)
      · split
        · split <;> exact (ih ((streamLine_wf h).ok ‹_›)).ok ‹_›
        · exact (ih ((streamLine_wf h).ok ‹_›)).ok ‹_›
        · exact ih ((streamLine_wf h).ok ‹_›)

theorem State.deadRange_wf {s j l n} (h : memoriesWf s) : Found.Wf (s.deadRange j l n) := by
  simp only [State.deadRange]
  split
  · exact h
  · exact streamRange_wf h

theorem State.announce_wf {s j l clock} (h : memoriesWf s) : memoriesWf (s.announce j l clock) := by
  simp only [State.announce]
  split
  · exact ite_wf (post_wf h) h
  · exact h

theorem State.beginEnd_wf {s l how} (h : memoriesWf s) : OutWf (s.beginEnd l how) := setLaunch_wf h

theorem State.closeEnd_wf {s l how j} (h : memoriesWf s) : OutWf (s.closeEnd l how j) := by
  simp only [State.closeEnd]
  refine Acc.after_wf (noteSnapshot_wf h) h fun hu => setLaunch_wf ?_
  have dropped := dropFaults_wf (p := fun f => f.ofLaunch l.job l.id)
    (dropRegions_wf (job := l.job) (lid := l.id) hu)
  have released : memoriesWf ((l.band.map (State.releaseBand _)).getD _) := getD_map_wf
    (releaseBand_wf dropped) dropped
  refine ite_wf (update_wf ?_) ?_ <;>
  · split
    · exact ite_wf (update_wf released) released
    · exact released

theorem State.endStep_wf {s l how e} (h : memoriesWf s) : OutWf (s.endStep l how e) := by
  simp only [State.endStep]
  split
  · exact setLaunch_wf h
  · split
    · split
      · exact setLaunch_wf ((streamLine_wf h).bad ‹_›)
      · exact (streamLine_wf h).wait ‹_›
      · split
        · exact setLaunch_wf ((discardStep_wf ((streamLine_wf h).ok ‹_›)).some ‹_›)
        · exact stallTurn_wf ((streamLine_wf h).ok ‹_›)
    · split
      · exact setLaunch_wf ((OptFoundWf_map (deadRange_wf h)).ok ‹_›)
      · exact (OptFoundWf_map (deadRange_wf h)).wait ‹_›
      · exact setLaunch_wf ((OptFoundWf_map (deadRange_wf h)).bad ‹_›)
      · exact setLaunch_wf h
    · exact setLaunch_wf h
    · split
      · exact setLaunch_wf h
      · exact Acc.after_wf (countUp_wf h) h setLaunch_wf
    · exact ite_outWf (setLaunch_wf (announce_wf h)) h
    · exact Acc.after_wf (countUp_wf h) h setLaunch_wf
    · exact closeEnd_wf h
    · exact admitNext_wf h

theorem State.failEarly_wf {s l place} (h : memoriesWf s) : memoriesWf (s.failEarly l place) := failLaunch_wf h

theorem State.dropBases_wf {s b} (h : memoriesWf s) : memoriesWf (s.dropBases b) := foldl_wf onCluster_wf h

/-! ### Machine/Arming -/

theorem State.watchCounter_wf {s j l} (h : memoriesWf s) : Found.Wf (s.watchCounter j l) := by
  simp only [State.watchCounter]
  split
  · exact h
  · split
    · exact h
    · split
      · exact (translate_wf h).ok ‹_›
      · exact (translate_wf h).wait ‹_›
      · exact h

theorem State.writePending_wf {s j l} (h : memoriesWf s) : Acc.Wf (s.writePending j l) := by
  simp only [State.writePending]
  split
  · exact h
  · exact jobWrite_wf h

theorem State.enlist_wf {s n j l bad} (h : memoriesWf s) : memoriesWf (s.enlist n j l bad) :=
  ite_wf (failEarly_wf (update_wf h)) (update_wf h)

theorem State.arm_wf {s n t res start core} (h : memoriesWf s) : Armed.Wf (s.arm n t res start core) := by
  simp only [State.arm]
  split
  · trivial
  · split
    · trivial
    · split
      · trivial
      · split
        · exact (watchCounter_wf h).wait ‹_›
        · split
          · exact (writePending_wf ((watchCounter_wf h).ok ‹_›)).wait ‹_›
          · exact enlist_wf ((watchCounter_wf h).ok ‹_›)
          · exact enlist_wf ((writePending_wf ((watchCounter_wf h).ok ‹_›)).ok ‹_›)
        · split
          · exact (writePending_wf ((watchCounter_wf h).bad ‹_›)).wait ‹_›
          · exact enlist_wf ((watchCounter_wf h).bad ‹_›)
          · exact enlist_wf ((writePending_wf ((watchCounter_wf h).bad ‹_›)).ok ‹_›)

theorem State.patch_wf {s n t w v} (h : memoriesWf s) : memoriesWf (s.patch n t w v).2 := by
  simp only [State.patch]
  split
  · exact h
  · split
    · exact h
    · split <;> exact h

theorem State.copyStop_wf {s e k} (h : memoriesWf s) : memoriesWf (s.copyStop e k) := copyRelease_wf (performAll_wf h)

theorem State.cancel_wf {s n lv arg} (h : memoriesWf s) : memoriesWf (s.cancel n lv arg).2 := by
  simp only [State.cancel]
  split
  · exact h
  · exact foldl_wf setLaunch_wf (ite_wf (update_wf (foldl_wf copyStop_wf h)) h)

theorem State.pageServes_wf {s j va} (h : memoriesWf s) : Found.Wf (s.pageServes j va) := by
  simp only [State.pageServes]
  split
  · split <;> exact (walkFrom_wf h).leaf ‹_›
  · exact (walkFrom_wf h).wait ‹_›
  · exact h

theorem State.pagesServe_wf {s j vas} (h : memoriesWf s) : Found.Wf (s.pagesServe j vas) := by
  induction vas generalizing s with
  | nil => exact h
  | cons va vas ih =>
    simp only [State.pagesServe]
    split
    · exact ih ((pageServes_wf h).ok ‹_›)
    · exact pageServes_wf h

theorem State.jobctlDone_wf {s code} (h : memoriesWf s) : memoriesWf (s.jobctlDone code) := by
  unfold State.jobctlDone
  exact update_wf h

theorem State.readDescriptor_wf {s} (h : memoriesWf s) : OutWf s.readDescriptor := by
  unfold State.readDescriptor
  dsimp only
  split
  · exact jobctlDone_wf h
  · split
    · exact h
    · split
      · exact stallTurn_wf h
      · have hu := homeLoad_wf (pa := s.regs.jobdesc.toNat) (n := 128) ((touch_wf h).some ‹_›)
        split
        · exact jobctlDone_wf hu
        · split
          · exact jobctlDone_wf ((pagesServe_wf hu).bad ‹_›)
          · exact (pagesServe_wf hu).wait ‹_›
          · exact update_wf ((pagesServe_wf hu).ok ‹_›)

theorem State.readTemplate_wf {s n j} (h : memoriesWf s) : OutWf (s.readTemplate n j) := by
  simp only [State.readTemplate]
  split
  · exact jobctlDone_wf h
  · exact (jobRead_wf h).wait ‹_›
  · split
    · exact jobctlDone_wf ((jobRead_wf h).ok ‹_›)
    · split
      · exact update_wf ((jobRead_wf h).ok ‹_›)
      · exact jobctlDone_wf (update_wf ((jobRead_wf h).ok ‹_›))

theorem execJobAdmit_wf {job s} (h : memoriesWf s) : OutWf (execJobAdmit job s) := by
  simp only [execJobAdmit]
  split
  · exact h
  · split
    · exact jobctlDone_wf h
    · split
      · exact readDescriptor_wf h
      · exact readTemplate_wf h

theorem execJobRetire_wf {job s} (h : memoriesWf s) : OutWf (execJobRetire job s) := by
  simp only [execJobRetire]
  split
  · exact h
  · split
    · exact jobctlDone_wf h
    · exact ite_outWf (jobctlDone_wf h) (jobctlDone_wf (update_wf h))

/-! ### Machine/Array -/

theorem State.onArr_wf {s cl f} (h : memoriesWf s) : memoriesWf (s.onArr cl f) := onCluster_wf h

theorem State.arrStall_wf {s cl code u i} (h : memoriesWf s) : memoriesWf (s.arrStall cl code u i) :=
  stall_wf (onArr_wf h)

theorem State.arrFail_wf {s cl code} (h : memoriesWf s) : memoriesWf (s.arrFail cl code) := failAt_wf (onArr_wf h)

theorem State.planeBad_wf {s cl g drop} (h : memoriesWf s) (hdrop : ∀ {t}, memoriesWf t → memoriesWf (drop t)) :
    OutWf (s.planeBad cl g drop) :=
  ite_outWf (onArr_wf (hdrop h)) (arrStall_wf h)

theorem State.takePlane_wf {s cl g ld ts drop} (h : memoriesWf s) (hdrop : ∀ {t}, memoriesWf t → memoriesWf
    (drop t)) :
    OutWf (s.takePlane cl g ld ts drop) := by
  simp only [State.takePlane]
  split
  · exact onArr_wf (hdrop h)
  · exact planeBad_wf h hdrop
  · exact arrFail_wf h

theorem execPlaneLoad_wf {cl s} (h : memoriesWf s) : OutWf (execPlaneLoad cl s) := by
  simp only [execPlaneLoad]
  split
  · split
    · exact h
    · split
      · split
        · exact h
        · exact ite_outWf (arrFail_wf h) (takePlane_wf h onCluster_wf)
      · split
        · exact takePlane_wf h id
        · split
          · exact h
          · split
            · exact arrFail_wf h
            · split
              · exact setCluster_wf h
              · split
                · exact ite_outWf (setCluster_wf h) (planeBad_wf h id)
                · split
                  · exact takePlane_wf (onArr_wf (setCluster_wf h)) id
                  · exact onArr_wf (setCluster_wf h)
  · exact h

theorem execPlaneSwap_wf {cl s} (h : memoriesWf s) : OutWf (execPlaneSwap cl s) := by
  simp only [execPlaneSwap]
  split
  · exact ite_outWf h (ite_outWf (arrFail_wf h) (onArr_wf h))
  · exact h

theorem State.takeArr_wf {s cl q n chained} (h : memoriesWf s) : memoriesWf (s.takeArr cl q n chained) := by
  simp only [State.takeArr]
  split
  · exact ite_wf (onCluster_wf (onCluster_wf h)) (onCluster_wf h)
  · exact onCluster_wf h

theorem State.arrMismatch_wf {s cl p q} (h : memoriesWf s) : OutWf (s.arrMismatch cl p q) := by
  simp only [State.arrMismatch]
  split
  · exact onArr_wf (ite_wf (takeArr_wf (ite_wf (takeArr_wf h) h)) (ite_wf (takeArr_wf h) h))
  · exact arrStall_wf h

theorem State.arrEnd_wf {s cl g t} (h : memoriesWf s) : OutWf (s.arrEnd cl g t) := by
  simp only [State.arrEnd]
  split
  · split
    · exact h
    · split
      · split
        · exact onCluster_wf (ite_wf (takeArr_wf (takeArr_wf h)) (takeArr_wf h))
        · exact h
      · split
        · exact h
        · split <;> exact onArr_wf (onArr_wf (onArr_wf (ite_wf (takeArr_wf (takeArr_wf h)) (takeArr_wf h))))
  · split
    · exact h
    · split
      · split
        · exact onCluster_wf (ite_wf (takeArr_wf (takeArr_wf h)) (takeArr_wf h))
        · exact h
      · split
        · exact h
        · split <;> exact onArr_wf (onArr_wf (onArr_wf (ite_wf (takeArr_wf (takeArr_wf h)) (takeArr_wf h))))

theorem State.arrHeads_wf {s cl g f} (h : memoriesWf s) (hf : ∀ {x t}, memoriesWf t → OutWf (f x t)) :
    OutWf (s.arrHeads cl g f) := by
  simp only [State.arrHeads]
  split
  · exact arrFail_wf h
  · split
    · exact h
    · exact h
    · split
      · exact ite_outWf (setCluster_wf h) (hf h)
      · exact ite_outWf (arrEnd_wf h) (ite_outWf h (arrMismatch_wf h))

theorem State.arrInputs_wf {s cl g f} (h : memoriesWf s) (hf : ∀ {x t}, memoriesWf t → OutWf (f x t)) :
    OutWf (s.arrInputs cl g f) :=
  ite_outWf (onArr_wf (takeArr_wf h)) (arrHeads_wf h hf)

theorem State.arrCommit_wf {s cl g f done} (h : memoriesWf s) (hdone : ∀ {t}, memoriesWf t → memoriesWf (done t)) :
    OutWf (s.arrCommit cl g f done) :=
  ite_outWf (arrStall_wf h) (raiseFlags_wf (onArr_wf (hdone h)))

theorem State.arrPass_wf {s cl g pl} (h : memoriesWf s) : OutWf (s.arrPass cl g pl) := by
  have taken {u : State} {q n b} {c : Prop} [Decidable c] (hu : memoriesWf u) : memoriesWf
    (if c then u.takeArr cl q n b else u) :=
    ite_wf (takeArr_wf hu) hu
  unfold State.arrPass
  refine ite_outWf (setCluster_wf h) (ite_outWf (setCluster_wf h)
    (ite_outWf h (ite_outWf h (ite_outWf h (ite_outWf h ?_)))))
  split
  · exact ite_outWf h (arrMismatch_wf h)
  · refine ite_outWf h ?_
    dsimp only
    exact arrCommit_wf h fun hu =>
      ite_wf (onArr_wf (taken (taken (onArr_wf hu)))) (taken (taken (onArr_wf hu)))

theorem execArrayPass_wf {cl s} (h : memoriesWf s) : OutWf (execArrayPass cl s) := by
  simp only [execArrayPass]
  split
  · exact h
  · refine arrInputs_wf h (fun hu => ?_)
    split
    · exact ite_outWf hu (arrPass_wf hu)
    · exact hu

theorem execArrayRescale_wf {cl s} (h : memoriesWf s) : OutWf (execArrayRescale cl s) := by
  simp only [execArrayRescale]
  split
  · exact h
  · exact arrHeads_wf h (fun hu => ite_outWf hu (arrCommit_wf hu (fun hv => takeArr_wf (onArr_wf hv))))

theorem execAccumulatorDrain_wf {cl s} (h : memoriesWf s) : OutWf (execAccumulatorDrain cl s) := by
  simp only [execAccumulatorDrain]
  split
  · exact h
  · split
    · split
      · exact onArr_wf h
      · exact ite_outWf (onArr_wf (setCluster_wf h)) h
    · split
      · exact ite_outWf (onArr_wf (setCluster_wf h)) h
      · exact h

theorem State.logCluster_wf {s cl kind detail} (h : memoriesWf s) : memoriesWf (s.logCluster cl kind detail) :=
  logEvent_wf h

theorem execColumnRepair_wf {cl col s} (h : memoriesWf s) : OutWf (execColumnRepair cl col s) := by
  simp only [execColumnRepair]
  split
  · exact h
  · split
    · exact arrFail_wf h
    · exact logCluster_wf (update_wf (onArr_wf h))

/-! ### Machine/Links -/

theorem State.logTower_wf {s tower kind detail} (h : memoriesWf s) : memoriesWf (s.logTower tower kind detail) :=
  logEvent_wf h

theorem State.setGport_wf {s p v} (h : memoriesWf s) : memoriesWf (s.setGport p v) := h

theorem State.gportRead_wf {s p} (h : memoriesWf s) : memoriesWf (s.gportRead p).2 := setGport_wf (update_wf h)

theorem execBankOffline_wf {bank s} (h : memoriesWf s) : OutWf (execBankOffline bank s) := by
  simp only [execBankOffline]
  split
  · exact h
  · exact logTower_wf (setBank_wf (foldl_wf leaveRemote_wf (foldl_wf leaveHome_wf h)))

theorem State.applyFence_wf {s k} (h : memoriesWf s) : memoriesWf (s.applyFence k) := ite_wf h (update_wf h)

theorem State.applyUnfence_wf {s k} (h : memoriesWf s) : memoriesWf (s.applyUnfence k) := ite_wf h (update_wf h)

theorem State.applyFencing_wf {s k fence} (h : memoriesWf s) : memoriesWf (s.applyFencing k fence) :=
  ite_wf (applyFence_wf h) (applyUnfence_wf h)

theorem State.sendFences_wf {s k fence own} (h : memoriesWf s) : memoriesWf (s.sendFences k fence own) := h

theorem State.fenceDone_wf {s} (h : memoriesWf s) : memoriesWf s.fenceDone := ite_wf h (update_wf h)

theorem State.fenceMove_wf {s k fence} (h : memoriesWf s) : memoriesWf (s.fenceMove k fence) := by
  simp only [State.fenceMove]
  split
  · split
    · split
      · exact fenceDone_wf (update_wf h)
      · exact fenceDone_wf (sendFences_wf (applyFencing_wf h))
    · split <;> exact h
  · split
    · split
      · exact fenceDone_wf (update_wf h)
      · exact fenceDone_wf (sendFences_wf (applyFencing_wf h))
    · split <;> exact h

/-! ### Machine/Grove -/

theorem State.imageRead_wf {s j va} (h : memoriesWf s) : Acc.Wf (s.imageRead j va) := by
  simp only [State.imageRead]
  split
  · trivial
  · exact (translate_wf h).wait ‹_›
  · split
    · exact homeLoad_wf ((translate_wf h).ok ‹_›)
    · exact (translate_wf h).ok ‹_›
    · exact logUnbacked_wf ((translate_wf h).ok ‹_›)

theorem State.counterOk_wf {s j va} (h : memoriesWf s) : Found.Wf (s.counterOk j va) := by
  simp only [State.counterOk]
  split
  · exact h
  · split
    · exact h
    · split
      · exact h
      · exact (translate_wf h).wait ‹_›
      · exact (translate_wf h).ok ‹_›

theorem State.checkWords_wf {s j l} (h : memoriesWf s) : Found.Wf (s.checkWords j l) := by
  simp only [State.checkWords]
  split
  · exact h
  · split
    · exact counterOk_wf ((counterOk_wf h).ok ‹_›)
    · exact counterOk_wf h

theorem State.readFrame_wf {s j l cur} (h : memoriesWf s) : OutWf (s.readFrame j l cur) := by
  simp only [State.readFrame]
  split
  · exact failEarly_wf h
  · exact (imageRead_wf h).wait ‹_›
  · split
    · exact setLaunch_wf ((imageRead_wf h).ok ‹_›)
    · split
      · exact setLaunch_wf ((imageRead_wf h).ok ‹_›)
      · split
        · exact failEarly_wf (setLaunch_wf ((imageRead_wf h).ok ‹_›))
        · exact setLaunch_wf ((imageRead_wf h).ok ‹_›)

theorem execLaunchEligible_wf {job lid s} (h : memoriesWf s) : OutWf (execLaunchEligible job lid s) := by
  simp only [execLaunchEligible]
  split
  · split
    · exact h
    · split
      · exact h
      · exact readFrame_wf h
      · refine Acc.after_wf (noteSnapshot_wf h) h (fun hu => ?_)
        split
        · exact failEarly_wf ((checkWords_wf hu).bad ‹_›)
        · exact (checkWords_wf hu).wait ‹_›
        · exact setLaunch_wf ((checkWords_wf hu).ok ‹_›)
  · exact h

theorem State.sendStage_wf {s b r fs} (h : memoriesWf s) : memoriesWf (s.sendStage b r fs) := foldl_wf onCluster_wf h

theorem State.takeBand_wf {s l b} (h : memoriesWf s) : memoriesWf (s.takeBand l b) := foldl_wf onCluster_wf h

theorem State.streamRanges_wf {s j l ns} (h : memoriesWf s) : Found.Wf (s.streamRanges j l ns) := by
  induction ns generalizing s with
  | nil => exact h
  | cons n ns ih =>
    simp only [State.streamRanges]
    split
    · exact ih h
    · split
      · exact (streamRange_wf h).wait ‹_›
      · exact ih ((streamRange_wf h).bad ‹_›)
      · split
        · exact (ih ((streamRange_wf h).ok ‹_›)).ok ‹_›
        · exact ih ((streamRange_wf h).ok ‹_›)

theorem State.enterRegions_wf {s j l bank rs} (h : memoriesWf s) : Found.Wf (s.enterRegions j l bank rs) := by
  induction rs generalizing s with
  | nil => exact h
  | cons r rs ih =>
    simp only [State.enterRegions]
    split
    · exact (lineRuns_wf h).wait ‹_›
    · exact ih ((lineRuns_wf h).bad ‹_›)
    · exact ih (update_wf ((lineRuns_wf h).ok ‹_›))

theorem State.declare_wf {s j l b} (h : memoriesWf s) : Found.Wf (s.declare j l b) := by
  simp only [State.declare]
  split
  · split
    · exact (streamRanges_wf h).ok ‹_›
    · split
      · exact (enterRegions_wf ((streamRanges_wf h).ok ‹_›)).ok ‹_›
      · exact (enterRegions_wf ((streamRanges_wf h).ok ‹_›)).bad ‹_›
      · exact (enterRegions_wf ((streamRanges_wf h).ok ‹_›)).wait ‹_›
  · exact streamRanges_wf h

theorem State.place_wf {s j l b} (h : memoriesWf s) : memoriesWf (s.place j l b) := by
  simp only [State.place]
  split
  · exact update_wf ((declare_wf h).wait ‹_›)
  · exact update_wf ((declare_wf h).bad ‹_›)
  · refine setLaunch_wf ?_
    split
    · split
      · exact update_wf (ite_wf (takeBand_wf (reserve_wf ((declare_wf h).ok ‹_›))) (foldl_wf sendStage_wf
          (takeBand_wf (reserve_wf ((declare_wf h).ok ‹_›)))))
      · split
        · exact takeBand_wf (reserve_wf ((declare_wf h).ok ‹_›))
        · exact foldl_wf sendStage_wf (takeBand_wf (reserve_wf ((declare_wf h).ok ‹_›)))
    · split
      · exact takeBand_wf (reserve_wf ((declare_wf h).ok ‹_›))
      · exact foldl_wf sendStage_wf (takeBand_wf (reserve_wf ((declare_wf h).ok ‹_›)))

theorem execLaunchDispatch_wf {job lid s} (h : memoriesWf s) : OutWf (execLaunchDispatch job lid s) := by
  simp only [execLaunchDispatch]
  split
  · split
    · exact h
    · split
      · exact h
      · split
        · exact failEarly_wf h
        · exact ite_outWf (place_wf h) h
  · exact h

theorem execStarvationReserve_wf {job lid s} (h : memoriesWf s) : OutWf (execStarvationReserve job lid s) := by
  simp only [execStarvationReserve]
  split
  · exact ite_outWf h (update_wf h)
  · exact h

theorem execWarmPrefetch_wf {job lid line s} (h : memoriesWf s) : OutWf (execWarmPrefetch job lid line s) := by
  simp only [execWarmPrefetch]
  split
  · exact h
  · split
    · exact h
    · split
      · exact logPa_wf h
      · split
        · exact h
        · split
          · exact h
          · exact setLine_wf h

theorem execLaunchComplete_wf {job lid s} (h : memoriesWf s) : OutWf (execLaunchComplete job lid s) := by
  simp only [execLaunchComplete]
  split
  · exact h
  · split
    · exact endStep_wf h
    · split
      · exact h
      · split
        · exact beginEnd_wf h
        · split
          · exact beginEnd_wf h
          · split
            · exact ite_outWf (beginEnd_wf h) h
            · exact h

theorem execBarrierComplete_wf {job lid s} (h : memoriesWf s) : OutWf (execBarrierComplete job lid s) := by
  simp only [execBarrierComplete]
  split
  · split
    · exact h
    · split
      · exact endStep_wf h
      · split
        · exact h
        · split
          · exact (checkWords_wf h).wait ‹_›
          · exact failEarly_wf ((checkWords_wf h).bad ‹_›)
          · exact beginEnd_wf ((checkWords_wf h).ok ‹_›)
  · exact h

theorem State.storeRecord_wf {s tower pa words} (h : memoriesWf s) : OptPairWf (s.storeRecord tower pa words) := by
  simp only [State.storeRecord]
  split
  · exact OptPairWf_some (logPa_wf h)
  · exact OptPairWf_map (fun hu => setHomeClock_wf (noSram_wf hu)) (storeStep_wf h)

theorem State.recordDone_wf {s job j f t} (h : memoriesWf s) : memoriesWf (s.recordDone job j f t) :=
  update_wf (post_wf h)

theorem execFaultRecordWrite_wf {job s} (h : memoriesWf s) : OutWf (execFaultRecordWrite job s) := by
  simp only [execFaultRecordWrite]
  split
  · split
    · exact h
    · exact (translate_wf h).wait ‹_›
    · split
      · exact (translate_wf h).ok ‹_›
      · split
        · exact stallTurn_wf ((translate_wf h).ok ‹_›)
        · exact recordDone_wf ((storeRecord_wf ((translate_wf h).ok ‹_›)).some ‹_›)
  · exact h

theorem execQuiescenceReport_wf {job lid row s} (h : memoriesWf s) : OutWf (execQuiescenceReport job lid row s) := by
  simp only [execQuiescenceReport]
  split
  · split
    · exact ite_outWf (onBand_wf h) h
    · exact h
  · exact h

theorem execDeadlockDetected_wf {job lid s} (h : memoriesWf s) : OutWf (execDeadlockDetected job lid s) := by
  simp only [execDeadlockDetected]
  split
  · split
    · exact ite_outWf (failLaunch_wf h) h
    · exact h
  · exact h

/-! ### Machine/Scroll -/

theorem State.loadRow_wf {s l b r} (h : memoriesWf s) : memoriesWf (s.loadRow l b r) := setLaunch_wf (sendStage_wf h)

theorem execRowLoadStart_wf {job lid row s} (h : memoriesWf s) : OutWf (execRowLoadStart job lid row s) := by
  simp only [execRowLoadStart]
  split
  · exact ite_outWf (loadRow_wf h) h
  · exact h

theorem State.carryLeaf_wf {s old new ctx} (h : memoriesWf s) : memoriesWf (s.carryLeaf old new ctx) := by
  simp only [State.carryLeaf]
  refine foldl_wf (fun hu => foldl_wf (fun hv => foldl_wf (fun hw => ?_) hv) hu) h
  split
  · exact onCluster_wf hw
  · exact hw

theorem State.overlay_wf {s b r old f} (h : memoriesWf s) : memoriesWf (s.overlay b r old f) :=
  foldl_wf onCluster_wf h

theorem State.areaLines_wf {s ctx need va n} (h : memoriesWf s) : AreaAcc.Wf (s.areaLines ctx need va n) := by
  induction n generalizing s va with
  | zero => exact h
  | succ n ih =>
    simp only [State.areaLines]
    split
    · trivial
    · exact (translate_wf h).wait ‹_›
    · split
      · trivial
      · split
        · trivial
        · split
          · exact (ih ((translate_wf h).ok ‹_›)).ok ‹_›
          · exact ih ((translate_wf h).ok ‹_›)

theorem State.saveRow_wf {s l b r} (h : memoriesWf s) : Saved.Wf (s.saveRow l b r) := by
  simp only [State.saveRow]
  split
  · trivial
  · split
    · trivial
    · split
      · trivial
      · trivial
      · exact (areaLines_wf h).wait ‹_›
      · exact update_wf (foldl_wf postScratch_wf ((areaLines_wf h).ok ‹_›))

theorem State.rowFault_wf {s l b r code level va detail} (h : memoriesWf s) :
    memoriesWf (s.rowFault l b r code level va detail) :=
  launchFault_wf (setLaunch_wf h)

theorem State.rowFail_wf {s l b r code} (h : memoriesWf s) : memoriesWf (s.rowFail l b r code) := failLaunch_wf h

theorem execRowLoadComplete_wf {job lid row s} (h : memoriesWf s) : OutWf (execRowLoadComplete job lid row s) := by
  simp only [execRowLoadComplete]
  split
  · exact h
  · split
    · exact h
    · split
      · exact setLaunch_wf h
      · split
        · exact h
        · split
          · exact rowFail_wf h
          · split
            · exact setLaunch_wf (overlay_wf h)
            · split
              · exact rowFault_wf h
              · exact rowFail_wf h
              · exact (areaLines_wf h).wait ‹_›
              · split
                · split
                  · exact setLaunch_wf (overlay_wf ((areaLines_wf h).ok ‹_›))
                  · exact rowFail_wf ((areaLines_wf h).ok ‹_›)
                · split
                  · exact setLaunch_wf (overlay_wf ((areaLines_wf h).ok ‹_›))
                  · exact rowFail_wf ((areaLines_wf h).ok ‹_›)

theorem execRowDrained_wf {job lid row s} (h : memoriesWf s) : OutWf (execRowDrained job lid row s) := by
  simp only [execRowDrained]
  split
  · exact ite_outWf (onBand_wf h) h
  · exact h

theorem State.unload_wf {s b r} (h : memoriesWf s) : memoriesWf (s.unload b r) := foldl_wf onCluster_wf h

theorem execRowEosRetire_wf {job lid row s} (h : memoriesWf s) : OutWf (execRowEosRetire job lid row s) := by
  simp only [execRowEosRetire]
  split
  · exact ite_outWf (setLaunch_wf (unload_wf h)) h
  · exact h

theorem State.rereadArea_wf {s l b stage} (h : memoriesWf s) : Saved.Wf (s.rereadArea l b stage) := by
  simp only [State.rereadArea]
  split
  · split
    · trivial
    · exact (imageRead_wf h).wait ‹_›
    · exact (imageRead_wf h).ok ‹_›
  · trivial

theorem State.putArea_wf {s l b r stage f} (h : memoriesWf s) : OptTripleWf (s.putArea l b r stage f) := by
  simp only [State.putArea]
  split
  · split
    · exact OptTripleWf_some (onCluster_wf h)
    · exact OptTripleWf_none
  · exact OptTripleWf_none

theorem State.trySave_wf {s l b row} (h : memoriesWf s) : OutWf (s.trySave l b row) := by
  simp only [State.trySave]
  split
  · exact rowFault_wf (setLaunch_wf h)
  · exact rowFail_wf (setLaunch_wf h)
  · exact (saveRow_wf h).wait ‹_›
  · exact setLaunch_wf ((saveRow_wf h).ok ‹_›)

theorem State.retrySave_wf {s l b row} (h : memoriesWf s) : OutWf (s.retrySave l b row) := by
  simp only [State.retrySave]
  split
  · split
    · exact rowFault_wf h
    · exact rowFail_wf h
    · exact (rereadArea_wf h).wait ‹_›
    · split
      · exact trySave_wf ((putArea_wf ((rereadArea_wf h).ok ‹_›)).some ‹_›)
      · exact rowFail_wf ((rereadArea_wf h).ok ‹_›)
  · exact trySave_wf h

theorem execRowSaveStart_wf {job lid row s} (h : memoriesWf s) : OutWf (execRowSaveStart job lid row s) := by
  simp only [execRowSaveStart]
  split
  · exact h
  · exact ite_outWf (trySave_wf h) (ite_outWf (retrySave_wf h) h)

theorem execRowSaveComplete_wf {job lid row s} (h : memoriesWf s) : OutWf (execRowSaveComplete job lid row s) := by
  simp only [execRowSaveComplete]
  split
  · exact h
  · split
    · exact h
    · split
      · exact loadRow_wf (unload_wf h)
      · exact setLaunch_wf (unload_wf h)

/-! ### Machine/Preempt -/

theorem State.onPlaced_wf {s l cl f} (h : memoriesWf s) : memoriesWf (s.onPlaced l cl f) := by
  simp only [State.onPlaced]
  split
  · exact h
  · split
    · exact h
    · split
      · exact setLaunch_wf h
      · split
        · exact setLaunch_wf h
        · exact onCluster_wf h

theorem State.resumeUnit_wf {s f skip pts} (h : memoriesWf s) : memoriesWf (s.resumeUnit f skip pts) := by
  simp only [State.resumeUnit]
  split
  · exact setCopyJob_wf h
  · split
    · exact onBand_wf h
    · exact h
  · exact h
  · split
    · exact onPlaced_wf h
    · exact h

theorem State.recordId_wf {s j index} (h : memoriesWf s) : memoriesWf (s.recordId j index).2 := by
  simp only [State.recordId]
  split
  · exact (jobPeek_wf h).ok ‹_›
  · exact (jobPeek_wf h).wait ‹_›
  · exact h

theorem State.faultsAt_wf {s index id ns} (h : memoriesWf s) : memoriesWf (s.faultsAt index id ns).2 := by
  induction ns generalizing s with
  | nil => exact h
  | cons n ns ih =>
    simp only [State.faultsAt]
    split
    · exact ih h
    · exact ih (recordId_wf h)

theorem State.setStat_wf {s w v} (h : memoriesWf s) : memoriesWf (s.setStat w v) := by
  simp only [State.setStat]
  split
  · exact setCore_wf h
  · exact h

theorem State.performWriter_wf {s w} (h : memoriesWf s) : memoriesWf (s.performWriter w) := by
  simp only [State.performWriter]
  split
  · exact performAll_wf h
  · exact h

theorem State.fresume_wf {s w action index id} (h : memoriesWf s) : memoriesWf (s.fresume w action index id) := by
  simp only [State.fresume]
  split
  · exact setStat_wf (snd_wf (faultsAt_wf (performWriter_wf h)) ‹_›)
  · split
    · exact setStat_wf (resumeUnit_wf (update_wf (snd_wf (faultsAt_wf (performWriter_wf h)) ‹_›)))
    · exact setStat_wf (snd_wf (faultsAt_wf (performWriter_wf h)) ‹_›)
  · exact setStat_wf (snd_wf (faultsAt_wf (performWriter_wf h)) ‹_›)

theorem State.requestDone_wf {s} (h : memoriesWf s) : memoriesWf s.requestDone := h

theorem State.freeze_wf {s act job lid v} (h : memoriesWf s) : memoriesWf (s.freeze act job lid v) := by
  simp only [State.freeze]
  split
  · split
    · exact requestDone_wf (onBand_wf (ite_wf h (foldl_wf onCluster_wf h)))
    · exact requestDone_wf h
  · exact h

theorem State.stopLoads_wf {s b} (h : memoriesWf s) : memoriesWf (s.stopLoads b).1 := by
  simp only [State.stopLoads]
  refine foldl_fst_wf (fun hu => ?_) h
  split
  · exact unload_wf hu
  · exact hu

theorem State.closeBand_wf {s l} (h : memoriesWf s) : memoriesWf (s.closeBand l) := by
  simp only [State.closeBand]
  split
  · split
    · refine setLaunch_wf ?_
      split
      · exact stopLoads_wf h
      · exact h
    · exact h
  · exact h

theorem execPreemptJob_wf {job s} (h : memoriesWf s) : OutWf (execPreemptJob job s) := by
  simp only [execPreemptJob]
  split
  · exact update_wf (foldl_wf setCopyJob_wf (foldl_wf closeBand_wf h))
  · exact h

theorem State.keepRow_wf {s l b r} (h : memoriesWf s) : Kept.Wf (s.keepRow l b r) := by
  simp only [State.keepRow]
  split
  · exact performAll_wf ((saveRow_wf h).ok ‹_›)
  · exact h
  · trivial
  · exact (saveRow_wf h).wait ‹_›

theorem State.keepOne_wf {s l b r} (h : memoriesWf s) : OutWf (s.keepOne l b r) := by
  simp only [State.keepOne]
  split
  · exact ite_outWf (setLaunch_wf (performAll_wf h)) (retrySave_wf h)
  · split
    · exact rowFail_wf h
    · exact (keepRow_wf h).wait ‹_›
    · exact setLaunch_wf ((keepRow_wf h).ok ‹_›)

theorem State.moveContext_wf {s l b write} (h : memoriesWf s) : OutWf (s.moveContext l b write) := by
  simp only [State.moveContext]
  split
  · refine Acc.after_wf ?_ h setLaunch_wf
    split
    · exact jobWrite_wf h
    · exact jobRead_wf h
  · exact setLaunch_wf h

theorem State.leaveBand_wf {s l b} (h : memoriesWf s) : memoriesWf (s.leaveBand l b) := by
  simp only [State.leaveBand]
  refine setLaunch_wf ?_
  split
  · exact update_wf (dropBases_wf h)
  · exact update_wf h

theorem State.suspend_wf {s l b} (h : memoriesWf s) : memoriesWf (s.suspend l b) := setLaunch_wf (releaseBand_wf h)

theorem execDrainWindowExpiry_wf {job lid s} (h : memoriesWf s) : OutWf (execDrainWindowExpiry job lid s) := by
  simp only [execDrainWindowExpiry]
  split
  · exact h
  · split
    · exact h
    · split
      · exact h
      · split
        · split
          · exact keepOne_wf h
          · exact ite_outWf (moveContext_wf h) (suspend_wf h)
        · split
          · exact foldl_wf performAll_wf h
          · exact leaveBand_wf (foldl_wf performAll_wf h)

theorem execResumeJob_wf {job s} (h : memoriesWf s) : OutWf (execResumeJob job s) := by
  simp only [execResumeJob]
  split
  · exact requestDone_wf (foldl_wf (fun hu => copyGoOn_wf (setCopyJob_wf hu)) (foldl_wf onBand_wf h))
  · exact h

theorem State.moveFaults_wf {s l old new} (h : memoriesWf s) : memoriesWf (s.moveFaults l old new) := h

theorem State.reenter_wf {s j l b} (h : memoriesWf s) : Found.Wf (s.reenter j l b) := by
  simp only [State.reenter]
  split
  · exact h
  · exact enterRegions_wf h

theorem State.reinstate_wf {s j l old at'} (h : memoriesWf s) : memoriesWf (s.reinstate j l old at') := by
  simp only [State.reinstate]
  split
  · exact update_wf ((reenter_wf (dropRegions_wf h)).wait ‹_›)
  · exact update_wf ((reenter_wf (dropRegions_wf h)).bad ‹_›)
  · exact setLaunch_wf (moveFaults_wf (carryLeaf_wf (foldl_wf (fun hu => overlay_wf (ite_wf hu (overlay_wf hu)))
      (takeBand_wf (reserve_wf ((reenter_wf (dropRegions_wf h)).ok ‹_›))))))

theorem execLaunchResumePlace_wf {job lid s} (h : memoriesWf s) : OutWf (execLaunchResumePlace job lid s) := by
  simp only [execLaunchResumePlace]
  split
  · split
    · exact h
    · split
      · exact h
      · split
        · exact h
        · split
          · exact failLaunch_wf h
          · exact ite_outWf h (ite_outWf (moveContext_wf h) (reinstate_wf h))
  · exact h

theorem State.scanPut_wf {s tower off v} (h : memoriesWf s) : memoriesWf (s.scanPut tower off v) := by
  simp only [State.scanPut]
  split
  · exact ite_wf (onCluster_wf h) h
  · exact ite_wf (noteClock_wf (setCore_wf h)) h
  · exact h

theorem State.warmReady_wf {s} (h : memoriesWf s) : memoriesWf s.warmReady := ite_wf (update_wf h) h

/-! ### Machine/Host -/

theorem State.setArmres_wf {s vf stat id} (h : memoriesWf s) : memoriesWf (s.setArmres vf stat id) := h

theorem State.hostTouch_wf {s pa f} (h : memoriesWf s) (hf : ∀ {t}, memoriesWf t → Found.Wf (f t)) :
    Found.Wf (s.hostTouch pa f) := by
  simp only [State.hostTouch]
  split
  · exact h
  · split
    · exact hf ((touch_wf h).some ‹_›)
    · exact stallTurn_wf h

theorem State.inboundWrite_wf {s f off data} (h : memoriesWf s) : Found.Wf (s.inboundWrite f off data) := by
  simp only [State.inboundWrite]
  split
  · exact h
  · split
    · exact arrive_wf h
    · refine hostTouch_wf h (fun hu => ?_)
      split
      · exact (homeStore_wf hu).some ‹_›
      · exact stallTurn_wf hu

theorem State.inboundRead_wf {s f off n} (h : memoriesWf s) : Found.Wf (s.inboundRead f off n) := by
  simp only [State.inboundRead]
  split
  · exact h
  · split
    · exact h
    · exact hostTouch_wf h homeLoad_wf

theorem State.hostArm_wf {s vf v} (h : memoriesWf s) : Found.Wf (s.hostArm vf v) := by
  simp only [State.hostArm]
  split
  · split
    · exact setArmres_wf h
    · split
      · exact setArmres_wf h
      · exact setArmres_wf h
      · exact (arm_wf h).wait ‹_›
      · exact setArmres_wf ((arm_wf h).ok ‹_›)
  · split
    · exact setArmres_wf h
    · split
      · exact setArmres_wf h
      · exact setArmres_wf h
      · exact (arm_wf h).wait ‹_›
      · exact setArmres_wf ((arm_wf h).ok ‹_›)

theorem State.hostReq_wf {s f r} (h : memoriesWf s) : Found.Wf (s.hostReq f r) := by
  simp only [State.hostReq]
  split
  · exact inboundWrite_wf h
  · exact inboundRead_wf h
  · exact hostArm_wf h

theorem State.hostTurn_wf {s f} (h : memoriesWf s) : OutWf (s.hostTurn f) := by
  simp only [State.hostTurn]
  split
  · exact h
  · split
    · exact update_wf ((OptFoundWf_map (hostReq_wf h)).ok ‹_›)
    · exact (OptFoundWf_map (hostReq_wf h)).wait ‹_›
    · exact (OptFoundWf_map (hostReq_wf h)).bad ‹_›
    · exact h

theorem State.hostRequest_wf {s f rs} (h : memoriesWf s) : OutWf (s.hostRequest f rs) := hostTurn_wf (update_wf h)

theorem State.celogPop_wf {s} (h : memoriesWf s) : memoriesWf s.celogPop.2 := by
  simp only [State.celogPop]
  split <;> exact h

theorem State.attest_wf {s} (h : memoriesWf s) : memoriesWf s.attest := ite_wf (update_wf h) (update_wf h)

theorem State.cleared_wf {s : State} {pkg} : memoriesWf (s.cleared pkg) := update_wf reset_wf

theorem State.repairLane_wf {s group lane} (h : memoriesWf s) : memoriesWf (s.repairLane group lane) := by
  simp only [State.repairLane]
  split
  · exact h
  · exact ite_wf (update_wf h) (logTower_wf (setBank_wf (update_wf h)))

theorem State.repairAll_wf {s ls} (h : memoriesWf s) : memoriesWf (s.repairAll ls) := foldl_wf repairLane_wf h

theorem State.powerOn_wf {s : State} {b} : memoriesWf (s.powerOn b) :=
  update_wf (ite_wf (update_wf cleared_wf) (repairAll_wf (update_wf cleared_wf)))

theorem State.warmCode_wf {s} (h : memoriesWf s) : memoriesWf s.warmCode.2 := choose_wf (n := 3) h

theorem execWarmReset_wf {crownOk s} (h : memoriesWf s) : OutWf (execWarmReset crownOk s) := by
  obtain ⟨hmem, hhbm, hscratch⟩ := warmCode_wf h
  have hscratch : Memory.wf (if crownOk then s.warmCode.2.scratch else []) = true := by
    split
    · exact hscratch
    · rfl
  simp only [execWarmReset]
  split
  · exact ⟨hmem, hhbm, hscratch⟩
  · exact repairAll_wf ⟨hmem, hhbm, hscratch⟩

/-! ### Machine/Device -/

theorem State.regRead_wf {s w tower r} (h : memoriesWf s) : memoriesWf (s.regRead w tower r).2 := by
  simp only [State.regRead]
  split
  case h_6 => exact gportRead_wf h
  case h_13 => exact celogPop_wf h
  all_goals exact h

theorem State.devRead_wf {s w pa n} (h : memoriesWf s) : memoriesWf (s.devRead w pa n).2 := by
  suffices key : ∀ f, f = State.devRead → memoriesWf (f s w pa n).2 from key _ rfl
  intro f hf
  delta State.devRead at hf
  subst hf
  generalize State.regAt = register
  revert register
  exact id fun register => regRead_wf h

theorem State.writePreempt_wf {s v} (h : memoriesWf s) : memoriesWf (s.writePreempt v) := h

theorem State.writeJobctl_wf {s v} (h : memoriesWf s) : memoriesWf (s.writeJobctl v) := h

theorem State.writeFencectl_wf {s v} (h : memoriesWf s) : memoriesWf (s.writeFencectl v) := h

theorem State.writeFresume_wf {s w v} (h : memoriesWf s) : memoriesWf (s.writeFresume w v) :=
  ite_wf (setStat_wf h) (fresume_wf h)

theorem State.regWrite_wf {s w tower r v} (h : memoriesWf s) : memoriesWf (s.regWrite w tower r v) := by
  simp only [State.regWrite]
  split
  case h_1 => exact writeFresume_wf h
  case h_2 => exact writePreempt_wf h
  case h_3 => exact ite_wf h (update_wf h)
  case h_4 => exact writeJobctl_wf h
  case h_5 => exact writeFencectl_wf h
  case h_6 => exact ite_wf (update_wf h) h
  case h_7 => exact ite_wf h (update_wf h)
  case h_8 => exact ite_wf h (update_wf h)
  case h_9 => exact ite_wf (update_wf h) h
  case h_10 => exact ite_wf (attest_wf h) h
  case h_12 => exact scanPut_wf h
  all_goals exact h

theorem State.devWrite_wf {s w pa data} (h : memoriesWf s) : memoriesWf (s.devWrite w pa data) :=
  ite_wf (regWrite_wf h) h

/-! ### Machine/EndTokens -/

theorem execEndTokenAtUnit_wf {cl unit s} (h : memoriesWf s) : OutWf (execEndTokenAtUnit cl unit s) := by
  simp only [execEndTokenAtUnit]
  split
  · exact agEnds_wf h
  · split
    · split
      · exact ite_outWf (execMuSinkRecord_wf h) h
      · exact h
    · split
      · split
        · exact arrInputs_wf h id
        · exact h
      · exact h

/-! ### Machine/RootInt -/

theorem State.alu2_wf {s d a b f} (h : memoriesWf s) : OutWf (s.alu2 d a b f) := result_wf h

theorem State.alu1_wf {s d a f} (h : memoriesWf s) : OutWf (s.alu1 d a f) := result_wf h

theorem State.branch_wf {s cond off} (h : memoriesWf s) : OutWf (s.branch cond off) :=
  ite_outWf (setMe_wf h) (skip_wf h)

/-! ### Machine/RootMem -/

theorem State.access_wf {s need r lines ea k} (h : memoriesWf s) (hk : ∀ {x y t}, memoriesWf t → OutWf (k x y t)) :
    OutWf (s.access need r lines ea k) := by
  simp only [State.access]
  split
  · exact trap_wf h
  · exact (translate_wf h).wait ‹_›
  · exact hk (setMe_wf ((translate_wf h).ok ‹_›))

theorem State.sized_wf {s need r n ea k} (h : memoriesWf s) (hk : ∀ {x y t}, memoriesWf t → OutWf (k x y t)) :
    OutWf (s.sized need r n ea k) := by
  simp only [State.sized]
  split
  · exact trap_wf h
  · exact ite_outWf (trap_wf h) (access_wf h hk)

theorem State.waitTurn_wf {s} (h : memoriesWf s) : OutWf s.waitTurn := stallTurn_wf h

theorem State.loadTarget_wf {s x pa n} (h : memoriesWf s) : memoriesWf (s.loadTarget x pa n).2 := by
  simp only [State.loadTarget]
  split
  · exact logPa_wf h
  · split
    · exact placeLine_wf (setMe_wf (loadStep_wf h))
    · exact homeLoad_wf h
  · exact h
  · exact devRead_wf h

theorem State.storeTarget_wf {s x pa data} (h : memoriesWf s) : OptWf (s.storeTarget x pa data) := by
  simp only [State.storeTarget]
  split
  · exact OptWf_some (logPa_wf h)
  · split
    · exact OptWf_map (fun hu => placeLine_wf (setMe_wf hu)) (storeStep_wf h)
    · exact OptWf_map id (homeStore_wf h)
  · exact OptWf_some (postScratch_wf h)
  · exact OptWf_some (devWrite_wf h)

theorem execLd_wf {sz sx d a imm s} (h : memoriesWf s) : OutWf (execLd sz sx d a imm s) :=
  sized_wf h (fun hu => result_wf (loadTarget_wf hu))

theorem execSt_wf {sz a b imm s} (h : memoriesWf s) : OutWf (execSt sz a b imm s) := by
  simp only [execSt]
  refine sized_wf h (fun hu => ?_)
  split
  · exact skip_wf ((storeTarget_wf hu).some ‹_›)
  · exact waitTurn_wf hu

theorem execLdl_wf {sz d a imm s} (h : memoriesWf s) : OutWf (execLdl sz d a imm s) := by
  simp only [execLdl]
  refine sized_wf h (fun hu => ite_outWf (result_wf (logPa_wf hu)) ?_)
  split
  · exact result_wf (setMe_wf ((discardStep_wf (loadStep_wf hu)).some ‹_›))
  · exact waitTurn_wf hu

theorem execPref_wf {a b imm s} (h : memoriesWf s) : OutWf (execPref a b imm s) := by
  simp only [execPref]
  split
  · exact skip_wf h
  · split
    · split
      · exact skip_wf (foldl_wf (fun hu => ite_wf (logPa_wf hu) hu) h)
      · exact skip_wf h
    · exact skip_wf h

theorem State.touchLines_wf {s ls} (h : memoriesWf s) : OptWf (s.touchLines ls) := by
  induction ls generalizing s with
  | nil => exact OptWf_some h
  | cons l ls ih =>
    simp only [State.touchLines]
    split
    · exact ih ((touch_wf h).some ‹_›)
    · exact OptWf_none

theorem State.rangeOp_wf {s need whole a b imm act} (h : memoriesWf s) (hact : ∀ {x t}, memoriesWf t → OutWf
    (act x t)) :
    OutWf (s.rangeOp need whole a b imm act) := by
  simp only [State.rangeOp]
  split
  · exact skip_wf h
  · split
    · exact trap_wf h
    · split
      · exact trap_wf h
      · exact (translate_wf h).wait ‹_›
      · split
        · exact skip_wf (logPa_wf (setMe_wf ((translate_wf h).ok ‹_›)))
        · split
          · exact hact ((touchLines_wf (setMe_wf ((translate_wf h).ok ‹_›))).some ‹_›)
          · exact waitTurn_wf (setMe_wf ((translate_wf h).ok ‹_›))

theorem State.discardLines_wf {s ls} (h : memoriesWf s) : OptWf (s.discardLines ls) := by
  induction ls generalizing s with
  | nil => exact OptWf_some h
  | cons l ls ih =>
    simp only [State.discardLines]
    split
    · exact ih (setMe_wf ((discardStep_wf h).some ‹_›))
    · exact OptWf_none

theorem execDiscard_wf {a b imm s} (h : memoriesWf s) : OutWf (execDiscard a b imm s) := by
  simp only [execDiscard]
  refine rangeOp_wf h (fun hu => ?_)
  split
  · exact skip_wf ((discardLines_wf hu).some ‹_›)
  · exact waitTurn_wf hu

theorem State.atomic_wf {s d n ea f} (h : memoriesWf s) : OutWf (s.atomic d n ea f) := by
  simp only [State.atomic]
  refine sized_wf h (fun hu => ite_outWf (result_wf (logPa_wf hu)) (ite_outWf ?_ ?_))
  · split
    · exact result_wf (placeLine_wf (setMe_wf ((amoStep_wf hu).some ‹_›)))
    · exact waitTurn_wf hu
  · split
    · exact result_wf ((homeAmo_wf hu).some ‹_›)
    · exact waitTurn_wf hu

theorem execAmo_wf {fn dbl d a b imm s} (h : memoriesWf s) : OutWf (execAmo fn dbl d a b imm s) := atomic_wf h

theorem execCas_wf {dbl d a b c imm s} (h : memoriesWf s) : OutWf (execCas dbl d a b c imm s) := atomic_wf h

theorem State.fetch_wf {s} (h : memoriesWf s) : Fetched.Wf s.fetch := by
  simp only [State.fetch]
  split
  · exact trap_wf h
  · exact (translate_wf h).wait ‹_›
  · exact peek_wf (setMe_wf ((translate_wf h).ok ‹_›))

/-! ### Machine/RootJob -/

theorem State.issueJob_wf {s e d a} (h : memoriesWf s) : OutWf (s.issueJob e d a) := by
  simp only [State.issueJob]
  split
  · exact trap_wf h
  · refine sized_wf h (fun hu => ?_)
    split
    · exact result_wf hu
    · exact result_wf (setCopyJob_wf (loadTarget_wf hu))

theorem execJwait_wf {e all d n s} (h : memoriesWf s) : OutWf (execJwait e all d n s) := by
  simp only [execJwait]
  split
  · exact ite_outWf (result_wf (setMe_wf (setEngine_wf h))) (defer_wf h)
  · exact ite_outWf (result_wf (setMe_wf h)) (defer_wf h)

/-! ### Machine/RootLaunch -/

theorem State.counterLoad_wf {s d pa} (h : memoriesWf s) : OutWf (s.counterLoad d pa) := by
  simp only [State.counterLoad]
  split
  · exact result_wf (logPa_wf h)
  · have hu := loadLatest_wf (T := s.myTower) (pts := s.me.pts) (pa := pa) (n := 8) h
    exact result_wf (placeLine_wf (setMe_wf hu))

theorem execCntadd_wf {d a b s} (h : memoriesWf s) : OutWf (execCntadd d a b s) := by
  simp only [execCntadd]
  refine sized_wf h (fun hu => ite_outWf (result_wf (logPa_wf hu)) ?_)
  split
  · exact result_wf (placeLine_wf (setMe_wf ((amoStep_wf hu).some ‹_›)))
  · exact waitTurn_wf hu

theorem execLarm_wf {res d a s} (h : memoriesWf s) : OutWf (execLarm res d a s) := by
  simp only [execLarm]
  split
  · exact result_wf h
  · exact result_wf h
  · exact (arm_wf h).wait ‹_›
  · exact result_wf ((arm_wf h).ok ‹_›)

theorem execCancel_wf {lv d a s} (h : memoriesWf s) : OutWf (execCancel lv d a s) := by
  simp only [execCancel]
  split
  · exact ite_outWf (between_wf (setMe_wf h)) (result_wf (setMe_wf h))
  · exact ite_outWf (between_wf (cancel_wf h)) (result_wf (cancel_wf h))

theorem execBand_wf {d a s} (h : memoriesWf s) : OutWf (execBand d a s) := by
  simp only [execBand]
  split <;> exact result_wf h

theorem execScrollst_wf {d a row s} (h : memoriesWf s) : OutWf (execScrollst d a row s) := by
  simp only [execScrollst]
  split <;> exact result_wf h

theorem State.cfgBetween_wf {s d a b row data pts} (h : memoriesWf s) : OutWf (s.cfgBetween d a b row data pts) :=
  between_wf (setMe_wf h)

theorem State.cfgEnter_wf {s l bd r fs} (h : memoriesWf s) : memoriesWf (s.cfgEnter l bd r fs) :=
  sendStage_wf (onBand_wf h)

theorem State.cfgFrame_wf {s d a b row l bd data clk} (h : memoriesWf s) :
    OutWf (s.cfgFrame d a b row l bd data clk) := by
  simp only [State.cfgFrame]
  split
  · exact trap_wf (setMe_wf (setMe_wf h))
  · exact cfgBetween_wf ((translate_wf (setMe_wf h)).wait ‹_›)
  · split
    · exact cfgEnter_wf (loadTarget_wf (setMe_wf ((translate_wf (setMe_wf h)).ok ‹_›)))
    · split
      · exact result_wf (onBand_wf (loadTarget_wf (setMe_wf ((translate_wf (setMe_wf h)).ok ‹_›))))
      · exact cfgBetween_wf (loadTarget_wf (setMe_wf ((translate_wf (setMe_wf h)).ok ‹_›)))

theorem execCfgload_wf {d a b row s} (h : memoriesWf s) : OutWf (execCfgload d a b row s) := by
  simp only [execCfgload]
  split
  · exact trap_wf (ite_wf (setMe_wf h) h)
  · split
    · exact result_wf (ite_wf (setMe_wf h) h)
    · split
      · exact result_wf (ite_wf (setMe_wf h) h)
      · split
        · split
          · exact defer_wf (onBand_wf (ite_wf (setMe_wf h) h))
          · exact defer_wf (ite_wf (setMe_wf h) h)
        · split
          · exact result_wf (ite_wf (setMe_wf h) h)
          · split
            · exact defer_wf (ite_wf (setMe_wf h) h)
            · split
              · split
                · exact ite_outWf (result_wf (onBand_wf (setMe_wf h))) (setMe_wf h)
                · exact ite_outWf (result_wf (onBand_wf h)) h
              · exact cfgFrame_wf (ite_wf (setMe_wf h) h)

theorem State.startRelatch_wf {s asid} (h : memoriesWf s) : memoriesWf (s.startRelatch asid) := by
  simp only [State.startRelatch]
  refine foldl_wf (fun hu => onBand_wf ?_) h
  split
  · exact ite_wf (dropBases_wf hu) hu
  · exact hu

theorem execRelatch_wf {d s} (h : memoriesWf s) : OutWf (execRelatch d s) := by
  simp only [execRelatch]
  split
  · exact ite_outWf (result_wf (setMe_wf (update_wf h))) (setMe_wf h)
  · split
    · exact result_wf (setMe_wf (update_wf (startRelatch_wf h)))
    · exact setMe_wf (startRelatch_wf h)

theorem State.invalidate_wf {s scope asid va} (h : memoriesWf s) : memoriesWf (s.invalidate scope asid va) := h

theorem execScratchWriteArrival_wf {i s} (h : memoriesWf s) : OutWf (execScratchWriteArrival i s) := by
  simp only [execScratchWriteArrival]
  split
  · exact ite_outWf (arrive_wf (update_wf h)) h
  · exact h

theorem execTwigSwitchWrite_wf {i s} (h : memoriesWf s) : OutWf (execTwigSwitchWrite i s) := by
  simp only [execTwigSwitchWrite]
  split
  · exact ite_outWf (twigArrive_wf (update_wf h)) h
  · exact h

/-! ### Machine/RootLeaf -/

theorem execLld_wf {sz d a imm s} (h : memoriesWf s) : OutWf (execLld sz d a imm s) := by
  simp only [execLld]
  split
  · exact trap_wf h
  · exact ite_outWf (setMe_wf (myDrain_wf h)) (defer_wf (myDrain_wf h))

theorem execLst_wf {sz a b imm s} (h : memoriesWf s) : OutWf (execLst sz a b imm s) := by
  simp only [execLst]
  split
  · exact trap_wf h
  · exact skip_wf (update_wf h)

theorem State.runAccess_wf {s i} (h : memoriesWf s) : OptOutWf (s.runAccess i) := by
  simp only [State.runAccess]
  split
  · exact OptOutWf_some (execLld_wf h)
  · exact OptOutWf_some (execLst_wf h)
  · exact OptOutWf_some (execLd_wf h)
  · exact OptOutWf_some (execSt_wf h)
  · exact OptOutWf_some (execLdl_wf h)
  · exact OptOutWf_some (execDiscard_wf h)
  · exact OptOutWf_some (execAmo_wf h)
  · exact OptOutWf_some (execCas_wf h)
  · exact OptOutWf_none

theorem State.completes_wf {s i} (h : memoriesWf s) : OptWf (s.completes i) := by
  simp only [State.completes]
  split
  · split
    · exact OptWf_some ((runAccess_wf h).next ‹_›)
    · exact OptWf_none
  · exact OptWf_none

theorem State.runAhead_wf {s xs y} (h : memoriesWf s) : memoriesWf (s.runAhead xs y) := by
  simp only [State.runAhead]
  split
  · split
    · split
      · split
        · exact setMe_wf ((completes_wf (setMe_wf h)).some ‹_›)
        · exact h
      · exact h
    · split
      · split
        · exact setMe_wf ((completes_wf (setMe_wf h)).some ‹_›)
        · exact h
      · exact h
    · split
      · split
        · exact setMe_wf ((completes_wf (setMe_wf h)).some ‹_›)
        · exact h
      · exact h
  · exact h

/-! ### Machine/RootStream -/

theorem State.checkLines_wf {s need vas} (h : memoriesWf s) : Lines.Wf (s.checkLines need vas) := by
  induction vas generalizing s with
  | nil => exact h
  | cons va vas ih =>
    simp only [State.checkLines]
    split
    · exact trap_wf h
    · split
      · exact trap_wf h
      · split
        · exact trap_wf h
        · exact (translate_wf h).wait ‹_›
        · split
          · exact (ih (setMe_wf ((translate_wf h).ok ‹_›))).ok ‹_›
          · exact ih (setMe_wf ((translate_wf h).ok ‹_›))

theorem State.fillPort_wf {s cl b k data} (h : memoriesWf s) : memoriesWf (s.fillPort cl b k data) :=
  onCluster_wf (myDrain_wf h)

theorem State.sinLine_wf {s d a n k xs data} (h : memoriesWf s) : OutWf (s.sinLine d a n k xs data) := by
  simp only [State.sinLine]
  split
  · exact result_wf (fillPort_wf h)
  · split
    · exact result_wf (fillPort_wf (setMe_wf (loadTarget_wf h)))
    · exact between_wf (loadTarget_wf h)

theorem execSin_wf {d a n s} (h : memoriesWf s) : OutWf (execSin d a n s) := by
  simp only [execSin]
  split
  · exact sinLine_wf h
  · split
    · exact result_wf h
    · split
      · exact result_wf h
      · split
        · exact (checkLines_wf h).trap ‹_›
        · exact (checkLines_wf h).wait ‹_›
        · exact sinLine_wf ((checkLines_wf h).ok ‹_›)

theorem execSconst_wf {d a n s} (h : memoriesWf s) : OutWf (execSconst d a n s) := by
  simp only [execSconst]
  split
  · exact result_wf h
  · split
    · exact result_wf h
    · exact result_wf (fillPort_wf h)

theorem State.emptyPort_wf {s cl b k} (h : memoriesWf s) : memoriesWf (s.emptyPort cl b k) :=
  onCluster_wf (myDrain_wf h)

theorem State.soutLine_wf {s d a n k xs data} (h : memoriesWf s) : OutWf (s.soutLine d a n k xs data) := by
  simp only [State.soutLine]
  split
  · exact result_wf (emptyPort_wf h)
  · split
    · exact waitTurn_wf h
    · split
      · exact result_wf (emptyPort_wf (setMe_wf ((storeTarget_wf h).some ‹_›)))
      · exact between_wf ((storeTarget_wf h).some ‹_›)

theorem execSout_wf {d a n s} (h : memoriesWf s) : OutWf (execSout d a n s) := by
  simp only [execSout]
  split
  · exact soutLine_wf h
  · split
    · exact result_wf h
    · split
      · exact result_wf h
      · split
        · exact (checkLines_wf h).trap ‹_›
        · exact (checkLines_wf h).wait ‹_›
        · exact soutLine_wf (setMe_wf (myDrain_wf ((checkLines_wf h).ok ‹_›)))

theorem execSeos_wf {d n s} (h : memoriesWf s) : OutWf (execSeos d n s) := by
  simp only [execSeos]
  split
  · exact result_wf h
  · exact result_wf (onCluster_wf h)

theorem execSmark_wf {d n s} (h : memoriesWf s) : OutWf (execSmark d n s) := by
  simp only [execSmark]
  split
  · exact result_wf h
  · exact result_wf (onCluster_wf h)

theorem execBinit_wf {d a hn s} (h : memoriesWf s) : OutWf (execBinit d a hn s) := by
  simp only [execBinit]
  split
  · exact result_wf h
  · exact ite_outWf (result_wf h) (result_wf (onCluster_wf h))

theorem execBnote_wf {dir d hn k n s} (h : memoriesWf s) : OutWf (execBnote dir d hn k n s) := by
  simp only [execBnote]
  split
  · exact result_wf (post_wf (setCluster_wf h))
  · exact result_wf (setCluster_wf h)

theorem execTset_wf {d a b t q s} (h : memoriesWf s) : OutWf (execTset d a b t q s) := by
  simp only [execTset]
  split
  · exact result_wf h
  · exact ite_outWf (result_wf h) (result_wf (onCluster_wf h))

theorem exec_wf {i s} (h : memoriesWf s) : OutWf (exec i s) := by
  cases i
  case add | sub | mul | mulh | div | rem | and | or | xor | andn | shl | shr | rol | slt | min | max | lea =>
    simp only [exec, execAdd, execSub, execMul, execMulh, execDiv, execRem, execAnd, execOr, execXor, execAndn,
      execShl, execShr, execRol, execSlt, execMin, execMax, execLea]
    exact alu2_wf h
  case clz | ctz | popc | sext | zext | addi | andi | ori | xori | shli | shri | slti | lih =>
    simp only [exec, execClz, execCtz, execPopc, execSext, execZext, execAddi, execAndi, execOri, execXori, execShli,
      execShri, execSlti, execLih]
    exact alu1_wf h
  case li | pstat | tstat | aread | astat | jstat =>
    simp only [exec, execLi, execPstat, execTstat, execAread, execAstat, execJstat]
    exact result_wf h
  case beq | bne | blt | bge | jmp =>
    simp only [exec, execBeq, execBne, execBlt, execBge, execJmp]
    exact branch_wf h
  case jal | tend | cpri | cmask | timer =>
    simp only [exec, execJal, execTend, execCpri, execCmask, execTimer]
    exact setMe_wf h
  case jr | eret =>
    simp only [exec, execJr, execEret]
    exact ite_outWf (setMe_wf h) (trap_wf h)
  case bwaitf | bwaite =>
    simp only [exec, execBwaitf, execBwaite]
    exact ite_outWf (result_wf h) (defer_wf h)
  case xjob | pjob =>
    simp only [exec, execXjob, execPjob]
    exact issueJob_wf h
  case trap | brk =>
    simp only [exec, execTrap, execBrk]
    exact trap_wf h
  case syswr | sysClockWrite | sysCycleWrite =>
    simp only [exec, execSyswr, execSysClockWrite, execSysCycleWrite]
    exact sysWriteExec_wf h
  case iadd | isub | iadds | imul | imulh | imad | ineg | iabs | imin | imax | ishl | ishr | irol | cellAnd
    | cellOr | cellXor | cellAndn | cellPopc | cellClz | cellCtz | brev | bfx | bfi | icmp | padd | psub | pmin
    | pmax | pmulH | pdot4 | pdot2 | fadd | fsub | fmul | ffma | ffms | fnma | ftriad | fmin | fmax | fminp | fmaxp
    | fabs | fneg | fsgn | fcmp | fclass | frcp | frsq | fsqrt | fexp2 | flog2 | ftanh | fsigm | fsinpi | fcospi
    | bfma2 | hfma2 | fdot2b | cvt | cvti | cvtf | rtenc | rtdec | sel =>
    simp only [exec, execIadd, execIsub, execIadds, execImul, execImulh, execImad, execIneg, execIabs, execImin,
      execImax, execIshl, execIshr, execIrol, execCellAnd, execCellOr, execCellXor, execCellAndn, execCellPopc,
      execCellClz, execCellCtz, execBrev, execBfx, execBfi, execIcmp, execPadd, execPsub, execPmin, execPmax,
      execPmulH, execPdot4, execPdot2, execFadd, execFsub, execFmul, execFfma, execFfms, execFnma, execFtriad,
      execFmin, execFmax, execFminp, execFmaxp, execFabs, execFneg, execFsgn, execFcmp, execFclass, execFrcp,
      execFrsq, execFsqrt, execFexp2, execFlog2, execFtanh, execFsigm, execFsinpi, execFcospi, execBfma2, execHfma2,
      execFdot2b, execCvt, execCvti, execCvtf, execRtenc, execRtdec, execSel]
    exact laneOp_wf h
  case cvtsr | lidx | gate | accrun | rmaxs | count =>
    simp only [exec, execCvtsr, execLidx, execGate, execAccrun, execRmaxs, execCount]
    exact fire_wf h
  case lperm | lrot | lbcast | lpack | lexpand | lsort | lmatch =>
    simp only [exec, execLperm, execLrot, execLbcast, execLpack, execLexpand, execLsort, execLmatch]
    exact moveOp_wf h
  case lscan | lred =>
    simp only [exec, execLscan, execLred]
    exact foldOp_wf h
  case pass | const | drop | onmark =>
    simp only [exec, execPass, execConst, execDrop, execOnmark]
    exact streamOp_wf h
  case fresumeRetry | fresumeSkip =>
    simp only [exec, execFresumeRetry, execFresumeSkip]
    exact ite_wf (fresume_wf h) h
  case haltCore | releaseCore | startCore =>
    simp only [exec, execHaltCore, execReleaseCore, execStartCore]
    exact ite_outWf (requestDone_wf (setCore_wf h)) h
  case freezeLaunch | thawLaunch =>
    simp only [exec, execFreezeLaunch, execThawLaunch]
    exact freeze_wf h
  case packageFence | packageUnfence =>
    simp only [exec, execPackageFence, execPackageUnfence]
    exact fenceMove_wf h
  case towerLinkBypass | linkLaneRepair =>
    simp only [exec, execTowerLinkBypass, execLinkLaneRepair]
    exact ite_outWf h (logTower_wf (update_wf h))
  case hostArm | hostBar2Access =>
    simp only [exec, execHostArm, execHostBar2Access]
    exact hostRequest_wf h
  case donePop | powerSample | thermalClockStep =>
    simp only [exec, execDonePop, execPowerSample, execThermalClockStep]
    exact h
  case powerOn | coldReset =>
    simp only [exec, execPowerOn, execColdReset]
    exact powerOn_wf
  case ld => exact execLd_wf h
  case st => exact execSt_wf h
  case ldl => exact execLdl_wf h
  case pref => exact execPref_wf h
  case discard => exact execDiscard_wf h
  case crwb =>
    simp only [exec, execCrwb]
    exact rangeOp_wf h (fun hu => skip_wf (foldl_wf writeBackLine_wf hu))
  case lld => exact execLld_wf h
  case lst => exact execLst_wf h
  case amo => exact execAmo_wf h
  case cas => exact execCas_wf h
  case fenceLeaf =>
    simp only [exec, execFenceLeaf]
    exact skip_wf (twigPerform_wf h)
  case lfence =>
    simp only [exec, execLfence]
    exact skip_wf (drainPosted_wf h)
  case sin => exact execSin_wf h
  case sout => exact execSout_wf h
  case sconst => exact execSconst_wf h
  case seos => exact execSeos_wf h
  case smark => exact execSmark_wf h
  case binit => exact execBinit_wf h
  case badvp =>
    simp only [exec, execBadvp]
    exact result_wf (setCluster_wf (myDrain_wf h))
  case badvc =>
    simp only [exec, execBadvc]
    exact result_wf (setMe_wf (setCluster_wf (myDrain_wf h)))
  case bnote => exact execBnote_wf h
  case tset => exact execTset_wf h
  case aclr =>
    simp only [exec, execAclr]
    exact skip_wf (onCluster_wf h)
  case jwait => exact execJwait_wf h
  case lpatch =>
    simp only [exec, execLpatch]
    exact result_wf (patch_wf h)
  case larm => exact execLarm_wf h
  case cancel => exact execCancel_wf h
  case cntrd =>
    simp only [exec, execCntrd]
    exact sized_wf h counterLoad_wf
  case cntwait =>
    simp only [exec, execCntwait]
    exact sized_wf h (fun hu => ite_outWf (counterLoad_wf hu) (defer_wf (logUnbacked_wf hu)))
  case cntadd => exact execCntadd_wf h
  case cntnote =>
    simp only [exec, execCntnote]
    exact sized_wf h (fun hu => ite_outWf (result_wf (post_wf (logUnbacked_wf hu))) (ite_outWf (result_wf
      (logUnbacked_wf hu)) (result_wf (setMe_wf (logUnbacked_wf hu)))))
  case hold => exact execHold_wf h
  case cbind =>
    simp only [exec, execCbind]
    exact ite_outWf (trap_wf h) (setMe_wf h)
  case csend => exact execCsend_wf h
  case cfgload => exact execCfgload_wf h
  case band => exact execBand_wf h
  case scrollst => exact execScrollst_wf h
  case relatch => exact execRelatch_wf h
  case sysrd =>
    simp only [exec, execSysrd]
    exact ite_outWf (trap_wf h) (result_wf (sysRead_wf h))
  case tlbinv =>
    simp only [exec, execTlbinv]
    exact ite_outWf (skip_wf (invalidate_wf h)) (trap_wf h)
  case nop =>
    simp only [exec, execNop]
    exact skip_wf h
  case clock =>
    simp only [exec, execClock]
    exact result_wf (noteClock_wf (setMe_wf h))
  case forfeit => exact execForfeit_wf h
  case waypartSelect =>
    simp only [exec, execWaypartSelect]
    exact waypartExec_wf h setMe_wf
  case waypartRepartition =>
    simp only [exec, execWaypartRepartition]
    exact waypartExec_wf h waypartWrite_wf
  case repartitionComplete =>
    simp only [exec, execRepartitionComplete]
    exact repartitionDone_wf h
  case taskStart => exact execTaskStart_wf h
  case taskResume => exact execTaskResume_wf h
  case channelMessageArrival => exact execChannelMessageArrival_wf h
  case timerExpiry => exact execTimerExpiry_wf h
  case faultRecordWrite => exact execFaultRecordWrite_wf h
  case pack => exact execPack_wf h
  case unpack => exact execUnpack_wf h
  case steer => exact execSteer_wf h
  case merge => exact execMerge_wf h
  case loop => exact execLoop_wf h
  case delay => exact execDelay_wf h
  case endTokenAlign => exact execEndTokenAlign_wf h
  case endTokenAtUnit => exact execEndTokenAtUnit_wf h
  case switchApply => exact execSwitchApply_wf h
  case configFrame => exact execConfigFrame_wf h
  case imageEnd => exact execImageEnd_wf h
  case routerTokenHop => exact execRouterTokenHop_wf h
  case swReplToken => exact execSwReplToken_wf h
  case linkSpill => exact execLinkSpill_wf h
  case skipPark => exact execSkipPark_wf h
  case parkedTokenRelease => exact execParkedTokenRelease_wf h
  case relatchToken => exact execRelatchToken_wf h
  case agRead => exact execAgRead_wf h
  case agWrite => exact execAgWrite_wf h
  case agGather => exact execAgGather_wf h
  case agScatter => exact execAgScatter_wf h
  case agScatadd => exact execAgScatadd_wf h
  case agBin => exact execAgBin_wf h
  case agAtom => exact execAgAtom_wf h
  case agConv => exact execAgConv_wf h
  case muSourceRecord => exact execMuSourceRecord_wf h
  case muSinkRecord => exact execMuSinkRecord_wf h
  case swVertTile => exact execSwVertTile_wf h
  case slotFillComplete => exact execSlotFillComplete_wf h
  case slotDrainComplete =>
    simp only [exec, execSlotDrainComplete]
    exact ite_outWf (setCluster_wf h) h
  case planeLoad => exact execPlaneLoad_wf h
  case planeSwap => exact execPlaneSwap_wf h
  case arrayPass => exact execArrayPass_wf h
  case arrayRescale => exact execArrayRescale_wf h
  case accumulatorDrain => exact execAccumulatorDrain_wf h
  case columnRepair => exact execColumnRepair_wf h
  case copyJobStart => exact execCopyJobStart_wf h
  case copyJobTile => exact execCopyJobTile_wf h
  case drainTile => exact execDrainTile_wf h
  case copyJobComplete => exact execCopyJobComplete_wf h
  case ownerForward => exact execOwnerForward_wf h
  case writeBack =>
    simp only [exec, execWriteBack]
    exact ite_wf (writeBackLine_wf h) h
  case evictionNotice =>
    simp only [exec, execEvictionNotice]
    exact ite_wf (leaveRemote_wf h) h
  case leaseRenewal =>
    simp only [exec, execLeaseRenewal]
    exact ite_outWf h (noteClock_wf (setLine_wf (ite_wf h (correct_wf h))))
  case treeBankEviction => exact execTreeBankEviction_wf h
  case warmPrefetch => exact execWarmPrefetch_wf h
  case scrubVisit => exact execScrubVisit_wf h
  case turnAdvance =>
    simp only [exec, execTurnAdvance]
    exact ite_outWf (warmReady_wf (update_wf h)) h
  case quiescenceReport => exact execQuiescenceReport_wf h
  case deadlockDetected => exact execDeadlockDetected_wf h
  case launchEligible => exact execLaunchEligible_wf h
  case launchDispatch => exact execLaunchDispatch_wf h
  case starvationReserve => exact execStarvationReserve_wf h
  case launchComplete => exact execLaunchComplete_wf h
  case barrierComplete => exact execBarrierComplete_wf h
  case rowLoadStart => exact execRowLoadStart_wf h
  case rowLoadComplete => exact execRowLoadComplete_wf h
  case rowDrained => exact execRowDrained_wf h
  case rowSaveStart => exact execRowSaveStart_wf h
  case rowSaveComplete => exact execRowSaveComplete_wf h
  case rowEosRetire => exact execRowEosRetire_wf h
  case preemptJob => exact execPreemptJob_wf h
  case drainWindowExpiry => exact execDrainWindowExpiry_wf h
  case resumeJob => exact execResumeJob_wf h
  case launchResumePlace => exact execLaunchResumePlace_wf h
  case scanWrite =>
    simp only [exec, execScanWrite]
    exact ite_wf (scanPut_wf h) h
  case jobAdmit => exact execJobAdmit_wf h
  case jobRetire => exact execJobRetire_wf h
  case fenceMessage =>
    simp only [exec, execFenceMessage]
    exact ite_outWf h (sendFences_wf (applyFencing_wf h))
  case graftPortDown =>
    simp only [exec, execGraftPortDown]
    exact ite_outWf (logTower_wf (setGport_wf h)) h
  case bankOffline => exact execBankOffline_wf h
  case nvmeDmaWrite =>
    simp only [exec, execNvmeDmaWrite]
    exact ite_outWf (hostRequest_wf h) h
  case celogPop =>
    simp only [exec, execCelogPop]
    exact celogPop_wf h
  case attestationRequest =>
    simp only [exec, execAttestationRequest]
    exact attest_wf h
  case attestationComplete =>
    simp only [exec, execAttestationComplete]
    exact ite_outWf (update_wf h) h
  case deviceRegisterWrite =>
    simp only [exec, execDeviceRegisterWrite]
    exact ite_wf (regWrite_wf h) h
  case functionLevelReset =>
    simp only [exec, execFunctionLevelReset]
    exact update_wf (foldl_wf cancel_wf h)
  case warmReset => exact execWarmReset_wf h
  case scratchWriteArrival => exact execScratchWriteArrival_wf h
  case twigSwitchWrite => exact execTwigSwitchWrite_wf h
  case graftPortUp =>
    simp only [exec, execGraftPortUp]
    exact ite_outWf (setGport_wf h) h

/-! ### Machine/Select -/

theorem State.nextWord_wf {s} (h : memoriesWf s) : Chosen.Wf s.nextWord := by
  simp only [State.nextWord]
  split
  · exact (fetch_wf h).trap ‹_›
  · exact (fetch_wf h).wait ‹_›
  · split
    · exact (fetch_wf h).word ‹_›
    · exact trap_wf ((fetch_wf h).word ‹_›)
    · split <;> exact trap_wf ((fetch_wf h).word ‹_›)

theorem State.coreTurn_wf {s n} (h : memoriesWf s) : Chosen.Wf (s.coreTurn n) := by
  simp only [State.coreTurn]
  split
  · split
    · exact h
    · split
      · split
        · exact h
        · split
          · exact setMe_wf (update_wf h)
          · exact nextWord_wf (update_wf h)
      · split
        · split <;> exact h
        · exact h
  · trivial

theorem State.wordsOn_wf {s n} (h : memoriesWf s) : OptPairWf (s.wordsOn n) := by
  induction n generalizing s with
  | zero => exact OptPairWf_some h
  | succ n ih =>
    simp only [State.wordsOn]
    split
    · split
      · exact OptPairWf_map id (ih (setMe_wf ((fetch_wf h).word ‹_›)))
      · exact OptPairWf_none
    · exact OptPairWf_none

theorem State.aheadTurn_wf {s n k} (h : memoriesWf s) : Chosen.Wf (s.aheadTurn n k) := by
  simp only [State.aheadTurn]
  split
  · split
    · exact h
    · split
      · exact runAhead_wf (setMe_wf ((wordsOn_wf (update_wf h)).some ‹_›))
      · exact h
  · trivial

theorem State.unitTurn_wf {s cl u} (h : memoriesWf s) : Chosen.Wf (s.unitTurn cl u) := by
  simp only [State.unitTurn]
  split
  · split <;> exact h
  · trivial

theorem State.select_wf {s} (h : memoriesWf s) : Chosen.Wf s.select := by
  simp only [State.select]
  split
  · exact coreTurn_wf h
  · exact coreTurn_wf (update_wf h)
  · exact aheadTurn_wf (update_wf h)
  · exact unitTurn_wf (update_wf h)
  · exact h

/-! ### Machine/Settle -/

theorem State.sendNotes_wf {s cl b} (h : memoriesWf s) : memoriesWf (s.sendNotes cl b) := by
  simp only [State.sendNotes]
  refine foldl_wf (fun hu => ?_) h
  split
  · exact post_wf (setCluster_wf hu)
  · exact hu

theorem State.bufferNotes_wf {s} (h : memoriesWf s) : memoriesWf s.bufferNotes :=
  foldl_wf (fun hu => onCluster_wf (sendNotes_wf hu)) h

theorem State.counterNotes_wf {before s : State} (h : memoriesWf s) : memoriesWf (before.counterNotes s) := by
  simp only [State.counterNotes]
  split
  · exact h
  · exact update_wf (foldl_wf post_wf h)

theorem State.wakeTasks_wf {s before : State} {moved} (h : memoriesWf s) : memoriesWf (s.wakeTasks before moved) := h

theorem State.preemptEnd_wf {s} (h : memoriesWf s) : memoriesWf s.preemptEnd := by
  simp only [State.preemptEnd]
  split
  · exact ite_wf (update_wf (requestDone_wf h)) h
  · exact h

theorem State.settle_wf {before after : State} (h : memoriesWf after) : memoriesWf (before.settle after) :=
  preemptEnd_wf (wakeTasks_wf (update_wf (counterNotes_wf (bufferNotes_wf h))))

/-! ### Machine/Step -/

theorem step_wf {s} (h : memoriesWf s) : OutWf (step s) := by
  simp only [step]
  split
  · trivial
  · exact settle_wf ((select_wf h).done ‹_›)
  · split
    · exact settle_wf ((exec_wf ((select_wf h).run ‹_›)).next ‹_›)
    · trivial
    · trivial

end Sys2Proof.Machine

/-- Settles O53: every function that a step is made of keeps the canonical form, up to `step_wf`. -/
theorem stepKeepsMemories : Obligations.StepKeepsMemories := by
  unfold Obligations.StepKeepsMemories
  exact fun s t h e => (step_wf h).next e

end

/-! # O54: what reset leaves -/

section
open Sys2Proof Sys2Proof.Machine Sys2Proof.Claims
namespace Sys2Proof.Machine

theorem State.line_reset (l : Nat) : State.reset.line l = .reset := rfl

theorem State.core_reset (n : Nat) : State.reset.core n = .reset := rfl

theorem Core.chan_reset (k : Nat) : Core.reset.chan k = .reset := rfl

theorem Core.get_reset (r : Reg) : Core.reset.get r = 0 := by
  unfold Core.get
  split
  · rfl
  · exact Vector.getElem_replicate _

end Sys2Proof.Machine

/-- Settles O54: the reset state lists nothing, and what is not listed has its reset value. -/
theorem resetState : Obligations.ResetState := by
  unfold Obligations.ResetState
  have lines (l : Nat) : let x := State.reset.line l
      x.st = .i ∧ x.owner = 0x3FF ∧ x.wts = 0 ∧ x.rts = 0 ∧ x.old = [] ∧ x.bad = false ∧ x.word = 0x1FF8 := by
    rw [State.line_reset]
    exact ⟨rfl, rfl, rfl, rfl, rfl, rfl, rfl⟩
  have channels (k : Nat) : (Core.reset.chan k).entry = none ∧ (Core.reset.chan k).mask = false ∧
      (Core.reset.chan k).pri = 0 ∧ (Core.reset.chan k).queue = [] ∧ (Core.reset.chan k).deferred = none := by
    rw [Core.chan_reset]
    exact ⟨rfl, rfl, rfl, rfl, rfl⟩
  refine ⟨State.reset_wf, fun _ => ⟨rfl, rfl, rfl⟩, rfl, lines, fun n => ?_, rfl, rfl, rfl, rfl, rfl, rfl⟩
  rw [State.core_reset]
  exact ⟨rfl, rfl, Core.get_reset, rfl, rfl, rfl, rfl, rfl, rfl, rfl, rfl, channels⟩

end

/-! # O59: the host and the device registers -/

section
open Sys2Proof Sys2Proof.Machine Sys2Proof.Claims
namespace Sys2Proof.Machine

/-! ## The queue of requests (R376) -/

namespace State

/-- The state with other requests waiting. -/
def withHostq (s : State) (q : List (Nat × HostReq)) : State := { s with hostq := q }

variable {s t : State} {f : Nat} {r : HostReq}

/-- Requests join the others, and the oldest of their function has its turn. -/
theorem hostRequest_eq (s : State) (f : Nat) (rs : List HostReq) :
    s.hostRequest f rs = (s.withHostq (s.hostq ++ rs.map fun r => (f, r))).hostTurn f := rfl

@[simp] theorem withHostq_hostq (s : State) (q : List (Nat × HostReq)) : (s.withHostq q).hostq = q := rfl

theorem withHostq_job (s : State) (q : List (Nat × HostReq)) (n : Nat) : (s.withHostq q).job n = s.job n := rfl

theorem withHostq_poolDue (s : State) (q : List (Nat × HostReq)) (n : Nat) (j : Job) :
    (s.withHostq q).poolDue n j = s.poolDue n j := rfl

/-- The oldest request of a function, at its place in the queue. -/
theorem findIdx_hostq {a b : List (Nat × HostReq)} (ha : ∀ p ∈ a, p.1 ≠ f) :
    (a ++ (f, r) :: b).findIdx? (fun p => p.1 = f) = some a.length := by
  have : a.findIdx? (fun p => decide (p.1 = f)) = none := by simpa using ha
  simp [List.findIdx?_append, List.findIdx?_cons, this]

/-- A request that is done leaves the queue. -/
theorem hostTurn_of_ok {a b : List (Nat × HostReq)} (hq : s.hostq = a ++ (f, r) :: b) (ha : ∀ p ∈ a, p.1 ≠ f)
    (h : s.hostReq f r = .ok () t) (ht : t.hostq = s.hostq) : s.hostTurn f = .next (t.withHostq (a ++ b)) := by
  have rest : t.hostq.eraseIdx a.length = a ++ b := by
    rw [ht, hq, List.eraseIdx_append_of_length_le le_rfl, Nat.sub_self, List.eraseIdx_cons_zero]
  rw [← rest]
  simp [hostTurn, hq, findIdx_hostq ha, h, withHostq]

/-- A request that waits stays in the queue. -/
theorem hostTurn_of_wait {a b : List (Nat × HostReq)} (hq : s.hostq = a ++ (f, r) :: b) (ha : ∀ p ∈ a, p.1 ≠ f)
    (h : s.hostReq f r = .wait t) : s.hostTurn f = .next t := by
  simp [hostTurn, hq, findIdx_hostq ha, h]

/-- A function that has sent nothing has nothing done. -/
theorem hostTurn_of_idle (h : ∀ p ∈ s.hostq, p.1 ≠ f) : s.hostTurn f = .next s := by
  have : s.hostq.findIdx? (fun p => decide (p.1 = f)) = none := by simpa using h
  simp [hostTurn, this]

/-- The only request of a function is done at once. -/
theorem hostRequest_of_ok (hfree : ∀ p ∈ s.hostq, p.1 ≠ f)
    (h : (s.withHostq (s.hostq ++ [(f, r)])).hostReq f r = .ok () t) (ht : t.hostq = s.hostq ++ [(f, r)]) :
    s.hostRequest f [r] = .next (t.withHostq s.hostq) :=
  (hostTurn_of_ok rfl hfree h ht).trans (by rw [List.append_nil])

/-- The only request of a function stays in the queue when it waits. -/
theorem hostRequest_of_wait (hfree : ∀ p ∈ s.hostq, p.1 ≠ f)
    (h : (s.withHostq (s.hostq ++ [(f, r)])).hostReq f r = .wait t) : s.hostRequest f [r] = .next t :=
  hostTurn_of_wait rfl hfree h

end State

/-! ## Bytes through an aperture (R59, R376, R380) -/

/-- What lies within a line is one piece. -/
theorem linePieces_of_line {pa : Nat} {data : List Byte} (h : 0 < data.length) (hl : pa % 128 + data.length ≤ 128) :
    linePieces pa data = [(pa, data)] := by
  have one : (pa % 128 + data.length + 127) / 128 = 1 := by omega
  simp [linePieces, one, List.take_of_length_le (show data.length ≤ 128 - pa % 128 by omega)]

theorem homeOf_lineOf (pa : Nat) : homeOf (128 * lineOf pa) = homeOf pa := by
  simp only [homeOf, lineOf]; omega

namespace State

/-- A line that its own home comes to own enters no other tower's ways (R58). -/
theorem setRecord_home (s : State) (pa : Nat) (new : LineInfo) :
    s.setRecord (homeOf pa) (lineOf pa) new = s.setLine (lineOf pa) new := by
  simp [setRecord, enterRemote, homeOf_lineOf]

theorem correct_data (s : State) (T pa : Nat) : (s.correct T pa).mem = s.mem ∧ (s.correct T pa).hbm = s.hbm := by
  simp only [correct]
  split <;> simp

theorem choose_data (s : State) {n : Nat} (h : 0 < n) : (s.choose n).2.mem = s.mem ∧ (s.choose n).2.hbm = s.hbm :=
  ⟨(congrArg State.mem (s.choose_spec n h).2 :), (congrArg State.hbm (s.choose_spec n h).2 :)⟩

theorem noteClock_data (s : State) (t : Nat) : (s.noteClock t).mem = s.mem ∧ (s.noteClock t).hbm = s.hbm := by
  rw [noteClock_eq]; exact ⟨rfl, rfl⟩

theorem writeBackLine_mem (s : State) (l : Nat) : (s.writeBackLine l).mem = s.mem := by
  simp only [writeBackLine]
  split <;> rfl

theorem noSram_mem (s : State) (l : Nat) : (s.noSram l).mem = s.mem := by
  simp only [noSram]
  split
  · exact writeBackLine_mem s l
  · rfl

theorem LineSteps.hostq {s t : State} (h : s.LineSteps t) : t.hostq = s.hostq := by
  obtain ⟨_, _, _, _, _, _, _, _, _, _, _, rfl, _⟩ := h; rfl

/-- A load of the home agent changes no byte (R19, R67). -/
theorem homeLoad_data (s : State) (pa n : Nat) : (s.homeLoad pa n).2.2.mem = s.mem ∧ (s.homeLoad pa n).2.2.hbm = s.hbm := by
  have latest (t : State) (pts : Nat) : (t.loadLatest (homeOf pa) pts pa n).2.2.mem = t.mem ∧
      (t.loadLatest (homeOf pa) pts pa n).2.2.hbm = t.hbm := by
    simp [loadLatest, setRecord_home, noteClock_data, correct_data]
  have chosen := s.choose_data (Nat.succ_pos ((s.line (lineOf pa)).choices (s.homeClock (pkgOf pa))).length)
  simp only [homeLoad, loadStep]
  split
  · simp [latest, chosen]
  · split <;> simp [latest, chosen]

/-- A store of the home agent that does not pass the end of the turn writes its bytes (R19, R68). -/
theorem homeStore_of_clock {s : State} {pa : Nat} (data : List Byte)
    (h : max (s.homeClock (pkgOf pa)) ((s.line (lineOf pa)).rts + 1) ≤ 0xFFFFFF) :
    ∃ c t, s.homeStore pa data = some (c, t) ∧ t.mem = s.mem.writeN pa data := by
  have step : ∃ c t, s.storeStep (homeOf pa) (s.homeClock (pkgOf pa)) pa data = some (c, t) ∧
      t.mem = s.mem.writeN pa data := by
    have inTurn : ¬ max (s.homeClock (pkgOf pa)) ((s.line (lineOf pa)).rts + 1) > Config.maxClock := Nat.not_lt.2 h
    simp only [storeStep, inTurn, ↓reduceIte, setRecord_home]
    generalize recStore _ _ _ _ _ = record
    refine ⟨_, _, rfl, ?_⟩
    rw [(noteClock_data _ _).1]
    split <;> simp [toHbm, correct_data]
  obtain ⟨c, t, e, hm⟩ := step
  exact ⟨c, (t.noSram (lineOf pa)).setHomeClock (pkgOf pa) c, by rw [homeStore, e]; rfl, (noSram_mem t _).trans hm⟩

/-- What an aperture reaches in a crown window is backed by a scratch way (R59). -/
theorem scratchBacked_of_inbound {s : State} {f x n pa : Nat} {wr : Bool} (h : s.inbound f x n wr = some pa)
    (hw : windowOf pa = .crown) : s.scratchBacked pa = true := by
  simp only [inbound, Option.ite_none_right_eq_some, Bool.and_eq_true, Option.some.injEq] at h
  obtain ⟨⟨_, target⟩, rfl⟩ := h
  rw [hw] at target
  exact (Bool.and_eq_true_iff.1 target).2

section
variable {s : State} {f x pa : Nat} {data : List Byte}

theorem inboundWrite_of_none (h : s.inbound f x data.length true = none) : s.inboundWrite f x data = .ok () s := by
  simp [inboundWrite, h]

theorem inboundWrite_crown (h : s.inbound f x data.length true = some pa) (hw : windowOf pa = .crown) :
    s.inboundWrite f x data = .ok () { s with scratch := s.scratch.writeN pa data } := by
  simp [inboundWrite, h, hw, arrive, scratchBacked_of_inbound h hw]

theorem inboundWrite_unreachable (h : s.inbound f x data.length true = some pa) (hw : windowOf pa = .hbm)
    (hr : s.reachable pa = false) : s.inboundWrite f x data = .wait s := by
  simp [inboundWrite, h, hw, hostTouch, hr]

theorem inboundWrite_hbm (h : s.inbound f x data.length true = some pa) (hw : windowOf pa = .hbm)
    (hr : s.reachable pa = true) (hc : (s.line (lineOf pa)).copy = .held)
    (ht : max (s.homeClock (pkgOf pa)) ((s.line (lineOf pa)).rts + 1) ≤ 0xFFFFFF) :
    ∃ t, s.inboundWrite f x data = .ok () t ∧ t.mem = s.mem.writeN pa data ∧ t.scratch = s.scratch ∧ t.hostq = s.hostq := by
  obtain ⟨c, t, e, hm⟩ := homeStore_of_clock data ht
  have steps := (LineSteps.refl s).homeStore e
  refine ⟨t, ?_, hm, steps.scratch, steps.hostq⟩
  simp [inboundWrite, h, hw, hostTouch, hr, touch_held s pa hc, e]

/-- A read of a line whose copy is held stores nothing, done or waiting. -/
theorem inboundRead_data (n : Nat) (hc : ∀ l, (s.line l).copy = .held) :
    ∃ t, (s.inboundRead f x n = .ok () t ∨ s.inboundRead f x n = .wait t) ∧ t.mem = s.mem ∧ t.hbm = s.hbm ∧
      t.scratch = s.scratch ∧ t.hostq = s.hostq := by
  simp only [inboundRead]
  split
  · exact ⟨s, .inl rfl, rfl, rfl, rfl, rfl⟩
  · rename_i pa _
    split
    · exact ⟨s, .inl rfl, rfl, rfl, rfl, rfl⟩
    · simp only [hostTouch, touch_held s pa (hc _)]
      split
      · exact ⟨s, .inr rfl, rfl, rfl, rfl, rfl⟩
      · obtain ⟨hm, hh⟩ := s.homeLoad_data pa n
        have steps := (LineSteps.refl s).homeLoad pa n
        exact ⟨_, .inl rfl, hm, hh, steps.scratch, steps.hostq⟩

end

end State

/-! ## Requests of a function (R376, R377) -/

namespace State

section
variable {s : State} {g x pa : Nat} {data : List Byte} (hfree : ∀ p ∈ s.hostq, p.1 ≠ g)
include hfree

theorem hostRequest_write_of_none (h : s.inbound g x data.length true = none) :
    s.hostRequest g [.write x data] = .next s := by
  have done := inboundWrite_of_none (s := s.withHostq (s.hostq ++ [(g, .write x data)])) h
  exact (hostRequest_of_ok (r := .write x data) hfree done rfl :)

theorem hostRequest_write_crown (h : s.inbound g x data.length true = some pa) (hw : windowOf pa = .crown) :
    s.hostRequest g [.write x data] = .next { s with scratch := s.scratch.writeN pa data } := by
  have done := inboundWrite_crown (s := s.withHostq (s.hostq ++ [(g, .write x data)])) h hw
  exact (hostRequest_of_ok (r := .write x data) hfree done rfl :)

theorem hostRequest_write_unreachable (h : s.inbound g x data.length true = some pa) (hw : windowOf pa = .hbm)
    (hr : s.reachable pa = false) :
    s.hostRequest g [.write x data] = .next { s with hostq := s.hostq ++ [(g, .write x data)] } :=
  hostRequest_of_wait hfree (inboundWrite_unreachable (s := s.withHostq _) h hw hr)

theorem hostRequest_write_hbm (h : s.inbound g x data.length true = some pa) (hw : windowOf pa = .hbm)
    (hr : s.reachable pa = true) (hc : (s.line (lineOf pa)).copy = .held)
    (ht : max (s.homeClock (pkgOf pa)) ((s.line (lineOf pa)).rts + 1) ≤ 0xFFFFFF) :
    ∃ u, s.hostRequest g [.write x data] = .next u ∧ u.scratch = s.scratch ∧ u.hostq = s.hostq ∧
      u.mem = s.mem.writeN pa data := by
  obtain ⟨t, e, hm, hs, hq⟩ := inboundWrite_hbm (s := s.withHostq (s.hostq ++ [(g, .write x data)])) h hw hr hc ht
  exact ⟨_, hostRequest_of_ok hfree e hq, hs, rfl, hm⟩

/-- The pieces of a read, of which the first has its turn, store nothing. -/
theorem hostRequest_reads (hc : ∀ l, (s.line l).copy = .held) (ps : List (Nat × List Byte)) :
    ∃ u, s.hostRequest g (ps.map fun p => .read p.1 p.2.length) = .next u ∧ u.mem = s.mem ∧ u.hbm = s.hbm ∧
      u.scratch = s.scratch := by
  rw [hostRequest_eq]
  cases ps with
  | nil => exact ⟨_, hostTurn_of_idle (by simpa using hfree), rfl, rfl, rfl⟩
  | cons p ps =>
    generalize hq : s.hostq ++ _ = q
    obtain ⟨t, turn, hm, hh, hs, ht⟩ := inboundRead_data (s := s.withHostq q) (f := g) (x := p.1) p.2.length hc
    rcases turn with done | waits
    · exact ⟨_, hostTurn_of_ok hq.symm hfree done ht, hm, hh, hs⟩
    · exact ⟨t, hostTurn_of_wait hq.symm hfree waits, hm, hh, hs⟩

end

end State

/-! ## Arming (R312, R314, R377) -/

/-- The words of a snapshot behind word 0 are the template's (R312). -/
theorem newLaunch_word_succ (id job : Nat) (ws : List Word) (core : Option Nat) (res : Bool) (start order k : Nat) :
    (newLaunch id job ws core res start order).word (k + 1) = nth ws (k + 1) 0 := by
  simp [Launch.word, newLaunch, nth]

/-- ARMED and STATE of the template are no part of a snapshot's height (R312). -/
theorem newLaunch_height (id job : Nat) (ws : List Word) (core : Option Nat) (res : Bool) (start order : Nat) :
    (newLaunch id job ws core res start order).height = bits (nth ws 0 0) 56 51 := by
  have mask : (~~~(BitVec.ofNat 64 (7 * 2 ^ 61))).toNat >>> 51 % 2 ^ (56 + 1 - 51) = 2 ^ 6 - 1 := by decide
  show bits (nth ws 0 0 &&& ~~~(BitVec.ofNat 64 (7 * 2 ^ 61))) 56 51 = _
  rw [bits, BitVec.toNat_and, Nat.shiftRight_and_distrib, Nat.and_mod_two_pow, mask, Nat.and_two_pow_sub_one_eq_mod,
    Nat.mod_mod]
  rfl

namespace State

variable {s : State} {n t vf : Nat} {v : Word} {j : Job} {ws : List Word}

/-- A snapshot without WAIT_COUNTER waits for nothing (R316). -/
theorem watchCounter_of_zero {l : Launch} (h : l.waitCounter = 0) : s.watchCounter j l = .ok { l with reached := some 0 } s :=
  if_pos h

/-- A launch armed as it should be joins the others, an ended one with its id forgotten (R284). -/
theorem enlist_good (s : State) (n : Nat) (j : Job) (l : Launch) : s.enlist n j l false = { s with
    jobs := s.jobs.set n { j with nextId := (j.nextId + 1) % 2 ^ 32 }
    launches := (s.launches.filter fun x => !(x.job = n && x.id = l.id && x.st == LaunchSt.ended)) ++ [l]
    armed := s.armed + 1 } := rfl

/-- An arm that the pool admits, of a template that is no barrier and waits for no counter (R314, R316). -/
theorem arm_of_room (hj : s.job n = some j) (ht : j.templates[t]? = some ws) (hb : bits (nth ws 0 0) 56 51 ≠ 0)
    (hc : nth ws 6 0 = 0) (hr : s.poolDue n j + j.reserve < j.pooln) :
    ∃ l, s.arm n t false 0 none = .ok j.nextId false (s.enlist n j l false) ∧ l.id = j.nextId ∧ l.job = n ∧
      l.st = .waiting ∧ l.start = 0 ∧ l.core = none ∧ l.res = false ∧ l.words.drop 1 = ws.drop 1 := by
  have barrier : (newLaunch j.nextId n ws none false 0 s.armed).isBarrier = false := by
    rw [Launch.isBarrier, newLaunch_height, decide_eq_false hb]
  have admits : j.admits (s.poolDue n j) false = true := by simpa [Job.admits] using hr
  have counter : (newLaunch j.nextId n ws none false 0 s.armed).waitCounter = 0 := by
    rw [Launch.waitCounter, newLaunch_word_succ, hc]; rfl
  refine ⟨{ newLaunch j.nextId n ws none false 0 s.armed with entry := some (s.freeEntry n), reached := some 0 },
    ?_, rfl, rfl, rfl, rfl, rfl, rfl, rfl⟩
  have watch (entry pq : Option Nat) := watchCounter_of_zero (s := s) (j := j)
    (l := { newLaunch j.nextId n ws none false 0 s.armed with entry := entry, pq := pq }) counter
  simp only [arm, hj, ht, barrier, admits, Bool.not_false, Bool.not_true, Bool.and_false, Bool.false_and, Bool.or_false,
    Bool.false_eq_true, ↓reduceIte, watch]
  rfl

/-- An arm of the host with room (R377). -/
theorem hostArm_of_arm {id : Nat} {t : State} (hz : bits v 63 48 = 0) (hj : s.job (bits v 47 32) = some j) (hv : j.vf = vf)
    (ha : s.arm (bits v 47 32) (bits v 31 0) false 0 none = .ok id false t) :
    s.hostArm vf v = .ok () (t.setArmres vf 0 id) := by
  simp [hostArm, hz, hj, hv, ha]

/-- An arm of a word with a field set that is ZERO, or of a job that the function does not own (R377). -/
theorem hostArm_refused (h : bits v 63 48 ≠ 0 ∨ ∀ j, s.job (bits v 47 32) = some j → j.vf ≠ vf) :
    s.hostArm vf v = .ok () (s.setArmres vf 3 0) := by
  rcases h with h | h
  · simp [hostArm, h]
  · cases hj : s.job (bits v 47 32) with
    | none => simp [hostArm, hj]
    | some j => simp [hostArm, hj, h j hj]

theorem armres_setArmres (s : State) (vf stat id : Nat) :
    (s.setArmres vf stat id).regs.armres.getD vf 0 = BitVec.ofNat 64 (stat * 2 ^ 56 + id % 2 ^ 32) :=
  Table.getD_set_self ..

theorem hostRequest_arm_of_room (hfree : ∀ p ∈ s.hostq, p.1 ≠ vf) (hz : bits v 63 48 = 0)
    (hj : s.job (bits v 47 32) = some j) (hv : j.vf = vf) (ht : j.templates[bits v 31 0]? = some ws)
    (hb : bits (nth ws 0 0) 56 51 ≠ 0) (hc : nth ws 6 0 = 0)
    (hr : s.poolDue (bits v 47 32) j + j.reserve < j.pooln) (hid : j.nextId < 2 ^ 32) :
    ∃ u l, s.hostRequest vf [.arm v] = .next u ∧
      u.launches = (s.launches.filter fun x => !(x.job = bits v 47 32 && x.id = j.nextId && x.st == LaunchSt.ended)) ++ [l] ∧
      l.id = j.nextId ∧ l.job = bits v 47 32 ∧ l.st = .waiting ∧ l.start = 0 ∧ l.core = none ∧ l.res = false ∧
      l.words.drop 1 = ws.drop 1 ∧ u.regs.armres.getD vf 0 = BitVec.ofNat 64 j.nextId ∧ u.hostq = s.hostq ∧
      u.mem = s.mem := by
  rw [← withHostq_job s (s.hostq ++ [(vf, .arm v)])] at hj
  rw [← withHostq_poolDue s (s.hostq ++ [(vf, .arm v)])] at hr
  obtain ⟨l, ha, hl, ljob, lst, lstart, lcore, lres, lwords⟩ := arm_of_room hj ht hb hc hr
  rw [enlist_good] at ha
  have done := hostArm_of_arm hz hj hv ha
  refine ⟨_, l, hostRequest_of_ok (r := .arm v) hfree done rfl, ?_, hl, ljob, lst, lstart, lcore, lres, lwords,
    ?_, rfl, rfl⟩
  · rw [← hl]; rfl
  · exact (armres_setArmres ..).trans (by rw [Nat.zero_mul, Nat.zero_add, Nat.mod_eq_of_lt hid])

theorem hostRequest_arm_refused (hfree : ∀ p ∈ s.hostq, p.1 ≠ vf)
    (h : bits v 63 48 ≠ 0 ∨ ∀ j, s.job (bits v 47 32) = some j → j.vf ≠ vf) :
    ∃ u, s.hostRequest vf [.arm v] = .next u ∧ u.regs.armres.getD vf 0 = BitVec.ofNat 64 (3 * 2 ^ 56) ∧
      u.launches = s.launches :=
  ⟨_, hostRequest_of_ok hfree (hostArm_refused h) rfl, armres_setArmres .., rfl⟩

/-- What a function sends joins behind its earlier write, which has its turn first (R376). -/
theorem hostRequest_after_write {a b : List (Nat × HostReq)} {x : Nat} {data : List Byte}
    (hq : s.hostq = a ++ (vf, .write x data) :: b) (ha : ∀ p ∈ a, p.1 ≠ vf) (h : s.inbound vf x data.length true = none)
    (r : HostReq) : s.hostRequest vf [r] = .next { s with hostq := a ++ b ++ [(vf, r)] } := by
  have hq' : s.hostq ++ [(vf, r)] = a ++ (vf, .write x data) :: (b ++ [(vf, r)]) := by simp [hq]
  have done := inboundWrite_of_none (s := s.withHostq (s.hostq ++ [(vf, r)])) h
  rw [List.append_assoc]
  exact (hostTurn_of_ok (r := .write x data) hq' ha done rfl :)

end State

/-! ## The event log (R381) -/

theorem execCelogPop_tail (s : State) : exec .celogPop s = .next { s with celog := s.celog.tail } := by
  have pop : s.celogPop.2 = { s with celog := s.celog.tail } := by
    unfold State.celogPop
    split <;> rename_i h
    · rw [h, List.tail_nil, ← h]
    · rw [h, List.tail_cons]
  exact congrArg Host.Outcome.next pop

/-! ## The report (R383, R384) -/

theorem nth_wordsOf {n i : Nat} (bs : List Byte) (h : i < n) :
    nth (wordsOf n bs) i 0 = BitVec.ofNat 64 (leNat ((bs.drop (8 * i)).take 8)) := by
  have entries : (entriesOf n bs)[i]? = some (leNat ((bs.drop (8 * i)).take 8)) := by
    induction n generalizing bs i with
    | zero => omega
    | succ n ih =>
      cases i with
      | zero => rfl
      | succ i =>
        rw [entriesOf, List.getElem?_cons_succ, ih (bs.drop 8) (by omega), List.drop_drop, Nat.mul_succ, Nat.add_comm]
  simp [nth, wordsOf, entries]

/-- A list as a table from a key up. -/
theorem Table.get_zipIdx {α : Type} (l : List α) (m k : Nat) :
    Table.get ((l.zipIdx m).map fun (x, i) => (i, x)) (m + k) = l[k]? := by
  induction l generalizing m k with
  | nil => rfl
  | cons x l ih =>
    cases k with
    | zero => simp [Table.get]
    | succ k =>
      have := ih (m + 1) k
      simp only [List.zipIdx_cons, List.map_cons, Table.get]
      rw [if_neg (by omega), ← Nat.add_assoc, Nat.add_right_comm, this, List.getElem?_cons_succ]

theorem Table.getD_zipIdx {α : Type} (l : List α) (k : Nat) (d : α) :
    Table.getD (l.zipIdx.map fun (x, i) => (i, x)) k d = nth l k d := by
  have := Table.get_zipIdx l 0 k
  rw [Nat.zero_add] at this
  rw [Table.getD, this, nth]

/-- Word i of a run of words. -/
theorem take_drop_words (ws : List Word) (r : List Byte) {i : Nat} (h : i < ws.length) :
    (((ws.map fun w => leBytes 8 w.toNat).flatten ++ r).drop (8 * i)).take 8 = leBytes 8 (nth ws i 0).toNat := by
  induction ws generalizing i with
  | nil => simp at h
  | cons w ws ih =>
    cases i with
    | zero => simp [nth]
    | succ i =>
      have := ih (i := i) (by simpa using h)
      rw [Nat.mul_succ, Nat.add_comm, ← List.drop_drop]
      simpa [nth] using this

theorem length_flatten_words (ws : List Word) : (ws.map fun w => leBytes 8 w.toNat).flatten.length = 8 * ws.length := by
  induction ws with
  | nil => rfl
  | cons w ws ih => simp [ih]; omega

@[simp] theorem length_upFrom (a n : Nat) : (upFrom a n).length = n := by simp [upFrom]

theorem take_drop_upFrom (a n m k : Nat) (h : m + k ≤ n) : ((upFrom a n).drop m).take k = upFrom (a + m) k := by
  apply List.ext_getElem
  · simp; omega
  · intro i h1 h2
    simp [upFrom, Nat.add_assoc]

namespace State

section
variable {s : State} (h : s.regs.attcopy.length = 8)
include h

/-- Words 0 to 7 of a report are the nonce. -/
theorem report_nonce {i : Nat} (hi : i < 8) :
    nth (wordsOf 64 s.report) i 0 = nth s.regs.attcopy i 0 := by
  rw [nth_wordsOf _ (by omega)]
  simp only [report, List.append_assoc]
  rw [take_drop_words _ _ (by omega), leNat_leBytes 8 _ (BitVec.isLt _), BitVec.ofNat_toNat, BitVec.setWidth_eq]

/-- What stands behind the 128 bytes of the nonce and the image's hash. -/
theorem drop_report : s.report.drop 128 = (upFrom 0 72).map Config.identity ++ (leBytes 1 s.pkg ++
    (leBytes 1 (bits s.regs.rststat 0 0) ++ (leBytes 2 0 ++ (leBytes 4 s.repairs ++ (leBytes 48 0 ++
      ((upFrom 256 132).map (Config.attestByte s.fresh) ++ leBytes 124 0)))))) := by
  simp only [report, List.append_assoc]
  rw [← List.append_assoc]
  exact List.drop_left' (by rw [List.length_append, length_flatten_words, h]; simp)

/-- Words 16 to 24 of a report are the device's own. -/
theorem report_identity {i : Nat} (lo : 16 ≤ i) (hi : i < 25) :
    nth (wordsOf 64 s.report) i 0 = BitVec.ofNat 64 (leNat ((upFrom (8 * i - 128) 8).map Config.identity)) := by
  have at_ : 8 * i = 128 + (8 * i - 128) := by omega
  rw [nth_wordsOf _ (by omega), at_, ← List.drop_drop, drop_report h, List.drop_append_of_le_length (by simp; omega),
    List.take_append_of_le_length (by simp; omega), ← List.map_drop, ← List.map_take, take_drop_upFrom _ _ _ _ (by omega)]
  simp

/-- Word 25 of a report begins with PKG. -/
theorem report_pkg : (nth (wordsOf 64 s.report) 25 0).toNat % 256 = s.pkg % 256 := by
  rw [nth_wordsOf _ (by decide), show 8 * 25 = 128 + 72 from rfl, ← List.drop_drop, drop_report h,
    List.drop_left' (by simp)]
  simp [leBytes, leNat]

end

end State

/-! ## Attestation (R383, R384) -/

theorem bitAt_or_self (v : Word) {i : Nat} (hi : i < 64) : bitAt (v ||| BitVec.ofNat 64 (2 ^ i)) i = true := by
  show (v ||| BitVec.ofNat 64 (2 ^ i)).getLsbD i = true
  simp only [BitVec.getLsbD_or, BitVec.getLsbD_ofNat, Nat.testBit_two_pow_self, hi, decide_true, Bool.and_self, Bool.or_true]

/-- A request while none is in progress keeps the nonce (R384). -/
theorem attestationRequest_of_idle {s : State} (h : bitAt s.regs.attctl 63 = false) :
    ∃ u, exec .attestationRequest s = .next u ∧ bitAt u.regs.attctl 63 = true ∧ bitAt u.regs.attctl 62 = false ∧
      u.regs.attcopy = (List.range 8).map (fun i => s.regs.attnonce.getD i 0) := by
  have busy : bitAt (BitVec.ofNat 64 (2 ^ 63)) 63 = true := by decide
  have notDone : bitAt (BitVec.ofNat 64 (2 ^ 63)) 62 = false := by decide
  exact ⟨_, congrArg Host.Outcome.next (if_neg (Bool.eq_false_iff.1 h)), busy, notDone, rfl⟩

/-- A request while one is in progress is refused (R384). -/
theorem attestationRequest_of_busy {s : State} (h : bitAt s.regs.attctl 63 = true) :
    ∃ u, exec .attestationRequest s = .next u ∧ bitAt u.regs.attctl 61 = true ∧ u.regs.attcopy = s.regs.attcopy :=
  ⟨_, congrArg Host.Outcome.next (if_pos h), bitAt_or_self _ (by decide), rfl⟩

/-- ATTCTL after a report: DONE, not BUSY (R384). -/
theorem attctl_done (err : Bool) : let v := BitVec.ofNat 64 (2 ^ 62 + (if err then 2 ^ 61 else 0))
    bitAt v 63 = false ∧ bitAt v 62 = true := by
  cases err <;> decide

theorem attestationComplete_of_idle {s : State} (h : bitAt s.regs.attctl 63 = false) :
    exec .attestationComplete s = .next s :=
  if_neg (Bool.eq_false_iff.1 h)

/-- The end of a request shows the report and raises vector 3 (R384). -/
theorem attestationComplete_of_busy {s : State} (h : bitAt s.regs.attctl 63 = true) :
    ∃ u, exec .attestationComplete s = .next u ∧ bitAt u.regs.attctl 63 = false ∧ bitAt u.regs.attctl 62 = true ∧
      (∀ i, u.regs.attrep.getD i 0 = nth (wordsOf 64 s.report) i 0) ∧ u.regs.msix.getD 3 false = true := by
  obtain ⟨busy, done⟩ := attctl_done (bitAt s.regs.attctl 61)
  exact ⟨_, if_pos h, busy, done, fun i => Table.getD_zipIdx _ i 0, Table.getD_set_self ..⟩

/-! ## Clocks (R12, R385) -/

theorem nth_set_self {α : Type} (l : List α) {i : Nat} (x d : α) (h : i < l.length) : nth (l.set i x) i d = x := by
  simp [nth, h]

theorem nth_set_ne {α : Type} (l : List α) {i k : Nat} (x d : α) (h : k ≠ i) : nth (l.set i x) k d = nth l k d := by
  simp [nth, List.getElem?_set_ne h.symm]

/-- Within a list the value beyond its end does not matter. -/
theorem nth_of_lt {α : Type} (l : List α) {i : Nat} (d e : α) (h : i < l.length) : nth l i d = nth l i e := by
  simp [nth, h]

theorem State.busiest_iff (s : State) {layer : Nat} (h : layer < s.regs.layclk.length) :
    s.busiest layer = true ↔ 10 < nth s.regs.layclk layer 19 ∧ ∀ i, i < 12 → 10 < nth s.regs.layclk i 10 →
      Config.activity s.fresh i ≤ Config.activity s.fresh layer := by
  rw [nth_of_lt _ 19 10 h]
  simp only [State.busiest, Bool.and_eq_true, decide_eq_true_eq, List.all_eq_true, List.mem_range, Bool.or_eq_true,
    Bool.not_eq_true', decide_eq_false_iff_not, imp_iff_not_or]

/-- A sample above the cap lowers the clock of a busiest layer a step; one below it raises a layer's a step (R385). -/
theorem powerSample_spec (s : State) (watts : Nat) {layer : Nat} (h : layer < s.regs.layclk.length) :
    let c := nth s.regs.layclk layer 19
    ∃ u, exec (.powerSample watts layer) s = .next u ∧
      nth u.regs.layclk layer 19 =
        (if watts ≤ s.regs.pwrcap then min 19 (c + 1) else if s.busiest layer then c - 1 else c) ∧
      ∀ k, k ≠ layer → nth u.regs.layclk k 19 = nth s.regs.layclk k 19 :=
  ⟨_, rfl, nth_set_self _ _ _ h, fun _ hk => nth_set_ne _ _ _ hk⟩

/-- A layer at its junction limit lowers its own clock a step (R12). -/
theorem thermalClockStep_spec (s : State) {layer : Nat} (h : layer < s.regs.thermal.length) :
    ∃ u, exec (.thermalClockStep layer) s = .next u ∧
      nth u.regs.thermal layer 19 = max 10 (nth s.regs.thermal layer 19 - 1) ∧ u.regs.layclk = s.regs.layclk ∧
      ∀ k, k ≠ layer → nth u.regs.thermal k 19 = nth s.regs.thermal k 19 :=
  ⟨_, rfl, nth_set_self _ _ _ h, rfl, fun _ hk => nth_set_ne _ _ _ hk⟩

/-! ## Device registers (R379 to R381) -/

/-! The registers of the PF block are in tower 0 (R381). -/

theorem devRegAt_hstatus (tower : Nat) : devRegAt tower (0x20000000000 + 0x10000) = if tower = 0 then .hstatus else .none := rfl

theorem devRegAt_celog (tower : Nat) : devRegAt tower (0x20000000000 + 0x10008) = if tower = 0 then .celog else .none := rfl

theorem devRegAt_pwrcap (tower : Nat) : devRegAt tower (0x20000000000 + 0x10010) = if tower = 0 then .pwrcap else .none := rfl

theorem devRegAt_layclk (tower : Nat) : devRegAt tower (0x20000000000 + 0x10018) = if tower = 0 then .layclk else .none := rfl

theorem devRegAt_route (tower : Nat) {k : Nat} (h : k < 256) : devRegAt tower (0x20000000000 + (0x3000 + 8 * k)) = .route k := by
  simp (disch := omega) only [devRegAt, inRegs, Nat.add_sub_cancel_left, Bool.and_eq_true, decide_eq_true_eq, if_neg, if_pos,
    Nat.mul_div_cancel_left]

section
variable (s : State) {tower off : Nat} (v : Word)

theorem deviceRegisterWrite_unaligned (h : off % 8 ≠ 0) : exec (.deviceRegisterWrite tower off v) s = .next s := by
  show execDeviceRegisterWrite tower off v s = _
  simp [execDeviceRegisterWrite, h]

variable (ht : tower < 32)
include ht

theorem deviceRegisterWrite_aligned (h : off % 8 = 0) : exec (.deviceRegisterWrite tower off v) s =
    .next (s.regWrite (.mgmt (tower / 4)) (tower % 4) (devRegAt (tower % 4) off) v) := by
  have : tower / 4 < Config.mgmtCores := by unfold Config.mgmtCores; omega
  show execDeviceRegisterWrite tower off v s = _
  simp [execDeviceRegisterWrite, h, this]

theorem deviceRegisterWrite_rststat : exec (.deviceRegisterWrite tower (0x20000000000 + 0x1010) v) s = .next s :=
  deviceRegisterWrite_aligned s v ht rfl

/-- A write of a read-only register of the PF block, or of an offset without a register, is discarded (R381). -/
theorem deviceRegisterWrite_pf_readOnly {r : DevReg} (hr : r = .hstatus ∨ r = .celog ∨ r = .layclk) (ha : off % 8 = 0)
    (h : devRegAt (tower % 4) off = if tower % 4 = 0 then r else .none) : exec (.deviceRegisterWrite tower off v) s = .next s := by
  rw [deviceRegisterWrite_aligned s v ht ha, h]
  split
  · rcases hr with rfl | rfl | rfl <;> rfl
  · rfl

theorem deviceRegisterWrite_pwrcap (h0 : tower % 4 = 0) : exec (.deviceRegisterWrite tower (0x20000000000 + 0x10010) v) s =
    .next (if 600 ≤ v.toNat ∧ v.toNat ≤ 2400 then { s with regs := { s.regs with pwrcap := v.toNat } } else s) := by
  rw [deviceRegisterWrite_aligned s v ht rfl, devRegAt_pwrcap, if_pos h0]
  simp [State.regWrite]

theorem deviceRegisterWrite_route {k : Nat} (hk : k < 256) (hv : v.toNat < 16) :
    exec (.deviceRegisterWrite tower (0x20000000000 + (0x3000 + 8 * k)) v) s =
      .next { s with regs := { s.regs with route := s.regs.route.set k v.toNat } } := by
  rw [deviceRegisterWrite_aligned s v ht (by omega), devRegAt_route _ hk]
  exact congrArg Host.Outcome.next (if_pos hv)

theorem deviceRegisterWrite_jobdesc (hi : bits v 63 52 = 0) (lo : bits v 6 0 = 0) :
    exec (.deviceRegisterWrite tower (0x20000000000 + 0x1018) v) s = .next { s with regs := { s.regs with jobdesc := v } } := by
  have written : s.regWrite (.mgmt (tower / 4)) (tower % 4) .jobdesc v = { s with regs := { s.regs with jobdesc := v } } := by
    simp [State.regWrite, hi, lo]
  exact (deviceRegisterWrite_aligned s v ht rfl).trans (congrArg Host.Outcome.next written)

end

end Sys2Proof.Machine

/-- Settles O59: a request of a function with none before it is done at once, or waits for a route; the other moves change
  the registers they name. -/
theorem hostAndDevice : Obligations.HostAndDevice := by
  unfold Obligations.HostAndDevice
  intro s
  refine ⟨fun vf v => ⟨?_, fun hfree h => ?_, fun a b x data hq ha h => ?_⟩, fun vf => ?_, ?_,
    fun f x n hfree hc => ?_, ?_, fun h => ?_, fun h => ?_, fun h hlen => ?_, fun h => ?_, fun layer watts h => ?_,
    fun layer h => ?_, fun tower v ht => ?_⟩
  · intro j ws hz hj hv ht hb hc hr hid hfree
    exact State.hostRequest_arm_of_room hfree hz hj hv ht hb hc hr hid
  · exact State.hostRequest_arm_refused hfree h
  · exact State.hostRequest_after_write hq ha h _
  · exact ⟨_, rfl, Table.getD_set_self .., fun w hw => Table.getD_set_ne _ _ _ _ _ hw⟩
  · intro f x data hlen hline acts
    have actsAs (i : Instr) (g : Nat) (e : exec i s = s.hostRequest g [.write x data]) : acts i g := by
      intro hfree put
      rw [e]
      refine ⟨State.hostRequest_write_of_none hfree, fun pa h hw => ⟨fun hr hc ht => ?_, fun hr => ?_⟩, fun pa h hw => ?_⟩
      · obtain ⟨u, done, hs, hq, hm⟩ := State.hostRequest_write_hbm hfree h hw hr hc ht
        exact ⟨u, done, hs, hq, fun b => hm ▸ Memory.read_writeN s.mem pa data b⟩
      · exact State.hostRequest_write_unreachable hfree h hw hr
      · exact ⟨_, State.hostRequest_write_crown hfree h hw, rfl, rfl, Memory.read_writeN s.scratch pa data⟩
    refine ⟨actsAs _ _ ?_, fun port hp => actsAs _ _ ?_⟩
    · exact congrArg (fun ps => s.hostRequest f (ps.map fun p => .write p.1 p.2)) (linePieces_of_line hlen hline)
    · exact (if_pos hp).trans
        (congrArg (fun ps => s.hostRequest (129 + port) (ps.map fun p => .write p.1 p.2)) (linePieces_of_line hlen hline))
  · exact State.hostRequest_reads hfree hc _
  · exact execCelogPop_tail s
  · exact attestationRequest_of_idle h
  · exact attestationRequest_of_busy h
  · obtain ⟨u, e, busy, done, report, vector⟩ := attestationComplete_of_busy h
    refine ⟨u, e, busy, done, fun i hi => ?_, fun i lo hi => ?_, ?_, vector⟩
    · rw [report, State.report_nonce hlen hi]
    · rw [report, State.report_identity hlen lo hi]
    · rw [report, State.report_pkg hlen]
  · exact attestationComplete_of_idle h
  · obtain ⟨u, e, clock, others⟩ := powerSample_spec s watts h
    refine ⟨u, e, ?_, others⟩
    rw [clock]
    simp only [s.busiest_iff h]
  · exact thermalClockStep_spec s h
  · refine ⟨fun off h => deviceRegisterWrite_unaligned s v h, deviceRegisterWrite_rststat s v ht, ?_, ?_, ?_,
      fun h0 lo hi => ?_, fun h0 h => ?_, fun k hk hv => deviceRegisterWrite_route s v ht hk hv,
      fun hi lo => deviceRegisterWrite_jobdesc s v ht hi lo⟩
    · exact deviceRegisterWrite_pf_readOnly s v ht (.inl rfl) rfl (devRegAt_hstatus _)
    · exact deviceRegisterWrite_pf_readOnly s v ht (.inr (.inl rfl)) rfl (devRegAt_celog _)
    · exact deviceRegisterWrite_pf_readOnly s v ht (.inr (.inr rfl)) rfl (devRegAt_layclk _)
    · exact (deviceRegisterWrite_pwrcap s v ht h0).trans (congrArg Host.Outcome.next (if_pos ⟨lo, hi⟩))
    · exact (deviceRegisterWrite_pwrcap s v ht h0).trans (congrArg Host.Outcome.next (if_neg (by omega)))

end

/-! # O8: reads of system registers -/

section
open Sys2Proof Sys2Proof.Machine Sys2Proof.Claims
namespace Sys2Proof.Machine

/-- A read of a register but SYS_CYCLE, where privilege allows it (R291). -/
theorem State.sysrd_of_ok {s : State} {d : Reg} {r : SysReg} {v : Word} (hp : r.privRead = true → s.me.priv = true)
    (hv : s.sysRead r = (v, s)) : exec (.sysrd d r) s = .next (wrote s d v) := by
  have allowed : (r.privRead && !s.me.priv) = false := by cases h : r.privRead <;> simp_all
  show execSysrd d r s = _
  simp [execSysrd, allowed, hv, State.result, wrote]

/-- SYS_STATUS.TASK says that the core has a task (R239). -/
theorem Core.statusWord_eq (c : Core) : c.statusWord =
    BitVec.ofNat 64 ((if c.task = .none then 0 else 4) + (if c.ppriv then 2 else 0) + if c.priv then 1 else 0) := by
  cases h : c.task <;> simp [Core.statusWord, h, Task.running]

theorem Core.causeWord_eq (c : Core) : c.causeWord = BitVec.ofNat 64 (256 * c.level + c.code) := by
  rw [Core.causeWord, Nat.mul_comm]

/-- A core whose cycle count has gone on by n. -/
def Core.counted (c : Core) (n : Nat) : Core := { c with cycle := (c.cycle + n) % 2 ^ 64 }

/-- The state once the acting core's count has gone on by the free number of cycles (log 6). -/
def State.counted (s : State) : State :=
  { s.setMe (s.me.counted (Config.extraCycles s.fresh)) with fresh := s.fresh + 1 }

theorem State.me_counted (s : State) : s.counted.me = s.me.counted (Config.extraCycles s.fresh) := State.me_setMe s _

theorem State.sysrd_cycle_eq (s : State) (d : Reg) :
    exec (.sysrd d .cycle) s = .next (wrote s.counted d (BitVec.ofNat 64 s.counted.me.cycle)) := by
  rw [me_counted]; rfl

/-- SYS_CYCLE reads the count as it then stands (R239, R240, log 6). -/
theorem State.sysrd_cycle (s : State) (d : Reg) :
    ∃ t n, exec (.sysrd d .cycle) s = .next t ∧ t.me.cycle = (s.me.cycle + n) % 2 ^ 64 ∧
      (d ≠ 0 → t.me.get d = BitVec.ofNat 64 t.me.cycle) ∧ t.mem = s.mem ∧ t.me.pc = s.me.pc + 8 := by
  refine ⟨_, Config.extraCycles s.fresh, s.sysrd_cycle_eq d, ?_⟩
  simp only [wrote, me_setMe, Core.advance_cycle, Core.put_cycle, Core.get_advance, Core.advance_pc, Core.put_pc, me_counted]
  exact ⟨rfl, fun hd => Core.get_put_self _ d _ hd, rfl, rfl⟩

end Sys2Proof.Machine

/-- Settles O8: a read passes the check of privilege and gives the register's word. -/
theorem systemRegisterReads : Obligations.SystemRegisterReads := by
  unfold Obligations.SystemRegisterReads
  intro s d
  refine ⟨fun hp => ⟨?_, ?_, ?_, ?_, ?_, ?_, ?_, ?_⟩, ?_, ?_, ?_, ?_, State.sysrd_cycle s d⟩
  · exact State.sysrd_of_ok (fun _ => hp) (congrArg (·, s) s.me.statusWord_eq)
  · exact State.sysrd_of_ok (fun _ => hp) (congrArg (·, s) s.me.causeWord_eq)
  · exact State.sysrd_of_ok (fun _ => hp) rfl
  · exact State.sysrd_of_ok (fun _ => hp) rfl
  · exact State.sysrd_of_ok (fun _ => hp) rfl
  · exact State.sysrd_of_ok (fun _ => hp) rfl
  · exact State.sysrd_of_ok (fun _ => hp) rfl
  · exact State.sysrd_of_ok (fun _ => hp) rfl
  · exact State.sysrd_of_ok nofun rfl
  · exact State.sysrd_of_ok nofun rfl
  · exact State.sysrd_of_ok nofun rfl
  · exact State.sysrd_of_ok nofun rfl

end

/-! # O47: the turn advance -/

section
open Sys2Proof Sys2Proof.Machine Sys2Proof.Claims
namespace Sys2Proof.Machine

/-- Every clock of the package 0 and the turn flipped: the effect of a turn advance but for READY (R29). -/
def State.newTurn (s : State) : State :=
  { s with
    turn := !s.turn
    turnReq := false
    scrub := [0, 1, 2, 3].map fun t => (s.towerId t, 0)
    clocks := []
    cores := s.cores.mapVals Core.newTurn
    mail := s.mail.map Mail.zero
    lines := s.lines.mapVals (LineInfo.newTurn !s.turn)
    clusters := s.clusters.mapVals Cluster.newTurn
    twig := s.twig.map fun w => { w with pts := 0 }
    engines := s.engines.mapVals Engine.newTurn
    launches := s.launches.map Launch.newTurn
    faultq := s.faultq.map fun f => { f with clock := 0 } }

/-- READY after a warm reset changes HSTATUS alone (R352). -/
theorem State.warmReady_eq (s : State) : ∃ h, s.warmReady = { s with regs := { s.regs with hstatus := h } } := by
  unfold State.warmReady
  split
  · exact ⟨_, rfl⟩
  · exact ⟨s.regs.hstatus, rfl⟩

theorem State.sweeps_all_iff (s : State) : ([0, 1, 2, 3].all fun t => s.sweepDone (s.towerId t)) = true ↔
    ∀ t, t < 4 → 2 ^ 30 ≤ s.scrub.getD (s.towerId t) 0 := by
  rw [show [0, 1, 2, 3] = List.range 4 from rfl]
  simp [State.sweepDone]

/-- An advance that is requested once the sweeps are done takes place (R29). -/
theorem turnAdvance_of_swept {s : State} (hr : s.turnReq = true)
    (hs : ∀ t, t < 4 → 2 ^ 30 ≤ s.scrub.getD (s.towerId t) 0) : exec .turnAdvance s = .next s.newTurn.warmReady := by
  exact if_pos (Bool.and_eq_true_iff.2 ⟨hr, s.sweeps_all_iff.2 hs⟩)

/-- An advance that is not requested, or that a sweep holds back, does nothing (R29). -/
theorem turnAdvance_of_held {s : State}
    (h : s.turnReq = false ∨ ∃ t, t < 4 ∧ s.scrub.getD (s.towerId t) 0 < 2 ^ 30) : exec .turnAdvance s = .next s := by
  refine if_neg fun k => ?_
  obtain ⟨hr, hs⟩ := Bool.and_eq_true_iff.1 k
  rcases h with h | ⟨t, ht, h⟩
  · exact Bool.false_ne_true (h.symm.trans hr)
  · exact Nat.not_le.2 h (s.sweeps_all_iff.1 hs t ht)

/-! ## What a turn advance makes of each part -/

theorem State.scrub_newTurn (s : State) {t : Nat} (ht : t < 4) : s.newTurn.scrub.get (s.towerId t) = some 0 := by
  interval_cases t <;> simp [State.newTurn, Table.get, State.towerId]

theorem State.core_newTurn (s : State) (n : Nat) : s.newTurn.core n = (s.core n).newTurn :=
  Table.getD_mapVals s.cores Core.newTurn n Core.reset

theorem State.line_newTurn (s : State) (l : Nat) : s.newTurn.line l = (s.line l).newTurn !s.turn :=
  Table.getD_mapVals s.lines (LineInfo.newTurn !s.turn) l LineInfo.reset

theorem State.cluster_newTurn (s : State) (cl : Nat) : s.newTurn.cluster cl = (s.cluster cl).newTurn :=
  Table.getD_mapVals s.clusters Cluster.newTurn cl Cluster.reset

theorem State.engine_newTurn (s : State) (e : Nat) : s.newTurn.engine e = (s.engine e).newTurn :=
  Table.getD_mapVals s.engines Engine.newTurn e Engine.reset

/-- A channel after a turn advance: the clocks of its messages 0. -/
def Channel.newTurn (ch : Channel) : Channel := { ch with queue := ch.queue.map Msg.zero }

theorem Core.chan_newTurn (c : Core) (k : Nat) : c.newTurn.chan k = (c.chan k).newTurn :=
  Table.getD_mapVals c.chans Channel.newTurn k Channel.reset

/-- The clocks of a core and of what it has sent, received and begun are 0, its registers and messages as they were. -/
theorem Core.newTurn_spec (c : Core) : c.newTurn.pts = 0 ∧ (∀ r, c.newTurn.get r = c.get r) ∧
    (∀ k, (c.newTurn.chan k).queue.map (·.word) = (c.chan k).queue.map (·.word) ∧
      ∀ m ∈ (c.newTurn.chan k).queue, m.clock = 0) ∧
    (∀ m ∈ c.newTurn.out, m.msg.clock = 0) ∧ ∀ b, c.newTurn.burst = some b → b.clk = 0 := by
  refine ⟨rfl, fun r => Core.get_of_g _ _ rfl r, fun k => ?_, fun m hm => ?_, fun b hb => ?_⟩
  · rw [chan_newTurn]
    exact ⟨by simp [Channel.newTurn, Msg.zero], by simp [Channel.newTurn, Msg.zero]⟩
  · obtain ⟨x, _, rfl⟩ := List.mem_map.1 hm
    rfl
  · obtain ⟨x, _, rfl⟩ := Option.map_eq_some_iff.1 hb
    rfl

/-- A line keeps its latest version, with clocks 0, its state and its owner (R29). -/
theorem LineInfo.newTurn_spec (turn : Bool) (li : LineInfo) : (li.newTurn turn).wts = 0 ∧ (li.newTurn turn).rts = 0 ∧
    (li.newTurn turn).old = [] ∧ (li.newTurn turn).st = li.st ∧ (li.newTurn turn).owner = li.owner := by
  simp only [LineInfo.newTurn]
  split <;> exact ⟨rfl, rfl, rfl, rfl, rfl⟩

/-- A record that the home's caches hold gets the new turn; another keeps its old one. Of the first, and of one that was
written in the turn that ends, the clocks read as 0 (R22, R29). -/
theorem LineInfo.newTurn_record (turn : Bool) (li : LineInfo) (h : li.place ≠ .none ∨ li.recTurn = !turn) :
    (li.newTurn turn).recTurn = turn → (li.newTurn turn).recWts = 0 ∧ (li.newTurn turn).recRts = 0 := by
  simp only [LineInfo.newTurn]
  split
  case isTrue none =>
    intro same
    have kept : li.recTurn = !turn := h.resolve_left (not_not_intro none)
    exact absurd (same.symm.trans kept) (by cases turn <;> decide)
  case isFalse held => exact fun _ => ⟨rfl, rfl⟩

theorem State.rec_newTurn (s : State) (l : Nat) (h : (s.line l).place ≠ .none ∨ (s.line l).recTurn = s.turn) :
    s.newTurn.recWts l = 0 ∧ s.newTurn.recRts l = 0 := by
  have read := (s.line l).newTurn_record (!s.turn) (by rwa [Bool.not_not])
  simp only [State.recWts, State.recRts, line_newTurn]
  constructor
  · split
    · exact (read ‹_›).1
    · rfl
  · split
    · exact (read ‹_›).2
    · rfl

/-- The clocks of a cluster's lines, tiles and address generators are 0, its bytes as they were. -/
theorem Cluster.newTurn_spec (c : Cluster) : ((∀ l, (c.newTurn.line l).clk = 0) ∧ (∀ k, (c.newTurn.tile k).tclk = 0) ∧
    ∀ a, (c.newTurn.ag a).pts = 0) ∧ c.newTurn.leaf = c.leaf := by
  refine ⟨⟨fun l => ?_, fun k => ?_, fun a => ?_⟩, rfl⟩
  · exact congrArg LeafLine.clk (Table.getD_mapVals c.lines (fun x : LeafLine => { x with clk := 0 }) l ⟨false, 0, false⟩)
  · exact congrArg Tile.tclk (Table.getD_mapVals c.tiles (fun x : Tile => { x with tclk := 0 }) k Tile.reset)
  · exact congrArg Ag.pts (Table.getD_mapVals c.ags (fun x : Ag => { x with pts := 0 }) a Ag.reset)

/-- The clocks of a copy engine's jobs are 0, running or completed. -/
theorem Engine.newTurn_slot (x : Engine) (k : Nat) :
    (x.newTurn.slots.getD k CopyJob.reset).pts = 0 ∧ (x.newTurn.slots.getD k CopyJob.reset).final = 0 := by
  have slot := Table.getD_mapVals x.slots (fun j : CopyJob => { j with pts := 0, final := 0 }) k CopyJob.reset
  exact ⟨congrArg CopyJob.pts slot, congrArg CopyJob.final slot⟩

/-- The clocks of a launch are 0, and those of every cluster in its saved stages and its context (R348). -/
theorem Launch.newTurn_spec (l : Launch) : l.newTurn.start = 0 ∧ l.newTurn.clock = 0 ∧
    (∀ c, l.newTurn.reached = some c → c = 0) ∧
    ∀ b, l.newTurn.band = some b → (∀ v ∈ b.saved, ∀ c ∈ v.row, ∃ d : Cluster, c = d.newTurn) ∧
      ∀ rows, b.context = some rows → ∀ cs ∈ rows, ∀ c ∈ cs, ∃ d : Cluster, c = d.newTurn := by
  refine ⟨rfl, rfl, fun c hc => ?_, fun b hb => ?_⟩
  · obtain ⟨x, _, rfl⟩ := Option.map_eq_some_iff.1 hc
    rfl
  · obtain ⟨old, _, rfl⟩ := Option.map_eq_some_iff.1 hb
    refine ⟨fun v hv c hc => ?_, fun rows hr cs hcs c hc => ?_⟩
    · obtain ⟨w, _, rfl⟩ := List.mem_map.1 hv
      obtain ⟨d, _, rfl⟩ := List.mem_map.1 hc
      exact ⟨d, rfl⟩
    · obtain ⟨ctx, _, rfl⟩ := Option.map_eq_some_iff.1 hr
      obtain ⟨row, _, rfl⟩ := List.mem_map.1 hcs
      obtain ⟨d, _, rfl⟩ := List.mem_map.1 hc
      exact ⟨d, rfl⟩

end Sys2Proof.Machine

/-- Settles O47: the advance is a map over each part of the state, and each part's clocks come out 0. -/
theorem turnAdvances : Obligations.TurnAdvances := by
  unfold Obligations.TurnAdvances
  intro s
  refine ⟨fun hr hs => ?_, turnAdvance_of_held⟩
  obtain ⟨h, ready⟩ := s.newTurn.warmReady_eq
  refine ⟨s.newTurn.warmReady, turnAdvance_of_swept hr hs, ?_⟩
  rw [ready]
  refine ⟨rfl, rfl, fun t ht => s.scrub_newTurn ht, fun n => ?_, fun _ => rfl, ⟨?_, ?_⟩, fun l => ?_, fun cl => ?_,
    ⟨?_, ?_⟩, fun e => ⟨?_, fun k => ?_⟩, fun x hx => ?_, ?_, ?_, rfl, rfl, rfl⟩
  · have core := (s.core n).newTurn_spec
    rw [← s.core_newTurn n] at core
    exact core
  · show (s.mail.map Mail.zero).map (·.msg.word) = _
    simp [Mail.zero, Msg.zero]
  · intro m hm
    obtain ⟨x, _, rfl⟩ := List.mem_map.1 hm
    rfl
  · obtain ⟨hw, hr, ho, hst, hown⟩ := (s.line l).newTurn_spec !s.turn
    rw [← s.line_newTurn l] at hw hr ho hst hown
    exact ⟨hw, hr, ho, hst, hown, s.rec_newTurn l⟩
  · have cluster := (s.cluster cl).newTurn_spec
    rw [← s.cluster_newTurn cl] at cluster
    exact cluster
  · show (s.twig.map fun w => { w with pts := 0 }).map (·.data) = _
    simp
  · intro w hw
    obtain ⟨x, _, rfl⟩ := List.mem_map.1 hw
    rfl
  · exact congrArg Engine.maxFinal (s.engine_newTurn e)
  · have slot := (s.engine e).newTurn_slot k
    rw [← s.engine_newTurn e] at slot
    exact slot
  · obtain ⟨l, _, rfl⟩ := List.mem_map.1 hx
    obtain ⟨start, clock, reached, band⟩ := l.newTurn_spec
    refine ⟨start, clock, reached, fun b hb => ⟨fun v hv c hc => ?_, fun rows hrows cs hcs c hc => ?_⟩⟩
    · obtain ⟨d, rfl⟩ := (band b hb).1 v hv c hc
      exact d.newTurn_spec.1
    · obtain ⟨d, rfl⟩ := (band b hb).2 rows hrows cs hcs c hc
      exact d.newTurn_spec.1
  · show (s.launches.map Launch.newTurn).map (fun x => (x.job, x.id, x.st)) = _
    simp [Launch.newTurn]
  · intro f hf
    obtain ⟨x, _, rfl⟩ := List.mem_map.1 hf
    rfl

end

/-! # Tables by key -/

section
open Sys2Proof Sys2Proof.Machine
namespace Sys2Proof.Machine.Table

variable {α β : Type}

/-- A value that is listed for a key stands in the table. -/
theorem mem_of_get {t : Table α} {k : Nat} {x : α} (h : t.get k = some x) : (k, x) ∈ t := by
  induction t with
  | nil => exact absurd h nofun
  | cons p r ih =>
    obtain ⟨a, y⟩ := p
    rw [get] at h
    split at h
    · next e => cases h; subst e; exact List.mem_cons_self
    · exact List.mem_cons_of_mem _ (ih h)

theorem get_eq_none_iff {t : Table α} {k : Nat} : t.get k = none ↔ k ∉ t.keys := by
  induction t with
  | nil => simp [get, keys]
  | cons p r ih =>
    obtain ⟨a, y⟩ := p
    by_cases h : k = a <;> simp_all [get, keys]

/-- A change of every value by its key. -/
theorem get_mapKeyed (t : Table α) (f : Nat → α → β) (k : Nat) :
    get (t.map fun (a, x) => (a, f a x)) k = (t.get k).map (f k) := by
  induction t with
  | nil => rfl
  | cons p r ih =>
    obtain ⟨a, y⟩ := p
    by_cases h : k = a
    · subst h; simp [get]
    · simpa [get, h] using ih

/-- A table without the values that p refuses, each key listed once. -/
theorem get_filterVals {t : Table α} (h : t.keys.Nodup) (p : α → Bool) (k : Nat) :
    get (t.filter fun q => p q.2) k = (t.get k).filter p := by
  induction t with
  | nil => rfl
  | cons q r ih =>
    obtain ⟨a, y⟩ := q
    obtain ⟨ha, hr⟩ := List.nodup_cons.1 h
    by_cases e : k = a
    · subst e
      rw [get_cons_eq]
      have rest : get (r.filter fun q => p q.2) k = none := by rw [ih hr, get_eq_none_iff.2 ha]; rfl
      by_cases hp : p y <;> simp [get, hp, rest, Option.filter]
    · by_cases hp : p y <;> simp [get, hp, e, ih hr]

end Sys2Proof.Machine.Table
end

/-! # O60: resets -/

section
open Sys2Proof Sys2Proof.Machine Sys2Proof.Claims
namespace Sys2Proof.Machine

/-! ## Words of status registers -/

theorem bitAt_ofNat {n i : Nat} (h : n < 2 ^ 64) : bitAt (BitVec.ofNat 64 n) i = decide (n / 2 ^ i % 2 = 1) := by
  rw [bitAt, BitVec.toNat_ofNat, Nat.mod_eq_of_lt h, Nat.testBit_eq_decide_div_mod_eq]

theorem bits_ofNat {n : Nat} (hi lo : Nat) (h : n < 2 ^ 64) :
    bits (BitVec.ofNat 64 n) hi lo = n / 2 ^ lo % 2 ^ (hi + 1 - lo) := by
  rw [bits, BitVec.toNat_ofNat, Nat.mod_eq_of_lt h, Nat.shiftRight_eq_div_pow]

/-- HSTATUS of a package that is READY (R382). -/
theorem bringUpStatus_ready (pkg : Nat) :
    bitAt (bringUpStatus 0 pkg) 63 = true ∧ bits (bringUpStatus 0 pkg) 7 0 = pkg % 256 := by
  have small : 2 ^ 63 + pkg % 256 < 2 ^ 64 := by omega
  simp only [bringUpStatus, ↓reduceIte]
  rw [bitAt_ofNat small, bits_ofNat _ _ small]
  exact ⟨decide_eq_true (by omega), by omega⟩

/-- HSTATUS of a package in RECOVERY, with the step that failed (R382). -/
theorem bringUpStatus_recovery {code : Nat} (pkg : Nat) (h0 : code ≠ 0) (h : code < 256) :
    bitAt (bringUpStatus code pkg) 63 = false ∧ bitAt (bringUpStatus code pkg) 62 = true ∧
      bits (bringUpStatus code pkg) 15 8 = code := by
  simp only [bringUpStatus, if_neg h0]
  generalize hp : (if code = 1 || code = 4 then 0 else pkg % 256) = p
  have p256 : p < 256 := by rw [← hp]; split <;> omega
  have small : 2 ^ 62 + code * 256 + p < 2 ^ 64 := by omega
  rw [bitAt_ofNat small, bitAt_ofNat small, bits_ofNat _ _ small]
  exact ⟨decide_eq_false (by omega), decide_eq_true (by omega), by omega⟩

/-! ## Lane repairs (R63, R382) -/

namespace State

/-- t is s after repairs of lanes: banks, the log of corrected events and the registers of the repairs. -/
def Repairs (s t : State) : Prop :=
  ∃ banks celog failed lanes log msix, t = { s with
    banks := banks, celog := celog
    regs := { s.regs with failedLanes := failed, repairLanes := lanes, repairLog := log, msix := msix } }

theorem Repairs.refl (s : State) : s.Repairs s := ⟨_, _, _, _, _, _, rfl⟩

theorem Repairs.trans {s t u : State} (h : s.Repairs t) (k : t.Repairs u) : s.Repairs u := by
  obtain ⟨_, _, _, _, _, _, rfl⟩ := h
  obtain ⟨_, _, _, _, _, _, rfl⟩ := k
  exact ⟨_, _, _, _, _, _, rfl⟩

theorem repairs_repairLane (s : State) (group lane : Nat) : s.Repairs (s.repairLane group lane) := by
  simp only [repairLane]
  generalize (if s.regs.failedLanes.contains _ then _ else _) = failed
  split
  · exact ⟨_, _, _, _, _, _, rfl⟩
  · split <;> exact ⟨_, _, _, _, _, _, rfl⟩

theorem repairs_repairAll (s : State) (ls : List (Nat × Nat)) : s.Repairs (s.repairAll ls) := by
  induction ls generalizing s with
  | nil => exact Repairs.refl s
  | cons p ls ih => exact (s.repairs_repairLane p.1 p.2).trans (ih _)

/-- The spare of a group that no lane has needed yet replaces the lane (R63). -/
theorem repairLanes_repairLane {s : State} {group : Nat} (h : s.regs.repairLanes.get group = none) (lane : Nat) :
    (s.repairLane group lane).regs.repairLanes = s.regs.repairLanes.set group (lane % 64) := by
  simp only [repairLane, h]

/-- Lanes of groups that differ, none of which has used its spare, all get it. -/
theorem repairLanes_repairAll {ls : List (Nat × Nat)} {s : State} (nd : (ls.map (·.1)).Nodup)
    (free : ∀ p ∈ ls, s.regs.repairLanes.get p.1 = none) :
    (∀ k, k ∉ ls.map (·.1) → (s.repairAll ls).regs.repairLanes.get k = s.regs.repairLanes.get k) ∧
      ∀ p ∈ ls, (s.repairAll ls).regs.repairLanes.get p.1 = some (p.2 % 64) := by
  induction ls generalizing s with
  | nil => exact ⟨fun _ _ => rfl, nofun⟩
  | cons q ls ih =>
    obtain ⟨hq, hls⟩ := List.nodup_cons.1 nd
    have first (k : Nat) : (s.repairLane q.1 q.2).regs.repairLanes.get k =
        if k = q.1 then some (q.2 % 64) else s.regs.repairLanes.get k := by
      rw [repairLanes_repairLane (free q List.mem_cons_self), Table.get_set]
    have other (p : Nat × Nat) (hp : p ∈ ls) : p.1 ≠ q.1 := fun e => hq (List.mem_map.2 ⟨p, hp, e⟩)
    have later := ih (s := s.repairLane q.1 q.2) hls fun p hp => by
      rw [first, if_neg (other p hp), free p (List.mem_cons_of_mem _ hp)]
    refine ⟨fun k hk => ?_, fun p hp => ?_⟩
    · obtain ⟨kq, kls⟩ := not_or.1 (fun h => hk (List.mem_cons.2 h))
      exact (later.1 k kls).trans ((first k).trans (if_neg kq))
    · rcases List.mem_cons.1 hp with rfl | hp
      · exact (later.1 p.1 hq).trans ((first p.1).trans (if_pos rfl))
      · exact later.2 p hp

end State

/-! ## Power-on (R382) -/

/-- u is a package of number pkg with every part at its reset value but the model's own fields, the first sweep, and what
power-on reports and repairs. -/
def State.Fresh (u : State) (pkg : Nat) : Prop :=
  u.pkg = pkg ∧ { u with
    sched := [], actor := 0, site := (0, 0), fresh := 0, time := 0, ticks := 0, pkg := 0, scrub := [], banks := [], celog := []
    regs := { u.regs with hstatus := 0, repairLanes := [], repairLog := [], failedLanes := [], boot := 0, msix := [] } } =
      { State.reset with banks := [] }

/-- The number that a package takes at power-on, when its descriptor can be read. -/
def BringUp.number (b : BringUp) : Nat := if BringUp.code b = 1 || BringUp.code b = 4 then 0 else b.pkg % 256

/-- The package before the repairs: cleared, with the repair log of before. -/
def State.wiped (s : State) (b : BringUp) : State :=
  { s.cleared (BringUp.number b) with
    fresh := s.fresh + 1
    regs := { (s.cleared (BringUp.number b)).regs with repairLog := s.regs.repairLog, boot := s.fresh } }

/-- The package after the repairs; a failed self-calibration comes before them. -/
def State.repaired (s : State) (b : BringUp) : State :=
  if BringUp.code b = 1 then s.wiped b else (s.wiped b).repairAll (s.regs.repairLog ++ b.lanes)

theorem State.powerOn_eq (s : State) (b : BringUp) : s.powerOn b =
    { s.repaired b with
      scrub := if BringUp.code b = 0 then [0, 1, 2, 3].map fun t => ((s.repaired b).towerId t, 0) else []
      regs := { (s.repaired b).regs with hstatus := bringUpStatus (BringUp.code b) (BringUp.number b) } } := rfl

theorem State.repairs_repaired (s : State) (b : BringUp) : (s.wiped b).Repairs (s.repaired b) := by
  unfold State.repaired
  split
  · exact Repairs.refl _
  · exact repairs_repairAll _ _

theorem State.fresh_powerOn (s : State) (b : BringUp) : (s.powerOn b).Fresh (BringUp.number b) := by
  rw [powerOn_eq]
  obtain ⟨_, _, _, _, _, _, e⟩ := s.repairs_repaired b
  rw [e]
  exact ⟨rfl, rfl⟩

/-- A power-on whose steps all succeed (R382). -/
theorem powerOn_ready (s : State) {b : BringUp} (h : BringUp.code b = 0) :
    (s.powerOn b).Fresh (b.pkg % 256) ∧ bitAt (s.powerOn b).regs.hstatus 63 = true ∧
      bits (s.powerOn b).regs.hstatus 7 0 = b.pkg % 256 ∧
      (b.lanes = [] → s.regs.repairLog = [] → (s.powerOn b).banks = State.reset.banks ∧ (s.powerOn b).celog = [] ∧
        (s.powerOn b).regs.repairLanes = [] ∧ (s.powerOn b).regs.repairLog = [] ∧ (s.powerOn b).regs.failedLanes = [] ∧
        (s.powerOn b).regs.msix = []) ∧
      (((s.regs.repairLog ++ b.lanes).map (·.1)).Nodup → ∀ p ∈ s.regs.repairLog ++ b.lanes,
        (s.powerOn b).regs.repairLanes.get p.1 = some (p.2 % 64)) ∧
      ∀ t, t < 4 → (s.powerOn b).scrub.get ((s.powerOn b).towerId t) = some 0 := by
  have number : BringUp.number b = b.pkg % 256 := by simp [BringUp.number, h]
  have repaired : s.repaired b = (s.wiped b).repairAll (s.regs.repairLog ++ b.lanes) := if_neg (by omega)
  have fresh := s.fresh_powerOn b
  rw [number] at fresh
  rw [State.powerOn_eq, h, number] at fresh ⊢
  obtain ⟨ready, pkg⟩ := bringUpStatus_ready (b.pkg % 256)
  refine ⟨fresh, ready, pkg.trans (Nat.mod_mod _ _), fun hl hr => ?_, fun nd => ?_, fun t ht => ?_⟩
  · rw [repaired, hl, hr]
    exact ⟨rfl, rfl, rfl, hr, rfl, rfl⟩
  · rw [repaired]
    exact (State.repairLanes_repairAll nd fun _ _ => rfl).2
  · interval_cases t <;> simp [Table.get, State.towerId]

/-- A power-on with a step that fails (R382). -/
theorem powerOn_recovery (s : State) {b : BringUp} (h : BringUp.code b ≠ 0) :
    (s.powerOn b).Fresh (if BringUp.code b = 1 ∨ BringUp.code b = 4 then 0 else b.pkg % 256) ∧
      bitAt (s.powerOn b).regs.hstatus 63 = false ∧ bitAt (s.powerOn b).regs.hstatus 62 = true ∧
      bits (s.powerOn b).regs.hstatus 15 8 = BringUp.code b := by
  have number : BringUp.number b = if BringUp.code b = 1 ∨ BringUp.code b = 4 then 0 else b.pkg % 256 := by simp [BringUp.number]
  have small : BringUp.code b < 256 := by unfold BringUp.code; split_ifs <;> decide
  have fresh := s.fresh_powerOn b
  rw [number] at fresh
  exact ⟨fresh, bringUpStatus_recovery (BringUp.number b) h small⟩

/-- The code of a bring-up is that of its first step that fails (R382). -/
theorem BringUp.code_eq (b : BringUp) : BringUp.code b = if b.calibrated = false then 1 else if b.pkg % 256 = 255 then 4
    else if b.memoryOk = false then 2 else if b.signatureOk = false then 3 else 0 := by
  simp [BringUp.code]

/-- A cold reset is a power-on that succeeds, with the same number (R352). -/
theorem coldReset_ready {s : State} (h : s.pkg < 255) : ∃ u, exec .coldReset s = .next u ∧ u.Fresh s.pkg ∧
    bitAt u.regs.hstatus 63 = true ∧ bits u.regs.hstatus 7 0 = s.pkg := by
  have small : s.pkg % 256 = s.pkg := Nat.mod_eq_of_lt (by omega)
  have code : BringUp.code ⟨true, s.pkg, true, true, s.regs.failedLanes⟩ = 0 := by
    rw [BringUp.code_eq]; simp; omega
  obtain ⟨fresh, ready, pkg, _⟩ := powerOn_ready s code
  rw [small] at fresh pkg
  exact ⟨_, rfl, fresh, ready, pkg⟩

/-! ## Warm reset (R351, R352) -/

/-- A cluster at reset but for its retired column (R352). -/
def Cluster.repairsOnly (c : Cluster) : Cluster :=
  { Cluster.reset with arr := { Arr.reset with retired := c.arr.retired } }

/-- The package after a warm reset, before the repairs of its bring-up, which ends with a code. -/
def State.warmed (s : State) (kept : Bool) (code : Nat) : State :=
  { s with
    fresh := s.fresh + 2
    cores := []
    mail := []
    lines := s.lines.map fun (l, li) => (l, s.afterWarm kept l li)
    banks := s.banks.mapVals fun b => { b with reserved := 0 }
    scratch := if kept then s.scratch else []
    posted := []
    regions := []
    l2 := []
    walks := []
    clusters := Table.mapVals (s.clusters.filter fun p => p.2.arr.retired.isSome) Cluster.repairsOnly
    twig := []
    engines := []
    jobs := []
    launches := []
    faultq := []
    reserved := none
    hostq := []
    turnReq := true
    regs := { s.regs with
      rststat := BitVec.ofNat 64 (2 + if kept then 1 else 0)
      mgmtStat := []
      preempt := 0
      preempting := none
      jobdesc := 0
      jobctl := 0
      admitting := none
      boot := s.fresh + 1
      repairLanes := []
      hstatus := BitVec.ofNat 64 ((if code = 0 then 0 else 2 ^ 62 + code * 256) + s.pkg % 256) } }

/-- A warm reset leaves the package as `warmed` but for the repairs, its bring-up ended, or failed at self-calibration or at
the signature (R382, log 32). -/
theorem warmReset_spec (s : State) (kept : Bool) : ∃ u code, exec (.warmReset kept) s = .next u ∧
    (code = 0 ∨ code = 1 ∨ code = 3) ∧ (s.warmed kept code).Repairs u := by
  have code : (s.warmCode).1 = 0 ∨ (s.warmCode).1 = 1 ∨ (s.warmCode).1 = 3 := by
    simp only [State.warmCode]
    split_ifs <;> simp
  refine ⟨if (s.warmCode).1 = 1 then s.warmed kept (s.warmCode).1
    else (s.warmed kept (s.warmCode).1).repairAll (s.regs.repairLog ++ Config.warmScan (s.fresh + 1)),
    (s.warmCode).1, rfl, code, ?_⟩
  split
  · exact State.Repairs.refl _
  · exact State.repairs_repairAll _ _

/-- HSTATUS after a warm reset: not READY, and in RECOVERY after a step that failed. -/
theorem State.hstatus_warmed (s : State) (kept : Bool) {code : Nat} (h : code = 0 ∨ code = 1 ∨ code = 3) :
    bitAt (s.warmed kept code).regs.hstatus 63 = false ∧
      (bitAt (s.warmed kept code).regs.hstatus 62 = true →
        bits (s.warmed kept code).regs.hstatus 15 8 = 1 ∨ bits (s.warmed kept code).regs.hstatus 15 8 = 3) := by
  have pkg : s.pkg % 256 < 256 := Nat.mod_lt _ (by decide)
  have word : (s.warmed kept code).regs.hstatus =
      BitVec.ofNat 64 ((if code = 0 then 0 else 2 ^ 62 + code * 256) + s.pkg % 256) := rfl
  have fits : (if code = 0 then 0 else 2 ^ 62 + code * 256) + s.pkg % 256 < 2 ^ 64 := by split <;> omega
  rw [word, bitAt_ofNat fits, bitAt_ofNat fits, bits_ofNat _ _ fits, decide_eq_false_iff_not, decide_eq_true_iff]
  rcases h with rfl | rfl | rfl
  · exact ⟨by simp; omega, fun h => by simp at h; omega⟩
  · exact ⟨by simp; omega, fun _ => by simp; omega⟩
  · exact ⟨by simp; omega, fun _ => by simp; omega⟩

/-- RSTSTAT after a warm reset: WARM, and RETAINED when the crown was kept (R351). -/
theorem rststat_warm (kept : Bool) : bits (BitVec.ofNat 64 (2 + if kept then 1 else 0)) 1 0 = 2 + (if kept then 1 else 0) ∧
    bitAt (BitVec.ofNat 64 (2 + if kept then 1 else 0)) 1 = true := by
  cases kept <;> decide

/-- A column that was retired stays so, and nothing else of a cluster is kept (R352). -/
theorem State.cluster_warmed {s : State} (nd : s.clusters.keys.Nodup) (kept : Bool) (code cl : Nat) :
    (s.warmed kept code).cluster cl = (s.cluster cl).repairsOnly := by
  have listed := Table.getD_mapVals (s.clusters.filter fun p => p.2.arr.retired.isSome) Cluster.repairsOnly cl Cluster.reset
  refine listed.trans ?_
  rw [Table.getD, Table.get_filterVals nd fun c => c.arr.retired.isSome, State.cluster, Table.getD]
  cases s.clusters.get cl with
  | none => rfl
  | some c =>
    cases h : c.arr.retired with
    | none => simp [Option.filter, h, Cluster.repairsOnly]; rfl
    | some k => simp [Option.filter, h]

/-- A line with no record has no copy to lose. -/
theorem State.copyLost_of_reset {s : State} {l : Nat} (h : s.line l = .reset) (kept : Bool) : s.copyLost kept l = false := by
  simp [State.copyLost, h, LineInfo.reset, LineInfo.owned]

theorem State.line_warmed (s : State) (kept : Bool) (code l : Nat) :
    (s.warmed kept code).line l = s.afterWarm kept l (s.line l) := by
  show Table.getD (s.lines.map fun (l, li) => (l, s.afterWarm kept l li)) l LineInfo.reset = _
  rw [Table.getD, Table.get_mapKeyed]
  cases h : s.lines.get l with
  | none =>
    have unlisted : s.line l = .reset := by simp [State.line, Table.getD, h]
    simp [unlisted, afterWarm, copyLost_of_reset unlisted, LineInfo.reset]
  | some li => simp [State.line, Table.getD, h]

/-- A line after a warm reset: its copy lost or as before, in no tree bank, and nothing else changed (R352). -/
theorem State.afterWarm_spec (s : State) (kept : Bool) (l : Nat) (li : LineInfo) :
    (s.afterWarm kept l li).copy = (if s.copyLost kept l = true then .lost else li.copy) ∧
      (∀ b, (s.afterWarm kept l li).place ≠ .tree b) ∧
      { s.afterWarm kept l li with copy := li.copy, place := li.place } = li := by
  refine ⟨rfl, fun b => ?_, rfl⟩
  simp only [afterWarm]
  split
  · exact nofun
  · split <;> exact nofun
  · exact nofun

/-- The copy in a tree bank of a line that its home owns does not survive (R352). -/
theorem State.copyLost_of_tree {s : State} {l : Nat} (kept : Bool) (owned : (s.line l).owned = true)
    (here : (s.line l).owner / 4 = s.pkg) (tree : ∃ b, (s.line l).place = .tree b)
    (home : (s.line l).owner = homeOf (128 * l)) : s.copyLost kept l = true := by
  obtain ⟨b, tree⟩ := tree
  rw [home] at here
  simp [State.copyLost, owned, home, here, tree]

/-! ## Function-level reset (R353) -/

namespace State

/-- t is s after the writes of some agents were performed and copy jobs stopped. -/
def Releases (s t : State) : Prop :=
  ∃ clusters twig scratch posted faultq engines, t = { s with
    clusters := clusters, twig := twig, scratch := scratch, posted := posted, faultq := faultq, engines := engines }

theorem Releases.refl (s : State) : s.Releases s := ⟨_, _, _, _, _, _, rfl⟩

theorem Releases.trans {s t u : State} (h : s.Releases t) (k : t.Releases u) : s.Releases u := by
  obtain ⟨_, _, _, _, _, _, rfl⟩ := h
  obtain ⟨_, _, _, _, _, _, rfl⟩ := k
  exact ⟨_, _, _, _, _, _, rfl⟩

theorem releases_foldl {α : Type} {f : State → α → State} (hf : ∀ (s : State) x, s.Releases (f s x)) (l : List α) (s : State) :
    s.Releases (l.foldl f s) := by
  induction l generalizing s with
  | nil => exact Releases.refl s
  | cons x l ih => exact (hf s x).trans (ih _)

theorem releases_setCluster (s : State) (cl : Nat) (c : Cluster) : s.Releases (s.setCluster cl c) :=
  ⟨_, _, _, _, _, _, rfl⟩

theorem releases_setEngine (s : State) (e : Nat) (x : Engine) : s.Releases (s.setEngine e x) := ⟨_, _, _, _, _, _, rfl⟩

/-- The writes of an agent that are performed reach crown scratch and leaf stores alone (R60, R77). -/
theorem releases_performAll (s : State) (agent : Nat) : s.Releases (s.performAll agent) := by
  obtain ⟨_, drained, _⟩ := s.drainPosted_spec agent
  have scratch : s.Releases (s.drainPosted agent) := drained ▸ ⟨_, _, _, _, _, _, rfl⟩
  have leaf (t : State) (p : TwigWrite → Bool) : t.Releases (t.twigPerform p) :=
    Releases.trans ⟨_, _, _, _, _, _, rfl⟩ (releases_foldl (fun u _ => u.releases_setCluster _ _) _ _)
  exact scratch.trans (leaf _ _)

theorem releases_copyStop (s : State) (e k : Nat) : s.Releases (s.copyStop e k) := by
  refine (s.releases_performAll (s.jobAgent e k)).trans ?_
  have claims (t : State) (j : CopyJob) (f : Buf → Buf) : t.Releases (t.onBufs j f) :=
    releases_foldl (fun u _ => u.releases_setCluster _ _) _ _
  have faults (t : State) (p : FaultItem → Bool) : t.Releases (t.dropFaults p) := ⟨_, _, _, _, _, _, rfl⟩
  exact (((claims _ _ _).trans (faults _ _)).trans (releases_foldl (fun u _ => u.releases_setEngine _ _) _ _)).trans
    (releases_setEngine _ _ _)

/-! ### Launches by job and id -/

/-- A snapshot that takes the place of the one with its job and id. -/
theorem launch?_setLaunch (s : State) (l : Launch) (job lid : Nat) : (s.setLaunch l).launch? job lid =
    if l.job = job ∧ l.id = lid then (s.launch? job lid).map fun _ => l else s.launch? job lid := by
  simp only [launch?, setLaunch]
  induction s.launches with
  | nil => simp
  | cons x ls ih =>
    rw [List.map_cons, List.find?_cons, List.find?_cons, ih]
    by_cases hk : l.job = job ∧ l.id = lid
    · obtain ⟨rfl, rfl⟩ := hk
      cases hx : decide (x.job = l.job) && decide (x.id = l.id) <;> simp [hx]
    · have other : (decide (l.job = job) && decide (l.id = lid)) = false := by simpa using hk
      by_cases hx : x.job = l.job ∧ x.id = l.id <;> simp [hx, hk, other]

/-- The launch of a job with an id has been cancelled. -/
def Stopped (s : State) (job lid : Nat) : Prop := ∃ x, s.launch? job lid = some x ∧ x.cancelled = true

/-- The launches of a list cancelled. -/
def cancelAll (s : State) (ls : List Launch) : State := ls.foldl (fun s l => s.setLaunch { l with cancelled := true }) s

theorem Stopped.cancelAll {s : State} {job lid : Nat} (h : s.Stopped job lid) (ls : List Launch) :
    (s.cancelAll ls).Stopped job lid := by
  induction ls generalizing s with
  | nil => exact h
  | cons l ls ih =>
    refine ih ?_
    obtain ⟨x, found, cancelled⟩ := h
    rw [Stopped, launch?_setLaunch, found]
    split
    · exact ⟨_, rfl, rfl⟩
    · exact ⟨x, rfl, cancelled⟩

/-- Each launch of the list is cancelled that the package has. -/
theorem stopped_cancelAll {s : State} {ls : List Launch} {l : Launch} (hl : l ∈ ls)
    (h : (s.launch? l.job l.id).isSome = true) : (s.cancelAll ls).Stopped l.job l.id := by
  induction ls generalizing s with
  | nil => exact absurd hl nofun
  | cons x ls ih =>
    obtain ⟨y, found⟩ := Option.isSome_iff_exists.1 h
    by_cases same : x.job = l.job ∧ x.id = l.id
    · refine Stopped.cancelAll ?_ ls
      rw [Stopped, launch?_setLaunch, found, if_pos same]
      exact ⟨_, rfl, rfl⟩
    · refine ih ((List.mem_cons.1 hl).resolve_left fun e => same ⟨by rw [e], by rw [e]⟩) ?_
      rw [launch?_setLaunch, if_neg same]
      exact h

/-- A launch of another job stays as it is. -/
theorem mem_cancelAll {s : State} {ls : List Launch} {l : Launch} (hl : l ∈ s.launches) (h : ∀ x ∈ ls, x.job ≠ l.job) :
    l ∈ (s.cancelAll ls).launches := by
  induction ls generalizing s with
  | nil => exact hl
  | cons x ls ih =>
    refine ih (List.mem_map.2 ⟨l, hl, if_neg ?_⟩) fun y hy => h y (List.mem_cons_of_mem _ hy)
    simp [(h x List.mem_cons_self).symm]

theorem cancelAll_eq (s : State) (ls : List Launch) : s.cancelAll ls = { s with launches := (s.cancelAll ls).launches } := by
  induction ls generalizing s with
  | nil => rfl
  | cons x ls ih => exact ih (s.setLaunch { x with cancelled := true })

/-! ### CANCEL.JOB of each job of the function -/

/-- The state with the watches of a job's root cores gone. -/
def unwatched (s : State) (n : Nat) : State :=
  { s with cores := s.cores.mapVals fun c => { c with watches := c.watches.filter fun w => w.job ≠ n } }

/-- The copy jobs of a job stopped. -/
def copiesStopped (s : State) (n : Nat) : State := (s.copyJobsOf n).foldl (fun s (e, k) => s.copyStop e k) s

/-- CANCEL.JOB of an admitted job: its copy jobs stop, its watches go, and each of its launches that has not begun to end is
cancelled (R285). -/
theorem cancelJob_eq {s : State} {n : Nat} {j : Job} (h : s.job n = some j) : (s.cancel n .job 0).2 =
    ((s.copiesStopped n).unwatched n).cancelAll ((s.ofJob n).filter fun l => l.cancelledBy j .job 0) := by
  rw [cancel, h]; rfl

/-- A root core as it was but for its watches. -/
def SameCores (s t : State) : Prop := ∀ n, { t.core n with watches := [] } = { s.core n with watches := [] }

theorem sameCores_unwatched (s : State) (n : Nat) : s.SameCores (s.unwatched n) := fun k => by
  have core := Table.getD_mapVals s.cores
    (fun c : Core => { c with watches := c.watches.filter fun w => w.job ≠ n }) k Core.reset
  exact congrArg (fun c : Core => { c with watches := [] }) core

/-- What CANCEL.JOB keeps: jobs, lines, memory, HBM data, and the root cores but for their watches. -/
structure Cancels (s t : State) : Prop where
  jobs : t.jobs = s.jobs
  lines : t.lines = s.lines
  mem : t.mem = s.mem
  hbm : t.hbm = s.hbm
  cores : s.SameCores t

theorem Cancels.refl (s : State) : s.Cancels s := ⟨rfl, rfl, rfl, rfl, fun _ => rfl⟩

theorem Cancels.trans {s t u : State} (h : s.Cancels t) (k : t.Cancels u) : s.Cancels u :=
  ⟨k.jobs.trans h.jobs, k.lines.trans h.lines, k.mem.trans h.mem, k.hbm.trans h.hbm,
    fun n => (k.cores n).trans (h.cores n)⟩

theorem releases_copiesStopped (s : State) (n : Nat) : s.Releases (s.copiesStopped n) :=
  releases_foldl (fun u (e, k) => u.releases_copyStop e k) (s.copyJobsOf n) s

theorem cancels_cancelJob (s : State) (n : Nat) : s.Cancels (s.cancel n .job 0).2 := by
  cases h : s.job n with
  | none => rw [cancel, h]; exact Cancels.refl s
  | some j =>
    rw [cancelJob_eq h, cancelAll_eq]
    obtain ⟨_, _, _, _, _, _, stopped⟩ := s.releases_copiesStopped n
    have cores := sameCores_unwatched (s.copiesStopped n) n
    rw [stopped] at cores ⊢
    exact ⟨rfl, rfl, rfl, rfl, cores⟩

theorem launches_cancelJob {s : State} {n : Nat} {j : Job} (h : s.job n = some j) {l : Launch} (hl : l ∈ s.launches) :
    (l.job ≠ n → l ∈ (s.cancel n .job 0).2.launches) ∧
      (l.job = n → l.cancelledBy j .job 0 = true → (s.cancel n .job 0).2.Stopped l.job l.id) := by
  rw [cancelJob_eq h]
  obtain ⟨_, _, _, _, _, _, stopped⟩ := s.releases_copiesStopped n
  have kept : ((s.copiesStopped n).unwatched n).launches = s.launches := by rw [stopped]; rfl
  refine ⟨fun other => mem_cancelAll (kept ▸ hl) fun x hx => ?_, fun same stops => stopped_cancelAll ?_ ?_⟩
  · have job := (List.mem_filter.1 (List.mem_filter.1 hx).1).2
    exact fun e => other (e.symm.trans (of_decide_eq_true job))
  · exact List.mem_filter.2 ⟨List.mem_filter.2 ⟨hl, decide_eq_true same⟩, stops⟩
  · rw [launch?, kept, List.find?_isSome]
    exact ⟨l, hl, by simp⟩

theorem Stopped.cancelJob {s : State} {job lid : Nat} (h : s.Stopped job lid) (n : Nat) :
    (s.cancel n .job 0).2.Stopped job lid := by
  cases hj : s.job n with
  | none => rw [cancel, hj]; exact h
  | some j =>
    rw [cancelJob_eq hj]
    obtain ⟨_, _, _, _, _, _, stopped⟩ := s.releases_copiesStopped n
    refine Stopped.cancelAll ?_ _
    rw [stopped]
    exact h

/-- CANCEL.JOB on each job of a list. -/
def cancelJobs (s : State) (ns : List Nat) : State := ns.foldl (fun s n => (s.cancel n .job 0).2) s

theorem cancels_cancelJobs (s : State) (ns : List Nat) : s.Cancels (s.cancelJobs ns) := by
  induction ns generalizing s with
  | nil => exact Cancels.refl s
  | cons n ns ih => exact (s.cancels_cancelJob n).trans (ih _)

theorem Stopped.cancelJobs {s : State} {job lid : Nat} (h : s.Stopped job lid) (ns : List Nat) :
    (s.cancelJobs ns).Stopped job lid := by
  induction ns generalizing s with
  | nil => exact h
  | cons n ns ih => exact ih (h.cancelJob n)

/-- Each launch of one of the jobs that has not begun to end is cancelled. -/
theorem stopped_cancelJobs {s : State} {ns : List Nat} {l : Launch} {j : Job} (hl : l ∈ s.launches) (hn : l.job ∈ ns)
    (hj : s.job l.job = some j) (stops : l.cancelledBy j .job 0 = true) : (s.cancelJobs ns).Stopped l.job l.id := by
  induction ns generalizing s with
  | nil => exact absurd hn nofun
  | cons n ns ih =>
    by_cases same : l.job = n
    · subst same
      exact Stopped.cancelJobs ((launches_cancelJob hj hl).2 rfl stops) ns
    · have after : (s.cancel n .job 0).2.job l.job = some j := by rw [job, (s.cancels_cancelJob n).jobs]; exact hj
      refine ih (s := (s.cancel n .job 0).2) ?_ ((List.mem_cons.1 hn).resolve_left same) after
      cases h : s.job n with
      | none => rw [cancel, h]; exact hl
      | some _ => exact (launches_cancelJob h hl).1 same

/-- The jobs of a function. -/
def jobsOf (s : State) (vf : Nat) : List Nat := (s.jobs.filter fun p => p.2.vf = vf).map (·.1)

theorem mem_jobsOf {s : State} {n vf : Nat} {j : Job} (h : s.job n = some j) (hv : j.vf = vf) : n ∈ s.jobsOf vf :=
  List.mem_map.2 ⟨(n, j), List.mem_filter.2 ⟨Table.mem_of_get h, decide_eq_true hv⟩, rfl⟩

theorem jobsOf_subset {s : State} {n vf : Nat} (h : n ∈ s.jobsOf vf) : ∃ p ∈ s.jobs, p.1 = n := by
  obtain ⟨p, hp, e⟩ := List.mem_map.1 h
  exact ⟨p, (List.mem_filter.1 hp).1, e⟩

/-- A root core after the reset of some jobs' function. -/
def resetCore (ns : List Nat) (c : Core) : Core := if ns.contains c.job then Core.halted' else c

theorem functionLevelReset_eq (s : State) (vf : Nat) : exec (.functionLevelReset vf) s =
    .next { s.cancelJobs (s.jobsOf vf) with
      cores := (s.cancelJobs (s.jobsOf vf)).cores.mapVals (resetCore (s.jobsOf vf)) } := rfl

end State

/-- A turn advance after a warm reset makes the package READY, unless the bring-up failed (R352). -/
theorem State.hstatus_warmReady {s : State} (warm : bitAt s.regs.rststat 1 = true) (busy : bitAt s.regs.hstatus 63 = false) :
    bitAt s.warmReady.regs.hstatus 63 = !bitAt s.regs.hstatus 62 := by
  cases failed : bitAt s.regs.hstatus 62 with
  | true => simp [State.warmReady, failed, busy]
  | false =>
    have small : 2 ^ 63 + s.pkg % 256 < 2 ^ 64 := by omega
    have ready : s.warmReady.regs.hstatus = BitVec.ofNat 64 (2 ^ 63 + s.pkg % 256) := by
      simp [State.warmReady, warm, busy, failed]
    rw [ready, bitAt_ofNat small]
    exact decide_eq_true (by omega)

theorem turnAdvance_of_warmed {s u : State} {kept : Bool} {code : Nat} (h : (s.warmed kept code).Repairs u)
    (busy : bitAt u.regs.hstatus 63 = false) (swept : ∀ t, t < 4 → 2 ^ 30 ≤ s.scrub.getD (s.towerId t) 0) :
    ∃ v, exec .turnAdvance u = .next v ∧ v.turn = !s.turn ∧ bitAt v.regs.hstatus 63 = !bitAt u.regs.hstatus 62 := by
  obtain ⟨_, _, _, _, _, _, rfl⟩ := h
  refine ⟨_, turnAdvance_of_swept rfl swept, ?_, ?_⟩
  · obtain ⟨_, e⟩ := State.warmReady_eq (State.newTurn _)
    rw [e]
    rfl
  · exact State.hstatus_warmReady (rststat_warm kept).2 busy

/-- What a warm reset leaves (R351, R352). -/
theorem warmReset_leaves (s : State) (kept : Bool) :
    ∃ u, exec (.warmReset kept) s = .next u ∧ (∀ n, u.core n = Core.reset) ∧ u.launches = [] ∧ u.jobs = [] ∧
      (s.clusters.keys.Nodup → ∀ cl, u.cluster cl = (s.cluster cl).repairsOnly) ∧
      u.hbm = s.hbm ∧ u.mem = s.mem ∧ u.turnReq = true ∧ bitAt u.regs.hstatus 63 = false ∧
      bits u.regs.rststat 1 0 = 2 + (if kept then 1 else 0) ∧ u.scratch = (if kept then s.scratch else []) ∧
      (∀ l, u.line l = s.afterWarm kept l (s.line l)) ∧
      (bitAt u.regs.hstatus 62 = true → bits u.regs.hstatus 15 8 = 1 ∨ bits u.regs.hstatus 15 8 = 3) ∧
      ((∀ t, t < 4 → 2 ^ 30 ≤ s.scrub.getD (s.towerId t) 0) →
        ∃ v, exec .turnAdvance u = .next v ∧ v.turn = !s.turn ∧ bitAt v.regs.hstatus 63 = !bitAt u.regs.hstatus 62) := by
  obtain ⟨u, code, e, hcode, repairs⟩ := warmReset_spec s kept
  have advance := turnAdvance_of_warmed repairs
  obtain ⟨busy, recovery⟩ := s.hstatus_warmed kept hcode
  have cluster (nd : s.clusters.keys.Nodup) (cl : Nat) := State.cluster_warmed nd kept code cl
  have line := s.line_warmed kept code
  refine ⟨u, e, ?_⟩
  obtain ⟨_, _, _, _, _, _, rfl⟩ := repairs
  exact ⟨fun _ => rfl, rfl, rfl, cluster, rfl, rfl, rfl, busy, (rststat_warm kept).1, rfl, line, recovery, advance busy⟩

/-- What a reset of a function leaves (R353). -/
theorem functionLevelReset_leaves {s : State} (free : s.job 0xFFFF = none) (vf : Nat) :
    ∃ u, exec (.functionLevelReset vf) s = .next u ∧ u.lines = s.lines ∧ u.mem = s.mem ∧ u.hbm = s.hbm ∧
      (∀ l ∈ s.launches, ∀ j, s.job l.job = some j → j.vf = vf → l.cancelledBy j .job 0 = true → u.Stopped l.job l.id) ∧
      (∀ n j, s.job (s.core n).job = some j → j.vf = vf → u.core n = Core.halted') ∧
      ∀ n, (∀ p ∈ s.jobs, p.1 ≠ (s.core n).job) → { u.core n with watches := [] } = { s.core n with watches := [] } := by
  have kept := s.cancels_cancelJobs (s.jobsOf vf)
  have unlisted : State.resetCore (s.jobsOf vf) Core.reset = Core.reset := by
    refine if_neg fun h => ?_
    obtain ⟨p, hp, e⟩ := State.jobsOf_subset (List.contains_iff_mem.1 h)
    exact Table.get_eq_none_iff.1 free (List.mem_map.2 ⟨p, hp, e⟩)
  have job (n : Nat) : ((s.cancelJobs (s.jobsOf vf)).core n).job = (s.core n).job :=
    (congrArg Core.job (kept.cores n) :)
  have core (n : Nat) : Table.getD ((s.cancelJobs (s.jobsOf vf)).cores.mapVals (State.resetCore (s.jobsOf vf))) n Core.reset =
      State.resetCore (s.jobsOf vf) ((s.cancelJobs (s.jobsOf vf)).core n) := by
    have all := Table.getD_mapVals (s.cancelJobs (s.jobsOf vf)).cores (State.resetCore (s.jobsOf vf)) n Core.reset
    rwa [unlisted] at all
  refine ⟨_, s.functionLevelReset_eq vf, kept.lines, kept.mem, kept.hbm, fun l hl j hj hv stops => ?_, fun n j hj hv => ?_,
    fun n hn => ?_⟩
  · exact State.stopped_cancelJobs hl (State.mem_jobsOf hj hv) hj stops
  · refine (core n).trans (if_pos ?_)
    rw [job]
    exact List.contains_iff_mem.2 (State.mem_jobsOf hj hv)
  · have other : State.resetCore (s.jobsOf vf) ((s.cancelJobs (s.jobsOf vf)).core n) =
        (s.cancelJobs (s.jobsOf vf)).core n := by
      refine if_neg fun h => ?_
      rw [job] at h
      obtain ⟨p, hp, e⟩ := State.jobsOf_subset (List.contains_iff_mem.1 h)
      exact hn p hp e
    exact (congrArg (fun c : Core => { c with watches := [] }) ((core n).trans other)).trans (kept.cores n)

end Sys2Proof.Machine

/-- Settles O60: power-on from the cleared package and its repairs, a warm reset part by part, and a function's reset as the
  cancels of its jobs. -/
theorem resetsOfThePackage : Obligations.ResetsOfThePackage := by
  unfold Obligations.ResetsOfThePackage
  intro s
  refine ⟨fun b => ⟨fun hc hm hs hp => ?_, fun code hcode h0 => ?_⟩, coldReset_ready, fun kept => ?_, fun vf free => ?_⟩
  · have ok : BringUp.code b = 0 := by simp [BringUp.code_eq, hc, hm, hs, hp]
    exact ⟨_, rfl, powerOn_ready s ok⟩
  · rw [← BringUp.code_eq] at hcode
    subst hcode
    exact ⟨_, rfl, powerOn_recovery s h0⟩
  · obtain ⟨u, e, cores, launches, jobs, clusters, hbm, mem, req, busy, rst, scratch, line, recovery, advance⟩ :=
      warmReset_leaves s kept
    refine ⟨u, e, cores, launches, jobs, clusters, hbm, mem, req, busy, rst, scratch, fun l => ?_,
      fun l owned here tree home => State.copyLost_of_tree kept owned here tree home, recovery, advance⟩
    rw [line]
    exact s.afterWarm_spec kept l (s.line l)
  · obtain ⟨u, e, lines, mem, hbm, launches, halted, others⟩ := functionLevelReset_leaves free vf
    refine ⟨u, e, lines, mem, hbm, fun l hl j hj hv live good going => ?_, halted, others⟩
    exact launches l hl j hj hv (by simp [Launch.cancelledBy, live, good, going])

end

/-! # O55: fault records and FRESUME -/

section
open Sys2Proof Sys2Proof.Machine Sys2Proof.Claims
namespace Sys2Proof.Machine

/-!
FRESUME reads the record's ID in memory (log 66). That read translates the address of the fault queue, and a translation can be
a home agent's atomic step: one that sets ACC in the page's entry (R41). It raises the clock that the home agents share, and
that clock is a management core's (R342). So the unit's clock is raised to the clock after the read, and not, as the statement
has it, to the clock before.
-/

/-- A job whose fault queue, of one entry, lies at virtual address 0, with one record written. -/
def queueJob : Job where
  asid := 0
  vf := 0
  ceiling := 0
  drainwin := 0
  tbase := 0
  tmplBase := 0
  tcount := 0
  pooln := 0
  reserve := 0
  pqbase := 0
  pqcap := 0
  fqbase := 0
  ctlcore := 0
  fqn := 1
  ended := 0
  ctxbase := 0
  ctxper := 0
  templates := []
  nextId := 0
  faults := 1
  barrier := 0

/-- A fault of slot 0 of copy engine 0, in entry 0 of the queue, with ID 0 and RETRY among its OPTIONS. -/
def stalledCopy : FaultItem := ⟨0, some 0, [BitVec.ofNat 64 (2 ^ 48)], .copy 0 0, 0, 0⟩

/-- The job and its fault; the leaf entry of the queue's page, at 0x1000, is 0x2007: V, LEAF and RD, without ACC. -/
def unmarkedQueue : State :=
  { State.reset with
    mem := [(0x1000, 0x07), (0x1001, 0x20)]
    walks := [(0, [⟨0, 2, 0, 0x1000⟩])]
    jobs := [(0, queueJob)]
    faultq := [stalledCopy] }

theorem faultsAt_unmarkedQueue : ((unmarkedQueue.performWriter (.mgmt 0)).faultsAt 0 0
    ((unmarkedQueue.performWriter (.mgmt 0)).fresumeJobs (.mgmt 0))).1 = [stalledCopy] := by
  decide

/-- The clock that a management core has in a state, and the clock of copy job 0 of engine 0 after its RETRY. -/
theorem fresume_unmarkedQueue : unmarkedQueue.writerClock (.mgmt 0) = 0 ∧
    ∃ u, exec (.fresumeRetry (.mgmt 0) 0 0) unmarkedQueue = .next u ∧ (u.copyJob 0 0).pts = 1 :=
  ⟨rfl, _, rfl, by decide⟩

end Sys2Proof.Machine

/-- Refutes O55: the read of a record by a management core's FRESUME sets ACC in the entry of the fault queue's page, which
  moves that core's clock from 0 to 1; the copy job's clock is raised to 1. -/
theorem not_faultRecordsAndResumption : ¬ Obligations.FaultRecordsAndResumption := by
  unfold Obligations.FaultRecordsAndResumption
  intro h
  obtain ⟨_, _, fresume⟩ := h unmarkedQueue
  obtain ⟨_, retry, _⟩ := fresume (.mgmt 0) 0 0
  obtain ⟨_, _, one⟩ := retry.2 rfl
  obtain ⟨u, e, _, _, copy, _⟩ := (one stalledCopy faultsAt_unmarkedQueue).2 rfl
  obtain ⟨_, v, e', after⟩ := fresume_unmarkedQueue
  obtain rfl : u = v := Host.Outcome.next.inj (e.symm.trans e')
  have before : (u.copyJob 0 0).pts = 0 := (copy 0 0 rfl).2
  exact absurd (before.symm.trans after) (by decide)

end

/-! # Lines that move between the caches and HBM -/

section
open Sys2Proof Sys2Proof.Machine Sys2Proof.Claims
namespace Sys2Proof.Machine

/-!
A line that enters or leaves a way or a tree bank may be written back to HBM, and other lines with it. `Keeps` says what every
such step keeps, loads included: the bytes of memory, and HBM but for latest versions written back to it. `Moves` says of steps
other than loads and stores that they keep each line's timestamps too.
-/

namespace State

/-- t is s after steps on lines that store nothing. -/
structure Keeps (s t : State) : Prop where
  steps : s.LineSteps t
  mem : t.mem = s.mem
  backed : backed s t

/-- t is s after lines have moved between the caches and HBM. -/
structure Moves (s t : State) : Prop extends s.Keeps t where
  stamps : ∀ l, (t.line l).wts = (s.line l).wts ∧ (t.line l).rts = (s.line l).rts

variable {s t u : State}

/-- Write-backs after write-backs, of the same bytes of memory. -/
theorem backed_trans (h : backed s t) (hm : t.mem = s.mem) (k : backed t u) : backed s u := fun q => by
  rcases k q with e | e
  · rw [e]; exact h q
  · rw [e, hm]; exact .inr rfl

namespace Keeps

theorem refl (s : State) : s.Keeps s := ⟨.refl s, rfl, fun _ => .inl rfl⟩

theorem trans (h : s.Keeps t) (k : t.Keeps u) : s.Keeps u where
  steps := h.steps.trans k.steps
  mem := k.mem.trans h.mem
  backed := backed_trans h.backed h.mem k.backed

/-- Steps that leave HBM as it is. -/
theorem of_data (h : s.LineSteps t) (hm : t.mem = s.mem) (hh : t.hbm = s.hbm) : s.Keeps t :=
  ⟨h, hm, fun q => .inl (by rw [hh])⟩

end Keeps

namespace Moves

theorem refl (s : State) : s.Moves s := ⟨.refl s, fun _ => ⟨rfl, rfl⟩⟩

theorem trans (h : s.Moves t) (k : t.Moves u) : s.Moves u where
  toKeeps := h.toKeeps.trans k.toKeeps
  stamps l := ⟨(k.stamps l).1.trans (h.stamps l).1, (k.stamps l).2.trans (h.stamps l).2⟩

/-- Steps that leave HBM and the lines as they are. -/
theorem of_data (h : s.LineSteps t) (hm : t.mem = s.mem) (hh : t.hbm = s.hbm) (hl : t.lines = s.lines) : s.Moves t :=
  ⟨.of_data h hm hh, fun l => by simp only [line, hl, and_self]⟩

theorem setLine (s : State) {l : Nat} {li : LineInfo} (hw : li.wts = (s.line l).wts) (hr : li.rts = (s.line l).rts) :
    s.Moves (s.setLine l li) where
  toKeeps := .of_data ((LineSteps.refl s).setLine l li) rfl rfl
  stamps k := by
    by_cases h : k = l
    · subst h; rw [line_setLine]; exact ⟨hw, hr⟩
    · rw [line_setLine_ne s l k li h]; exact ⟨rfl, rfl⟩

theorem logPa (s : State) (kind pa : Nat) : s.Moves (s.logPa kind pa) :=
  .of_data ((LineSteps.refl s).logPa kind pa) (by simp) (by simp) (by simp)

theorem choose (s : State) (n : Nat) : s.Moves (s.choose n).2 := by
  unfold State.choose
  split
  · exact refl s
  · exact .of_data ⟨_, _, _, _, _, _, _, _, _, _, _, rfl, fun a b => ⟨a, b⟩⟩ rfl rfl rfl

theorem noteClock (s : State) (c : Nat) : s.Moves (s.noteClock c) :=
  .of_data ((LineSteps.refl s).noteClock c) (by rw [noteClock_eq]) (by rw [noteClock_eq]) (by rw [noteClock_eq])

theorem setHomeClock (s : State) (p c : Nat) : s.Moves (s.setHomeClock p c) :=
  .of_data ((LineSteps.refl s).setHomeClock p c) rfl rfl rfl

theorem correct (s : State) (T pa : Nat) : s.Moves (s.correct T pa) := by
  simp only [State.correct]
  split
  · refine trans (setLine s ?_ ?_) (logPa _ _ _) <;> rfl
  · exact refl s

theorem pickWay (s : State) (l lo n : Nat) (ls : List Nat) (way : Nat → Nat) : s.Moves (s.pickWay l lo n ls way).2.2 := by
  simp only [State.pickWay]
  split
  · exact refl s
  · exact choose s n

/-- HBM takes the latest version of a line (R20, R25). -/
theorem toHbm (s : State) (l : Nat) : s.Moves (s.toHbm l) where
  steps := (LineSteps.refl s).toHbm l
  mem := rfl
  backed q := by
    rw [State.toHbm, Memory.read_copyFrom]
    split
    · exact .inr rfl
    · exact .inl rfl
  stamps := (setLine s (li := { s.line l with sym := false }) rfl rfl).stamps

theorem writeBackLine (s : State) (l : Nat) : s.Moves (s.writeBackLine l) := by
  simp only [State.writeBackLine]
  split
  · refine trans (setLine s ?_ ?_) (toHbm _ l) <;> rfl
  · exact refl s

theorem noSram (s : State) (l : Nat) : s.Moves (s.noSram l) := by
  simp only [State.noSram]
  split
  · exact writeBackLine s l
  · exact refl s

theorem leaveHome (s : State) (l : Nat) : s.Moves (s.leaveHome l) := by
  simp only [State.leaveHome]
  split
  · exact (writeBackLine s l).trans (setLine _ rfl rfl)
  · exact setLine s rfl rfl

theorem leaveRemote (s : State) (l : Nat) : s.Moves (s.leaveRemote l) := by
  simp only [State.leaveRemote]
  split
  · exact setLine s rfl rfl
  · exact writeBackLine s l

theorem enterHome (s : State) (l : Nat) : s.Moves (s.enterHome l) := by
  simp only [State.enterHome]
  refine trans ?_ (setLine _ rfl rfl)
  split
  · exact (pickWay s ..).trans (leaveHome _ _)
  · exact pickWay s ..

theorem enterRemote (s : State) (T l : Nat) : s.Moves (s.enterRemote T l) := by
  simp only [State.enterRemote]
  split
  · exact refl s
  · refine trans ?_ (setLine _ rfl rfl)
    split
    · exact (pickWay s ..).trans (leaveRemote _ _)
    · exact pickWay s ..

theorem leaveTree (s : State) (l : Nat) : s.Moves (s.leaveTree l) := by
  unfold State.leaveTree
  split
  · exact enterHome s l
  · exact leaveHome s l

theorem enterTree (s : State) (b l : Nat) : s.Moves (s.enterTree b l) := by
  simp only [State.enterTree]
  refine trans ?_ (setLine _ rfl rfl)
  split
  · exact refl s
  · split
    · exact (choose s _).trans (leaveTree _ _)
    · exact choose s _

theorem placeLine (s : State) (cl : Nat) (fromTwig : Bool) (pa : Nat) : s.Moves (s.placeLine cl fromTwig pa) := by
  simp only [State.placeLine]
  split
  · exact refl s
  · split
    · exact enterTree s _ _
    · split
      · exact enterHome s _
      · exact noSram s _

/-- A record that a transaction leaves, and the ways that its new owner's caches make for it. -/
theorem setRecord (s : State) (T l : Nat) (new : LineInfo) : (s.setLine l new).Moves (s.setRecord T l new) := by
  simp only [State.setRecord]
  split
  · exact enterRemote _ T l
  · exact refl _

end Moves

namespace Keeps

theorem setLine (s : State) (l : Nat) (li : LineInfo) : s.Keeps (s.setLine l li) :=
  .of_data ((LineSteps.refl s).setLine l li) rfl rfl

theorem setRecord (s : State) (T l : Nat) (new : LineInfo) : s.Keeps (s.setRecord T l new) :=
  (setLine s l new).trans (Moves.setRecord s T l new).toKeeps

theorem loadLatest (s : State) (T pts pa n : Nat) : s.Keeps (s.loadLatest T pts pa n).2.2 := by
  simp only [State.loadLatest]
  exact (Moves.correct s T pa).toKeeps.trans
    ((setRecord _ _ _ _).trans ((Moves.noteClock _ _).trans (Moves.noteClock _ _)).toKeeps)

/-- A load step stores nothing (R67). -/
theorem loadStep (s : State) (T pts pa n : Nat) : s.Keeps (s.loadStep T pts pa n).2.2 := by
  simp only [State.loadStep]
  split
  · exact (Moves.choose s _).toKeeps.trans (loadLatest _ _ _ _ _)
  · split
    · exact (Moves.choose s _).toKeeps
    · exact (Moves.choose s _).toKeeps.trans (loadLatest _ _ _ _ _)

theorem homeLoad (s : State) (pa n : Nat) : s.Keeps (s.homeLoad pa n).2.2 := by
  simp only [State.homeLoad]
  exact (loadStep s _ _ _ _).trans (Moves.setHomeClock _ _ _).toKeeps

end Keeps

end State

end Sys2Proof.Machine
end

/-! # O13: loads -/

section
open Sys2Proof Sys2Proof.Machine Sys2Proof.Claims
namespace Sys2Proof.Machine

/-! ## Bytes and values -/

/-- The low bytes of a number (R2). -/
theorem leNat_leBytes_mod (n x : Nat) : leNat (leBytes n x) = x % 256 ^ n := by
  induction n generalizing x with
  | zero => rw [Nat.pow_zero, Nat.mod_one]; rfl
  | succ n ih => rw [leBytes, leNat, ih, Nat.pow_succ', Nat.mod_mul, BitVec.toNat_ofNat]

/-- The two's-complement value of a pattern. -/
theorem sextNat_eq_toInt {w : Nat} (hw : 0 < w) (m : Nat) : sextNat w m = (BitVec.ofNat w m).toInt := by
  obtain ⟨k, rfl⟩ := Nat.exists_eq_add_of_lt hw
  simp only [sextNat, BitVec.toInt, BitVec.toNat_ofNat, Nat.zero_add, Nat.add_sub_cancel, Nat.pow_succ]
  exact if_congr (by omega) rfl rfl

/-- What a load of n bytes writes (R250). -/
def loadValue (sx : Bool) (n m : Nat) : Word :=
  if sx then (BitVec.ofNat (8 * n) m).signExtend 64 else BitVec.ofNat 64 m

theorem extend_eq_loadValue (sx : Bool) {bs : List Byte} {n : Nat} (hn : 0 < n) (h : bs.length = n) :
    extend sx bs = loadValue sx n (leNat bs) := by
  subst h
  rw [extend, loadValue, sextNat_eq_toInt (by omega)]
  rfl

theorem loadValue_zero (sx : Bool) (n : Nat) : loadValue sx n 0 = 0 := by
  cases sx
  · rfl
  · simp [loadValue, BitVec.signExtend]

theorem Size.bytes_pos (sz : Size) : 0 < sz.bytes := by cases sz <;> decide

/-! ## Targets of a load (R249) -/

namespace State

variable {s t u : State}

/-- t is s after a load's access: the acting core's clock is p, and only a write-back has changed a memory. -/
structure Loads (s t : State) (p : Nat) : Prop where
  me : t.me = { s.me with pts := p }
  mem : t.mem = s.mem
  backed : backed s t
  scratch : t.scratch = s.scratch

theorem LineSteps.me (h : s.LineSteps t) : t.me = s.me := by rw [State.me, State.me, core, core, h.actor, h.cores]

theorem Keeps.loads (h : s.Keeps t) : s.Loads t s.me.pts := ⟨h.steps.me, h.mem, h.backed, h.steps.scratch⟩

/-- A clock that the access raises, and the line's way into the caches. -/
theorem Keeps.loads_raise {c : Nat} (h : s.Keeps t) (k : (t.setMe (t.me.raise c)).Moves u) :
    s.Loads u (max s.me.pts c) where
  me := by rw [k.steps.me, me_setMe, h.steps.me]; rfl
  mem := k.mem.trans h.mem
  backed := backed_trans h.backed h.mem k.backed
  scratch := k.steps.scratch.trans h.steps.scratch

/-- A load that finds no older version that it may take returns the latest (R67). -/
theorem loadStep_of_latest {T pts pa : Nat} (n : Nat) (h : latest s pts pa) : s.loadStep T pts pa n = s.loadLatest T pts pa n := by
  rw [loadStep, h]
  rfl

theorem loadLatest_bytes (s : State) (T pts pa n : Nat) : (s.loadLatest T pts pa n).1 = s.mem.readN pa n := by
  rw [loadLatest, (Moves.correct s T pa).mem]

theorem loadLatest_clock (s : State) (T pts pa n : Nat) : (s.loadLatest T pts pa n).2.1 = max pts (s.line (lineOf pa)).wts := by
  rw [loadLatest, ((Moves.correct s T pa).stamps _).1]

theorem regRead_keeps (s : State) (w : Writer) (tower : Nat) (r : DevReg) : s.Keeps (s.regRead w tower r).2 := by
  cases r
  case gport p =>
    exact .of_data ⟨_, _, _, _, _, _, _, _, _, _, _, rfl, fun a b => ⟨a, b⟩⟩ rfl rfl
  case celog =>
    simp only [regRead, celogPop]
    split
    · exact .refl s
    · exact .of_data ⟨_, _, _, _, _, _, _, _, _, _, _, rfl, fun a b => ⟨a, b⟩⟩ rfl rfl
  all_goals exact .refl s

/-- A read of the device window finds a register. The lookup stands as a variable in the proof, and `id` keeps it
one, since the kernel would evaluate `devRegAt` on a symbolic offset. -/
theorem devRead_of_regAt (s : State) (n : Nat) {w : Writer} {pa : Nat} {r : DevReg} (h : s.regAt w (homeOf pa % 4) (offOf pa) = r) :
    s.devRead w pa n = (leBytes n ((s.regRead w (homeOf pa % 4) r).1 % 2 ^ 64), (s.regRead w (homeOf pa % 4) r).2) := by
  suffices key : ∀ f, f = State.devRead → f s w pa n = _ from key _ rfl
  intro f hf
  delta State.devRead at hf
  subst hf
  revert h
  generalize State.regAt = register
  revert register
  exact id fun _ h => by subst h; rfl

theorem devRead_keeps (s : State) (w : Writer) (pa n : Nat) : s.Keeps (s.devRead w pa n).2 := by
  obtain ⟨r, h⟩ : ∃ r, s.regAt w (homeOf pa % 4) (offOf pa) = r := ⟨_, rfl⟩
  rw [devRead_of_regAt s n h]
  exact regRead_keeps s _ _ _

section
variable {x : Xlate} {pa : Nat} (n : Nat)

theorem loadTarget_unbacked (h : windowOf pa = .unbacked) : s.loadTarget x pa n = (leBytes n 0, s.logPa 4 pa) := by
  rw [loadTarget, h]

theorem loadTarget_crown (h : windowOf pa = .crown) : s.loadTarget x pa n = (s.scratch.readN pa n, s) := by
  rw [loadTarget, h]; rfl

theorem loadTarget_device (h : windowOf pa = .device) : s.loadTarget x pa n = s.devRead (.root s.actor) pa n := by
  rw [loadTarget, h]

theorem loadTarget_coherent (h : windowOf pa = .hbm) (hx : x.mtype = 0) : s.loadTarget x pa n =
    ((s.loadStep s.myTower s.me.pts pa n).1,
      ((s.loadStep s.myTower s.me.pts pa n).2.2.setMe
        ((s.loadStep s.myTower s.me.pts pa n).2.2.me.raise (s.loadStep s.myTower s.me.pts pa n).2.1)).placeLine
          (s.loadStep s.myTower s.me.pts pa n).2.2.myCluster false pa) := by
  simp only [loadTarget, h, if_pos hx]

theorem loadTarget_uncached (h : windowOf pa = .hbm) (hx : x.mtype ≠ 0) :
    s.loadTarget x pa n = ((s.homeLoad pa n).1, (s.homeLoad pa n).2.2) := by
  simp only [loadTarget, h, if_neg hx]

end

/-- The acting core's clock after a load (R262). -/
def loadClock (s : State) (x : Xlate) (pa n : Nat) : Nat :=
  if windowOf pa = .hbm ∧ x.mtype = 0 then max s.me.pts (s.loadStep s.myTower s.me.pts pa n).2.1 else s.me.pts

theorem loadClock_of_window (s : State) (x : Xlate) (pa n : Nat) (h : windowOf pa ≠ .hbm ∨ x.mtype ≠ 0) :
    s.loadClock x pa n = s.me.pts := if_neg fun k => h.elim (· k.1) (· k.2)

/-- What a load's access leaves, from each kind of target (R249, R262). -/
theorem loadTarget_loads (s : State) (x : Xlate) (pa n : Nat) : s.Loads (s.loadTarget x pa n).2 (s.loadClock x pa n) := by
  by_cases h : windowOf pa = .hbm
  · by_cases hx : x.mtype = 0
    · rw [loadTarget_coherent n h hx, loadClock, if_pos ⟨h, hx⟩]
      exact (Keeps.loadStep s _ _ _ _).loads_raise (Moves.placeLine _ _ _ _)
    · rw [loadTarget_uncached n h hx, s.loadClock_of_window x pa n (.inr hx)]
      exact (Keeps.homeLoad s _ _).loads
  · rw [s.loadClock_of_window x pa n (.inl h)]
    refine Keeps.loads ?_
    unfold loadTarget
    split
    · exact (Moves.logPa s 4 pa).toKeeps
    · rename_i hw; exact absurd hw h
    · exact .refl s
    · exact devRead_keeps s _ _ _

/-! ## The device window -/

variable {tower off : Nat} {r : DevReg}

/-- A register outside the PF block is there for every core. -/
theorem regAt_root (s : State) (h : devRegAt tower off = r) (hr : r.pf = false) : s.regAt (.root s.actor) tower off = r := by
  subst h
  simp [regAt, hr]

/-- A register of the PF block is there for a privileged core alone (R381, log 94). -/
theorem regAt_root_pf (s : State) (h : devRegAt tower off = r) (hr : r.pf = true) :
    s.regAt (.root s.actor) tower off = if s.me.priv then r else .none := by
  subst h
  cases hp : s.me.priv <;> simp [regAt, hr, show (s.core s.actor).priv = s.me.priv from rfl, hp]

end State

/-! Offsets of registers in the device window (R322, R351, R367, R384). -/

theorem devRegAt_jobdesc (tower : Nat) : devRegAt tower (0x20000000000 + 0x1018) = .jobdesc := rfl

theorem devRegAt_rststat (tower : Nat) : devRegAt tower (0x20000000000 + 0x1010) = .rststat := rfl

theorem devRegAt_fencectl (tower : Nat) : devRegAt tower (0x20000000000 + 0x2120) = .fencectl := rfl

/-- No register is at this offset. -/
theorem devRegAt_gap (tower : Nat) : devRegAt tower (0x20000000000 + 0x5000) = .none := rfl

theorem devRegAt_gport (tower : Nat) {p : Nat} (h : p < 12) : devRegAt tower (0x20000000000 + (0x2000 + 8 * p)) = .gport p := by
  simp (disch := omega) only [devRegAt, inRegs, Nat.add_sub_cancel_left, Bool.and_eq_true, decide_eq_true_eq, if_neg, if_pos,
    Nat.mul_div_cancel_left]

theorem devRegAt_attnonce (tower : Nat) {k : Nat} (h : k < 8) :
    devRegAt tower (0x20000000000 + (0x10100 + 8 * k)) = if tower = 0 then .attnonce k else .none := by
  simp (disch := omega) only [devRegAt, inRegs, Nat.add_sub_cancel_left, Bool.and_eq_true, decide_eq_true_eq, if_neg, if_pos,
    Nat.mul_div_cancel_left]

/-- An address of the device window, by its offset in the window (R17). -/
theorem offOf_of_device {pa : Nat} (h : windowOf pa = .device) : offOf pa = 0x20000000000 + (offOf pa - 0x20000000000) := by
  have : 0x20000000000 ≤ offOf pa := by
    simp only [windowOf] at h
    grind
  omega

/-! ## The load instruction -/

namespace State

variable {s s' u : State} {need : Need} {r : Reach} {n p pa : Nat} {ea : Word} {x : Xlate} {tlb : List Xlate}

/-- The state once the acting core has kept the L1 TLB of a translation. -/
def keepTlb (s : State) (tlb : List Xlate) : State := s.setMe { s.me with tlb := tlb }

@[simp] theorem me_keepTlb (s : State) (tlb : List Xlate) : (s.keepTlb tlb).me = { s.me with tlb := tlb } := s.me_setMe _

/-- An access that reaches its target goes on from there (R248). -/
theorem sized_of_reaches (h : reaches s need r n ea pa x tlb s') (k : Nat → Xlate → State → Out) :
    s.sized need r n ea k = k pa x (s'.keepTlb tlb) := by
  obtain ⟨hc, ha, ht⟩ := h
  simp only [sized, access, hc, ha, ht, Bool.not_true, Bool.false_eq_true, if_false, ne_eq, not_true_eq_false]
  rfl

theorem steps_of_reaches (h : reaches s need r n ea pa x tlb s') : s.LineSteps s' :=
  ((LineSteps.refl s).translate _ _ _ _ _ _).1 _ _ _ _ h.2.2

/-- What the core shows once the access has left it with clock p and the instruction writes gD (R243). -/
theorem coreStep_put (hs : s'.me = s.me) (hu : u.me = { (s'.keepTlb tlb).me with pts := p }) (d : Reg) (v : Word) :
    coreStep s.me ((u.me.put d v).advance) d tlb := by
  rw [hu, me_keepTlb, hs]
  refine ⟨?_, ?_, ?_, fun q hq => ?_⟩
  · unfold Core.put Core.advance; split <;> rfl
  · unfold Core.put Core.advance; split <;> rfl
  · unfold Core.put Core.advance; split <;> rfl
  · rw [Core.get_advance, Core.get_put_ne _ _ _ _ hq]; rfl

/-- The state that a load of n bytes at pa leaves, with its value in gD. -/
def loaded (s : State) (sx : Bool) (d : Reg) (x : Xlate) (pa n : Nat) : State :=
  (s.loadTarget x pa n).2.setMe (((s.loadTarget x pa n).2.me.put d (extend sx (s.loadTarget x pa n).1)).advance)

theorem exec_ld_of_reaches {sz : Size} {sx : Bool} {d a : Reg} {imm : BitVec 32}
    (h : reaches s needLoad (.any sz.bytes) sz.bytes (eaOf s a imm) pa x tlb s') :
    exec (.ld sz sx d a imm) s = .next ((s'.keepTlb tlb).loaded sx d x pa sz.bytes) :=
  sized_of_reaches h _

section
variable (s) (sx : Bool) (d : Reg) (x : Xlate) (pa n : Nat)

theorem loaded_pts : (s.loaded sx d x pa n).me.pts = s.loadClock x pa n := by
  rw [loaded, me_setMe]
  unfold Core.put Core.advance
  split <;> rw [(s.loadTarget_loads x pa n).me]

theorem loaded_get (v : Word) (h : extend sx (s.loadTarget x pa n).1 = v) :
    (s.loaded sx d x pa n).me.get d = if d = 0 then 0 else v := by
  rw [loaded, me_setMe, Core.get_advance, Core.get_put, h]
  split
  · rename_i k; rw [if_neg k.2]
  · rename_i k
    have : d = 0 := by simpa using k
    rw [this]; rfl

end

/-! What gD holds, by the kind of target (R249, R250). -/

section
variable (sx : Bool)

theorem load_coherent (hn : 0 < n) (h : windowOf pa = .hbm) (hx : x.mtype = 0) (hl : latest s s.me.pts pa) :
    extend sx (s.loadTarget x pa n).1 = loadValue sx n (s.mem.readLe pa n) ∧
      s.loadClock x pa n = max s.me.pts (s.line (lineOf pa)).wts := by
  rw [loadTarget_coherent n h hx, loadClock, if_pos ⟨h, hx⟩, loadStep_of_latest n hl, loadLatest_bytes, loadLatest_clock,
    extend_eq_loadValue sx hn (Memory.length_readN ..)]
  exact ⟨rfl, by omega⟩

theorem load_uncached (hn : 0 < n) (h : windowOf pa = .hbm) (hx : x.mtype ≠ 0) (hl : latest s (s.homeClock (pkgOf pa)) pa) :
    extend sx (s.loadTarget x pa n).1 = loadValue sx n (s.mem.readLe pa n) := by
  rw [loadTarget_uncached n h hx, homeLoad, loadStep_of_latest n hl]
  dsimp only
  rw [loadLatest_bytes, extend_eq_loadValue sx hn (Memory.length_readN ..)]
  rfl

theorem load_crown (hn : 0 < n) (h : windowOf pa = .crown) :
    extend sx (s.loadTarget x pa n).1 = loadValue sx n (s.scratch.readLe pa n) := by
  rw [loadTarget_crown n h, extend_eq_loadValue sx hn (Memory.length_readN ..)]
  rfl

theorem load_unbacked (hn : 0 < n) (h : windowOf pa = .unbacked) : extend sx (s.loadTarget x pa n).1 = 0 := by
  rw [loadTarget_unbacked n h, extend_eq_loadValue sx hn (length_leBytes ..), leNat_leBytes_mod, Nat.zero_mod, loadValue_zero]

theorem load_device {q : DevReg} (hn : 0 < n) (hn8 : n ≤ 8) (h : windowOf pa = .device)
    (hq : s.regAt (.root s.actor) (homeOf pa % 4) (offOf pa) = q) :
    s.loadTarget x pa n = (leBytes n ((s.regRead (.root s.actor) (homeOf pa % 4) q).1 % 2 ^ 64),
        (s.regRead (.root s.actor) (homeOf pa % 4) q).2) ∧
      extend sx (s.loadTarget x pa n).1 =
        loadValue sx n ((s.regRead (.root s.actor) (homeOf pa % 4) q).1 % 2 ^ (8 * n)) := by
  have low (v : Nat) : v % 2 ^ 64 % 256 ^ n = v % 2 ^ (8 * n) := by
    rw [show 256 = 2 ^ 8 by rfl, ← Nat.pow_mul]
    exact Nat.mod_mod_of_dvd _ (Nat.pow_dvd_pow 2 (by omega))
  rw [loadTarget_device n h, devRead_of_regAt s n hq]
  refine ⟨rfl, ?_⟩
  rw [extend_eq_loadValue sx hn (length_leBytes ..), leNat_leBytes_mod, low]

end

/-! A read of CELOG takes the oldest entry out of the log (R381). -/

theorem celogPop_word (s : State) : s.celogPop.1 = (s.celog.head?.map CeEntry.word).getD 0 := by
  cases h : s.celog <;> simp [celogPop, h]

/-- Stated for every f, since the kernel would evaluate an entry's word. -/
theorem toNat_getD_map {α : Type} (f : α → Word) (o : Option α) : ((o.map f).getD 0).toNat = (o.map fun e => (f e).toNat).getD 0 := by
  cases o <;> rfl

theorem celogPop_value (s : State) : s.celogPop.1.toNat = (s.celog.head?.map fun e => e.word.toNat).getD 0 := by
  rw [celogPop_word]
  exact toNat_getD_map CeEntry.word _

theorem celogPop_celog (s : State) : s.celogPop.2.celog = s.celog.tail := by
  cases h : s.celog <;> simp [celogPop, h]

section
variable {o : Nat} {q : DevReg} (sx : Bool) (d : Reg) (x : Xlate) (hn : 0 < n) (hn8 : n ≤ 8) (hd : d ≠ 0)
  (h : windowOf pa = .device) (ho : offOf pa - 0x20000000000 = o)
include hn hn8 hd h ho

/-- A load of a register that is there for every core. -/
theorem loaded_register (hq : devRegAt (homeOf pa % 4) (0x20000000000 + o) = q) (hp : q.pf = false) :
    (s.loaded sx d x pa n).me.get d = loadValue sx n ((s.regRead (.root s.actor) (homeOf pa % 4) q).1 % 2 ^ (8 * n)) := by
  rw [← ho, ← offOf_of_device h] at hq
  rw [s.loaded_get sx d x pa n _ (load_device sx hn hn8 h (s.regAt_root hq hp)).2, if_neg hd]

/-- A load of a register of the PF block: a core that is not privileged finds none there (R381, log 94). -/
theorem loaded_pf_register (hq : devRegAt (homeOf pa % 4) (0x20000000000 + o) = q) (hp : q.pf = true) :
    (s.loaded sx d x pa n).me.get d = loadValue sx n
      ((if s.me.priv then (s.regRead (.root s.actor) (homeOf pa % 4) q).1 else 0) % 2 ^ (8 * n)) := by
  rw [← ho, ← offOf_of_device h] at hq
  rw [s.loaded_get sx d x pa n _ (load_device sx hn hn8 h (s.regAt_root_pf hq hp)).2, if_neg hd]
  split <;> rfl

/-- A register that answers 0 where it is there answers 0 everywhere (R384). -/
theorem loaded_zero_register (hq : devRegAt (homeOf pa % 4) (0x20000000000 + o) = if homeOf pa % 4 = 0 then q else .none)
    (hp : q.pf = true) (hz : (s.regRead (.root s.actor) (homeOf pa % 4) q).1 = 0) :
    (s.loaded sx d x pa n).me.get d = loadValue sx n (0 % 2 ^ (8 * n)) := by
  by_cases ht : homeOf pa % 4 = 0
  · rw [loaded_pf_register sx d x hn hn8 hd h ho (hq.trans (if_pos ht)) hp, hz, ite_self]
  · rw [loaded_register sx d x hn hn8 hd h ho (hq.trans (if_neg ht)) rfl]; rfl

end

end State

end Sys2Proof.Machine

/-- Settles O13: what a load's access leaves is said once for every target, and what gD holds per target. -/
theorem loadResults : Obligations.LoadResults := by
  unfold Obligations.LoadResults
  intro s s' sz sx d a imm pa x tlb h n value
  have hs : s'.me = s.me := (State.steps_of_reaches h).me
  have hn : 0 < n := Size.bytes_pos sz
  have hn8 : n ≤ 8 := by cases sz <;> decide
  obtain ⟨hme, hmem, hbacked, hscratch⟩ := (s'.keepTlb tlb).loadTarget_loads x pa n
  have hpts := (s'.keepTlb tlb).loaded_pts sx d x pa n
  have hpts' (k : windowOf pa ≠ .hbm ∨ x.mtype ≠ 0) : ((s'.keepTlb tlb).loaded sx d x pa n).me.pts = s.me.pts := by
    rw [hpts, State.loadClock_of_window _ x pa n k, State.me_keepTlb, hs]
  have hget := (s'.keepTlb tlb).loaded_get sx d x pa n
  have hclock : (s'.keepTlb tlb).me.pts = s.me.pts := by rw [State.me_keepTlb, hs]
  refine ⟨_, State.exec_ld_of_reaches h, ?_, hmem, hbacked, hscratch, ?_, ?_, ?_, ?_, ?_⟩
  · rw [State.loaded, State.me_setMe]
    exact State.coreStep_put hs hme d _
  · intro hw hx hl
    rw [← hclock] at hl
    obtain ⟨hv, hc⟩ := State.load_coherent (s := s'.keepTlb tlb) sx hn hw hx hl
    exact ⟨fun hd => (hget _ hv).trans (if_neg hd), by rw [hpts, hc, hclock]; rfl⟩
  · intro hw hx hl
    exact ⟨fun hd => (hget _ (State.load_uncached (s := s'.keepTlb tlb) sx hn hw hx hl)).trans (if_neg hd), hpts' (.inr hx)⟩
  · intro hw
    exact ⟨fun hd => (hget _ (State.load_crown sx hn hw)).trans (if_neg hd), hpts' (.inl (by rw [hw]; decide))⟩
  · intro hw
    exact ⟨(hget _ (State.load_unbacked sx hn hw)).trans (by split <;> rfl), hpts' (.inl (by rw [hw]; decide))⟩
  · intro hw hd
    have hpriv : (s'.keepTlb tlb).me.priv = s.me.priv := by rw [State.me_keepTlb, hs]
    have register {o : Nat} {q : DevReg} := State.loaded_register (s := s'.keepTlb tlb) (o := o) (q := q) sx d x hn hn8 hd hw
    have pf {o : Nat} {q : DevReg} := State.loaded_pf_register (s := s'.keepTlb tlb) (o := o) (q := q) sx d x hn hn8 hd hw
    rw [hpriv] at pf
    refine ⟨hpts' (.inl (by rw [hw]; decide)), fun ho => register (q := .jobdesc) ho (devRegAt_jobdesc _) rfl,
      fun ho => register (q := .rststat) ho (devRegAt_rststat _) rfl,
      fun k hk ho => register (q := .route k) ho (devRegAt_route _ hk) rfl,
      fun ho => register (q := .fencectl) ho (devRegAt_fencectl _) rfl,
      fun ho ht => pf (q := .hstatus) ho ((devRegAt_hstatus _).trans (if_pos ht)) rfl,
      fun ho ht => pf (q := .pwrcap) ho ((devRegAt_pwrcap _).trans (if_pos ht)) rfl, fun ho ht => ?_, fun ho ht hp => ?_,
      fun k hk ho => ?_, fun ho => (register (q := .none) ho (devRegAt_gap _) rfl).trans ?_⟩
    · refine (pf (q := .celog) ho ((devRegAt_celog _).trans (if_pos ht)) rfl).trans ?_
      rw [State.regRead, State.celogPop_value]
      rfl
    · have at_celog : (s'.keepTlb tlb).regAt (.root (s'.keepTlb tlb).actor) (homeOf pa % 4) (offOf pa) = .celog := by
        rw [State.regAt_root_pf (r := .celog) _ ?_ rfl, hpriv, hp, if_pos rfl]
        rw [offOf_of_device hw, ho, devRegAt_celog, if_pos ht]
      rw [State.loaded, (State.load_device (s := s'.keepTlb tlb) sx hn hn8 hw at_celog).1]
      exact (s'.keepTlb tlb).celogPop_celog
    · exact State.loaded_zero_register (q := .attnonce k) sx d x hn hn8 hd hw ho (devRegAt_attnonce _ hk) rfl rfl
    · rfl

end


/-! # O14: stores -/

section
open Sys2Proof Sys2Proof.Machine Sys2Proof.Claims
namespace Sys2Proof.Machine

/-- A byte of a number (R2). -/
theorem getD_leBytes {n i : Nat} (v : Nat) (h : i < n) : (leBytes n v).getD i 0 = BitVec.ofNat 8 (v / 256 ^ i) := by
  induction n generalizing v i with
  | zero => omega
  | succ n ih =>
    cases i with
    | zero => simp [leBytes]
    | succ i => rw [leBytes, List.getD_cons_succ, ih _ (by omega), Nat.div_div_eq_div_mul, Nat.pow_succ']

theorem stored_writeN (m : Memory) (pa n v : Nat) : stored m (m.writeN pa (leBytes n v)) pa n v := fun b => by
  rw [Memory.read_writeN, length_leBytes]
  by_cases h : pa ≤ b ∧ b < pa + n
  · rw [if_pos h, if_pos h, getD_leBytes v (by omega)]
  · rw [if_neg h, if_neg h]

namespace State

variable {s s' t u : State}

/-! ## A store step (R68) -/

theorem recStore_stamps (s : State) (li : LineInfo) (T pa t : Nat) :
    (s.recStore li T pa t).1.wts = li.wts ∧ (s.recStore li T pa t).1.rts = li.rts := by
  unfold recStore
  repeat' split
  all_goals exact ⟨rfl, rfl⟩

/-- u is s after a store step at t of these bytes at pa. -/
structure Stores (s u : State) (pa t : Nat) (data : List Byte) : Prop where
  steps : s.LineSteps u
  mem : u.mem = s.mem.writeN pa data
  wts : (u.line (lineOf pa)).wts = t
  rts : (u.line (lineOf pa)).rts = t

theorem Stores.trans {pa c : Nat} {data : List Byte} (h : s.Stores t pa c data) (k : t.Moves u) : s.Stores u pa c data where
  steps := h.steps.trans k.steps
  mem := k.mem.trans h.mem
  wts := (k.stamps _).1.trans h.wts
  rts := (k.stamps _).2.trans h.rts

/-- The record that a store step by tower T at t leaves, and whether HBM then holds the new version (R68). -/
def recStored (s : State) (T pa t : Nat) : LineInfo × Bool :=
  (s.correct T pa).recStore
    { (s.correct T pa).pushVersion (lineOf pa) ((s.correct T pa).line (lineOf pa)) with wts := t, rts := t } T pa t

/-- The state once the bytes of a store are in the latest version, before HBM takes it. -/
def storeBytes (s : State) (T pa t : Nat) (data : List Byte) : State :=
  { (s.correct T pa).setRecord T (lineOf pa) (s.recStored T pa t).1 with mem := (s.correct T pa).mem.writeN pa data }

/-- The state that a store step at t leaves. -/
def storeDone (s : State) (T pa t : Nat) (data : List Byte) : State :=
  (if (s.recStored T pa t).2 then (s.storeBytes T pa t data).toHbm (lineOf pa) else s.storeBytes T pa t data).noteClock t

/-- A store step that its clock leaves room for takes place (R68). -/
theorem storeStep_of_clock {T pts pa : Nat} (data : List Byte) (h : max pts ((s.line (lineOf pa)).rts + 1) ≤ Config.maxClock) :
    s.storeStep T pts pa data = some (max pts ((s.line (lineOf pa)).rts + 1),
      s.storeDone T pa (max pts ((s.line (lineOf pa)).rts + 1)) data) :=
  if_neg (Nat.not_lt.2 h)

theorem storeDone_stores {T pts pa : Nat} (data : List Byte) (h : max pts ((s.line (lineOf pa)).rts + 1) ≤ Config.maxClock) :
    s.Stores (s.storeDone T pa (max pts ((s.line (lineOf pa)).rts + 1)) data) pa (max pts ((s.line (lineOf pa)).rts + 1)) data := by
  have steps := (LineSteps.refl s).storeStep (storeStep_of_clock (T := T) data h)
  generalize max pts ((s.line (lineOf pa)).rts + 1) = t at steps
  have record := Moves.setRecord (s.correct T pa) T (lineOf pa) (s.recStored T pa t).1
  have moves : (s.storeBytes T pa t data).Moves (s.storeDone T pa t data) := by
    unfold storeDone
    split
    · exact (Moves.toHbm _ _).trans (Moves.noteClock _ _)
    · exact Moves.noteClock _ _
  obtain ⟨hw, hr⟩ := recStore_stamps (s.correct T pa)
    { (s.correct T pa).pushVersion (lineOf pa) ((s.correct T pa).line (lineOf pa)) with wts := t, rts := t } T pa t
  obtain ⟨kw, kr⟩ := record.stamps (lineOf pa)
  rw [line_setLine] at kw kr
  exact ⟨steps, moves.mem.trans (congrArg (·.writeN pa data) (Moves.correct s T pa).mem),
    (moves.stamps _).1.trans (kw.trans hw), (moves.stamps _).2.trans (kr.trans hr)⟩

/-- A store of the home agent that its clock leaves room for takes place (R70). -/
theorem homeStore_stores {pa : Nat} (data : List Byte)
    (h : max (s.homeClock (pkgOf pa)) ((s.line (lineOf pa)).rts + 1) ≤ Config.maxClock) :
    ∃ u, s.homeStore pa data = some (max (s.homeClock (pkgOf pa)) ((s.line (lineOf pa)).rts + 1), u) ∧
      s.Stores u pa (max (s.homeClock (pkgOf pa)) ((s.line (lineOf pa)).rts + 1)) data := by
  refine ⟨_, by rw [homeStore, storeStep_of_clock data h]; rfl, ?_⟩
  exact (storeDone_stores data h).trans ((Moves.noSram _ _).trans (Moves.setHomeClock _ _ _))

/-! ## Targets of a store (R249) -/

section
variable {x : Xlate} {pa : Nat} (data : List Byte)

theorem storeTarget_unbacked (h : windowOf pa = .unbacked) : s.storeTarget x pa data = some (s.logPa 4 pa) := by
  rw [storeTarget, h]

theorem storeTarget_crown (h : windowOf pa = .crown) :
    s.storeTarget x pa data = some (s.postScratch (s.coreAgent s.actor) pa data) := by
  rw [storeTarget, h]

/-- A store to a coherent page is a store step of the core, whose clock it raises (R262). -/
theorem storeTarget_coherent (h : windowOf pa = .hbm) (hx : x.mtype = 0)
    (hc : max s.me.pts ((s.line (lineOf pa)).rts + 1) ≤ Config.maxClock) :
    ∃ u, s.storeTarget x pa data = some u ∧ u.me = { s.me with pts := max s.me.pts ((s.line (lineOf pa)).rts + 1) } ∧
      u.mem = s.mem.writeN pa data ∧ (u.line (lineOf pa)).wts = u.me.pts ∧ (u.line (lineOf pa)).rts = u.me.pts ∧
      u.scratch = s.scratch := by
  obtain ⟨steps, mem, wts, rts⟩ := storeDone_stores (T := s.myTower) data hc
  have step := storeStep_of_clock (T := s.myTower) data hc
  have le : s.me.pts ≤ max s.me.pts ((s.line (lineOf pa)).rts + 1) := Nat.le_max_left ..
  generalize max s.me.pts ((s.line (lineOf pa)).rts + 1) = c at *
  generalize s.storeDone s.myTower pa c data = v at *
  have moves := Moves.placeLine (v.setMe (v.me.raise c)) v.myCluster false pa
  have me : ((v.setMe (v.me.raise c)).placeLine v.myCluster false pa).me = { s.me with pts := c } := by
    rw [moves.steps.me, me_setMe, steps.me, Core.raise, Nat.max_eq_right le]
  obtain ⟨kw, kr⟩ := moves.stamps (lineOf pa)
  refine ⟨_, by simp only [storeTarget, h, if_pos hx, step, Option.map_some], me, moves.mem.trans mem, ?_, ?_,
    moves.steps.scratch.trans steps.scratch⟩
  · rw [me]; exact kw.trans wts
  · rw [me]; exact kr.trans rts

theorem storeTarget_uncached (h : windowOf pa = .hbm) (hx : x.mtype ≠ 0)
    (hc : max (s.homeClock (pkgOf pa)) ((s.line (lineOf pa)).rts + 1) ≤ Config.maxClock) :
    ∃ u, s.storeTarget x pa data = some u ∧ u.me = s.me ∧ u.mem = s.mem.writeN pa data ∧ u.scratch = s.scratch := by
  obtain ⟨u, e, hu⟩ := homeStore_stores data hc
  exact ⟨u, by simp only [storeTarget, h, if_neg hx, e, Option.map_some], hu.steps.me, hu.mem, hu.steps.scratch⟩

end

/-! ## The device window (R249) -/

/-- A write of the device window finds a register: of 8 bytes it writes it, else it is discarded. The lookup is a variable in the
proof as in `devRead_of_regAt`. -/
theorem devWrite_of_regAt (s : State) (data : List Byte) {w : Writer} {pa : Nat} {r : DevReg}
    (h : s.regAt w (homeOf pa % 4) (offOf pa) = r) :
    s.devWrite w pa data = if data.length = 8 then s.regWrite w (homeOf pa % 4) r (BitVec.ofNat 64 (leNat data)) else s := by
  suffices key : ∀ f, f = State.devWrite → f s w pa data = _ from key _ rfl
  intro f hf
  delta State.devWrite at hf
  subst hf
  revert h
  generalize State.regAt = register
  revert register
  exact id fun _ h => by subst h; rfl

/-- A store of the device window sets the registers to what its write of 8 bytes sets them to. -/
theorem eq_of_storeTarget_device {x : Xlate} {pa n : Nat} {w : Word} {q : DevReg} {r : DevRegs} (h : windowOf pa = .device)
    (hq : s.regAt (.root s.actor) (homeOf pa % 4) (offOf pa) = q)
    (hr : s.regWrite (.root s.actor) (homeOf pa % 4) q w = { s with regs := r }) (hu : s.storeTarget x pa (leBytes n w.toNat) = some u) :
    u = { s with regs := if n = 8 then r else s.regs } := by
  have value : BitVec.ofNat 64 (leNat (leBytes 8 w.toNat)) = w := by
    rw [leNat_leBytes 8 _ (by have := w.isLt; omega), BitVec.ofNat_toNat, BitVec.setWidth_eq]
  have target : s.storeTarget x pa (leBytes n w.toNat) = some (s.devWrite (.root s.actor) pa (leBytes n w.toNat)) := by
    rw [storeTarget, h]
  rw [target, devWrite_of_regAt s _ hq, length_leBytes] at hu
  refine (Option.some.inj hu).symm.trans ?_
  by_cases h8 : n = 8
  · subst h8
    rw [if_pos rfl, if_pos rfl, value, hr]
  · rw [if_neg h8, if_neg h8]

/-! ## The store instruction -/

section
variable {pa n : Nat} {x : Xlate} {tlb : List Xlate}

/-- A store that reaches its target and finds room goes to the next word. -/
theorem exec_st_of_reaches {sz : Size} {a b : Reg} {imm : BitVec 32}
    (h : reaches s needStore (.any sz.bytes) sz.bytes (eaOf s a imm) pa x tlb s')
    (hu : (s'.keepTlb tlb).storeTarget x pa (leBytes sz.bytes (s.me.get b).toNat) = some u) :
    exec (.st sz a b imm) s = .next (u.setMe u.me.advance) := by
  have bytes : (s'.keepTlb tlb).me.bytes b sz.bytes = leBytes sz.bytes (s.me.get b).toNat := by
    rw [me_keepTlb, (steps_of_reaches h).me]; rfl
  refine (sized_of_reaches h _).trans ?_
  rw [bytes, hu]
  rfl

theorem coreStep_advance {p : Nat} (hs : s'.me = s.me) (hu : u.me = { (s'.keepTlb tlb).me with pts := p }) :
    coreStep s.me (u.setMe u.me.advance).me 0 tlb := by
  rw [me_setMe]
  exact coreStep_put hs hu 0 0

end

/-! The registers that a write of 8 bytes may set (R322, R351, R367, R381). -/

section
variable (s : State) (w : Writer) (tower : Nat) (v : Word)

theorem regWrite_jobdesc : s.regWrite w tower .jobdesc v =
    { s with regs := if bits v 63 52 = 0 ∧ bits v 6 0 = 0 then { s.regs with jobdesc := v } else s.regs } := by
  by_cases h : bits v 63 52 = 0 <;> by_cases k : bits v 6 0 = 0 <;> simp [regWrite, h, k]

theorem regWrite_route (k : Nat) : s.regWrite w tower (.route k) v =
    { s with regs := if v.toNat < 16 then { s.regs with route := s.regs.route.set k v.toNat } else s.regs } := by
  by_cases h : v.toNat < 16 <;> simp [regWrite, h]

theorem regWrite_pwrcap : s.regWrite w tower .pwrcap v =
    { s with regs := if 600 ≤ v.toNat ∧ v.toNat ≤ 2400 then { s.regs with pwrcap := v.toNat } else s.regs } := by
  by_cases h : 600 ≤ v.toNat ∧ v.toNat ≤ 2400 <;> simp [regWrite, h]

/-- PWRCAP, which only a privileged core finds (R381, log 94). -/
theorem regWrite_pwrcap_or_none (priv : Bool) : s.regWrite w tower (if priv then .pwrcap else .none) v =
    { s with regs := if priv = true ∧ 600 ≤ v.toNat ∧ v.toNat ≤ 2400 then { s.regs with pwrcap := v.toNat } else s.regs } := by
  cases priv
  · simp [regWrite]
  · simpa using s.regWrite_pwrcap w tower v

end

section
variable {pa n : Nat} {x : Xlate} {tlb : List Xlate} {q : DevReg} {r : DevRegs} {w : Word}

/-- A store that writes a register of the device window changes the core's place and that register. -/
theorem device_store_sets (hs : s'.me = s.me) (hw : windowOf pa = .device)
    (hu : (s'.keepTlb tlb).storeTarget x pa (leBytes n w.toNat) = some u)
    (hq : (s'.keepTlb tlb).regAt (.root (s'.keepTlb tlb).actor) (homeOf pa % 4) (offOf pa) = q)
    (hr : (s'.keepTlb tlb).regWrite (.root (s'.keepTlb tlb).actor) (homeOf pa % 4) q w = { s'.keepTlb tlb with regs := r }) :
    coreStep s.me (u.setMe u.me.advance).me 0 tlb ∧ (u.setMe u.me.advance).me.pts = s.me.pts ∧
      { u.setMe u.me.advance with cores := s'.cores, regs := s'.regs } = s' ∧
      (u.setMe u.me.advance).regs = if n = 8 then r else s'.regs := by
  have := eq_of_storeTarget_device hw hq hr hu
  subst this
  refine ⟨coreStep_advance hs rfl, ?_, rfl, rfl⟩
  have pts : (s'.keepTlb tlb).me.pts = s'.me.pts := by rw [me_keepTlb]
  rw [← hs, me_setMe]
  exact pts

end

end State

end Sys2Proof.Machine
/-- Settles O14: what a store's access leaves, target by target. -/
theorem storeResults : Obligations.StoreResults := by
  unfold Obligations.StoreResults
  intro s s' sz a b imm pa x tlb h n v l
  have hs : s'.me = s.me := (State.steps_of_reaches h).me
  have hpts : (s'.keepTlb tlb).me.pts = s.me.pts := by rw [State.me_keepTlb, hs]
  have hactor : s'.actor = s.actor := (State.steps_of_reaches h).actor
  refine ⟨fun hw hx hc => ?_, fun hw hx hc => ?_, fun hw => ?_, fun hw => ?_, fun hw => ?_⟩
  · rw [← hpts] at hc ⊢
    obtain ⟨u, e, me, mem, wts, rts, scratch⟩ := State.storeTarget_coherent (s := s'.keepTlb tlb) (leBytes n v) hw hx hc
    refine ⟨_, State.exec_st_of_reaches h e, State.coreStep_advance hs me, ?_, ?_, ?_, ?_, scratch⟩
    · exact mem ▸ stored_writeN s'.mem pa n v
    · rw [State.me_setMe, me]; rfl
    · rw [State.me_setMe]; exact wts
    · rw [State.me_setMe]; exact rts
  · obtain ⟨u, e, me, mem, scratch⟩ := State.storeTarget_uncached (s := s'.keepTlb tlb) (leBytes n v) hw hx hc
    refine ⟨_, State.exec_st_of_reaches h e, State.coreStep_advance hs me, ?_, ?_, scratch⟩
    · exact mem ▸ stored_writeN s'.mem pa n v
    · rw [State.me_setMe, me]; exact hpts
  · refine ⟨_, State.exec_st_of_reaches h (State.storeTarget_crown _ hw), State.coreStep_advance hs rfl, rfl, rfl, ?_, ?_⟩
    · rw [State.me_setMe]; exact hpts
    · rw [← hactor]; rfl
  · have logged := (State.Moves.logPa (s'.keepTlb tlb) 4 pa).steps
    refine ⟨_, State.exec_st_of_reaches h (State.storeTarget_unbacked _ hw), State.coreStep_advance hs logged.me,
      (State.Moves.logPa _ 4 pa).mem, logged.scratch, logged.posted, ?_⟩
    rw [State.me_setMe, ← hpts, ← logged.me]; rfl
  · obtain ⟨u, hu⟩ : ∃ u, (s'.keepTlb tlb).storeTarget x pa (leBytes n v) = some u := ⟨_, by rw [State.storeTarget, hw]⟩
    have sets {q : DevReg} {r : DevRegs} := State.device_store_sets (q := q) (r := r) hs hw hu
    have at_reg {o : Nat} {q : DevReg} (ho : offOf pa - 0x20000000000 = o)
        (hq : devRegAt (homeOf pa % 4) (0x20000000000 + o) = q) : devRegAt (homeOf pa % 4) (offOf pa) = q := by
      rw [← hq, ← ho, ← offOf_of_device hw]
    have plain {o : Nat} {q : DevReg} (hp : q.pf = false) (ho : offOf pa - 0x20000000000 = o)
        (hq : devRegAt (homeOf pa % 4) (0x20000000000 + o) = q) := State.regAt_root (s'.keepTlb tlb) (at_reg ho hq) hp
    refine ⟨_, State.exec_st_of_reaches h hu, fun ho => ?_, fun k hk ho => ?_, fun ho ht => ?_, fun ho => ?_⟩
    · exact sets (plain rfl ho (devRegAt_jobdesc _)) (State.regWrite_jobdesc ..)
    · exact sets (plain rfl ho (devRegAt_route _ hk)) (State.regWrite_route ..)
    · have here := State.regAt_root_pf (s'.keepTlb tlb) (at_reg ho ((devRegAt_pwrcap _).trans (if_pos ht))) rfl
      rw [State.me_keepTlb, hs] at here
      exact sets here (State.regWrite_pwrcap_or_none _ _ _ _ s.me.priv)
    · rcases ho with ho | ho | ⟨p, hp, ho⟩
      · exact sets (plain rfl ho (devRegAt_rststat _)) rfl
      · exact sets (plain rfl ho (devRegAt_gap _)) rfl
      · exact sets (plain rfl ho (devRegAt_gport _ hp)) rfl

end


/-! # O46: transactions of a line -/

section
open Sys2Proof Sys2Proof.Machine Sys2Proof.Claims
namespace Sys2Proof.Machine

theorem Table.mem_keys_set {α : Type} (t : Table α) (k x : Nat) (v : α) : x ∈ (t.set k v).keys ↔ x = k ∨ x ∈ t.keys := by
  have listed (t : Table α) : x ∈ t.keys ↔ t.get x ≠ none := by rw [Ne, get_eq_none_iff, not_not]
  rw [listed, listed, get_set]
  by_cases h : x = k <;> simp [h]

theorem lineOf_mul (line : Nat) : lineOf (128 * line) = line := Nat.mul_div_cancel_left _ (by decide)

namespace State

variable {s t u : State} {l x : Nat}

/-! ## Changes of one line -/

/-- Every line but l is in t as in s. -/
def RestOf (l : Nat) (s t : State) : Prop := ∀ x, x ≠ l → t.line x = s.line x

theorem RestOf.trans (h : RestOf l s t) (k : RestOf l t u) : RestOf l s u := fun x hx => (k x hx).trans (h x hx)

theorem RestOf.setLine (s : State) (l : Nat) (li : LineInfo) : RestOf l s (s.setLine l li) := fun x hx => s.line_setLine_ne l x li hx

@[simp] theorem line_logPa (s : State) (kind pa l : Nat) : (s.logPa kind pa).line l = s.line l := by simp [line]

@[simp] theorem line_noteClock (s : State) (c l : Nat) : (s.noteClock c).line l = s.line l := by rw [noteClock_eq]; rfl

@[simp] theorem line_toHbm (s : State) (l : Nat) : (s.toHbm l).line l = { s.line l with sym := false } := s.line_setLine l _

theorem RestOf.toHbm (s : State) (l : Nat) : RestOf l s (s.toHbm l) := RestOf.setLine s l _

/-- HBM takes the bytes of a line (R20, R25). -/
def HbmTakes (l : Nat) (s t : State) : Prop :=
  t.mem = s.mem ∧ ∀ b, t.hbm.read b = if 128 * l ≤ b ∧ b < 128 * l + 128 then s.mem.read b else s.hbm.read b

/-- The record once the home has corrected its symbols for tower T, when neither it nor T holds a copy (R20). -/
def corrected (s : State) (T l : Nat) : LineInfo :=
  if (s.line l).sym && (s.line l).place = .none && !((s.line l).owned && (s.line l).owner = T) then { s.line l with sym := false }
  else s.line l

theorem line_correct (s : State) (T l : Nat) : (s.correct T (128 * l)).line l = s.corrected T l := by
  simp only [correct, corrected, lineOf_mul]
  split
  · rw [line_logPa, line_setLine]
  · rfl

theorem RestOf.correct (s : State) (T l : Nat) : RestOf l s (s.correct T (128 * l)) := by
  simp only [State.correct, lineOf_mul]
  split
  · exact fun x hx => (line_logPa ..).trans (RestOf.setLine s l _ x hx)
  · exact fun _ _ => rfl

/-! ## A line written back, given up, or out of the caches -/

/-- A dirty line is written back (R25). -/
theorem writeBackLine_eq (s : State) (l : Nat) (h : (s.line l).st = .m ∨ (s.line l).st = .o) (hc : (s.line l).copy ≠ .lost) :
    HbmTakes l s (s.writeBackLine l) ∧ RestOf l s (s.writeBackLine l) ∧
      (s.writeBackLine l).line l = { s.line l with
        st := if (s.line l).st = .m then .i else .s
        owner := 0x3FF, sym := false, copy := .held
        recWts := (s.line l).wts, recRts := (s.line l).rts, recTurn := s.turn } := by
  have dirty : ((decide ((s.line l).st = .m) || decide ((s.line l).st = .o)) && decide ((s.line l).copy ≠ .lost)) = true := by
    simpa [hc] using h
  simp only [writeBackLine, dirty, if_true]
  refine ⟨⟨rfl, fun b => ?_⟩, (RestOf.setLine s l _).trans (RestOf.toHbm _ l), ?_⟩
  · simp only [State.toHbm, Memory.read_copyFrom]; rfl
  · rw [line_toHbm, line_setLine]; rfl

theorem writeBackLine_of_clean (s : State) (l : Nat) (h : (s.line l).st ≠ .m) (k : (s.line l).st ≠ .o) : s.writeBackLine l = s := by
  simp [writeBackLine, h, k]

theorem RestOf.writeBackLine (s : State) (l : Nat) : RestOf l s (s.writeBackLine l) := by
  simp only [State.writeBackLine]
  split
  · exact (RestOf.setLine s l _).trans (RestOf.toHbm _ l)
  · exact fun _ _ => rfl

theorem RestOf.leaveHome (s : State) (l : Nat) : RestOf l s (s.leaveHome l) := by
  simp only [State.leaveHome]
  split
  · exact (RestOf.writeBackLine s l).trans (RestOf.setLine _ l _)
  · exact RestOf.setLine s l _

theorem RestOf.leaveRemote (s : State) (l : Nat) : RestOf l s (s.leaveRemote l) := by
  simp only [State.leaveRemote]
  split
  · exact RestOf.setLine s l _
  · exact RestOf.writeBackLine s l

/-! ## Ways (R55) -/

section
variable (s : State) (l lo n : Nat) (ls : List Nat) (way : Nat → Nat)

theorem pickWay_lt (hn : 0 < n) : lo ≤ (s.pickWay l lo n ls way).1 ∧ (s.pickWay l lo n ls way).1 < lo + n := by
  simp only [pickWay]
  split
  · next h =>
    have := List.mem_range.1 (List.mem_of_find?_eq_some h)
    exact ⟨Nat.le_add_right .., by omega⟩
  · have := (s.choose_spec n hn).1
    exact ⟨Nat.le_add_right .., by omega⟩

/-- The line that gives up its way is another one. -/
theorem pickWay_out_ne (h : (s.pickWay l lo n ls way).2.1 = some x) : x ≠ l := by
  simp only [pickWay] at h
  split at h
  · exact nomatch h
  · have := (List.mem_filter.1 (List.mem_of_find?_eq_some h)).2
    rw [Bool.and_eq_true, decide_eq_true_eq] at this
    exact this.1

/-- A free way is taken with no other line's leaving. -/
theorem pickWay_free (h : ∃ i, i < n ∧ ∀ x ∈ ls, x ≠ l → crownSetOf (128 * x) = crownSetOf (128 * l) → way x ≠ lo + i) :
    (s.pickWay l lo n ls way).2 = (none, s) := by
  obtain ⟨i, hi, free⟩ := h
  simp only [pickWay]
  split
  · rfl
  · next taken =>
    have := List.find?_eq_none.1 taken i (List.mem_range.2 hi)
    obtain ⟨x, hx, ⟨hl, hs⟩, hw⟩ : ∃ x ∈ ls, (x ≠ l ∧ crownSetOf (128 * x) = crownSetOf (128 * l)) ∧ way x = lo + i := by
      simpa using this
    exact absurd hw (free x hx hl hs)

theorem pickWay_line : (s.pickWay l lo n ls way).2.2.line x = s.line x := by
  simp only [pickWay]
  split
  · rfl
  · unfold State.choose; split <;> rfl

end

/-- No other line holds this home way of the line's set. -/
def HomeWayFree (s : State) (l i : Nat) : Prop :=
  ∀ x ∈ s.lines.keys, x ≠ l → s.inHomeWay (homeOf (128 * l) % 4) (crownBankOf (128 * l)) x = true →
    crownSetOf (128 * x) = crownSetOf (128 * l) → (s.line x).way ≠ i

/-- The way that a line enters at its home, the line that leaves it, and the state then. -/
def homeWay (s : State) (l : Nat) : Nat × Option Nat × State :=
  s.pickWay l 0 (s.bank (homeOf (128 * l) % 4) (crownBankOf (128 * l))).home
    (s.lines.keys.filter (s.inHomeWay (homeOf (128 * l) % 4) (crownBankOf (128 * l)))) fun x => (s.line x).way

theorem enterHome_eq (s : State) (l : Nat) : s.enterHome l =
    let t := match (s.homeWay l).2.1 with
      | some x => (s.homeWay l).2.2.leaveHome x
      | none => (s.homeWay l).2.2
    t.setLine l { t.line l with place := .home, way := (s.homeWay l).1 } := rfl

/-- A line enters a home way of its set (R50, R55). -/
theorem line_enterHome (s : State) (l : Nat) (h : 0 < (s.bank (homeOf (128 * l) % 4) (crownBankOf (128 * l))).home) :
    ∃ w, w < (s.bank (homeOf (128 * l) % 4) (crownBankOf (128 * l))).home ∧
      (s.enterHome l).line l = { s.line l with place := .home, way := w } := by
  refine ⟨(s.homeWay l).1, ?_, ?_⟩
  · have := (pickWay_lt s l 0 _ (s.lines.keys.filter (s.inHomeWay (homeOf (128 * l) % 4) (crownBankOf (128 * l))))
      (fun x => (s.line x).way) h).2
    rwa [Nat.zero_add] at this
  · rw [enterHome_eq]
    dsimp only
    rw [line_setLine]
    split
    · next x out =>
      rw [RestOf.leaveHome _ x l (pickWay_out_ne _ _ _ _ _ _ out).symm, homeWay, pickWay_line]
    · rw [homeWay, pickWay_line]

/-- With a free home way no other line moves. -/
theorem enterHome_of_free (s : State) (l : Nat)
    (h : ∃ i, i < (s.bank (homeOf (128 * l) % 4) (crownBankOf (128 * l))).home ∧ s.HomeWayFree l i) :
    (s.enterHome l).hbm = s.hbm ∧ RestOf l s (s.enterHome l) := by
  have free : (s.homeWay l).2 = (none, s) := by
    obtain ⟨i, hi, free⟩ := h
    refine pickWay_free _ _ _ _ _ _ ⟨i, hi, fun x hx hl hs => ?_⟩
    obtain ⟨hk, hw⟩ := List.mem_filter.1 hx
    rw [Nat.zero_add]
    exact free x hk hl hw hs
  rw [enterHome_eq, free]
  exact ⟨rfl, RestOf.setLine s l _⟩

/-- The remote way that a line enters at tower T (R58). -/
def remoteWay (s : State) (T l : Nat) : Nat × Option Nat × State :=
  s.pickWay l (s.bank (T % 4) (crownBankOf (128 * l))).home (s.bank (T % 4) (crownBankOf (128 * l))).remote
    (s.lines.keys.filter (s.inRemoteWay (T % 4) (crownBankOf (128 * l)))) fun x => (s.line x).rway

/-- Tower T of this package is not the line's home: the line it comes to own enters a remote way of its there (R58). -/
def Remote (s : State) (T l : Nat) : Prop := T / 4 = s.pkg ∧ T ≠ homeOf (128 * l)

/-- No other line holds this remote way of the line's set at tower T. -/
def RemoteWayFree (s : State) (T l i : Nat) : Prop :=
  ¬ ∃ x ∈ s.lines.keys, x ≠ l ∧ s.inRemoteWay (T % 4) (crownBankOf (128 * l)) x = true ∧
    crownSetOf (128 * x) = crownSetOf (128 * l) ∧ (s.line x).rway = (s.bank (T % 4) (crownBankOf (128 * l))).home + i

theorem enterRemote_of_not {T : Nat} (h : ¬ s.Remote T l) : s.enterRemote T l = s := by
  have stays : (decide (T = homeOf (128 * l)) || decide (T / 4 ≠ s.pkg)) = true := by
    by_cases k : T = homeOf (128 * l)
    · simp [k]
    · simpa [k] using fun e => h ⟨e, k⟩
  rw [enterRemote, if_pos stays]

theorem enterRemote_eq {T : Nat} (h : s.Remote T l) : s.enterRemote T l =
    let t := match (s.remoteWay T l).2.1 with
      | some x => (s.remoteWay T l).2.2.leaveRemote x
      | none => (s.remoteWay T l).2.2
    t.setLine l { t.line l with rway := (s.remoteWay T l).1 } := by
  obtain ⟨hp, ht⟩ := h
  have moves : ¬ (decide (T = homeOf (128 * l)) || decide (T / 4 ≠ s.pkg)) = true := by simp [hp, ht]
  rw [enterRemote, if_neg moves]
  rfl

theorem line_enterRemote {T : Nat} (h : s.Remote T l) (hn : 0 < (s.bank (T % 4) (crownBankOf (128 * l))).remote) :
    ∃ w, (s.bank (T % 4) (crownBankOf (128 * l))).home ≤ w ∧
      w < (s.bank (T % 4) (crownBankOf (128 * l))).home + (s.bank (T % 4) (crownBankOf (128 * l))).remote ∧
      (s.enterRemote T l).line l = { s.line l with rway := w } := by
  obtain ⟨hlo, hhi⟩ := pickWay_lt s l (s.bank (T % 4) (crownBankOf (128 * l))).home _
    (s.lines.keys.filter (s.inRemoteWay (T % 4) (crownBankOf (128 * l)))) (fun x => (s.line x).rway) hn
  refine ⟨(s.remoteWay T l).1, hlo, hhi, ?_⟩
  rw [enterRemote_eq h]
  dsimp only
  rw [line_setLine]
  split
  · next x out =>
    rw [RestOf.leaveRemote _ x l (pickWay_out_ne _ _ _ _ _ _ out).symm, remoteWay, pickWay_line]
  · rw [remoteWay, pickWay_line]

theorem enterRemote_of_free {T : Nat} (h : ¬ s.Remote T l ∨
    ∃ i, i < (s.bank (T % 4) (crownBankOf (128 * l))).remote ∧ s.RemoteWayFree T l i) :
    (s.enterRemote T l).hbm = s.hbm ∧ RestOf l s (s.enterRemote T l) := by
  by_cases k : s.Remote T l
  · obtain ⟨i, hi, free⟩ := h.resolve_left (not_not_intro k)
    have free : (s.remoteWay T l).2 = (none, s) := by
      refine pickWay_free _ _ _ _ _ _ ⟨i, hi, fun x hx hl hs hw => ?_⟩
      obtain ⟨hk, hr⟩ := List.mem_filter.1 hx
      exact free ⟨x, hk, hl, hr, hs, hw⟩
    rw [enterRemote_eq k, free]
    exact ⟨rfl, RestOf.setLine s l _⟩
  · rw [enterRemote_of_not k]
    exact ⟨rfl, fun _ _ => rfl⟩

end State

namespace State

variable {s t u : State} {T l pts : Nat}

theorem LineSteps.turn (h : s.LineSteps t) : t.turn = s.turn := by obtain ⟨_, _, _, _, _, _, _, _, _, _, _, rfl, _⟩ := h; rfl

theorem LineSteps.pkg (h : s.LineSteps t) : t.pkg = s.pkg := by obtain ⟨_, _, _, _, _, _, _, _, _, _, _, rfl, _⟩ := h; rfl

/-! ## Requests of other towers for an owned line (R25) -/

theorem corrected_of_owner_ne (h : (s.line l).owner ≠ T) :
    s.corrected T l = { s.line l with sym := (s.line l).sym && decide ((s.line l).place ≠ .none) } := by
  rw [corrected]
  generalize s.line l = li at *
  obtain ⟨_, _, _, _, _, _, _, _, sym, _, place, _, _, _⟩ := li
  cases sym <;> by_cases k : place = .none <;> simp_all


theorem recLoad_of_owner_ne {li : LineInfo} {pa : Nat} (ho : li.owned = true) (hT : li.owner ≠ T) : s.recLoad li T pa =
    { li with
      st := if li.st = .e then .s else .o
      owner := if li.st = .e then 0x3FF else li.owner
      recWts := li.wts, recRts := li.rts, recTurn := s.turn } := by
  obtain ⟨st, _, _, _, _, _, _, _, _, _, _, _, _, _⟩ := li
  cases st <;> simp_all [LineInfo.owned, recLoad, LineInfo.stamp]

theorem setRecord_of_owner_ne (s : State) (l : Nat) {new : LineInfo} (h : new.owned = false ∨ new.owner ≠ T) :
    s.setRecord T l new = s.setLine l new := by
  have stays : ¬ ((new.owned && decide (new.owner = T)) && !((s.line l).owned && decide ((s.line l).owner = T))) = true := by
    rcases h with h | h <;> simp [h]
  rw [setRecord]
  exact if_neg stays

/-- A load by an agent of another tower leaves an owned line S when it was E, and O when it was M or O, with a lease (R25). -/
theorem loadLatest_of_owned (s : State) (n : Nat) (ho : (s.line l).owned = true) (hT : (s.line l).owner ≠ T) :
    let u := (s.loadLatest T pts (128 * l) n).2.2
    let rts := leaseEnd (s.line l).rts (max pts (s.line l).wts)
    u.mem = s.mem ∧ u.hbm = s.hbm ∧ RestOf l s u ∧ u.line l = { s.line l with
      st := if (s.line l).st = .e then .s else .o
      owner := if (s.line l).st = .e then 0x3FF else (s.line l).owner
      rts := rts
      sym := (s.line l).sym && decide ((s.line l).place ≠ .none)
      recWts := (s.line l).wts, recRts := rts, recTurn := s.turn } := by
  have hc := corrected_of_owner_ne hT
  have ho' : (s.corrected T l).owned = true := by rw [hc]; exact ho
  have hT' : (s.corrected T l).owner ≠ T := by rw [hc]; exact hT
  have record (r : Nat) := recLoad_of_owner_ne (s := s.correct T (128 * l)) (li := { s.corrected T l with rts := r })
    (pa := 128 * l) ho' hT'
  have kept (r : Nat) : ((s.correct T (128 * l)).recLoad { s.corrected T l with rts := r } T (128 * l)).owned = false ∨
      ((s.correct T (128 * l)).recLoad { s.corrected T l with rts := r } T (128 * l)).owner ≠ T := by
    rw [record r]
    by_cases e : (s.corrected T l).st = .e
    · exact .inl (by simp [LineInfo.owned, e])
    · exact .inr (by simpa [e] using hT')
  simp only [loadLatest, lineOf_mul, line_correct]
  rw [setRecord_of_owner_ne _ _ (kept _), record, (Moves.correct s T _).steps.turn, hc]
  refine ⟨?_, ?_, fun x hx => ?_, ?_⟩
  · rw [(noteClock_data ..).1, (noteClock_data ..).1]; exact (correct_data ..).1
  · rw [(noteClock_data ..).2, (noteClock_data ..).2]; exact (correct_data ..).2
  · rw [line_noteClock, line_noteClock]
    exact ((RestOf.correct s T l).trans (RestOf.setLine _ l _)) x hx
  · rw [line_noteClock, line_noteClock, line_setLine]

theorem recStore_of_owner_ne {li : LineInfo} {pa t : Nat} (ho : li.owned = true) (hT : li.owner ≠ T) (ha : s.noAlloc T pa = false) :
    s.recStore li T pa t = ({ li with st := .m, owner := T, recWts := t, recRts := t, recTurn := s.turn }, false) := by
  simp [recStore, ho, hT, ha, LineInfo.stamp]

theorem LineSteps.bank (h : s.LineSteps t) (tower k : Nat) : t.bank tower k = s.bank tower k := by
  rw [State.bank, State.bank, h.banks]

theorem LineSteps.noAlloc (h : s.LineSteps t) (T pa : Nat) : t.noAlloc T pa = s.noAlloc T pa := by
  simp only [State.noAlloc, h.bank, h.pkg]

theorem LineSteps.remote (h : s.LineSteps t) : t.Remote T l ↔ s.Remote T l := by rw [Remote, Remote, h.pkg]

theorem inRemoteWay_iff {k x : Nat} : s.inRemoteWay T k x = true ↔ crownBankOf (128 * x) = k ∧ homeOf (128 * x) ≠ s.towerId T ∧
    (s.line x).owned = true ∧ (s.line x).owner = s.towerId T := by
  simp [inRemoteWay, and_assoc]

/-- A remote way that is free stays free while only the line itself changes. -/
theorem RemoteWayFree.steps {i : Nat} (free : s.RemoteWayFree T l i) (h : s.LineSteps t) (hr : RestOf l s t)
    (hk : ∀ x ∈ t.lines.keys, x ≠ l → x ∈ s.lines.keys) : t.RemoteWayFree T l i := fun ⟨x, hx, hl, hi, hs, hw⟩ => by
  refine free ⟨x, hk x hx hl, hl, ?_, hs, by rw [← hr x hl, hw, h.bank]⟩
  rwa [inRemoteWay_iff, towerId, h.pkg, hr x hl, ← towerId, ← inRemoteWay_iff] at hi

theorem keys_setLine {x : Nat} {li : LineInfo} (hx : x ∈ (s.setLine l li).lines.keys) (hl : x ≠ l) : x ∈ s.lines.keys :=
  ((Table.mem_keys_set ..).1 hx).resolve_left hl

theorem keys_correct {x : Nat} (hx : x ∈ (s.correct T (128 * l)).lines.keys) (hl : x ≠ l) : x ∈ s.lines.keys := by
  simp only [correct, lineOf_mul] at hx
  split at hx
  · rw [logPa_lines] at hx; exact keys_setLine hx hl
  · exact hx

/-- A tower that its remote-data cache has room for takes a remote way. -/
theorem remote_pos (h : s.Remote T l) (ha : s.noAlloc T (128 * l) = false) : 0 < (s.bank (T % 4) (crownBankOf (128 * l))).remote := by
  obtain ⟨hp, ht⟩ := h
  simp [State.noAlloc, hp, ht] at ha
  omega

/-- The state in which an owned line, its symbols corrected, has come to be owned by tower T with a new version at t. -/
def takenAt (s : State) (T l t : Nat) : State :=
  (s.correct T (128 * l)).setLine l
    { (s.correct T (128 * l)).pushVersion l (s.corrected T l) with
      wts := t, rts := t, st := .m, owner := T, recWts := t, recRts := t, recTurn := s.turn }

/-- A store by an agent of another tower makes that tower the owner, and the line enters its caches (R25, R58). -/
theorem storeDone_of_owned (s : State) {t : Nat} (data : List Byte) (ho : (s.line l).owned = true) (hT : (s.line l).owner ≠ T)
    (ha : s.noAlloc T (128 * l) = false) : s.storeDone T (128 * l) t data =
      { (s.takenAt T l t).enterRemote T l with mem := s.mem.writeN (128 * l) data }.noteClock t := by
  have hc := corrected_of_owner_ne hT
  have steps := (Moves.correct s T (128 * l)).steps
  have record := recStore_of_owner_ne (s := s.correct T (128 * l)) (T := T) (pa := 128 * l) (t := t)
    (li := { (s.correct T (128 * l)).pushVersion l (s.corrected T l) with wts := t, rts := t })
    (by rw [hc]; exact ho) (by rw [hc]; exact hT) (by rw [steps.noAlloc]; exact ha)
  have enters (new : LineInfo) (h : new.owned = true) (k : new.owner = T) :
      (s.correct T (128 * l)).setRecord T l new = ((s.correct T (128 * l)).setLine l new).enterRemote T l := by
    rw [setRecord, line_correct, hc]
    simp [h, k, hT]
  simp only [storeDone, storeBytes, recStored, lineOf_mul, line_correct, record, Bool.false_eq_true, if_false]
  rw [enters _ rfl rfl, (correct_data s T _).1, steps.turn]
  rfl

/-! What the line's coming to be owned keeps. -/

section
variable (s) (T l) (c : Nat)

theorem takenAt_steps : s.LineSteps (s.takenAt T l c) := (Moves.correct s T _).steps.trans ((LineSteps.refl _).setLine l _)

theorem takenAt_data : (s.takenAt T l c).mem = s.mem ∧ (s.takenAt T l c).hbm = s.hbm := correct_data s T _

theorem takenAt_rest : RestOf l s (s.takenAt T l c) := (RestOf.correct s T l).trans (RestOf.setLine _ l _)

theorem takenAt_backed : backed s ((s.takenAt T l c).enterRemote T l) := fun b => by
  obtain ⟨hm, hh⟩ := s.takenAt_data T l c
  have := (Moves.enterRemote (s.takenAt T l c) T l).backed b
  rwa [hm, hh] at this

theorem takenAt_free (h : ¬ s.Remote T l ∨ ∃ i, i < (s.bank (T % 4) (crownBankOf (128 * l))).remote ∧ s.RemoteWayFree T l i) :
    ((s.takenAt T l c).enterRemote T l).hbm = s.hbm ∧ RestOf l s ((s.takenAt T l c).enterRemote T l) := by
  have steps := s.takenAt_steps T l c
  have free : ¬ (s.takenAt T l c).Remote T l ∨ ∃ i, i < ((s.takenAt T l c).bank (T % 4) (crownBankOf (128 * l))).remote ∧
      (s.takenAt T l c).RemoteWayFree T l i := by
    rw [steps.remote, steps.bank]
    refine h.imp_right fun ⟨i, hi, k⟩ => ⟨i, hi, k.steps steps (s.takenAt_rest T l c) fun x hx hl => ?_⟩
    exact keys_correct (keys_setLine hx hl) hl
  obtain ⟨hh, hr⟩ := enterRemote_of_free free
  exact ⟨hh.trans (s.takenAt_data T l c).2, (s.takenAt_rest T l c).trans hr⟩

/-- The record of the line at its new owner, but for its way. -/
theorem takenAt_line (ha : s.noAlloc T (128 * l) = false) :
    { ((s.takenAt T l c).enterRemote T l).line l with rway := 0 } = { (s.takenAt T l c).line l with rway := 0 } ∧
      (s.Remote T l → (s.bank (T % 4) (crownBankOf (128 * l))).home ≤ (((s.takenAt T l c).enterRemote T l).line l).rway ∧
        (((s.takenAt T l c).enterRemote T l).line l).rway <
          (s.bank (T % 4) (crownBankOf (128 * l))).home + (s.bank (T % 4) (crownBankOf (128 * l))).remote) := by
  have steps := s.takenAt_steps T l c
  by_cases h : s.Remote T l
  · have pos := remote_pos h ha
    rw [← steps.bank] at pos
    obtain ⟨w, lo, hi, e⟩ := line_enterRemote (steps.remote.2 h) pos
    rw [steps.bank] at lo hi
    rw [e]
    exact ⟨rfl, fun _ => ⟨lo, hi⟩⟩
  · rw [enterRemote_of_not fun k => h (steps.remote.1 k)]
    exact ⟨rfl, fun k => absurd k h⟩

end

theorem read_writeN_readN (m : Memory) (a n b : Nat) : (m.writeN a (m.readN a n)).read b = m.read b := by
  rw [Memory.read_writeN, Memory.length_readN]
  split
  · rw [Memory.getD_readN _ _ _ _ (by omega)]; congr 1; omega
  · rfl

end State

/-! ## OWNER_FORWARD (R25) -/

theorem ownerForward_of_not {s : State} {line tower pts : Nat} {store : Bool}
    (h : (s.line line).owned = false ∨ (s.line line).owner = tower) : exec (.ownerForward line tower pts store) s = .next s := by
  show execOwnerForward line tower pts store s = _
  rcases h with h | h <;> simp [execOwnerForward, h]

section
variable {s : State} {line tower pts : Nat} (ho : (s.line line).owned = true) (hc : (s.line line).copy = .held)
  (hT : (s.line line).owner ≠ tower) (hf : s.isFenced (tower / 4) = false) (hl : s.lineFault (128 * line) = none)
include ho hc hT hf hl

/-- A load of another tower that nothing holds up reaches the owned line. -/
theorem ownerForward_load_eq :
    exec (.ownerForward line tower pts false) s = .next (s.loadLatest tower pts (128 * line) 0).2.2 := by
  have touched : s.touch (128 * line) = some s := s.touch_held _ (by rw [lineOf_mul]; exact hc)
  show execOwnerForward line tower pts false s = _
  simp [execOwnerForward, ho, hT, hf, hl, touched]

theorem ownerForward_store_eq {c : Nat} {u : State}
    (h : s.storeStep tower pts (128 * line) (s.mem.readN (128 * line) 128) = some (c, u)) :
    exec (.ownerForward line tower pts true) s = .next u := by
  have touched : s.touch (128 * line) = some s := s.touch_held _ (by rw [lineOf_mul]; exact hc)
  show execOwnerForward line tower pts true s = _
  simp [execOwnerForward, ho, hT, hf, hl, touched, h]

/-- A load by another tower's agent (R25). -/
theorem ownerForward_load :
    let rts := leaseEnd (s.line line).rts (max pts (s.line line).wts)
    ∃ u, exec (.ownerForward line tower pts false) s = .next u ∧ u.mem = s.mem ∧ u.hbm = s.hbm ∧ State.RestOf line s u ∧
      u.line line = { s.line line with
        st := if (s.line line).st = .e then .s else .o
        owner := if (s.line line).st = .e then 0x3FF else (s.line line).owner
        rts := rts
        sym := (s.line line).sym && decide ((s.line line).place ≠ .none)
        recWts := (s.line line).wts, recRts := rts, recTurn := s.turn } :=
  ⟨_, ownerForward_load_eq ho hc hT hf hl, State.loadLatest_of_owned s 0 ho hT⟩

/-- A store by another tower's agent (R25, R58). -/
theorem ownerForward_store (ht : max pts ((s.line line).rts + 1) ≤ Config.maxClock)
    (ha : s.noAlloc tower (128 * line) = false) :
    exec (.ownerForward line tower pts true) s =
      .next (State.noteClock { (s.takenAt tower line (max pts ((s.line line).rts + 1))).enterRemote tower line with
        mem := s.mem.writeN (128 * line) (s.mem.readN (128 * line) 128) } (max pts ((s.line line).rts + 1))) := by
  have step := State.storeStep_of_clock (s := s) (T := tower) (pa := 128 * line) (s.mem.readN (128 * line) 128)
    (by rw [lineOf_mul]; exact ht)
  rw [lineOf_mul, State.storeDone_of_owned s _ ho hT ha] at step
  exact ownerForward_store_eq ho hc hT hf hl step

end

section
variable {s : State} {line : Nat}

/-! ## Write-backs, notices, renewals (R25 to R27) -/

theorem ownerSends_eq (s : State) (line : Nat) : s.ownerSends line = true ↔
    (s.line line).copy ≠ .lost ∧ s.isFenced ((s.line line).owner / 4) = false := by
  simp [State.ownerSends]

theorem writeBack_eq (h : (s.line line).copy ≠ .lost) (hf : s.isFenced ((s.line line).owner / 4) = false) :
    exec (.writeBack line) s = .next (s.writeBackLine line) := by
  show execWriteBack line s = _
  rw [execWriteBack, if_pos ((ownerSends_eq s line).2 ⟨h, hf⟩)]

/-- A lost copy, and the owner of a fenced package, send nothing (R352, R369). -/
theorem not_ownerSends (h : (s.line line).copy = .lost ∨ s.isFenced ((s.line line).owner / 4) = true) :
    ¬ s.ownerSends line = true := fun k => by
  obtain ⟨hc, hf⟩ := (ownerSends_eq s line).1 k
  rcases h with h | h
  · exact hc h
  · rw [hf] at h; exact nomatch h

theorem writeBack_of_not (h : ¬ s.ownerSends line = true) : exec (.writeBack line) s = .next s := by
  show execWriteBack line s = _
  rw [execWriteBack, if_neg h]

theorem writeBack_of_clean (h : (s.line line).st ≠ .m) (k : (s.line line).st ≠ .o) : exec (.writeBack line) s = .next s := by
  show execWriteBack line s = _
  rw [execWriteBack, State.writeBackLine_of_clean s line h k, ite_self]

theorem evictionNotice_of_not (h : (s.line line).st ≠ .e ∨ ¬ s.ownerSends line = true) :
    exec (.evictionNotice line) s = .next s := by
  show execEvictionNotice line s = _
  rcases h with h | h <;> simp [execEvictionNotice, h]

/-- The owner gives up a clean copy (R25). -/
theorem evictionNotice_eq (he : (s.line line).st = .e) (h : (s.line line).copy ≠ .lost)
    (hf : s.isFenced ((s.line line).owner / 4) = false) : exec (.evictionNotice line) s =
      .next (s.setLine line { s.line line with
        st := .i, owner := 0x3FF, copy := .held
        recWts := (s.line line).wts, recRts := (s.line line).rts, recTurn := s.turn }) := by
  show execEvictionNotice line s = _
  simp [execEvictionNotice, he, (ownerSends_eq s line).2 ⟨h, hf⟩, State.leaveRemote, LineInfo.stamp]

/-- A correction of symbols changes nothing else of the record (R20). -/
theorem State.corrected_eq (s : State) (T l : Nat) : s.corrected T l = { s.line l with sym := (s.corrected T l).sym } := by
  unfold State.corrected
  split <;> rfl

/-- The responder applies a lease (R27). -/
theorem leaseRenewal_spec (wts pts : Nat) (h : s.lineFault (128 * line) = none) :
    let rts := leaseEnd (s.line line).rts (if wts = (s.line line).wts then pts else max pts (s.line line).wts)
    ∃ u, exec (.leaseRenewal line wts pts) s = .next u ∧ u.mem = s.mem ∧ State.RestOf line s u ∧ (u.line line).rts = rts ∧
      (u.line line).st = (s.line line).st ∧ (u.line line).owner = (s.line line).owner ∧ (u.line line).wts = (s.line line).wts ∧
      ((s.line line).owned = false → (u.line line).recRts = rts ∧ (u.line line).recTurn = s.turn) := by
  intro rts
  by_cases ho : (s.line line).owned = true
  · refine ⟨(s.setLine line { s.line line with rts := rts }).noteClock rts, ?_, ?_, fun x hx => ?_, ?_⟩
    · show execLeaseRenewal line wts pts s = _
      simp [execLeaseRenewal, h, ho, rts]
    · exact (State.noteClock_data ..).1
    · rw [State.line_noteClock]; exact State.RestOf.setLine s line _ x hx
    · rw [State.line_noteClock, State.line_setLine]
      exact ⟨rfl, rfl, rfl, rfl, fun k => absurd ho (by rw [k]; decide)⟩
  · have ho : (s.line line).owned = false := by simpa using ho
    have steps := (State.Moves.correct s (homeOf (128 * line)) (128 * line)).steps
    obtain ⟨sym, hc⟩ : ∃ sym, s.corrected (homeOf (128 * line)) line = { s.line line with sym := sym } :=
      ⟨_, s.corrected_eq _ line⟩
    refine ⟨((s.correct (homeOf (128 * line)) (128 * line)).setLine line
      { s.line line with sym := sym, rts := rts, recWts := (s.line line).wts, recRts := rts, recTurn := s.turn }).noteClock rts,
      ?_, ?_, fun x hx => ?_, ?_⟩
    · show execLeaseRenewal line wts pts s = _
      have ho' : LineInfo.owned { s.line line with sym := sym } = false := ho
      simp only [execLeaseRenewal, h, ho, Option.isSome_none, Bool.false_eq_true, if_false, State.line_correct, hc, ho',
        LineInfo.stamp, steps.turn, rts]
    · exact (State.noteClock_data ..).1.trans (State.correct_data s ..).1
    · rw [State.line_noteClock]
      exact ((State.RestOf.correct s _ line).trans (State.RestOf.setLine _ line _)) x hx
    · rw [State.line_noteClock, State.line_setLine]
      exact ⟨rfl, rfl, rfl, rfl, fun _ => ⟨rfl, rfl⟩⟩

end

section
variable {s : State} {line : Nat}

/-! ## Tree banks (R50 to R52) -/

theorem treeBankEviction_eq {bank : Nat} (h : (s.line line).place = .tree bank) :
    exec (.treeBankEviction line) s = .next (s.leaveTree line) := by
  show execTreeBankEviction line s = _
  rw [execTreeBankEviction, h]

theorem treeBankEviction_of_not (h : ∀ bank, (s.line line).place ≠ .tree bank) : exec (.treeBankEviction line) s = .next s := by
  show execTreeBankEviction line s = _
  rw [execTreeBankEviction]
  split
  · next bank e => exact absurd e (h bank)
  · rfl

theorem home_pos_of_hasHomeWays (h : s.hasHomeWays line = true) :
    0 < (s.bank (homeOf (128 * line) % 4) (crownBankOf (128 * line))).home := by
  simp only [State.hasHomeWays, Bool.and_eq_true, decide_eq_true_eq] at h
  obtain ⟨⟨-, home⟩, -⟩ := h
  exact Nat.pos_of_ne_zero home

theorem leaveHome_of_owner_ne (h : (s.line line).owner ≠ homeOf (128 * line)) :
    s.leaveHome line = s.setLine line { s.line line with place := .none } := by
  simp [State.leaveHome, h]

/-- A line that leaves the home's caches dirty there is written to HBM (R23, R51). -/
theorem leaveHome_of_dirty (h : (s.line line).owner = homeOf (128 * line)) (hc : (s.line line).copy ≠ .lost)
    (hd : (s.line line).st = .m ∨ (s.line line).st = .o) : State.HbmTakes line s (s.leaveHome line) := by
  obtain ⟨hm, hh⟩ := (s.writeBackLine_eq line hd hc).1
  rw [State.leaveHome]
  simp only [h, if_true]
  exact ⟨hm, hh⟩

theorem leaveHome_place : ((s.leaveHome line).line line).place = .none := by
  rw [State.leaveHome]
  exact congrArg LineInfo.place (State.line_setLine ..)

/-- A line of a warm region enters the covering bank with its record unchanged (R52). -/
theorem warmPrefetch_eq {job lid bank : Nat} {rs : List Region} {r : Region} (hs : s.regions = [(bank, rs)]) (hr : r ∈ rs)
    (hj : r.job = job) (hl : r.lid = lid) (hw : r.warm = true) (lo : r.line ≤ line) (hi : line < r.line + r.len)
    (hb : windowOf (128 * line) = .hbm) (ht : homeOf (128 * line) = s.towerId (bank / 252)) (bad : (s.line line).bad = false)
    (ho : (s.line line).owned = false ∨ (s.line line).owner = homeOf (128 * line)) (hc : (s.line line).copy = .held)
    (room : s.treeRoom bank = true) (hp : ∀ b, (s.line line).place ≠ .tree b) :
    exec (.warmPrefetch job lid line) s = .next (s.setLine line { s.line line with place := .tree bank }) := by
  have covered : (rs.any fun r => r.job = job && r.lid = lid && r.warm && r.line ≤ line && line < r.line + r.len) = true :=
    List.any_eq_true.2 ⟨r, hr, by simp [hj, hl, hw, lo, hi]⟩
  have here : ¬ (decide (windowOf (128 * line) ≠ .hbm) || decide (homeOf (128 * line) ≠ s.towerId (bank / 252))) = true := by
    simp [hb, ht]
  have enters : ¬ (((s.line line).owned && decide ((s.line line).owner ≠ homeOf (128 * line))) ||
      decide ((s.line line).copy ≠ .held) || !s.treeRoom bank) = true := by
    rcases ho with ho | ho <;> simp [ho, hc, room]
  show execWarmPrefetch job lid line s = _
  simp only [execWarmPrefetch, hs, List.find?_cons, covered]
  rw [if_neg here, if_neg (by simp [bad]), if_neg enters]

/-! ## The scrubber (R28) -/

theorem logPa_getLast (s : State) (kind pa : Nat) :
    (s.logPa kind pa).celog.getLast? = some ⟨homeOf pa, 0, 0, 0, kind, pa % 2 ^ 40⟩ := by
  simp only [State.logPa, State.logEvent]
  split
  · rw [List.getLast?_concat]; rfl
  · next h =>
    rw [List.getLast?_tail, if_neg (by omega), List.getLast?_concat]; rfl

/-- The state once the scrubber has come to the line and corrected its symbols (R20, R28). -/
def State.scrubbed (s : State) (line : Nat) : State :=
  let t := { s with scrub := s.scrub.set (homeOf (128 * line)) (s.scrub.getD (homeOf (128 * line)) 0 + 1) }
  if (s.line line).sym then (t.setLine line { s.line line with sym := false }).logPa 0 (128 * line) else t

theorem scrubbed_line : (s.scrubbed line).line line = { s.line line with sym := false } := by
  rw [State.scrubbed]
  split
  · rw [State.line_logPa, State.line_setLine]
  · next h =>
    have h : (s.line line).sym = false := by simpa using h
    rw [← h]; rfl

theorem scrubbed_rest : State.RestOf line s (s.scrubbed line) := fun x hx => by
  rw [State.scrubbed]
  split
  · rw [State.line_logPa]; exact State.RestOf.setLine _ line _ x hx
  · rfl

theorem scrubbed_mem : (s.scrubbed line).mem = s.mem := by
  rw [State.scrubbed]
  split
  · exact State.logPa_mem ..
  · rfl

theorem scrubbed_celog (h : (s.line line).sym = true) :
    (s.scrubbed line).celog.getLast? = some ⟨homeOf (128 * line), 0, 0, 0, 0, 128 * line % 2 ^ 40⟩ := by
  rw [State.scrubbed, if_pos h]
  exact logPa_getLast _ 0 _

/-- The scrubber comes to its next line, and rewrites a record of another turn (R28). -/
theorem scrubVisit_eq (hw : windowOf (128 * line) = .hbm) (bad : (s.line line).bad = false)
    (hn : s.scrub.getD (homeOf (128 * line)) 0 % 2 ^ 30 = offOf (128 * line) / 128) :
    exec (.scrubVisit line) s = .next (if (s.line line).recTurn = s.turn then s.scrubbed line
      else (s.scrubbed line).setLine line { s.line line with sym := false, recWts := 0, recRts := 0, recTurn := s.turn }) := by
  have next : ¬ (decide (windowOf (128 * line) ≠ .hbm) ||
      decide (s.scrub.getD (homeOf (128 * line)) 0 % 2 ^ 30 ≠ offOf (128 * line) / 128)) = true := by rw [hn]; simp [hw]
  show execScrubVisit line s = _
  simp only [execScrubVisit]
  rw [if_neg next, if_neg (by simp [bad])]
  have turn : (s.scrubbed line).turn = s.turn := by
    rw [State.scrubbed]
    split
    · exact State.logPa_turn ..
    · rfl
  show Host.Outcome.next (if (s.line line).recTurn = (s.scrubbed line).turn then s.scrubbed line
    else (s.scrubbed line).setLine line (((s.scrubbed line).line line).stamp (s.scrubbed line).turn 0 0)) = _
  rw [turn, scrubbed_line]
  rfl

end

/-! ## Writes that leave the twig switch (R77) -/

section
variable {s : State} {i : Nat} {w : TwigWrite}

theorem firstOf_eq {α : Type} (l : List α) (i : Nat) (p : α → Bool) : firstOf l i p = true ↔ ∀ x ∈ l.take i, p x = false := by
  simp [firstOf]

theorem twigSwitchWrite_first (h : s.twig[i]? = some w) (hf : ∀ v ∈ s.twig.take i, v.agent ≠ w.agent ∨ v.cl ≠ w.cl) :
    exec (.twigSwitchWrite i) s = .next (State.twigArrive { s with twig := s.twig.eraseIdx i } w) := by
  have first : firstOf s.twig i (fun v => v.agent = w.agent && v.cl = w.cl) = true := by
    rw [firstOf_eq]
    intro v hv
    rcases hf v hv with k | k <;> simp [k]
  show execTwigSwitchWrite i s = _
  simp only [execTwigSwitchWrite, h, first, if_true]

theorem twigSwitchWrite_later (h : s.twig[i]? = some w) (hf : ∃ v ∈ s.twig.take i, v.agent = w.agent ∧ v.cl = w.cl) :
    exec (.twigSwitchWrite i) s = .next s := by
  obtain ⟨v, hv, ha, hc⟩ := hf
  have later : ¬ firstOf s.twig i (fun v => v.agent = w.agent && v.cl = w.cl) = true := fun k => by
    have := (firstOf_eq ..).1 k v hv
    simp [ha, hc] at this
  show execTwigSwitchWrite i s = _
  simp only [execTwigSwitchWrite, h, if_neg later]

namespace Cluster

theorem line_write (c : Cluster) (off : Nat) (data : List Byte) (pts l : Nat) : (c.write off data pts).line l =
    if l = off / 128 then { c.line (off / 128) with full := true, clk := max (c.line (off / 128)).clk pts } else c.line l := by
  rw [line, write, Table.getD_set]
  rfl

end Cluster

/-- A 4-bit cell goes into its half of the byte there (R77). -/
theorem bytes_half (c : Cluster) {high : Bool} (h : w.half = some high) : w.bytes c =
    [BitVec.ofNat 8 (if high then (c.leaf.read w.off).toNat % 16 + 16 * (leNat w.data % 16)
      else (c.leaf.read w.off).toNat / 16 * 16 + leNat w.data % 16)] := by
  have old : leNat (c.read w.off 1) = (c.leaf.read w.off).toNat := by
    simp [Cluster.read, Memory.readN, leNat]
  rw [TwigWrite.bytes, h]
  simp only [old, leBytes]

theorem bytes_whole (c : Cluster) (h : w.half = none) : w.bytes c = w.data := by
  rw [TwigWrite.bytes, h]

theorem read_writeN_single (m : Memory) (a b : Nat) (x : Byte) : (m.writeN a [x]).read b = if b = a then x else m.read b := by
  rw [Memory.read_writeN]
  by_cases h : b = a
  · subst h; simp
  · rw [if_neg (by simp; omega), if_neg h]

end

/-! ## FORFEIT (R33) -/

section
variable {s s' : State} {d a : Reg} {p : Nat} {x : Xlate} {tlb : List Xlate}

/-- What a FORFEIT checks of a page after its translation (R33). -/
def forfeitPost (s : State) (x : Xlate) (p : Nat) : Option (Code × Nat) :=
  if x.mtype ≠ 0 || !(windowOf p = .hbm || windowOf p = .unbacked) then some (.permission, x.level)
  else if s.isFenced (pkgOf p) then some (.ownerFenced, 0)
  else none

/-- A line whose owner is fenced is lost (R32, R33). -/
def State.lostTo (s : State) (l : Nat) : Bool := (s.line l).owned && s.isFenced ((s.line l).owner / 4)

/-- What FORFEIT says of a line: 2 of an uncorrectable one, 1 of one whose owner is fenced, else 0 (R33). -/
def State.forfeitCode (s : State) (l : Nat) : Nat := if (s.line l).bad then 2 else if s.lostTo l then 1 else 0

/-- The state that FORFEIT leaves of a lost line: reset, with the home agents' clock and the core's pts at t. -/
def State.forfeited (s : State) (p t : Nat) (zero : Bool) : State :=
  (((if zero then s else s.readHbm p).forfeitLine (lineOf p) t zero).setHomeClock (pkgOf p) t).noteClock t

section
variable (hp : s.me.priv = true)
  (h : s.translate s.coreCtx s.me.tlb 256 needStore (forfeitPost s) (s.me.get a &&& ~~~0x7F).toNat = .ok p x tlb s')
  (hw : windowOf p = .hbm)
include hp h hw

/-- FORFEIT of a backed line, by what it finds of it. -/
theorem forfeit_eq {l t : Nat} {u : State} (hl : l = lineOf p)
    (ht : t = max (max s.me.pts (s'.homeClock (pkgOf p))) (s'.recRts l + 1))
    (hu : u = ((State.forfeitLine (if s'.forfeitCode l = 1 then (s'.keepTlb tlb).readHbm p else s'.keepTlb tlb) l t
      (s'.forfeitCode l = 2)).setHomeClock (pkgOf p) t).noteClock t) :
    exec (.forfeit d a) s =
      if s'.forfeitCode l = 0 then (s'.keepTlb tlb).result d 0
      else if t > Config.maxClock then .next ((s'.keepTlb tlb).stallTurn (coreTower s'.actor))
      else (u.setMe (u.me.raise t)).result d (BitVec.ofNat 64 (s'.forfeitCode l)) := by
  subst hl ht hu
  have backed : ¬ windowOf p = .unbacked := by rw [hw]; decide
  unfold forfeitPost at h
  show execForfeit d a s = _
  simp only [execForfeit, hp, h, Bool.not_true, Bool.false_eq_true, if_false, if_neg backed]
  rfl

theorem forfeit_healthy (hb : (s'.line (lineOf p)).bad = false) (hl : s'.lostTo (lineOf p) = false) :
    exec (.forfeit d a) s = (s'.keepTlb tlb).result d 0 := by
  rw [forfeit_eq hp h hw rfl rfl rfl, if_pos (by simp [State.forfeitCode, hb, hl])]

theorem forfeit_lost {t : Nat} (ht : t = max (max s.me.pts (s'.homeClock (pkgOf p))) (s'.recRts (lineOf p) + 1))
    (hl : (s'.line (lineOf p)).bad = true ∨ s'.lostTo (lineOf p) = true) (hc : t ≤ Config.maxClock) :
    exec (.forfeit d a) s =
      (((s'.keepTlb tlb).forfeited p t (s'.line (lineOf p)).bad).setMe
        (((s'.keepTlb tlb).forfeited p t (s'.line (lineOf p)).bad).me.raise t)).result d
          (BitVec.ofNat 64 (if (s'.line (lineOf p)).bad then 2 else 1)) := by
  have code : s'.forfeitCode (lineOf p) = if (s'.line (lineOf p)).bad then 2 else 1 := by
    cases hb : (s'.line (lineOf p)).bad <;> simp_all [State.forfeitCode]
  have lost : ¬ s'.forfeitCode (lineOf p) = 0 := by rw [code]; split <;> decide
  rw [forfeit_eq hp h hw rfl ht rfl, if_neg lost, if_neg (Nat.not_lt.2 hc), code]
  cases (s'.line (lineOf p)).bad <;> rfl

end

end

namespace State

variable {s s' u : State} {tlb : List Xlate} {d : Reg} {v : Word} {q : Nat}

/-- What the core shows once the access has left it with clock q and the instruction writes gD (R243). -/
theorem resultStep_put (hs : s'.me = s.me) (hu : u.me = { (s'.keepTlb tlb).me with pts := q }) :
    resultStep s (u.setMe ((u.me.put d v).advance)) d v := by
  obtain ⟨same, -, pc, others⟩ := coreStep_put hs hu d v
  rw [resultStep, me_setMe]
  exact ⟨same, pc, fun hd => by rw [Core.get_advance, Core.get_put_self _ _ _ hd], others⟩

section
variable (s) (p t : Nat) (zero : Bool)

/-- The data of the line is read with its symbols corrected, unless it is to be zero (R20, R33). -/
def forfeitRead : State := if zero then s else s.readHbm p

theorem forfeitRead_steps : s.LineSteps (s.forfeitRead p zero) := by
  unfold forfeitRead
  split
  · exact .refl s
  · exact (LineSteps.refl s).readHbm p

theorem forfeitRead_data : (s.forfeitRead p zero).mem = s.mem ∧ (s.forfeitRead p zero).hbm = s.hbm := by
  unfold forfeitRead readHbm
  split
  · exact ⟨rfl, rfl⟩
  · dsimp only
    split
    · exact ⟨logPa_mem .., logPa_hbm ..⟩
    · exact ⟨rfl, rfl⟩

theorem forfeitRead_rest : RestOf (lineOf p) s (s.forfeitRead p zero) := fun x hx => by
  unfold forfeitRead readHbm
  split
  · rfl
  · dsimp only
    split
    · rw [line_logPa]; exact RestOf.setLine s _ _ x hx
    · rfl

/-- Everything of a reset line but its older versions (R33). -/
theorem forfeitLine_line (l : Nat) : { (s.forfeitLine l t zero).line l with old := [] } =
    { LineInfo.reset with wts := t, rts := t, recWts := t, recRts := t, recTurn := s.turn } := by
  unfold forfeitLine
  cases zero
  · exact congrArg (fun li : LineInfo => { li with old := [] }) (line_setLine s l _)
  · exact congrArg (fun li : LineInfo => { li with old := [] }) (line_setLine s l _)

theorem forfeitLine_rest (l : Nat) : RestOf l s (s.forfeitLine l t zero) := fun x hx => by
  unfold forfeitLine
  cases zero
  · exact RestOf.setLine s l _ x hx
  · exact RestOf.setLine s l _ x hx

theorem forfeitLine_me (l : Nat) : (s.forfeitLine l t zero).me = s.me := by
  unfold forfeitLine
  cases zero <;> rfl

/-- A reset line holds zeros, or what HBM holds (R33). -/
theorem forfeitLine_mem (l b : Nat) : (s.forfeitLine l t zero).mem.read b =
    if 128 * l ≤ b ∧ b < 128 * l + 128 then (if zero then 0 else s.hbm.read b) else s.mem.read b := by
  unfold forfeitLine
  cases zero
  · exact Memory.read_copyFrom ..
  · exact Memory.read_clear ..

theorem forfeited_eq : s.forfeited p t zero =
    (((s.forfeitRead p zero).forfeitLine (lineOf p) t zero).setHomeClock (pkgOf p) t).noteClock t := rfl

theorem forfeited_me : (s.forfeited p t zero).me = s.me := by
  rw [forfeited_eq, ((LineSteps.refl _).noteClock t).me]
  exact (forfeitLine_me ..).trans (s.forfeitRead_steps p zero).me

theorem forfeited_line (x : Nat) :
    (s.forfeited p t zero).line x = ((s.forfeitRead p zero).forfeitLine (lineOf p) t zero).line x := by
  rw [forfeited_eq, line_noteClock]
  rfl

theorem forfeited_rest : RestOf (lineOf p) s (s.forfeited p t zero) := fun x hx => by
  rw [forfeited_line, forfeitLine_rest _ _ _ _ x hx, s.forfeitRead_rest p zero x hx]

theorem forfeited_mem (b : Nat) : (s.forfeited p t zero).mem.read b =
    if 128 * lineOf p ≤ b ∧ b < 128 * lineOf p + 128 then (if zero then 0 else s.hbm.read b) else s.mem.read b := by
  obtain ⟨hm, hh⟩ := s.forfeitRead_data p zero
  rw [forfeited_eq, (noteClock_data ..).1, ← hm, ← hh]
  exact forfeitLine_mem ..

theorem forfeited_homeClock : (s.forfeited p t zero).homeClock (pkgOf p) = t := by
  rw [forfeited_eq, noteClock_eq]
  simp [homeClock, setHomeClock]

end

end State

section
variable {s s' : State} {d a : Reg} {p : Nat} {x : Xlate} {tlb : List Xlate} (hp : s.me.priv = true)
  (h : s.translate s.coreCtx s.me.tlb 256 needStore (forfeitPost s) (s.me.get a &&& ~~~0x7F).toNat = .ok p x tlb s')
  (hw : windowOf p = .hbm)
include hp h hw

/-- FORFEIT does nothing for a healthy line (R33). -/
theorem forfeit_healthy_spec (hb : (s'.line (lineOf p)).bad = false) (hl : s'.lostTo (lineOf p) = false) :
    ∃ u, exec (.forfeit d a) s = .next u ∧ resultStep s u d 0 ∧ u.lines = s'.lines ∧ u.mem = s'.mem := by
  have steps := ((State.LineSteps.refl s).translate _ _ _ _ _ _).1 _ _ _ _ h
  exact ⟨_, forfeit_healthy hp h hw hb hl, State.resultStep_put (q := (s'.keepTlb tlb).me.pts) steps.me rfl, rfl, rfl⟩

/-- FORFEIT resets a lost line at a step of the home agent and the core (R19, R33, log 20). -/
theorem forfeit_lost_spec {t : Nat} (ht : t = max (max s.me.pts (s'.homeClock (pkgOf p))) (s'.recRts (lineOf p) + 1))
    (hl : (s'.line (lineOf p)).bad = true ∨ s'.lostTo (lineOf p) = true) (hc : t ≤ Config.maxClock) :
    ∃ u, exec (.forfeit d a) s = .next u ∧ resultStep s u d (if (s'.line (lineOf p)).bad then 2 else 1) ∧ u.me.pts = t ∧
      u.homeClock (pkgOf p) = t ∧ State.RestOf (lineOf p) s' u ∧
      { u.line (lineOf p) with old := [] } =
        { LineInfo.reset with wts := t, rts := t, recWts := t, recRts := t, recTurn := s'.turn } ∧
      ∀ b, u.mem.read b = if 128 * lineOf p ≤ b ∧ b < 128 * lineOf p + 128 then
        (if (s'.line (lineOf p)).bad then 0 else s'.hbm.read b) else s'.mem.read b := by
  have steps := ((State.LineSteps.refl s).translate _ _ _ _ _ _).1 _ _ _ _ h
  have le : (s'.keepTlb tlb).me.pts ≤ t := by
    rw [State.me_keepTlb, steps.me, ht]
    exact (Nat.le_max_left ..).trans (Nat.le_max_left ..)
  have me : (((s'.keepTlb tlb).forfeited p t (s'.line (lineOf p)).bad).setMe
      (((s'.keepTlb tlb).forfeited p t (s'.line (lineOf p)).bad).me.raise t)).me =
        { (s'.keepTlb tlb).me with pts := t } := by
    rw [State.me_setMe, State.forfeited_me, Core.raise, Nat.max_eq_right le]
  have step := State.resultStep_put (d := d) (v := BitVec.ofNat 64 (if (s'.line (lineOf p)).bad then 2 else 1)) steps.me me
  refine ⟨_, forfeit_lost hp h hw ht hl hc, ?_, ?_, ?_, ?_, ?_, ?_⟩
  · convert step using 2
    split <;> rfl
  · rw [State.me_setMe, me]
    unfold Core.put Core.advance
    split <;> rfl
  · exact State.forfeited_homeClock ..
  · exact State.forfeited_rest (s'.keepTlb tlb) p t _
  · refine (congrArg (fun li : LineInfo => { li with old := [] }) (State.forfeited_line (s'.keepTlb tlb) p t _ _)).trans ?_
    rw [State.forfeitLine_line, (State.forfeitRead_steps ..).turn]
    rfl
  · exact State.forfeited_mem (s'.keepTlb tlb) p t _

end

section
variable {s : State} {line : Nat}

/-- A store by another tower's agent makes that tower the owner of a new version, in a remote way of its caches where its package
is this one (R25, R58). -/
theorem ownerForward_store_spec {tower pts t : Nat} (ho : (s.line line).owned = true) (hc : (s.line line).copy = .held)
    (hT : (s.line line).owner ≠ tower) (hf : s.isFenced (tower / 4) = false) (hl : s.lineFault (128 * line) = none)
    (ht : t = max pts ((s.line line).rts + 1)) (hm : t ≤ Config.maxClock) (ha : s.noAlloc tower (128 * line) = false) :
    ∃ u, exec (.ownerForward line tower pts true) s = .next u ∧
      (¬ s.Remote tower line ∨
          (∃ i, i < (s.bank (tower % 4) (crownBankOf (128 * line))).remote ∧ s.RemoteWayFree tower line i) →
        u.hbm = s.hbm ∧ State.RestOf line s u) ∧
      (s.Remote tower line → (s.bank (tower % 4) (crownBankOf (128 * line))).home ≤ (u.line line).rway ∧
        (u.line line).rway <
          (s.bank (tower % 4) (crownBankOf (128 * line))).home + (s.bank (tower % 4) (crownBankOf (128 * line))).remote) ∧
      backed s u ∧ (∀ b, u.mem.read b = s.mem.read b) ∧
      (u.line line).st = .m ∧ (u.line line).owner = tower ∧ (u.line line).wts = t ∧ (u.line line).rts = t ∧
      (u.line line).recWts = t ∧ (u.line line).recRts = t ∧ (u.line line).recTurn = s.turn := by
  subst ht
  obtain ⟨record, way⟩ := s.takenAt_line tower line (max pts ((s.line line).rts + 1)) ha
  have same (x : Nat) (m : Memory) (c : Nat) : (State.noteClock { (s.takenAt tower line
      (max pts ((s.line line).rts + 1))).enterRemote tower line with mem := m } c).line x =
        ((s.takenAt tower line (max pts ((s.line line).rts + 1))).enterRemote tower line).line x := State.line_noteClock ..
  refine ⟨_, ownerForward_store ho hc hT hf hl hm ha, fun hfree => ?_, fun hr => ?_, fun b => ?_, fun b => ?_, ?_⟩
  · obtain ⟨hh, hrest⟩ := s.takenAt_free tower line (max pts ((s.line line).rts + 1)) hfree
    exact ⟨(State.noteClock_data ..).2.trans hh, fun x hx => (same ..).trans (hrest x hx)⟩
  · rw [same]; exact way hr
  · rw [(State.noteClock_data ..).2]
    exact s.takenAt_backed tower line _ b
  · rw [(State.noteClock_data ..).1]
    exact State.read_writeN_readN ..
  · rw [State.takenAt, State.line_setLine] at record
    rw [same]
    exact ⟨congrArg LineInfo.st record, congrArg LineInfo.owner record, congrArg LineInfo.wts record, congrArg LineInfo.rts record,
      congrArg LineInfo.recWts record, congrArg LineInfo.recRts record, congrArg LineInfo.recTurn record⟩

/-- The scrubber's visit of a line that is not uncorrectable (R20, R28). -/
theorem scrubVisit_spec (hw : windowOf (128 * line) = .hbm) (bad : (s.line line).bad = false)
    (hn : s.scrub.getD (homeOf (128 * line)) 0 % 2 ^ 30 = offOf (128 * line) / 128) :
    ∃ u, exec (.scrubVisit line) s = .next u ∧ u.mem = s.mem ∧ State.RestOf line s u ∧ (u.line line).sym = false ∧
      ((s.line line).sym = true → ∃ e, u.celog.getLast? = some e ∧ e.kind = 0 ∧ e.tower = homeOf (128 * line) ∧
        e.detail = 128 * line % 2 ^ 40) ∧
      ((s.line line).recTurn ≠ s.turn → (u.line line).recTurn = s.turn ∧ (u.line line).recWts = 0 ∧ (u.line line).recRts = 0) ∧
      ((s.line line).recTurn = s.turn → u.line line = { s.line line with sym := false }) := by
  refine ⟨_, scrubVisit_eq hw bad hn, ?_⟩
  by_cases ht : (s.line line).recTurn = s.turn
  · rw [if_pos ht, scrubbed_line]
    exact ⟨scrubbed_mem, scrubbed_rest, rfl, fun hs => ⟨_, scrubbed_celog hs, rfl, rfl, rfl⟩, fun k => absurd ht k, fun _ => rfl⟩
  · rw [if_neg ht, State.line_setLine]
    exact ⟨scrubbed_mem, scrubbed_rest.trans (State.RestOf.setLine _ line _), rfl, fun hs => ⟨_, scrubbed_celog hs, rfl, rfl, rfl⟩,
      fun _ => ⟨rfl, rfl, rfl⟩, fun k => absurd k ht⟩

/-- A line leaves a tree bank for a home way (R51, R55). -/
theorem treeBankEviction_home {bank : Nat} (hb : (s.line line).place = .tree bank) (h : s.hasHomeWays line = true) :
    ∃ u, exec (.treeBankEviction line) s = .next u ∧ u.mem = s.mem ∧
      ∃ w, w < (s.bank (homeOf (128 * line) % 4) (crownBankOf (128 * line))).home ∧
        u.line line = { s.line line with place := .home, way := w } ∧ backed s u ∧
        ((∃ i, i < (s.bank (homeOf (128 * line) % 4) (crownBankOf (128 * line))).home ∧ s.HomeWayFree line i) →
          u.hbm = s.hbm ∧ State.RestOf line s u) := by
  obtain ⟨w, hw, record⟩ := s.line_enterHome line (home_pos_of_hasHomeWays h)
  have moves := State.Moves.enterHome s line
  refine ⟨_, treeBankEviction_eq hb, ?_⟩
  rw [State.leaveTree, if_pos h]
  exact ⟨moves.mem, w, hw, record, moves.backed, s.enterHome_of_free line⟩

/-- A line leaves a tree bank of a tower without home ways for it (R51). -/
theorem treeBankEviction_none {bank : Nat} (hb : (s.line line).place = .tree bank) (h : s.hasHomeWays line = false) :
    ∃ u, exec (.treeBankEviction line) s = .next u ∧ u.mem = s.mem ∧ (u.line line).place = .none ∧ State.RestOf line s u ∧
      ((s.line line).owner = homeOf (128 * line) → (s.line line).copy ≠ .lost → (s.line line).st = .m ∨ (s.line line).st = .o →
        State.HbmTakes line s u) ∧
      ((s.line line).owner ≠ homeOf (128 * line) → u.hbm = s.hbm ∧ (u.line line).st = (s.line line).st ∧
        (u.line line).owner = (s.line line).owner) := by
  refine ⟨_, treeBankEviction_eq hb, ?_⟩
  rw [State.leaveTree, if_neg (by rw [h]; decide)]
  refine ⟨(State.Moves.leaveHome s line).mem, leaveHome_place, State.RestOf.leaveHome s line, fun ho hc hd =>
    leaveHome_of_dirty ho hc hd, fun ho => ?_⟩
  rw [leaveHome_of_owner_ne ho, State.line_setLine]
  exact ⟨rfl, rfl, rfl⟩

/-- The first write of an agent to a store in a twig switch is performed there (R76, R77). -/
theorem twigSwitchWrite_spec {i : Nat} {w : TwigWrite} (hi : s.twig[i]? = some w)
    (hf : ∀ v ∈ s.twig.take i, v.agent ≠ w.agent ∨ v.cl ≠ w.cl) :
    ∃ u, exec (.twigSwitchWrite i) s = .next u ∧ u.twig = s.twig.eraseIdx i ∧ u.mem = s.mem ∧
      (∀ n, n ≠ w.cl → u.cluster n = s.cluster n) ∧
      u.cluster w.cl = (s.cluster w.cl).write w.off (w.bytes (s.cluster w.cl)) w.pts :=
  ⟨_, twigSwitchWrite_first hi hf, rfl, rfl, fun _ hn => State.cluster_onCluster_ne _ _ _ _ hn, State.cluster_onCluster ..⟩

end

end Sys2Proof.Machine

/-- Settles O46: one lemma per transaction says what it does to its line, and what it leaves of the others. -/
theorem lineEvents : Obligations.LineEvents := by
  unfold Obligations.LineEvents
  intro s line pa li home lease rest hbmTakes
  refine ⟨fun tower pts ho hc hT hf hl => ⟨ownerForward_load ho hc hT hf hl, fun hm ha => ?_⟩,
    fun tower pts store h => ownerForward_of_not h,
    fun hd hc hf => ?_, fun h k => writeBack_of_clean h k, fun he hc hf => ?_, fun h => ?_,
    fun h => evictionNotice_of_not (.inl h), fun wts pts h => leaseRenewal_spec wts pts h, fun bank hb => ?_,
    fun h => treeBankEviction_of_not h, ?_, fun hw bad hn => scrubVisit_spec hw bad hn, ?_, fun i w hi => ⟨fun hf => ?_,
      fun hf => twigSwitchWrite_later hi hf⟩⟩
  · exact ownerForward_store_spec ho hc hT hf hl rfl hm ha
  · obtain ⟨takes, others, record⟩ := s.writeBackLine_eq line hd hc
    exact ⟨_, writeBack_eq hc hf, takes, others, record⟩
  · exact ⟨_, evictionNotice_eq he hc hf, rfl, rfl, State.RestOf.setLine s line _, State.line_setLine ..⟩
  · exact ⟨writeBack_of_not (not_ownerSends h), evictionNotice_of_not (.inr (not_ownerSends h))⟩
  · cases h : s.hasHomeWays line
    · obtain ⟨u, e, mem, moved⟩ := treeBankEviction_none hb h
      exact ⟨u, e, mem, nofun, fun _ => moved⟩
    · obtain ⟨u, e, mem, moved⟩ := treeBankEviction_home hb h
      exact ⟨u, e, mem, fun _ => moved, nofun⟩
  · intro job lid bank rs r hs hr hj hl hwarm lo hi hb ht bad ho hc room hp
    exact ⟨_, warmPrefetch_eq hs hr hj hl hwarm lo hi hb ht bad ho hc room hp, State.RestOf.setLine s line _, State.line_setLine ..,
      rfl⟩
  · intro d a hp post p x tlb s' h hw
    refine ⟨fun hb hl => forfeit_healthy_spec hp h hw hb hl, fun hl hc => ?_⟩
    obtain ⟨u, e, step, pts, clock, others, record, mem⟩ := forfeit_lost_spec (d := d) hp h hw rfl hl hc
    exact ⟨u, e, step, pts, clock, others, ⟨congrArg LineInfo.st record, congrArg LineInfo.owner record,
      congrArg LineInfo.bad record, congrArg LineInfo.sym record, congrArg LineInfo.wts record, congrArg LineInfo.rts record⟩, mem⟩
  · obtain ⟨u, e, twig, mem, others, written⟩ := twigSwitchWrite_spec hi hf
    refine ⟨u, e, twig, mem, others, ?_⟩
    dsimp only
    rw [written]
    refine ⟨rfl, fun hh b => ?_, fun high hh b => ?_, ?_, fun l hl => ?_⟩
    · rw [bytes_whole _ hh]; exact Memory.read_writeN ..
    · rw [bytes_half _ hh]; exact read_writeN_single ..
    · rw [Cluster.line_write, if_pos rfl]
    · rw [Cluster.line_write, if_neg hl]

end

/-! # O11: invalidated translations -/

section
open Sys2Proof Sys2Proof.Machine Sys2Proof.Claims
namespace Sys2Proof.Machine

/-! The TLBs of a core and of a copy engine without the translations that an invalidation covers (R45). -/

def Core.uncovered (scope : TlbScope) (asid va : Nat) (c : Core) : Core :=
  { c with tlb := c.tlb.filter fun x => !invalidates scope asid va x }

def Engine.uncovered (scope : TlbScope) (asid va : Nat) (e : Engine) : Engine :=
  { e with tlb := e.tlb.filter fun x => !invalidates scope asid va x }

namespace State

/-- The translations of a list that an invalidation leaves. -/
theorem mem_uncovered {scope : TlbScope} {asid va : Nat} {l : List Xlate} {x : Xlate} :
    x ∈ l.filter (fun x => !invalidates scope asid va x) ↔ x ∈ l ∧ ¬ invalidates scope asid va x = true := by
  rw [List.mem_filter, Bool.not_eq_true', Bool.not_eq_true]

section
variable (s : State) (scope : TlbScope) (asid va : Nat)

/-! What an invalidation makes of each cache and of each line (R45). -/

theorem core_invalidate (n : Nat) : (s.invalidate scope asid va).core n = (s.core n).uncovered scope asid va :=
  Table.getD_mapVals s.cores (Core.uncovered scope asid va) n Core.reset

theorem engine_invalidate (e : Nat) : (s.invalidate scope asid va).engine e = (s.engine e).uncovered scope asid va :=
  Table.getD_mapVals s.engines (Engine.uncovered scope asid va) e Engine.reset

theorem me_invalidate : (s.invalidate scope asid va).me = s.me.uncovered scope asid va :=
  s.core_invalidate scope asid va s.actor

theorem l2Of_invalidate (k : Nat) :
    (s.invalidate scope asid va).l2Of k = (s.l2Of k).filter fun x => !invalidates scope asid va x :=
  Table.getD_mapVals s.l2 (fun l => l.filter fun x => !invalidates scope asid va x) k []

theorem walksOf_invalidate (k : Nat) :
    (s.invalidate scope asid va).walksOf k = (s.walksOf k).filter fun w => !walkInvalid scope asid w :=
  Table.getD_mapVals s.walks (fun l => l.filter fun w => !walkInvalid scope asid w) k []

theorem line_invalidate (l : Nat) : (s.invalidate scope asid va).line l = (s.line l).invalidated :=
  Table.getD_mapVals s.lines LineInfo.invalidated l LineInfo.reset

end

/-- A core's TLB once the acting core has gone to its next word. -/
theorem tlb_advance (s : State) (n : Nat) : ((s.setMe s.me.advance).core n).tlb = (s.core n).tlb := by
  by_cases h : n = s.actor
  · subst h
    show ((s.setMe s.me.advance).me).tlb = s.me.tlb
    rw [s.me_setMe]
    rfl
  · rw [s.core_setMe_ne n _ h]

end State

/-- No walk reads an older version of an invalidated line, whose versions and record are as before. -/
theorem LineInfo.invalidated_spec (li : LineInfo) : (∀ v ∈ li.invalidated.old, v.walks = false) ∧
    { li.invalidated with old := li.old } = li ∧
    (li.invalidated.old.map fun v => (v.cells, v.wts, v.rts)) = li.old.map fun v => (v.cells, v.wts, v.rts) := by
  refine ⟨fun v hv => ?_, rfl, ?_⟩
  · obtain ⟨w, _, rfl⟩ := List.mem_map.1 hv
    rfl
  · rw [invalidated, List.map_map]
    rfl

end Sys2Proof.Machine

/-- Settles O11: an invalidation filters each cache by what its scope covers. -/
theorem invalidatedTranslations : Obligations.InvalidatedTranslations := by
  unfold Obligations.InvalidatedTranslations
  intro s a scope priv va covered dropped
  have covers (x : Xlate) : invalidates scope s.me.asid va x = true ↔ covered x := by
    cases scope <;> simp [covered, invalidates]
  have drops (w : WalkEntry) : walkInvalid scope s.me.asid w = true ↔ dropped w := by
    cases scope <;> simp [dropped, walkInvalid]
  refine ⟨_, if_pos priv, fun n x => ?_, fun e x => ?_, fun k x => ?_, fun k w => ?_, fun l => ?_, rfl, ?_, ?_⟩
  · rw [State.tlb_advance, State.core_invalidate, Core.uncovered, State.mem_uncovered, covers]
  · rw [← covers, ← State.mem_uncovered]
    exact iff_of_eq (congrArg (x ∈ Engine.tlb ·) (s.engine_invalidate scope s.me.asid va e))
  · rw [← covers, ← State.mem_uncovered]
    exact iff_of_eq (congrArg (x ∈ ·) (s.l2Of_invalidate scope s.me.asid va k))
  · have kept := s.walksOf_invalidate scope s.me.asid va k
    rw [← drops, Bool.not_eq_true, ← Bool.not_eq_true']
    exact (iff_of_eq (congrArg (w ∈ ·) kept)).trans List.mem_filter
  · have line := s.line_invalidate scope s.me.asid va l
    have spec := (s.line l).invalidated_spec
    rw [← line] at spec
    exact spec
  · rw [State.me_setMe, State.me_invalidate]
    rfl
  · rw [State.me_setMe, State.me_invalidate]
    rfl

end

/-! # O15: the first checks of a memory access -/

section
open Sys2Proof Sys2Proof.Machine Sys2Proof.Claims
namespace Sys2Proof.Machine

namespace State

/-- A sized access that its address, its alignment or its translation stops ends in a trap, in this order, whatever it would do
then (R34, R43, R248). -/
theorem sized_traps (s : State) (need : Need) (r : Reach) (n : Nat) (ea : Word) (k : Nat → Xlate → State → Out) :
    (canonical ea.toNat = false → ∃ t, s.sized need r n ea k = .next t ∧ trapped s t 4 5 ea) ∧
    (canonical ea.toNat = true → ea.toNat % n ≠ 0 → ∃ t, s.sized need r n ea k = .next t ∧ trapped s t 3 0 ea) ∧
    (∀ code lv, canonical ea.toNat = true → ea.toNat % n = 0 →
      s.translate s.coreCtx s.me.tlb 256 need (s.typeCheck r true) ea.toNat = .fault code lv →
      ∃ t, s.sized need r n ea k = .next t ∧ trapped s t code.num lv ea) := by
  refine ⟨fun bad => ⟨_, ?_, trapped_trap s .pageNotPresent 5 ea⟩, fun good odd => ⟨_, ?_, trapped_trap s .misaligned 0 ea⟩,
    fun code lv good even fault => ⟨_, ?_, trapped_trap s code lv ea⟩⟩
  · simp [sized, bad]
  · simp [sized, good, odd]
  · simp [sized, access, good, even, fault]

end State

end Sys2Proof.Machine

/-- Settles O15: each of these instructions begins with a sized access. -/
theorem memoryAddressTraps : Obligations.MemoryAddressTraps := by
  unfold Obligations.MemoryAddressTraps
  intro s i need r n ea form
  suffices sized : ∃ k, exec i s = s.sized need r n ea k by
    obtain ⟨k, e⟩ := sized
    rw [e]
    exact s.sized_traps need r n ea k
  cases i
  case ld | st | ldl | amo | cas | cntrd | cntwait | cntadd | cntnote =>
    obtain ⟨rfl, rfl, rfl, rfl⟩ := form
    exact ⟨_, rfl⟩
  all_goals exact form.elim

end

/-! # Launches and clusters changed one by one -/

section
open Sys2Proof Sys2Proof.Machine Sys2Proof.Claims
namespace Sys2Proof.Machine

namespace State

variable {s t u : State}

/-- t is s but for its clusters. -/
def OnClusters (s t : State) : Prop := ∃ clusters, t = { s with clusters := clusters }

namespace OnClusters

theorem refl (s : State) : s.OnClusters s := ⟨_, rfl⟩

theorem trans (h : s.OnClusters t) (k : t.OnClusters u) : s.OnClusters u := by
  obtain ⟨_, rfl⟩ := h
  obtain ⟨_, rfl⟩ := k
  exact ⟨_, rfl⟩

theorem foldl {α : Type} {F : State → α → State} (hF : ∀ (s : State) x, s.OnClusters (F s x)) (l : List α) (s : State) :
    s.OnClusters (l.foldl F s) :=
  List.foldlRecOn (motive := s.OnClusters) l F (refl s) fun t h x _ => h.trans (hF t x)

theorem setCluster (s : State) (cl : Nat) (c : Cluster) : s.OnClusters (s.setCluster cl c) := ⟨_, rfl⟩

theorem onCluster (s : State) (cl : Nat) (f : Cluster → Cluster) : s.OnClusters (s.onCluster cl f) := ⟨_, rfl⟩

theorem launches (h : s.OnClusters t) : t.launches = s.launches := by
  obtain ⟨_, rfl⟩ := h
  rfl

theorem launch? (h : s.OnClusters t) (job lid : Nat) : t.launch? job lid = s.launch? job lid := by
  rw [State.launch?, h.launches, State.launch?]

end OnClusters

/-- t is s but for its launches and clusters. -/
def OnBands (s t : State) : Prop := ∃ launches clusters, t = { s with launches := launches, clusters := clusters }

namespace OnBands

theorem refl (s : State) : s.OnBands s := ⟨_, _, rfl⟩

theorem trans (h : s.OnBands t) (k : t.OnBands u) : s.OnBands u := by
  obtain ⟨_, _, rfl⟩ := h
  obtain ⟨_, _, rfl⟩ := k
  exact ⟨_, _, rfl⟩

theorem foldl {α : Type} {F : State → α → State} (hF : ∀ (s : State) x, s.OnBands (F s x)) (l : List α) (s : State) :
    s.OnBands (l.foldl F s) :=
  List.foldlRecOn (motive := s.OnBands) l F (refl s) fun t h x _ => h.trans (hF t x)

theorem of_clusters (h : s.OnClusters t) : s.OnBands t := by
  obtain ⟨_, rfl⟩ := h
  exact ⟨_, _, rfl⟩

theorem setLaunch (s : State) (l : Launch) : s.OnBands (s.setLaunch l) := ⟨_, _, rfl⟩

end OnBands

/-! ## A list of clusters -/

/-- The clusters of a list changed by f, which changes nothing a second time. -/
theorem cluster_foldl_onCluster {f : Cluster → Cluster} (once : ∀ c, f (f c) = f c) (cls : List Nat) (s : State) (cl : Nat) :
    (cls.foldl (fun s cl => s.onCluster cl f) s).cluster cl = if cl ∈ cls then f (s.cluster cl) else s.cluster cl := by
  induction cls generalizing s with
  | nil => rfl
  | cons d ds ih =>
    rw [List.foldl_cons, ih]
    by_cases h : cl = d
    · subst h
      rw [cluster_onCluster, once, ite_self, if_pos List.mem_cons_self]
    · rw [cluster_onCluster_ne s d cl f h]
      exact if_congr (by simp [h]) rfl rfl

end State

/-- No address generator of a cluster holds a latched base. -/
def Cluster.Unlatched (c : Cluster) : Prop := ∀ g ∈ c.ags, g.2.bases = []

theorem Cluster.unlatched_dropBases (c : Cluster) : c.dropBases.Unlatched := fun g hg => by
  obtain ⟨p, _, rfl⟩ := List.mem_map.1 hg
  rfl

theorem Cluster.dropBases_dropBases (c : Cluster) : c.dropBases.dropBases = c.dropBases := by
  simp [Cluster.dropBases, Table.mapVals]

namespace State

/-- The clusters of a list give up their latched bases, the others stay (R47). -/
theorem cluster_foldl_dropBases (cls : List Nat) (s : State) (cl : Nat) :
    (cls.foldl (fun s cl => s.onCluster cl Cluster.dropBases) s).cluster cl =
      if cl ∈ cls then (s.cluster cl).dropBases else s.cluster cl :=
  cluster_foldl_onCluster Cluster.dropBases_dropBases cls s cl

theorem unlatched_foldl_dropBases {cls : List Nat} {s : State} {cl : Nat} (h : cl ∈ cls ∨ (s.cluster cl).Unlatched) :
    ((cls.foldl (fun s cl => s.onCluster cl Cluster.dropBases) s).cluster cl).Unlatched := by
  rw [cluster_foldl_dropBases]
  split
  · exact (s.cluster cl).unlatched_dropBases
  · exact h.resolve_left ‹_›

/-! ## Launches by job and id -/

theorem launch?_spec {s : State} {job lid : Nat} {l : Launch} (h : s.launch? job lid = some l) :
    l ∈ s.launches ∧ l.job = job ∧ l.id = lid :=
  ⟨List.mem_of_find?_eq_some h, by simpa using List.find?_some h⟩

theorem isSome_launch? {s : State} {l : Launch} (h : l ∈ s.launches) : (s.launch? l.job l.id).isSome = true :=
  List.find?_isSome.2 ⟨l, h, by simp⟩

/-- With each job and id once, a launch of the package is the one that its job and id find. -/
theorem launch?_of_mem {s : State} (nd : (s.launches.map fun l => (l.job, l.id)).Nodup) {l : Launch} (h : l ∈ s.launches) :
    s.launch? l.job l.id = some l := by
  obtain ⟨x, found⟩ := Option.isSome_iff_exists.1 (isSome_launch? h)
  obtain ⟨hx, job, id⟩ := launch?_spec found
  rw [found, List.inj_on_of_nodup_map nd hx h (Prod.ext job id)]

theorem launch?_setLaunch_of_some {s : State} {l : Launch} (h : (s.launch? l.job l.id).isSome = true) :
    (s.setLaunch l).launch? l.job l.id = some l := by
  obtain ⟨x, found⟩ := Option.isSome_iff_exists.1 h
  rw [launch?_setLaunch, if_pos ⟨rfl, rfl⟩, found]
  rfl

theorem launch?_setLaunch_ne (s : State) (l : Launch) {job lid : Nat} (h : (job, lid) ≠ (l.job, l.id)) :
    (s.setLaunch l).launch? job lid = s.launch? job lid := by
  rw [launch?_setLaunch, if_neg fun k => h (Prod.ext k.1.symm k.2.symm)]

section
variable {F : State → Launch → State}
  (keeps : ∀ (s : State) (y : Launch) (job lid : Nat), (job, lid) ≠ (y.job, y.id) → (F s y).launch? job lid = s.launch? job lid)
include keeps

theorem launch?_foldl_ne {ls : List Launch} {job lid : Nat} (h : (job, lid) ∉ ls.map fun l => (l.job, l.id)) (s : State) :
    (ls.foldl F s).launch? job lid = s.launch? job lid := by
  induction ls generalizing s with
  | nil => rfl
  | cons y ys ih =>
    rw [List.map_cons, List.mem_cons, not_or] at h
    rw [List.foldl_cons, ih h.2, keeps s y job lid h.1]

/-- A change of each launch of a list, which leaves the launches of other jobs and ids, leaves of l what its own change does. -/
theorem launch?_foldl {l : Launch} {P : Launch → Prop}
    (sets : ∀ s : State, (s.launch? l.job l.id).isSome = true → ∃ x, (F s l).launch? l.job l.id = some x ∧ P x)
    {ls : List Launch} (nd : (ls.map fun l => (l.job, l.id)).Nodup) (hl : l ∈ ls) {s : State}
    (h : (s.launch? l.job l.id).isSome = true) : ∃ x, (ls.foldl F s).launch? l.job l.id = some x ∧ P x := by
  induction ls generalizing s with
  | nil => exact absurd hl nofun
  | cons y ys ih =>
    rw [List.map_cons, List.nodup_cons] at nd
    rw [List.foldl_cons]
    rcases List.mem_cons.1 hl with rfl | hl
    · rw [launch?_foldl_ne keeps nd.1]
      exact sets s h
    · have other : (l.job, l.id) ≠ (y.job, y.id) := fun e => nd.1 (e ▸ List.mem_map.2 ⟨l, hl, rfl⟩)
      exact ih nd.2 hl (by rwa [keeps s y _ _ other])

end

end State

end Sys2Proof.Machine

end

/-! # O30: RELATCH -/

section
open Sys2Proof Sys2Proof.Machine Sys2Proof.Claims
namespace Sys2Proof.Machine

/-- What a RELATCH makes of a band when its token enters (R47). -/
def Band.relatched (b : Band) : Band := if b.context.isSome || b.leaving then b.dropLatches else { b with relatch := some 0 }

/-- The bands' rows that a pre-emption keeps hold no latched base. -/
theorem Band.dropLatches_spec (b : Band) :
    (∀ row ∈ (b.dropLatches.context.getD []).flatten, row.Unlatched) ∧
      (∀ v ∈ b.dropLatches.saved, ∀ c ∈ v.row, c.Unlatched) ∧ b.dropLatches.relatch = b.relatch := by
  refine ⟨fun c hc => ?_, fun v hv c hc => ?_, rfl⟩
  · obtain ⟨row, hrow, hc⟩ := List.mem_flatten.1 hc
    cases e : b.context with
    | none => simp [Band.dropLatches, e] at hrow
    | some ctx =>
      have kept : b.dropLatches.context.getD [] = ctx.map fun row => row.map Cluster.dropBases := by
        simp [Band.dropLatches, e]
      rw [kept] at hrow
      obtain ⟨row, _, rfl⟩ := List.mem_map.1 hrow
      obtain ⟨c, _, rfl⟩ := List.mem_map.1 hc
      exact c.unlatched_dropBases
  · obtain ⟨v, _, rfl⟩ := List.mem_map.1 hv
    obtain ⟨c, _, rfl⟩ := List.mem_map.1 hc
    exact c.unlatched_dropBases

namespace State

/-- A result written to the acting core as it stands. -/
theorem wrote_setMe_me (s : State) (d : Reg) (v : Word) : wrote (s.setMe s.me) d v = wrote s d v := by
  rw [wrote, me_setMe, setMe_setMe, wrote]

theorem onClusters_dropBases (s : State) (b : Band) : s.OnClusters (s.dropBases b) :=
  .foldl (fun s cl => .onCluster s cl _) b.clusters s

/-- The latched bases dropped in the clusters of a launch's band, if it is being scanned out (R47). -/
def dropLeaving (s : State) (l : Launch) : State :=
  match l.band with
  | some b => if b.leaving then s.dropBases b else s
  | none => s

theorem onClusters_dropLeaving (s : State) (l : Launch) : s.OnClusters (s.dropLeaving l) := by
  unfold dropLeaving
  split
  · split
    · exact onClusters_dropBases ..
    · exact .refl s
  · exact .refl s

theorem dropLeaving_of_leaving {l : Launch} {b : Band} (hb : l.band = some b) (leaving : b.leaving = true) (s : State) :
    s.dropLeaving l = s.dropBases b := by
  simp only [dropLeaving, hb, leaving, if_true]

/-- Clusters without a latched base stay so. -/
theorem unlatched_dropLeaving {s : State} {cl : Nat} (h : (s.cluster cl).Unlatched) (l : Launch) :
    ((s.dropLeaving l).cluster cl).Unlatched := by
  unfold dropLeaving
  split
  · split
    · exact unlatched_foldl_dropBases (.inr h)
    · exact h
  · exact h

/-- The state as a RELATCH's token enters the band of one launch (R47). -/
def enterRelatch (s : State) (l : Launch) : State := (s.dropLeaving l).onBand l Band.relatched

theorem startRelatch_eq (s : State) (asid : Nat) : s.startRelatch asid = (s.bandsOf asid).foldl enterRelatch s := rfl

theorem onBands_enterRelatch (s : State) (l : Launch) : s.OnBands (s.enterRelatch l) :=
  (OnBands.of_clusters (onClusters_dropLeaving s l)).trans (.setLaunch _ _)

/-- The token enters the band of the launch and no other launch. -/
theorem launch?_enterRelatch (s : State) (l : Launch) (job lid : Nat) : (s.enterRelatch l).launch? job lid =
    if l.job = job ∧ l.id = lid then (s.launch? job lid).map fun _ => { l with band := l.band.map Band.relatched }
    else s.launch? job lid := by
  rw [enterRelatch, onBand, launch?_setLaunch, (onClusters_dropLeaving s l).launch?]

theorem onBands_startRelatch (s : State) (asid : Nat) : s.OnBands (s.startRelatch asid) :=
  .foldl onBands_enterRelatch (s.bandsOf asid) s

/-- The first turn of a RELATCH puts its token into each band of the address space. -/
theorem launch?_startRelatch {s : State} (nd : (s.launches.map fun l => (l.job, l.id)).Nodup) {asid : Nat} {l : Launch}
    (hl : l ∈ s.bandsOf asid) :
    (s.startRelatch asid).launch? l.job l.id = some { l with band := l.band.map Band.relatched } := by
  rw [startRelatch_eq]
  have keys : ((s.bandsOf asid).map fun l => (l.job, l.id)).Nodup := nd.sublist (List.filter_sublist.map _)
  have entered : ∃ x, ((s.bandsOf asid).foldl enterRelatch s).launch? l.job l.id = some x ∧
      x = { l with band := l.band.map Band.relatched } := by
    refine launch?_foldl (P := (· = { l with band := l.band.map Band.relatched })) (fun s y job lid other => ?_)
      (fun s found => ⟨_, ?_, rfl⟩) keys hl (isSome_launch? (List.mem_filter.1 hl).1)
    · rw [launch?_enterRelatch, if_neg fun k => other (Prod.ext k.1.symm k.2.symm)]
    · obtain ⟨x, found⟩ := Option.isSome_iff_exists.1 found
      rw [launch?_enterRelatch, if_pos ⟨rfl, rfl⟩, found]
      rfl
  obtain ⟨_, found, rfl⟩ := entered
  exact found

/-- The clusters of a band that is being scanned out are left without a latched base. -/
theorem unlatched_startRelatch {s : State} {asid : Nat} {l : Launch} {b : Band} (hl : l ∈ s.bandsOf asid)
    (hb : l.band = some b) (leaving : b.leaving = true) {cl : Nat} (hcl : cl ∈ b.clusters) :
    ((s.startRelatch asid).cluster cl).Unlatched := by
  rw [startRelatch_eq]
  generalize s.bandsOf asid = ls at hl
  induction ls generalizing s with
  | nil => exact absurd hl nofun
  | cons y ys ih =>
    rcases List.mem_cons.1 hl with rfl | hl
    · have entered : ((s.enterRelatch l).cluster cl).Unlatched := by
        show ((s.dropLeaving l).cluster cl).Unlatched
        rw [dropLeaving_of_leaving hb leaving]
        exact unlatched_foldl_dropBases (.inl hcl)
      exact List.foldlRecOn (motive := fun t => (t.cluster cl).Unlatched) ys enterRelatch entered
        fun t h y _ => unlatched_dropLeaving h y
    · exact ih hl

/-- A band that the token has entered is one that it is in. -/
theorem relatching_startRelatch {s : State} (nd : (s.launches.map fun l => (l.job, l.id)).Nodup) {asid : Nat} {l : Launch}
    {b : Band} (hl : l ∈ s.bandsOf asid) (hb : l.band = some b) (on : b.context = none) (stays : b.leaving = false) :
    (s.startRelatch asid).relatching asid ≠ 0 := by
  have now := (launch?_spec (launch?_startRelatch nd hl)).1
  have relatched : b.relatched = { b with relatch := some 0 } := if_neg (by simp [on, stays])
  have same (j : Nat) : (s.startRelatch asid).job j = s.job j := by
    obtain ⟨_, _, e⟩ := onBands_startRelatch s asid
    rw [e]
    rfl
  refine (List.countP_pos_iff.2 ⟨_, List.mem_filter.2 ⟨now, ?_⟩, ?_⟩).ne'
  · have kind := (List.mem_filter.1 hl).2
    rw [same]
    simpa [hb] using kind
  · simp [Launch.placed, Option.filter_some, hb, relatched, on, stays]

end State

/-- A RELATCH whose token is in no band of the address space any more completes with the number n (R289). -/
theorem execRelatch_done (s : State) (d : Reg) {n : Nat} (h : s.me.relatch = some n) (out : s.relatching s.me.asid = 0) :
    exec (.relatch d) s = .next (wrote ({ s with lines := s.lines.mapVals LineInfo.invalidated }.setMe
      { s.me with relatch := none }) d (BitVec.ofNat 64 n)) := by
  change execRelatch d s = _
  simp only [execRelatch, h, out, if_true]
  rfl

/-- A RELATCH that begins with its token in some band stands at its word with their number (R289). -/
theorem execRelatch_begun (s : State) (d : Reg) (h : s.me.relatch = none)
    (inside : (s.startRelatch s.me.asid).relatching s.me.asid ≠ 0) : exec (.relatch d) s =
      .next ((s.startRelatch s.me.asid).setMe
        { (s.startRelatch s.me.asid).me with relatch := some (s.bandsOf s.me.asid).length }) := by
  change execRelatch d s = _
  simp only [execRelatch, h, inside, if_false]

end Sys2Proof.Machine

/-- Settles O30: the token enters the bands launch by launch, and RELATCH ends once no band has it. -/
theorem relatchCompletes : Obligations.RelatchCompletes := by
  unfold Obligations.RelatchCompletes
  intro s d bands barred
  refine ⟨fun empty fresh => ?_, fun fresh ⟨l, hl, b, hb, on, stays⟩ nd => ?_, fun n begun out => execRelatch_done s d begun out⟩
  · replace empty : s.bandsOf s.me.asid = [] := empty
    have still : s.startRelatch s.me.asid = s := by rw [State.startRelatch_eq, empty]; rfl
    have none_in : s.relatching s.me.asid = 0 := by rw [State.relatching, empty]; rfl
    have idle : { s.me with relatch := none } = s.me := by rw [← fresh]
    change execRelatch d s = _
    simp only [execRelatch, fresh, still, none_in, if_true, empty]
    change (.next (wrote (barred.setMe { s.me with relatch := none }) d 0) : Out) = .next (wrote barred d 0)
    rw [idle]
    exact congrArg Host.Outcome.next (barred.wrote_setMe_me d 0)
  · refine ⟨_, execRelatch_begun s d fresh (State.relatching_startRelatch nd hl hb on stays), ?_, ?_, fun l hl b hb => ?_⟩
    · obtain ⟨_, _, e⟩ := State.onBands_startRelatch s s.me.asid
      rw [State.me_setMe, e]
      rfl
    · obtain ⟨_, _, e⟩ := State.onBands_startRelatch s s.me.asid
      rw [e]
      rfl
    · refine ⟨_, b.relatched, State.launch?_startRelatch nd hl, by rw [hb]; rfl, fun on stays => ?_, fun off => ?_,
        fun leaving cl hcl => State.unlatched_startRelatch hl hb leaving hcl⟩
      · rw [Band.relatched, if_neg (by simp [on, stays])]
      · rw [Band.relatched, if_pos (by simpa using off)]
        exact b.dropLatches_spec

end

/-! # O40: links and routers -/

section
open Sys2Proof Sys2Proof.Machine Sys2Proof.Claims
namespace Sys2Proof.Machine

namespace Cluster

variable (c : Cluster)

/-! ## Queues of a cluster (R103, R112) -/

@[simp] theorem rqueue_setRqueue (p v : Nat) (ts : List (Nat × Token)) : (c.setRqueue p v ts).rqueue p v = ts :=
  c.rq.getD_set_self ..

theorem rqueue_setRqueue_ne {p v p' v' : Nat} (h : (p, v) ≠ (p', v')) (hv : v < 2) (hv' : v' < 2) (ts : List (Nat × Token)) :
    (c.setRqueue p v ts).rqueue p' v' = c.rqueue p' v' :=
  Table.getD_set_ne _ _ _ _ _ fun e => h (by rw [show p = p' by omega, show v = v' by omega])

@[simp] theorem queue_setRqueue (p v : Nat) (ts : List (Nat × Token)) (q : Nat) :
    (c.setRqueue p v ts).queue q = c.queue q := rfl

@[simp] theorem queue_pushQ (q : Nat) (t : Token) : (c.pushQ q t).queue q = c.queue q ++ [t] := c.q.getD_set_self ..

theorem queue_pushQ_ne {q j : Nat} (h : j ≠ q) (t : Token) : (c.pushQ q t).queue j = c.queue j := c.q.getD_set_ne _ _ _ _ h

@[simp] theorem rqueue_pushQ (q : Nat) (t : Token) (p v : Nat) : (c.pushQ q t).rqueue p v = c.rqueue p v := rfl

/-- A token that is noted moves no token. -/
theorem note_spec (n kind : Nat) : ∃ marked ended, c.note n kind = { c with marked := marked, ended := ended } := by
  by_cases mark : kind = 3
  · exact ⟨_, _, if_pos mark⟩
  · by_cases eos : kind = 2
    · exact ⟨_, _, (if_neg mark).trans (if_pos eos)⟩
    · exact ⟨_, _, (if_neg mark).trans (if_neg eos)⟩

@[simp] theorem rqueue_note (n kind p v : Nat) : (c.note n kind).rqueue p v = c.rqueue p v := by
  obtain ⟨_, _, e⟩ := c.note_spec n kind
  rw [e]
  rfl

@[simp] theorem queue_note (n kind q : Nat) : (c.note n kind).queue q = c.queue q := by
  obtain ⟨_, _, e⟩ := c.note_spec n kind
  rw [e]
  rfl

@[simp] theorem spillOf_note (n kind k : Nat) : (c.note n kind).spillOf k = c.spillOf k := by
  obtain ⟨_, _, e⟩ := c.note_spec n kind
  rw [e]
  rfl

@[simp] theorem rqueue_noteCross (n : Nat) (r : RoutePair) (t : Token) (p v : Nat) :
    (c.noteCross n r t).rqueue p v = c.rqueue p v := by
  unfold noteCross
  split
  · exact c.rqueue_note ..
  · rfl

@[simp] theorem queue_noteCross (n : Nat) (r : RoutePair) (t : Token) (q : Nat) : (c.noteCross n r t).queue q = c.queue q := by
  unfold noteCross
  split
  · exact c.queue_note ..
  · rfl

@[simp] theorem spillOf_noteCross (n : Nat) (r : RoutePair) (t : Token) (k : Nat) :
    (c.noteCross n r t).spillOf k = c.spillOf k := by
  unfold noteCross
  split
  · exact c.spillOf_note ..
  · rfl

@[simp] theorem spillOf_setSpill (n : Nat) (sp : Spill) : ({ c with spill := c.spill.set n sp } : Cluster).spillOf n = sp :=
  c.spill.getD_set_self ..

@[simp] theorem queue_popPair (r : RoutePair) (i q : Nat) : (c.popPair r i).queue q = c.queue q := by
  unfold popPair
  split <;> rfl

theorem rqueue_popPair_outside {r : RoutePair} (h : r.inp ≤ 5) (i : Nat) :
    (c.popPair r i).rqueue r.inp r.ivc = (c.rqueue r.inp r.ivc).tail := by
  rw [popPair, if_pos h, rqueue_setRqueue]

theorem rqueue_popPair_local {r : RoutePair} (h : 6 ≤ r.inp) (i : Nat) :
    (c.popPair r i).rqueue 6 (if r.out ≤ 5 then r.ovc else 0) = (c.rqueue 6 (if r.out ≤ 5 then r.ovc else 0)).eraseIdx i := by
  rw [popPair, if_neg (by omega)]
  exact c.rqueue_setRqueue ..

/-- The head of an outside queue is the next token of the pair that takes it. -/
theorem pairHead_outside {r : RoutePair} (h : r.inp ≤ 5) {e : Nat} {t : Token}
    (head : (c.rqueue r.inp r.ivc).head? = some (e, t)) (n : Nat) : c.pairHead n r = some (0, t) := by
  rw [pairHead, if_pos h, head]
  rfl

end Cluster

namespace State

variable (s : State)

/-! ## A token put into a router's queue -/

@[simp] theorem rqueue_routerPush (d p v : Nat) (t : Token) :
    ((s.routerPush d p v t).cluster d).rqueue p v = (s.cluster d).rqueue p v ++ [(0, t)] := by
  rw [routerPush, cluster_onCluster, Cluster.rqueue_setRqueue]

theorem rqueue_routerPush_ne {d p v d' p' v' : Nat} (h : (d, p, v) ≠ (d', p', v')) (hv : v < 2) (hv' : v' < 2) (t : Token) :
    ((s.routerPush d p v t).cluster d').rqueue p' v' = (s.cluster d').rqueue p' v' := by
  by_cases hd : d' = d
  · subst hd
    rw [routerPush, cluster_onCluster, Cluster.rqueue_setRqueue_ne _ (fun e => h (by rw [e])) hv hv']
  · rw [routerPush, cluster_onCluster_ne _ _ _ _ hd]

@[simp] theorem queue_routerPush (d p v : Nat) (t : Token) (e q : Nat) :
    ((s.routerPush d p v t).cluster e).queue q = (s.cluster e).queue q := by
  by_cases hd : e = d
  · subst hd
    rw [routerPush, cluster_onCluster, Cluster.queue_setRqueue]
  · rw [routerPush, cluster_onCluster_ne _ _ _ _ hd]

theorem cluster_routerPush_ne (d p v : Nat) (t : Token) {e : Nat} (h : e ≠ d) :
    (s.routerPush d p v t).cluster e = s.cluster e := by
  rw [routerPush, cluster_onCluster_ne _ _ _ _ h]

/-! ## The launch of a cluster -/

theorem live_spec {s : State} {job lid : Nat} {l : Launch} (h : s.live job lid = some l) :
    s.launch? job lid = some l ∧ l.job = job ∧ l.id = lid ∧ l.st ≠ .ended := by
  obtain ⟨found, st⟩ := Option.filter_eq_some_iff.1 h
  exact ⟨found, (launch?_spec found).2.1, (launch?_spec found).2.2, of_decide_eq_true st⟩

theorem hostOf_spec {s : State} {cl : Nat} {l : Launch} {b : Band} {row col : Nat} (h : s.hostOf cl = some (l, b, row, col)) :
    s.live l.job l.id = some l ∧ l.band = some b := by
  unfold hostOf at h
  split at h
  · cases h
  · split at h
    · cases h
    · rename_i found
      split at h
      · cases h
      · rename_i hb
        obtain ⟨rc, _, e⟩ := Option.map_eq_some_iff.1 h
        cases e
        obtain ⟨_, rfl, rfl, _⟩ := live_spec found
        exact ⟨found, hb⟩

/-- A change to a launch's band is found there. -/
theorem launch?_onBand {l : Launch} {b : Band} (h : (s.launch? l.job l.id).isSome = true) (hb : l.band = some b)
    (f : Band → Band) : (s.onBand l f).launch? l.job l.id = some { l with band := some (f b) } := by
  rw [onBand, hb]
  exact launch?_setLaunch_of_some (l := { l with band := some (f b) }) h

theorem band_of_placed {l : Launch} {b : Band} (h : l.placed = some b) : l.band = some b := (Option.filter_eq_some_iff.1 h).1

/-! ## A launch that fails at a cluster (R105, R319) -/

/-- A failure changes launches and the fault queue only. -/
theorem failAt_frame (cl : Nat) (code : Code) (i : FaultInfo) : (s.failAt cl code i).clusters = s.clusters := by
  unfold failAt failLaunch
  split
  · dsimp only
    split <;> rfl
  · rfl

/-- A running launch fails with the code. -/
theorem status_failAt {cl : Nat} {l : Launch} {b : Band} {row col : Nat} (h : s.hostOf cl = some (l, b, row, col))
    (good : l.status = 0) (stays : l.ending = none) (code : Code) (i : FaultInfo) :
    ∃ m, (s.failAt cl code i).launch? l.job l.id = some m ∧ m.status = code.num := by
  obtain ⟨live, _⟩ := hostOf_spec h
  obtain ⟨found, _, _, st⟩ := live_spec live
  refine ⟨{ l with status := code.num }, ?_, rfl⟩
  simp only [failAt, h, failLaunch]
  rw [if_neg (by simp [good, stays, st])]
  exact launch?_setLaunch_of_some (l := { l with status := code.num }) (by rw [found]; rfl)

theorem clusters_parityFault (cl src unit : Nat) : (s.parityFault cl src unit).clusters = s.clusters := s.failAt_frame ..

theorem cluster_parityFault (cl src unit d : Nat) : (s.parityFault cl src unit).cluster d = s.cluster d := by
  rw [cluster, clusters_parityFault, cluster]

/-- A mismatch of parity fails the running launch with UNCORRECTABLE. -/
theorem status_parityFault {cl : Nat} {l : Launch} {b : Band} {row col : Nat} (h : s.hostOf cl = some (l, b, row, col))
    (good : l.status = 0) (stays : l.ending = none) (src unit : Nat) :
    ∃ m, (s.parityFault cl src unit).launch? l.job l.id = some m ∧ m.status = 9 := s.status_failAt h good stays ..

/-! ## Router events (R105, R112) -/

/-- An outside queue's head moves by the one pair that takes it. -/
theorem exec_hop {cl port vc n : Nat} {r : RoutePair} (runs : s.routerRuns cl = true) (hp : port < 6) (hv : vc < 2)
    (mine : ((s.cluster cl).pairs.filter fun q => q.2.inp = port && q.2.ivc = vc) = [(n, r)]) {pe : ParityEvent} {t : State}
    (h : s.pairHop cl n r pe = some t) : exec (.routerTokenHop cl (2 * port + vc) pe) s = .next t := by
  have key : (2 * port + vc) / 2 = port ∧ (2 * port + vc) % 2 = vc := by omega
  change execRouterTokenHop cl (2 * port + vc) pe s = _
  simp only [execRouterTokenHop, show ¬ 41 ≤ 2 * port + vc by omega, show ¬ 14 ≤ 2 * port + vc by omega,
    show ¬ 2 * port + vc ≥ 12 by omega, if_false, key, mine, runs, List.findSome?_cons, h]
  rfl

/-- The pair of an outside queue takes that input. -/
theorem pair_takes {c : Cluster} {port vc n : Nat} {r : RoutePair}
    (mine : (c.pairs.filter fun q => q.2.inp = port && q.2.ivc = vc) = [(n, r)]) : r.inp = port ∧ r.ivc = vc := by
  have one : (n, r) ∈ c.pairs.filter fun q => q.2.inp = port && q.2.ivc = vc := by rw [mine]; exact List.mem_singleton_self _
  simpa using (List.mem_filter.1 one).2

/-- A token that goes to another router's queue. -/
theorem pairHop_into {cl n d p v i : Nat} {r : RoutePair} {t : Token} (out : r.out ≤ 5)
    (hop : s.hop cl r.out r.ovc = .into d p v) (first : ((s.cluster cl).spillOf n).toks = []) (room : s.routerRoom d p v = true)
    (head : (s.cluster cl).pairHead n r = some (i, t)) (pe : ParityEvent) :
    s.pairHop cl n r pe = some (match pe with
      | .failed => s.parityFault d 5 0
      | _ => (s.setCluster cl (((s.cluster cl).popPair r i).noteCross n r t)).routerPush d p v t) := by
  simp only [pairHop, head, out, if_true, hop, first, room, List.isEmpty_nil, Bool.and_self]
  cases pe <;> rfl

/-- A token that goes to a queue of its own cluster. -/
theorem pairHop_local {cl n i : Nat} {r : RoutePair} {t : Token} (out : 6 ≤ r.out)
    (room : ((s.cluster cl).queue (Cluster.localQueue r.out r.lq)).length < 4)
    (head : (s.cluster cl).pairHead n r = some (i, t)) (pe : ParityEvent) :
    s.pairHop cl n r pe = some (match pe with
      | .good => s.setCluster cl (((s.cluster cl).popPair r i).pushQ (Cluster.localQueue r.out r.lq) t)
      | _ => s.parityFault cl (queueOwner (Cluster.localQueue r.out r.lq)).1 (queueOwner (Cluster.localQueue r.out r.lq)).2) := by
  simp only [pairHop, head, show ¬ r.out ≤ 5 by omega, if_false, room, if_true]
  cases pe <;> rfl

/-- A token that leaves a cluster for a router's queue changes no other cluster. -/
theorem cluster_moved_ne {cl d p v e : Nat} {c : Cluster} (t : Token) (he : e ≠ cl) (hd : e ≠ d) :
    ((s.setCluster cl c).routerPush d p v t).cluster e = s.cluster e := by
  rw [cluster_routerPush_ne _ _ _ _ _ hd, cluster_setCluster_ne _ _ _ _ he]

/-- ROUTER_TOKEN_HOP between routers (R105, R112). -/
theorem hop_into {cl port vc n e d p v : Nat} {r : RoutePair} {t : Token} (runs : s.routerRuns cl = true) (hp : port < 6)
    (hv : vc < 2) (mine : ((s.cluster cl).pairs.filter fun q => q.2.inp = port && q.2.ivc = vc) = [(n, r)])
    (head : ((s.cluster cl).rqueue port vc).head? = some (e, t)) (out : r.out ≤ 5) (hop : s.hop cl r.out r.ovc = .into d p v)
    (first : ((s.cluster cl).spillOf n).toks = []) (room : s.routerRoom d p v = true) (other : (d, p, v) ≠ (cl, port, vc))
    (hv' : v < 2) {pe : ParityEvent} (whole : pe ≠ .failed) :
    ∃ u, exec (.routerTokenHop cl (2 * port + vc) pe) s = .next u ∧
      (u.cluster cl).rqueue port vc = ((s.cluster cl).rqueue port vc).tail ∧
      (u.cluster d).rqueue p v = (s.cluster d).rqueue p v ++ [(0, t)] ∧
      (∀ q, (u.cluster cl).queue q = (s.cluster cl).queue q) ∧
      (∀ m, m ≠ cl → m ≠ d → u.cluster m = s.cluster m) ∧ { u with clusters := s.clusters } = s := by
  obtain ⟨rfl, rfl⟩ := pair_takes mine
  have next := (s.cluster cl).pairHead_outside (show r.inp ≤ 5 by omega) head n
  refine ⟨(s.setCluster cl (((s.cluster cl).popPair r 0).noteCross n r t)).routerPush d p v t,
    s.exec_hop runs hp hv mine ?_, ?_, ?_, fun q => ?_, fun m hm hd => s.cluster_moved_ne t hm hd, rfl⟩
  · rw [s.pairHop_into out hop first room next]
    cases pe
    case failed => exact absurd rfl whole
    all_goals rfl
  · rw [rqueue_routerPush_ne _ other hv' hv, cluster_setCluster, Cluster.rqueue_noteCross,
      Cluster.rqueue_popPair_outside _ (by omega)]
  · rw [rqueue_routerPush]
    by_cases hd : d = cl
    · subst hd
      rw [cluster_setCluster, Cluster.rqueue_noteCross, Cluster.popPair, if_pos (by omega),
        Cluster.rqueue_setRqueue_ne _ (fun e => other (by rw [e])) hv hv']
    · rw [cluster_setCluster_ne _ _ _ _ hd]
  · rw [queue_routerPush, cluster_setCluster, Cluster.queue_noteCross, Cluster.queue_popPair]

/-! ## The copies of a replicated token (R113) -/

/-- A copy of a token put where a branch goes. -/
def putCopy (cl : Nat) (t : Token) (s : State) : Option (Nat × Nat × Nat ⊕ Nat) → State
  | some (.inl (d, p, v)) => s.routerPush d p v t
  | some (.inr q) => s.onCluster cl fun c => c.pushQ q t
  | none => s

section
variable {s : State} {cl : Nat} {t : Token} {x : Option (Nat × Nat × Nat ⊕ Nat)} {ds : List (Option (Nat × Nat × Nat ⊕ Nat))}

theorem rqueue_putCopy_ne {d p v : Nat} (h : x ≠ some (.inl (d, p, v))) (hx : ∀ d p v, x = some (.inl (d, p, v)) → v < 2)
    (hv : v < 2) : ((putCopy cl t s x).cluster d).rqueue p v = (s.cluster d).rqueue p v := by
  rcases x with _ | ⟨⟨d', p', v'⟩ | q⟩
  · rfl
  · exact s.rqueue_routerPush_ne (fun e => h (by rw [e])) (hx d' p' v' rfl) hv t
  · by_cases hd : d = cl
    · subst hd
      rw [putCopy, cluster_onCluster, Cluster.rqueue_pushQ]
    · rw [putCopy, cluster_onCluster_ne _ _ _ _ hd]

theorem queue_putCopy_ne {q : Nat} (h : x ≠ some (.inr q)) :
    ((putCopy cl t s x).cluster cl).queue q = (s.cluster cl).queue q := by
  rcases x with _ | ⟨⟨d', p', v'⟩ | q'⟩
  · rfl
  · exact s.queue_routerPush ..
  · rw [putCopy, cluster_onCluster, Cluster.queue_pushQ_ne _ fun e => h (by rw [e])]

end

section
variable {α β : Type} {F : State → α → State} {look : State → β} {x : α} {xs : List α}

/-- What no change of a list alters stays. -/
theorem foldl_look (others : ∀ y ∈ xs, ∀ s, look (F s y) = look s) (s : State) : look (xs.foldl F s) = look s := by
  induction xs generalizing s with
  | nil => rfl
  | cons y ys ih =>
    rw [List.foldl_cons, ih fun z hz => others z (List.mem_cons_of_mem _ hz), others y List.mem_cons_self]

/-- What one change of a list alters, and no other, it alters once. -/
theorem foldl_look_once {f : β → β} (hx : x ∈ xs) (nd : xs.Nodup) (one : ∀ s, look (F s x) = f (look s))
    (others : ∀ y ∈ xs, y ≠ x → ∀ s, look (F s y) = look s) (s : State) : look (xs.foldl F s) = f (look s) := by
  induction xs generalizing s with
  | nil => exact absurd hx List.not_mem_nil
  | cons y ys ih =>
    obtain ⟨fresh, nd⟩ := List.nodup_cons.1 nd
    rw [List.foldl_cons]
    rcases List.mem_cons.1 hx with rfl | hx
    · rw [foldl_look fun z hz => others z (List.mem_cons_of_mem _ hz) fun e => fresh (e ▸ hz), one]
    · rw [ih hx nd fun z hz => others z (List.mem_cons_of_mem _ hz),
        others y List.mem_cons_self fun e => fresh (e ▸ hx)]

end

/-- SW_REPL_TOKEN with an outside input and a place for each branch (R113). -/
theorem exec_swRepl {cl e : Nat} {r : SwRepl} {t : Token} (runs : s.routerRuns cl = true)
    (hr : (s.cluster cl).swRepl = some r) (out : r.inp ≤ 5) (head : ((s.cluster cl).rqueue r.inp r.ivc).head? = some (e, t))
    (places : ∀ b ∈ r.br, s.branchDest cl b ≠ none) :
    exec (.swReplToken cl) s = .next ((r.br.map (s.branchDest cl)).foldl (putCopy cl t)
      (s.setCluster cl (let c := (s.cluster cl).setRqueue r.inp r.ivc ((s.cluster cl).rqueue r.inp r.ivc).tail
        if r.inp ≤ 5 && r.br.any (·.1 ≤ 5) then c.note 80 t.kind else c))) := by
  have all : (r.br.filter fun b => !(b.1 ≤ 5 && Nat.testBit 0 b.1)) = r.br := by simp
  have roomy : (r.br.map (s.branchDest cl)).any Option.isNone = false := by
    simpa [List.any_eq_false] using places
  change execSwReplToken cl s = _
  simp only [execSwReplToken, hr, Cluster.replHead, out, if_true, head, Option.map_some, all, roomy, runs]
  rfl

/-- The copies of a token, once the cluster has let go of it and noted that it passes. -/
theorem swRepl_moves {cl e : Nat} {r : SwRepl} {t : Token} (runs : s.routerRuns cl = true)
    (hr : (s.cluster cl).swRepl = some r) (out : r.inp ≤ 5) (hvc : r.ivc < 2)
    (head : ((s.cluster cl).rqueue r.inp r.ivc).head? = some (e, t))
    (places : ∀ b ∈ r.br, s.branchDest cl b ≠ none ∧ s.branchDest cl b ≠ some (.inl (cl, r.inp, r.ivc)) ∧
      ∀ d p v, s.branchDest cl b = some (.inl (d, p, v)) → v < 2)
    (nd : (r.br.map (s.branchDest cl)).Nodup) :
    ∃ u, exec (.swReplToken cl) s = .next u ∧ (u.cluster cl).rqueue r.inp r.ivc = ((s.cluster cl).rqueue r.inp r.ivc).tail ∧
      ∀ b ∈ r.br,
        (∀ d p v, s.branchDest cl b = some (.inl (d, p, v)) → (u.cluster d).rqueue p v = (s.cluster d).rqueue p v ++ [(0, t)]) ∧
        (∀ q, s.branchDest cl b = some (.inr q) → (u.cluster cl).queue q = (s.cluster cl).queue q ++ [t]) := by
  have narrow : ∀ y ∈ r.br.map (s.branchDest cl),
      y ≠ some (.inl (cl, r.inp, r.ivc)) ∧ ∀ d p v, y = some (.inl (d, p, v)) → v < 2 := by
    intro y hy
    obtain ⟨b, hb, rfl⟩ := List.mem_map.1 hy
    exact (places b hb).2
  refine ⟨_, s.exec_swRepl runs hr out head fun b hb => (places b hb).1, ?_, fun b hb => ⟨fun d p v hd => ?_, fun q hq => ?_⟩⟩
  · rw [foldl_look (look := fun u => (u.cluster cl).rqueue r.inp r.ivc) fun y hy u =>
      rqueue_putCopy_ne (narrow y hy).1 (narrow y hy).2 hvc]
    simp only [cluster_setCluster]
    split
    · rw [Cluster.rqueue_note, Cluster.rqueue_setRqueue]
    · rw [Cluster.rqueue_setRqueue]
  · have mine : some (.inl (d, p, v)) ∈ r.br.map (s.branchDest cl) := List.mem_map.2 ⟨b, hb, hd⟩
    have hv := (narrow _ mine).2 d p v rfl
    rw [foldl_look_once (look := fun u => (u.cluster d).rqueue p v) (f := (· ++ [(0, t)])) mine nd
      (fun u => u.rqueue_routerPush d p v t) fun y hy ne u => rqueue_putCopy_ne ne (narrow y hy).2 hv]
    by_cases hc : d = cl
    · subst hc
      have other : (r.inp, r.ivc) ≠ (p, v) := fun e => (narrow _ mine).1 (by rw [e])
      simp only [cluster_setCluster]
      split
      · rw [Cluster.rqueue_note, Cluster.rqueue_setRqueue_ne _ other hvc hv]
      · rw [Cluster.rqueue_setRqueue_ne _ other hvc hv]
    · simp only [cluster_setCluster_ne _ _ _ _ hc]
  · have mine : some (.inr q) ∈ r.br.map (s.branchDest cl) := List.mem_map.2 ⟨b, hb, hq⟩
    rw [foldl_look_once (look := fun u => (u.cluster cl).queue q) (f := (· ++ [t])) mine nd
      (fun u => by rw [putCopy, cluster_onCluster, Cluster.queue_pushQ]) fun y hy ne u => queue_putCopy_ne ne]
    simp only [cluster_setCluster]
    split
    · rw [Cluster.queue_note, Cluster.queue_setRqueue]
    · rw [Cluster.queue_setRqueue]

/-! ## Spills (R62) and skips (R332) -/

/-- A token of a spilling link that enters the crown (R62). -/
theorem spill_enters {cl pair i d p v : Nat} {r : RoutePair} {t : Token} (runs : s.routerRuns cl = true)
    (spills : ((s.cluster cl).pairs.find? fun q => q.1 = pair && q.2.spill) = some (pair, r))
    (hop : s.hop cl r.out r.ovc = .into d p v) (head : (s.cluster cl).pairHead pair r = some (i, t))
    (need : s.routerRoom d p v = false ∨ ((s.cluster cl).spillOf pair).toks ≠ [])
    (accepts : ((s.cluster cl).spillOf pair).accepting = true)
    (room : ((s.cluster cl).spillOf pair).toks.length < (s.cluster cl).spillDepth r.out r.ovc) :
    exec (.linkSpill cl pair false) s = .next (s.setCluster cl { (s.cluster cl).popPair r i with
      spill := (s.cluster cl).spill.set pair ⟨((s.cluster cl).spillOf pair).toks ++ [t],
        decide (((s.cluster cl).spillOf pair).toks.length + 1 < 16 * r.hi)⟩ }) := by
  have needed : (!s.routerRoom d p v || !((s.cluster cl).spillOf pair).toks.isEmpty) = true := by
    rcases need with full | waits
    · rw [full]
      rfl
    · simp [waits]
  change execLinkSpill cl pair false s = _
  simp only [execLinkSpill, spills, runs, hop, execLinkSpill.enter, head, needed, accepts, room, List.length_append,
    List.length_singleton]
  rfl

/-- The oldest token in the crown that leaves for the far queue (R62). -/
theorem spill_leaves {cl pair d p v : Nat} {r : RoutePair} {t : Token} {ts : List Token} (runs : s.routerRuns cl = true)
    (spills : ((s.cluster cl).pairs.find? fun q => q.1 = pair && q.2.spill) = some (pair, r))
    (hop : s.hop cl r.out r.ovc = .into d p v) (oldest : ((s.cluster cl).spillOf pair).toks = t :: ts)
    (room : s.routerRoom d p v = true) :
    exec (.linkSpill cl pair true) s = .next ((s.setCluster cl (Cluster.noteCross { s.cluster cl with
      spill := (s.cluster cl).spill.set pair ⟨ts, ((s.cluster cl).spillOf pair).accepting || decide (ts.length ≤ 16 * r.lo)⟩ }
      pair r t)).routerPush d p v t) := by
  change execLinkSpill cl pair true s = _
  simp only [execLinkSpill, spills, runs, hop, oldest, room, if_true]
  rfl

/-- A parked token: the target position, its column, its skip and what it carries (R332). -/
def skipTok (b : Band) (row col skip : Nat) (t : Token) : Parked := ⟨(b.row row).p + skip, col, skip, t⟩

/-- A skip link's token that is parked (R332). -/
theorem skip_parks {cl n i row col : Nat} {l : Launch} {b : Band} {sk : SwPark} {r : RoutePair} {t : Token}
    (runs : s.routerRuns cl = true) (host : s.hostOf cl = some (l, b, row, col)) (park : (s.cluster cl).swPark = some sk)
    (pair : ((s.cluster cl).pairs.find? fun p => p.2.out = sk.port && p.2.ovc = sk.vc) = some (n, r))
    (head : (s.cluster cl).pairHead n r = some (i, t))
    (room : (b.parked.countP fun p => p.col = col && p.skip = sk.skip &&
      (p.pos - p.skip) % max 1 b.depth = (b.row row).p % max 1 b.depth) < 16 * sk.pdepth) :
    exec (.skipPark cl) s = .next ((s.setCluster cl (((s.cluster cl).popPair r i).noteCross n r t)).onBand l fun b' =>
      { b' with parked := b'.parked ++ [skipTok b row col sk.skip t] }) := by
  change execSkipPark cl s = _
  simp only [execSkipPark, host, park, pair, head, runs, room]
  rfl

/-! ## Parked tokens (R332) and the RELATCH token (R47) -/

/-- PARKED_TOKEN_RELEASE of the first token that can leave (R332). -/
theorem exec_parkedRelease {job lid i n : Nat} {l : Launch} {b : Band} {p : Parked} (live : s.live job lid = some l)
    (hb : l.placed = some b) (good : l.status = 0) (goes : l.cancelled = false) (stays : l.ending = none)
    (thawed : b.frozen = false) (free : s.releasable b = some (i, p, n)) :
    exec (.parkedTokenRelease job lid) s = .next ((s.routerPush n 4 1 p.tok).onBand l fun b =>
      { b with parked := b.parked.eraseIdx i }) := by
  change execParkedTokenRelease job lid s = _
  simp only [execParkedTokenRelease, live, hb, free]
  rw [if_neg (by simp [good, goes, stays, thawed])]

/-- What the RELATCH token does to a band as it passes a row (R47). -/
def passRelatch (b : Band) (row : Nat) (b' : Band) : Band :=
  { b' with
    relatch := if row + 1 < b'.height then some (row + 1) else none
    saved := b'.saved.map fun v =>
      if (b'.row row).resumed && v.stage = (b.row row).p % max 1 b.depth then
        { v with row := v.row.map Cluster.dropBases }
      else v }

/-- RELATCH_TOKEN at the row where the token is (R47). -/
theorem exec_relatchToken {job lid row : Nat} {l : Launch} {b : Band} (live : s.live job lid = some l)
    (hb : l.placed = some b) (here : b.relatch = some row) (loaded : (b.row row).st ≠ .loading) (thawed : b.frozen = false)
    (quiet : b.scroll = true ∨ ∀ r ∈ b.stageRows, s.configured b r = true)
    (acked : s.rowAcked (b.rowClusters row) = true) :
    exec (.relatchToken job lid row) s = .next (((b.rowClusters row).foldl (fun s cl => s.onCluster cl Cluster.dropBases)
      s).onBand l (passRelatch b row)) := by
  have waves : (!b.scroll && b.stageRows.any fun r => !s.configured b r) = false := by
    rcases quiet with scroll | all
    · rw [scroll]
      rfl
    · simpa using fun _ => all
  change execRelatchToken job lid row s = _
  simp only [execRelatchToken, live, hb]
  rw [if_neg (by simp [here, thawed, waves, loaded, acked])]
  rfl

end State

end Sys2Proof.Machine

/-- Settles O40: each event's next state is written out above, and the queues are read off it. -/
theorem linksAndRouters : Obligations.LinksAndRouters := by
  unfold Obligations.LinksAndRouters
  intro s cl c
  refine ⟨fun runs => ⟨?_, ?_, ?_, ?_, ?_⟩, ?_⟩
  · intro port vc n r e t d p v hp hv mine head out hop first room other hv'
    obtain ⟨rfl, rfl⟩ := State.pair_takes mine
    have next := (s.cluster cl).pairHead_outside (show r.inp ≤ 5 by omega) head n
    refine ⟨fun pe whole => s.hop_into runs hp hv mine head out hop first room other hv' whole, s.parityFault d 5 0,
      s.exec_hop runs hp hv mine (s.pairHop_into out hop first room next .failed), ?_, ?_, ?_⟩
    · rw [State.cluster_parityFault]
    · rw [State.cluster_parityFault]
    · intro l b row col host good stays _
      exact s.status_parityFault host good stays 5 0
  · intro port vc n r e t hp hv mine head out q room
    obtain ⟨rfl, rfl⟩ := State.pair_takes mine
    have next := (s.cluster cl).pairHead_outside (show r.inp ≤ 5 by omega) head n
    refine ⟨_, s.exec_hop runs hp hv mine (s.pairHop_local out room next .good), ?_, ?_, fun j hj => ?_, fun pe bad => ?_⟩
    · rw [State.cluster_setCluster, Cluster.rqueue_pushQ, Cluster.rqueue_popPair_outside _ (by omega)]
    · rw [State.cluster_setCluster, Cluster.queue_pushQ, Cluster.queue_popPair]
    · rw [State.cluster_setCluster, Cluster.queue_pushQ_ne _ hj, Cluster.queue_popPair]
    · refine ⟨s.parityFault cl (queueOwner q).1 (queueOwner q).2, s.exec_hop runs hp hv mine ?_, s.clusters_parityFault ..,
        fun l b row col host good stays _ => s.status_parityFault host good stays ..⟩
      rw [s.pairHop_local out room next]
      cases pe
      case good => exact absurd rfl bad
      all_goals rfl
  · intro r e t hr out hvc head dest places nd
    exact s.swRepl_moves runs hr out hvc head places nd
  · intro pair r d p v spills hop sp
    refine ⟨fun i t head need accepts room => ⟨_, s.spill_enters runs spills hop head need accepts room, ?_, ?_, fun e he => ?_⟩,
      fun t ts oldest room other => ⟨_, s.spill_leaves runs spills hop oldest room, ?_, ?_, ?_⟩⟩
    · rw [State.cluster_setCluster, Cluster.spillOf, Table.getD_set_self]
    · rw [State.cluster_setCluster, Cluster.spillOf, Table.getD_set_self]
    · exact s.cluster_setCluster_ne _ _ _ he
    · rw [State.cluster_routerPush_ne _ _ _ _ _ (Ne.symm other), State.cluster_setCluster, Cluster.spillOf_noteCross,
        Cluster.spillOf_setSpill]
    · rw [State.cluster_routerPush_ne _ _ _ _ _ (Ne.symm other), State.cluster_setCluster, Cluster.spillOf_noteCross,
        Cluster.spillOf_setSpill]
    · rw [State.rqueue_routerPush, State.cluster_setCluster_ne _ _ _ _ other]
  · intro l b row col sk n r i t host park pair head stage room
    obtain ⟨live, band⟩ := State.hostOf_spec host
    have there := Option.isSome_of_eq_some (State.live_spec live).1
    refine ⟨_, _, _, s.skip_parks runs host park pair head room, State.launch?_onBand _ there band _, rfl, rfl,
      fun out => ?_, fun inside => ?_⟩
    · show ((s.setCluster cl _).cluster cl).rqueue r.inp r.ivc = _
      rw [State.cluster_setCluster, Cluster.rqueue_noteCross, Cluster.rqueue_popPair_outside _ out]
    · show ((s.setCluster cl _).cluster cl).rqueue 6 (if r.out ≤ 5 then r.ovc else 0) = _
      rw [State.cluster_setCluster, Cluster.rqueue_noteCross, Cluster.rqueue_popPair_local _ inside]
  · intro job lid l b live hb
    obtain ⟨found, rfl, rfl, _⟩ := State.live_spec live
    have there := Option.isSome_of_eq_some found
    have band := State.band_of_placed hb
    refine ⟨fun i p n good goes stays thawed free => ⟨_, _, _, s.exec_parkedRelease live hb good goes stays thawed free,
      State.launch?_onBand _ there band _, rfl, rfl, s.rqueue_routerPush ..⟩, fun row here loaded thawed quiet acked =>
      ⟨_, _, _, s.exec_relatchToken live hb here loaded thawed quiet acked, State.launch?_onBand _ ?_ band _, rfl, rfl, ?_⟩⟩
    · rwa [(State.OnClusters.foldl (fun s cl => .onCluster s cl _) _ s).launch?]
    · exact fun n hn => State.unlatched_foldl_dropBases (.inl hn)

end

/-! # O41: reads of the address generators -/

section
open Sys2Proof Sys2Proof.Machine Sys2Proof.Claims
namespace Sys2Proof.Machine

namespace Cluster

variable (c : Cluster)

/-! ## Generators and queues of a cluster -/

@[simp] theorem ag_setAg (u : Nat) (x : Ag) : (c.setAg u x).ag u = x := c.ags.getD_set_self ..

@[simp] theorem queue_setAg (u : Nat) (x : Ag) (q : Nat) : (c.setAg u x).queue q = c.queue q := rfl

@[simp] theorem ag_note (n kind u : Nat) : (c.note n kind).ag u = c.ag u := by
  obtain ⟨_, _, e⟩ := c.note_spec n kind
  rw [e]
  rfl

@[simp] theorem ag_popQ (n u : Nat) : (c.popQ n).ag u = c.ag u := by
  unfold popQ
  split
  · rfl
  · exact ag_note ..

@[simp] theorem queue_popQ (n : Nat) : (c.popQ n).queue n = (c.queue n).tail := by
  unfold popQ
  split
  · rename_i empty
    rw [empty]
    rfl
  · rename_i ts head
    rw [queue_note, head]
    exact c.q.getD_set_self ..

/-- A token that is sent changes queues only. -/
@[simp] theorem ag_send (d : Dest) (t : Token) (u : Nat) : (c.send d t).ag u = c.ag u := by cases d <;> rfl

theorem queue_send (d : Dest) (t : Token) (q : Nat) :
    (c.send d t).queue q = if d = .queue q then c.queue q ++ [t] else c.queue q := by
  cases d with
  | queue n =>
    by_cases h : n = q
    · subst h
      rw [if_pos rfl]
      exact c.queue_pushQ n t
    · rw [if_neg fun e => h (Dest.queue.inj e)]
      exact c.queue_pushQ_ne (Ne.symm h) t
  | router tag => rfl
  | none => rfl

end Cluster

namespace State

variable {s : State} {g : AgCfg} {cl u : Nat} {a : Ag}

/-- The generator that an operation acts on is the one of its cluster. -/
theorem ag_of_agFor {mode : BitVec 4} (h : s.agFor mode g = some (cl, u, a)) : (s.cluster cl).ag u = a := by
  unfold agFor at h
  obtain ⟨_, same⟩ := Option.ite_none_right_eq_some.1 h
  cases same
  rfl

/-! ## A generator that is ready (R46, R210) -/

theorem withShape_of_shape {x : Shape} (hx : ((s.cluster cl).ag u).shape = some x) (latched : ((s.cluster cl).ag u).pend = [])
    (mode : Nat) (g : AgCfg) (f : Shp → Out) : s.withShape cl u mode g f = f (shpOf x) := by
  simp only [withShape, hx, latched]

/-- A READ with its pages latched has its shape in hand or needs none. -/
theorem withShape_read (ready : ((s.cluster cl).ag u).shape ≠ none ∨ g.tgt = 1) (latched : ((s.cluster cl).ag u).pend = []) :
    ∃ sh, ∀ f, s.withShape cl u 0 g f = f sh := by
  cases hx : ((s.cluster cl).ag u).shape with
  | some x => exact ⟨_, withShape_of_shape hx latched 0 g⟩
  | none =>
    have buffer := ready.resolve_left fun h => h hx
    exact ⟨shpOf 0, fun f => by simp [withShape, hx, latched, needsShape, buffer]⟩

/-! ## A token to be sent (R104) -/

theorem agSend_none (h : ((s.cluster cl).ag u).outq = []) (f : Out) : s.agSend cl u g f = f := by simp only [agSend, h]

/-- A source that has sent no EOS only notes what it has sent (R325, R327). -/
theorem noteSource_of_ne (s : State) (cl key : Nat) {kind : Nat} (h : kind ≠ 2) :
    s.noteSource cl key kind = s.onCluster cl fun c => c.note key kind := if_pos h

/-- A token that waits to be sent goes to its destination. -/
theorem agSend_sends {t : Token} {r : List Token} (h : ((s.cluster cl).ag u).outq = t :: r)
    (room : (s.cluster cl).room ((s.cluster cl).agDest u g) 1 = true) (data : t.kind ≠ 2) (f : Out) :
    ∃ v, s.agSend cl u g f = .next v ∧ (v.cluster cl).ag u = { (s.cluster cl).ag u with outq := r } ∧
      (∀ q, (v.cluster cl).queue q =
        if (s.cluster cl).agDest u g = .queue q then (s.cluster cl).queue q ++ [t] else (s.cluster cl).queue q) ∧
      v.mem = s.mem := by
  refine ⟨(s.setCluster cl (((s.cluster cl).setAg u { (s.cluster cl).ag u with outq := r }).send
    ((s.cluster cl).agDest u g) t)).noteSource cl (32 + u) t.kind, ?_, ?_, fun q => ?_, ?_⟩
  · simp only [agSend, h, room, if_true]
  · rw [noteSource_of_ne _ _ _ data, cluster_onCluster, cluster_setCluster, Cluster.ag_note, Cluster.ag_send, Cluster.ag_setAg]
  · rw [noteSource_of_ne _ _ _ data, cluster_onCluster, cluster_setCluster, Cluster.queue_note, Cluster.queue_send,
      Cluster.queue_setAg]
  · rw [noteSource_of_ne _ _ _ data]
    rfl

/-! ## An element (R86, R212) -/

/-- An element whose lines are in hand (R86). -/
theorem readElem_memory {sh : Shp} {conv : Bool} {lane : Nat} {co : List Int} {va : Nat} {high : Bool} (mem : g.tgt = 0)
    (loc : sh.at (g.tgt = 2) co = .loc va high)
    (lines : ∀ l ∈ linesOf va sh.elemBytes, (((s.cluster cl).ag u).lines.get l).isSome = true) (f : Option Nat → State → Out) :
    s.readElem cl u g sh conv lane co f = f (some (sh.value ((s.cluster cl).ag u).lines va high)) s := by
  have all : ((linesOf va sh.elemBytes).find? fun l => (((s.cluster cl).ag u).lines.get l).isNone) = none :=
    List.find?_eq_none.2 fun l hl => by simp [Option.isSome_iff_ne_none.1 (lines l hl)]
  simp only [readElem, loc, all]
  rw [if_neg (by simp [mem])]

/-- An element of the unit's own leaf store (R212). -/
theorem readElem_leaf {sh : Shp} {conv : Bool} {lane : Nat} {co : List Int} {va off : Nat} {high : Bool} (leaf : g.tgt = 2)
    (loc : sh.at (g.tgt = 2) co = .loc va high) (own : s.leafTarget cl va sh.elemBytes = some (cl, off))
    (free : g.waitf = false) (bytes : sh.bitsOf ≠ 4) (f : Option Nat → State → Out) :
    s.readElem cl u g sh conv lane co f = f (some (leNat ((s.cluster cl).read off sh.elemBytes))) s := by
  simp only [readElem, loc, own, free, bytes, if_false]
  rw [if_pos leaf]
  rfl

/-- An element out of range under PERMIT (R86). -/
theorem readElem_pad {sh : Shp} {conv : Bool} {lane : Nat} {co : List Int} (pad : sh.at (g.tgt = 2) co = .pad)
    (f : Option Nat → State → Out) : s.readElem cl u g sh conv lane co f = f (some (sh.pad % 2 ^ sh.bitsOf)) s := by
  simp only [readElem, pad]

/-- An element out of range of a CONV (R153). -/
theorem readElem_conv {sh : Shp} {lane : Nat} {co c : List Int} (out : sh.at (g.tgt = 2) co = .range c)
    (f : Option Nat → State → Out) : s.readElem cl u g sh true lane co f = f none s := by
  simp only [readElem, out, if_true]

/-- The next element of the tile in hand, or of the token in hand, with its value. -/
def putElem (cl u : Nat) (v : Option Nat) (s : State) : Out :=
  .next (s.onAg cl u fun a => { a with vals := a.vals ++ [v], elem := a.elem + 1 })

/-! ## A traversal of tiles (R84, R211) -/

section
variable {sh : Shp} {conv : Bool} {done : Ag → Ag} (on : ((s.cluster cl).ag u).ended = false)
  (inside : ((s.cluster cl).ag u).tile < sh.tiles) (room : s.agRoom cl u g = true)
include on inside room

theorem readTile_element (more : ((s.cluster cl).ag u).elem < sh.elems) : s.readTile cl u g sh conv done =
    s.readElem cl u g sh conv (laneNo sh.bitsOf ((s.cluster cl).ag u).elem)
      (sh.coords ((s.cluster cl).ag u).tile ((s.cluster cl).ag u).elem) (putElem cl u) := by
  simp only [readTile, on, room]
  rw [if_neg (by simp [inside]), if_neg (by simp), if_neg (by omega)]
  rfl

theorem readTile_whole (whole : sh.elems ≤ ((s.cluster cl).ag u).elem) :
    s.readTile cl u g sh conv done = .next (s.onAg cl u done) := by
  simp only [readTile, on, room]
  rw [if_neg (by simp [inside]), if_neg (by simp), if_pos whole]

end

/-! ## The operations -/

variable {x : Shape}

theorem exec_agRead (ready : s.agFor 0 g = some (cl, u, a)) : exec (.agRead g) s = s.withShape cl u 0 g fun sh =>
    s.agSend cl u g <| if a.between && s.wavePause cl (32 + u) then .next (s.agPause cl u)
      else if g.tgt = 1 then s.readBuf cl u g
      else s.readTile cl u g sh false fun a =>
        { a.emit (s.waveLen cl) (recordTokens sh.bitsOf a.seq a.vals) with tile := a.tile + 1 } := by
  change execAgRead g s = _
  simp only [execAgRead, ready]

/-- The rows of a CONV's record with that of the tile in hand behind them. -/
def convRows (sh : Shp) (g : AgCfg) (a : Ag) : List (Option Nat) :=
  let n := if g.kw then 32 else 16
  a.vals.take (n * a.lane) ++ convRow sh g.kw (a.vals.drop (n * a.lane))

/-- A CONV's generator once the tile in hand has given its row. -/
def convDone (sh : Shp) (g : AgCfg) (wave : Nat) (a : Ag) : Ag :=
  let a := { a with vals := convRows sh g a, lines := [], elem := 0, tile := a.tile + 1, lane := a.lane + 1 }
  if a.lane = max 1 g.rpr.toNat || sh.tiles ≤ a.tile then
    { a.emit wave (recordTokens sh.bitsOf a.seq a.vals) with lane := 0 }
  else a

theorem exec_agConv (ready : s.agFor 7 g = some (cl, u, a)) : exec (.agConv g) s = s.withShape cl u 7 g fun sh =>
    s.agSend cl u g <| if a.between && s.wavePause cl (32 + u) then .next (s.agPause cl u)
      else s.readTile cl u g sh true (convDone sh g (s.waveLen cl)) := by
  change execAgConv g s = _
  simp only [execAgConv, ready]
  rfl

/-- What a GATHER with nothing to send does with the heads of its queue (R213). -/
def gatherTurn (s : State) (cl u : Nat) (g : AgCfg) (sh : Shp) : Out :=
  match (s.cluster cl).agHeads u 2 g with
  | .valued t _ =>
    if ((s.cluster cl).ag u).between && !s.agRoom cl u g then .next s
    else if sh.rank = 1 then s.gatherFlat cl u g sh t else s.gatherRows cl u g sh t
  | .bad => s.agFail cl u .configIllegal
  | _ => .next s

theorem exec_agGather (ready : s.agFor 2 g = some (cl, u, a)) :
    exec (.agGather g) s = s.withShape cl u 2 g fun sh => s.agSend cl u g (s.gatherTurn cl u g sh) := by
  obtain rfl := ag_of_agFor ready
  change execAgGather g s = _
  simp only [execAgGather, ready]
  rfl

section
variable {mode : BitVec 4} {sh : Shp} {x : Shape}

/-! Each operation once its generator is ready, with nothing to send and no pause. -/

theorem exec_agRead_tile (ready : s.agFor 0 g = some (cl, u, a)) (latched : a.pend = []) (hx : a.shape = some x)
    (empty : a.outq = []) (goes : s.wavePause cl (32 + u) = false) (tile : g.tgt ≠ 1) :
    exec (.agRead g) s = s.readTile cl u g (shpOf x) false fun a =>
      { a.emit (s.waveLen cl) (recordTokens (shpOf x).bitsOf a.seq a.vals) with tile := a.tile + 1 } := by
  obtain rfl := ag_of_agFor ready
  rw [exec_agRead ready, withShape_of_shape hx latched, agSend_none empty, if_neg (by simp [goes]), if_neg tile]

theorem exec_agRead_buffer (ready : s.agFor 0 g = some (cl, u, a)) (latched : a.pend = []) (empty : a.outq = [])
    (goes : s.wavePause cl (32 + u) = false) (buffer : g.tgt = 1) : exec (.agRead g) s = s.readBuf cl u g := by
  obtain rfl := ag_of_agFor ready
  obtain ⟨sh, shaped⟩ := withShape_read (.inr buffer) latched
  rw [exec_agRead ready, shaped, agSend_none empty, if_neg (by simp [goes]), if_pos buffer]

theorem exec_agConv_tile (ready : s.agFor 7 g = some (cl, u, a)) (latched : a.pend = []) (hx : a.shape = some x)
    (empty : a.outq = []) (goes : s.wavePause cl (32 + u) = false) :
    exec (.agConv g) s = s.readTile cl u g (shpOf x) true (convDone (shpOf x) g (s.waveLen cl)) := by
  obtain rfl := ag_of_agFor ready
  rw [exec_agConv ready, withShape_of_shape hx latched, agSend_none empty, if_neg (by simp [goes])]

theorem exec_agGather_flat (ready : s.agFor 2 g = some (cl, u, a)) (latched : a.pend = []) (hx : a.shape = some x)
    (empty : a.outq = []) (room : s.agRoom cl u g = true) (flat : (shpOf x).rank = 1) {t v : Token}
    (heads : (s.cluster cl).agHeads u 2 g = .valued t v) : exec (.agGather g) s = s.gatherFlat cl u g (shpOf x) t := by
  obtain rfl := ag_of_agFor ready
  rw [exec_agGather ready, withShape_of_shape hx latched, agSend_none empty]
  simp only [gatherTurn, heads, room]
  rw [if_neg (by simp), if_pos flat]

end

/-- The tokens of a record with the MARK that closes a wave (R211). -/
theorem waveTokens_eq (w since : Nat) (ts : List Token) : waveTokens w since ts =
    (ts ++ (if w ≠ 0 ∧ since + 1 = w then [⟨3, 0, 0, 0⟩] else []), if w ≠ 0 ∧ since + 1 = w then 0 else since + 1) := by
  by_cases h : w ≠ 0 ∧ since + 1 = w
  · rw [if_pos h, if_pos h, waveTokens, if_pos (by simpa using h)]
    rfl
  · rw [if_neg h, if_neg h, List.append_nil, waveTokens, if_neg (by simpa using h)]

/-- A record of an address generator that is complete (R211). -/
theorem emit_eq (a : Ag) (w : Nat) (ts : List Token) : a.emit w ts = { a with
    outq := ts ++ (if w ≠ 0 ∧ a.sinceMark + 1 = w then [⟨3, 0, 0, 0⟩] else [])
    sinceMark := if w ≠ 0 ∧ a.sinceMark + 1 = w then 0 else a.sinceMark + 1
    seq := (a.seq + 1) % 2 ^ 16, vals := [], lines := [], elem := 0 } := by
  rw [Ag.emit, waveTokens_eq]

/-- A CONV's record that waits for further rows (R216). -/
theorem convDone_part {sh : Shp} {w : Nat} (part : ¬ (a.lane + 1 = max 1 g.rpr.toNat ∨ sh.tiles ≤ a.tile + 1)) :
    convDone sh g w a =
      { a with vals := convRows sh g a, lines := [], elem := 0, tile := a.tile + 1, lane := a.lane + 1 } := by
  rw [convDone, if_neg (by simpa using part)]

/-- A CONV's record whose last row has come (R216). -/
theorem convDone_full {sh : Shp} {w : Nat} (full : a.lane + 1 = max 1 g.rpr.toNat ∨ sh.tiles ≤ a.tile + 1) :
    convDone sh g w a = { a with
      outq := recordTokens sh.bitsOf a.seq (convRows sh g a) ++ (if w ≠ 0 ∧ a.sinceMark + 1 = w then [⟨3, 0, 0, 0⟩] else [])
      sinceMark := if w ≠ 0 ∧ a.sinceMark + 1 = w then 0 else a.sinceMark + 1
      seq := (a.seq + 1) % 2 ^ 16, vals := [], lines := [], elem := 0, tile := a.tile + 1, lane := 0 } := by
  rw [convDone, if_pos (by simpa using full), emit_eq]

/-- A change of the generator counts for what it makes of it. -/
theorem onAg_congr {f k : Ag → Ag} (h : f ((s.cluster cl).ag u) = k ((s.cluster cl).ag u)) : s.onAg cl u f = s.onAg cl u k := by
  rw [onAg, onAg, onCluster, onCluster, h]

/-- The lanes of a GATHER of RANK 1 (R213). -/
theorem gatherFlat_valid {sh : Shp} {t : Token} (more : ((s.cluster cl).ag u).elem < 16)
    (valid : t.isValid ((s.cluster cl).ag u).elem = true) : s.gatherFlat cl u g sh t =
      s.readElem cl u g sh false ((s.cluster cl).ag u).elem [laneIndex t ((s.cluster cl).ag u).elem] (putElem cl u) := by
  simp only [gatherFlat, valid]
  rw [if_neg (by omega), if_pos trivial]
  rfl

theorem gatherFlat_invalid {sh : Shp} {t : Token} (more : ((s.cluster cl).ag u).elem < 16)
    (invalid : t.isValid ((s.cluster cl).ag u).elem = false) : s.gatherFlat cl u g sh t = putElem cl u none s := by
  simp only [gatherFlat, invalid]
  rw [if_neg (by omega), if_neg (by simp)]
  rfl

/-- A GATHER's token with all its lanes (R213). -/
theorem gatherFlat_whole {sh : Shp} {t : Token} (whole : 16 ≤ ((s.cluster cl).ag u).elem) :
    ∃ w, s.gatherFlat cl u g sh t = .next w ∧ (w.cluster cl).queue (16 + 2 * u) = ((s.cluster cl).queue (16 + 2 * u)).tail ∧
      ((w.cluster cl).ag u).outq = [⟨t.kind, ((s.cluster cl).ag u).seq, (packLanes sh.bitsOf ((s.cluster cl).ag u).vals).2,
        (packLanes sh.bitsOf ((s.cluster cl).ag u).vals).1⟩] ∧
      ((w.cluster cl).ag u).seq = (if t.kind = 1 then (((s.cluster cl).ag u).seq + 1) % 2 ^ 16 else ((s.cluster cl).ag u).seq) ∧
      ((w.cluster cl).ag u).elem = 0 := by
  refine ⟨_, by rw [gatherFlat, if_pos whole], ?_, ?_, ?_, ?_⟩
  · rw [cluster_setCluster, Cluster.queue_setAg]
    exact Cluster.queue_popQ ..
  · rw [cluster_setCluster, Cluster.ag_setAg]
  · rw [cluster_setCluster, Cluster.ag_setAg, Cluster.ag_popQ]
    exact if_congr (by simp [Token.isLast]) rfl rfl
  · rw [cluster_setCluster, Cluster.ag_setAg]

end State

/-- The slot at CIDX becomes DRAINING, and the leaf store stays (R96). -/
theorem Cluster.beginDrain_spec (c : Cluster) (i : Nat) :
    (c.beginDrain i).tile ((c.buf i).cSlot 0) = { c.tile ((c.buf i).cSlot 0) with st := .draining } ∧
      (c.beginDrain i).leaf = c.leaf :=
  ⟨c.tiles.getD_set_self .., rfl⟩

namespace State

/-- A generator that has made the slot x of a buffer its record (R96, R211). -/
def bufRecord (s : State) (cl u : Nat) (x : Tile) : Ag :=
  let a := (s.cluster cl).ag u
  let b := { a with pts := max a.pts x.tclk }.emit (s.waveLen cl) ((s.cluster cl).slotTokens x a.seq)
  { b with tile := b.tile + 1 }

theorem outq_bufRecord (s : State) (cl u : Nat) (x : Tile) : (s.bufRecord cl u x).outq =
    (s.cluster cl).slotTokens x ((s.cluster cl).ag u).seq ++
      if s.waveLen cl ≠ 0 ∧ ((s.cluster cl).ag u).sinceMark + 1 = s.waveLen cl then [⟨3, 0, 0, 0⟩] else [] := by
  rw [bufRecord, emit_eq]

theorem pts_bufRecord (s : State) (cl u : Nat) (x : Tile) :
    (s.bufRecord cl u x).pts = max ((s.cluster cl).ag u).pts x.tclk := by
  rw [bufRecord, emit_eq]

/-- The READY slot at CIDX of a buffer becomes a record and DRAINING (R96, R211). -/
theorem readBuf_ready {s : State} {g : AgCfg} {cl u : Nat} (slots : ((s.cluster cl).buf g.bufn.toNat).slots ≠ 0)
    (room : s.agRoom cl u g = true) (on : ((s.cluster cl).ag u).ended = false)
    (st : ((s.cluster cl).tile (((s.cluster cl).buf g.bufn.toNat).cSlot 0)).st = .ready)
    (good : ((s.cluster cl).tile (((s.cluster cl).buf g.bufn.toNat).cSlot 0)).badLayout = false) :
    s.readBuf cl u g = .next (s.setCluster cl (((s.cluster cl).beginDrain g.bufn.toNat).setAg u
      (s.bufRecord cl u ((s.cluster cl).tile (((s.cluster cl).buf g.bufn.toNat).cSlot 0))))) := by
  simp only [readBuf]
  rw [if_neg (by simp [slots, room]), if_neg (by simp [on]), if_pos st, if_neg (by simp [good])]
  rfl

/-! ## The family's clauses -/

/-- What a token that waits to be sent does to the generator and its destination. -/
def SendsFirst (s : State) (cl u : Nat) (g : AgCfg) (a : Ag) (o : Out) : Prop :=
  ∀ t r, a.outq = t :: r → (s.cluster cl).room ((s.cluster cl).agDest u g) 1 = true → t.kind ≠ 2 →
    ∃ v, o = .next v ∧ (v.cluster cl).ag u = { a with outq := r } ∧
      (∀ q, (v.cluster cl).queue q =
        if (s.cluster cl).agDest u g = .queue q then (s.cluster cl).queue q ++ [t] else (s.cluster cl).queue q) ∧
      v.mem = s.mem

theorem sendsFirst_agSend (s : State) (cl u : Nat) (g : AgCfg) (f : Out) :
    s.SendsFirst cl u g ((s.cluster cl).ag u) (s.agSend cl u g f) := fun _ _ out room data => agSend_sends out room data f

theorem agRead_sendsFirst {s : State} {g : AgCfg} {cl u : Nat} {a : Ag} (ready : s.agFor 0 g = some (cl, u, a))
    (latched : a.pend = []) (shaped : a.shape ≠ none ∨ g.tgt = 1) : s.SendsFirst cl u g a (exec (.agRead g) s) := by
  obtain rfl := ag_of_agFor ready
  obtain ⟨sh, shaped⟩ := withShape_read shaped latched
  rw [exec_agRead ready, shaped]
  exact sendsFirst_agSend s cl u g _

theorem agConv_sendsFirst {s : State} {g : AgCfg} {cl u : Nat} {a : Ag} (ready : s.agFor 7 g = some (cl, u, a))
    (latched : a.pend = []) (shaped : a.shape ≠ none) : s.SendsFirst cl u g a (exec (.agConv g) s) := by
  obtain rfl := ag_of_agFor ready
  obtain ⟨x, hx⟩ := Option.ne_none_iff_exists'.1 shaped
  rw [exec_agConv ready, withShape_of_shape hx latched]
  exact sendsFirst_agSend s cl u g _

theorem agGather_sendsFirst {s : State} {g : AgCfg} {cl u : Nat} {a : Ag} (ready : s.agFor 2 g = some (cl, u, a))
    (latched : a.pend = []) (shaped : a.shape ≠ none) : s.SendsFirst cl u g a (exec (.agGather g) s) := by
  obtain rfl := ag_of_agFor ready
  obtain ⟨x, hx⟩ := Option.ne_none_iff_exists'.1 shaped
  rw [exec_agGather ready, withShape_of_shape hx latched]
  exact sendsFirst_agSend s cl u g _

/-- An operation that reads its next element at coordinates co and puts it to the others in hand. -/
def ReadsElem (s : State) (cl u : Nat) (g : AgCfg) (sh : Shp) (co : List Int) (o : Out) : Prop :=
  ∃ conv lane, o = s.readElem cl u g sh conv lane co (putElem cl u)

end State

end Sys2Proof.Machine

/-- Settles O41: each operation is reduced to its turn, and the turn to the element, the record or the slot. -/
theorem addressGeneratorReads : Obligations.AddressGeneratorReads := by
  unfold Obligations.AddressGeneratorReads
  intro s g u cl a c dest ready ag sent element idle w closes
  have elements {i : Instr} {sh : Shp} {co : List Int} (same : ag s = a)
      (h : State.ReadsElem s cl u g sh co (exec i s)) : element i sh co := by
    obtain ⟨conv, lane, e⟩ := h
    subst same
    refine ⟨fun va high loc mem lines => ?_, fun va high off loc leaf own free bytes => ?_, fun pad => ?_⟩
    · rw [e, State.readElem_memory mem loc lines]
      rfl
    · rw [e, State.readElem_leaf leaf loc own free bytes]
      rfl
    · rw [e, State.readElem_pad pad]
      rfl
  refine ⟨fun h shaped => State.agRead_sendsFirst h.1 h.2 shaped,
    fun h tile shaped => State.agConv_sendsFirst h.1 h.2 (shaped.resolve_right tile),
    fun h tile shaped => State.agGather_sendsFirst h.1 h.2 (shaped.resolve_right tile),
    fun x hx => ⟨?_, ?_, ?_⟩, ?_⟩
  · intro ⟨⟨hag, latched⟩, empty, room, goes⟩ tile on inside
    have turn := State.exec_agRead_tile hag latched hx empty goes tile
    obtain rfl := State.ag_of_agFor hag
    refine ⟨fun more => elements rfl ⟨_, _, turn.trans (State.readTile_element on inside room more)⟩, fun whole => ?_⟩
    rw [turn, State.readTile_whole on inside room whole]
    refine congrArg Host.Outcome.next (State.onAg_congr ?_)
    rw [State.emit_eq]
  · intro ⟨⟨hag, latched⟩, empty, room, goes⟩ on inside
    have turn := State.exec_agConv_tile hag latched hx empty goes
    obtain rfl := State.ag_of_agFor hag
    refine ⟨fun more => ⟨elements rfl ⟨_, _, turn.trans (State.readTile_element on inside room more)⟩, fun co out => ?_⟩,
      fun whole => ?_⟩
    · rw [turn, State.readTile_element on inside room more, State.readElem_conv out]
      rfl
    · intro n taps tail rows last
      refine ⟨fun part => ?_, fun full => ?_⟩
      · rw [turn, State.readTile_whole on inside room whole]
        exact congrArg Host.Outcome.next (State.onAg_congr (State.convDone_part part))
      · rw [turn, State.readTile_whole on inside room whole]
        exact congrArg Host.Outcome.next (State.onAg_congr (State.convDone_full full))
  · intro ⟨hag, latched⟩ empty room tile flat t v heads
    have turn := State.exec_agGather_flat hag latched hx empty room flat heads
    obtain rfl := State.ag_of_agFor hag
    refine ⟨fun more valid => elements rfl ⟨_, _, turn.trans (State.gatherFlat_valid more valid)⟩, fun more invalid => ?_,
      fun whole => ?_⟩
    · rw [turn, State.gatherFlat_invalid more invalid]
      rfl
    · rw [turn]
      exact State.gatherFlat_whole whole
  · intro ⟨⟨hag, latched⟩, empty, room, goes⟩ buffer on b k slots st good
    have turn := State.exec_agRead_buffer hag latched empty goes buffer
    obtain rfl := State.ag_of_agFor hag
    obtain ⟨tile, leaf⟩ := c.beginDrain_spec g.bufn.toNat
    refine ⟨_, turn.trans (State.readBuf_ready slots room on st good), ?_,
      ⟨if closes then [⟨3, 0, 0, 0⟩] else [], ?_, ?_⟩, ?_, ?_⟩
    · rw [State.cluster_setCluster]
      exact tile
    · show ((State.cluster _ cl).ag u).outq = _
      rw [State.cluster_setCluster, Cluster.ag_setAg]
      exact s.outq_bufRecord cl u (c.tile k)
    · split
      · exact .inr rfl
      · exact .inl rfl
    · show ((State.cluster _ cl).ag u).pts = _
      rw [State.cluster_setCluster, Cluster.ag_setAg]
      exact s.pts_bufRecord cl u (c.tile k)
    · rw [State.cluster_setCluster]
      exact leaf

end

/-! # O56: requests about a core, freezing, and the scan window -/

section
open Sys2Proof Sys2Proof.Machine Sys2Proof.Claims
namespace Sys2Proof.Machine

namespace State

variable {s : State}

/-- BUSY is clear once a request is done (R344). -/
theorem requestDone_spec (s : State) : bitAt s.requestDone.regs.preempt 63 = false := by
  show (s.regs.preempt &&& ~~~(BitVec.ofNat 64 (2 ^ 63))).getLsbD 63 = false
  rw [BitVec.getLsbD_and, show (~~~(BitVec.ofNat 64 (2 ^ 63))).getLsbD 63 = false by decide, Bool.and_false]

/-! ## Halting, releasing and starting a core (R242, R345) -/

/-- A SIN or SOUT has begun. -/
theorem begun_iff (c : Core) :
    (c.burst.map fun b => !b.lines.isEmpty).getD false = true ↔ ∃ b, c.burst = some b ∧ b.lines ≠ [] := by
  cases c.burst <;> simp

theorem exec_haltCore {n : Nat} (asked : s.coreRequest 3 n = true) (idle : ¬ ∃ b, (s.core n).burst = some b ∧ b.lines ≠ []) :
    exec (.haltCore n) s = .next (s.setCore n { s.core n with halted := true, burst := none }).requestDone := by
  have stands : ((s.core n).burst.map fun b => !b.lines.isEmpty).getD false = false :=
    Bool.eq_false_iff.2 (mt (begun_iff _).1 idle)
  change execHaltCore n s = _
  rw [execHaltCore, if_pos (by rw [asked, stands]; rfl)]

theorem exec_haltCore_not {n : Nat} (h : s.coreRequest 3 n = false ∨ ∃ b, (s.core n).burst = some b ∧ b.lines ≠ []) :
    exec (.haltCore n) s = .next s := by
  change execHaltCore n s = _
  rw [execHaltCore, if_neg]
  rcases h with no | begun
  · simp [no]
  · simp [(begun_iff _).2 begun]

theorem exec_releaseCore {n : Nat} (asked : s.coreRequest 4 n = true) : exec (.releaseCore n) s =
    .next (s.setCore n { (s.core n).released with
      relatch := (s.core n).relatch.map fun _ => s.relatching (s.core n).asid }).requestDone := by
  change execReleaseCore n s = _
  rw [execReleaseCore, if_pos asked]

theorem exec_releaseCore_not {n : Nat} (no : s.coreRequest 4 n = false) : exec (.releaseCore n) s = .next s := by
  change execReleaseCore n s = _
  rw [execReleaseCore, if_neg (by simp [no])]

theorem exec_startCore {n : Nat} (asked : s.coreRequest 7 n = true) (halted : (s.core n).halted = true)
    (free : (s.core n).task = .none) : exec (.startCore n) s =
    .next (s.setCore n ({ (s.core n).released with task := .start }.putList 1 [0, 0])).requestDone := by
  change execStartCore n s = _
  rw [execStartCore, if_pos (by simp [asked, halted, free])]

theorem exec_startCore_not {n : Nat} (h : s.coreRequest 7 n = false ∨ (s.core n).halted = false ∨ (s.core n).task ≠ .none) :
    exec (.startCore n) s = .next s := by
  change execStartCore n s = _
  rw [execStartCore, if_neg]
  rcases h with no | runs | busy
  · simp [no]
  · simp [runs]
  · simp [busy]

/-- What a request about a core changes is that core. -/
theorem core_request (s : State) (n : Nat) (c : Core) : ((s.setCore n c).requestDone.core n) = c ∧
    (∀ m, m ≠ n → (s.setCore n c).requestDone.core m = s.core m) ∧
    bitAt (s.setCore n c).requestDone.regs.preempt 63 = false ∧ (s.setCore n c).requestDone.mem = s.mem :=
  ⟨s.core_setCore n c, fun _ h => s.core_setCore_ne n _ _ h, requestDone_spec _, rfl⟩

end State

/-- The channel of a core that leaves its halt (R238, R345). -/
def Channel.released (ch : Channel) : Channel :=
  { ch with deferred := ch.deferred.map fun d => { d with ready := d.ready || d.told, told := false } }

theorem Core.chan_released (c : Core) (k : Nat) : c.released.chan k = (c.chan k).released :=
  Table.getD_mapVals c.chans Channel.released k Channel.reset

/-- A start task's core: g1 and g2 are 0, nothing but registers has been written. -/
theorem Core.putList_zeros (c : Core) : ∃ g, c.putList 1 [0, 0] = { c with g := g } ∧
    ∀ r, (c.putList 1 [0, 0]).get r = if r = 1 ∨ r = 2 then 0 else c.get r := by
  refine ⟨_, rfl, fun r => ?_⟩
  show ((c.put 1 0).put 2 0).get r = _
  by_cases h2 : r = 2
  · subst h2
    rw [Core.get_put_self _ _ _ (by decide), if_pos (.inr rfl)]
  · rw [Core.get_put_ne _ _ _ _ h2]
    by_cases h1 : r = 1
    · subst h1
      rw [Core.get_put_self _ _ _ (by decide), if_pos (.inl rfl)]
    · rw [Core.get_put_ne _ _ _ _ h1, if_neg (not_or.2 ⟨h1, h2⟩)]

/-- A cluster without what the scan window has written to its empty entries (R349). -/
def Cluster.noScan (c : Cluster) : Cluster := { c with scan := [] }

namespace State

variable {s : State}

/-! ## Freezing (R349) -/

/-- A launch changed in a state whose launches are those of s. -/
theorem launchNow_setLaunch {t : State} {l : Launch} (same : t.launches = s.launches)
    (h : (s.launch? l.job l.id).isSome = true) : launchNow s (t.setLaunch l) l.job l.id l := by
  have lookup (m n : Nat) : t.launch? m n = s.launch? m n := by rw [launch?, same, launch?]
  refine ⟨launch?_setLaunch_of_some (by rwa [lookup]), fun m n other => ?_⟩
  rw [launch?_setLaunch_ne _ _ other, lookup]

theorem freeze_asked {act job lid : Nat} {v : Bool} {l : Launch} (asked : s.request act = true ∧ s.requestJob = job)
    (target : s.requestTarget = lid) (live : s.live job lid = some l) : s.freeze act job lid v =
      ((if v then s else ((l.band.map Band.clusters).getD []).foldl (fun s cl => s.onCluster cl fun c => { c with scan := [] })
        s).onBand l fun b => { b with frozen := v }).requestDone := by
  rw [freeze, if_pos (by simp [asked, target]), live]

theorem freeze_not {act job lid : Nat} {v : Bool} (no : ¬ (s.request act = true ∧ s.requestJob = job)) :
    s.freeze act job lid v = s := by
  rw [freeze, if_neg]
  simp only [Bool.and_eq_true, decide_eq_true_eq]
  exact fun h => no h.1

/-- The clusters of a list without what the scan window has written to their empty entries. -/
theorem cluster_dropScan (cls : List Nat) (s : State) (cl : Nat) :
    { (cls.foldl (fun s cl => s.onCluster cl fun c => { c with scan := [] }) s).cluster cl with scan := (s.cluster cl).scan } =
      s.cluster cl := by
  have kept := cluster_foldl_onCluster (f := Cluster.noScan) (fun _ => rfl) cls s cl
  change { ((cls.foldl (fun s cl => s.onCluster cl Cluster.noScan) s).cluster cl) with scan := (s.cluster cl).scan } = _
  rw [kept]
  split <;> rfl

/-- A live launch that gets another band, in a state whose launches are those of s. -/
theorem launchNow_onBand {t : State} {job lid : Nat} {l : Launch} {b : Band} (live : s.live job lid = some l)
    (hb : l.band = some b) (same : t.launches = s.launches) (f : Band → Band) :
    launchNow s (t.onBand l f) job lid { l with band := some (f b) } := by
  obtain ⟨found, rfl, rfl, _⟩ := live_spec live
  rw [onBand, hb]
  exact launchNow_setLaunch (l := { l with band := some (f b) }) same (by simp [found])

end State

/-! ## The scan window (R349, R350) -/

theorem scanOf_cluster (tower : Nat) {k o : Nat} (hk : k < 768) (ho : o < 0x10000) :
    scanOf tower (0x20040000000 + 0x10000 * k + o) = .cluster (768 * tower + k) o := by
  have rel : 0x20040000000 + 0x10000 * k + o - 0x20040000000 = 0x10000 * k + o := by omega
  have blk : (0x10000 * k + o) / 0x10000 = k := by omega
  have off : (0x10000 * k + o) % 0x10000 = o := by omega
  simp only [scanOf, rel, blk, off]
  rw [if_neg (by simp only [Bool.or_eq_true, decide_eq_true_eq]; omega), if_neg (by omega), if_pos hk]

theorem scanOf_core (tower : Nat) {k o : Nat} (hk : k < 48) (ho : o < 0x10000) :
    scanOf tower (0x20070000000 + 0x10000 * k + o) = .core (48 * tower + k) o := by
  have rel : 0x20070000000 + 0x10000 * k + o - 0x20040000000 = 0x10000 * (0x3000 + k) + o := by omega
  have blk : (0x10000 * (0x3000 + k) + o) / 0x10000 = 0x3000 + k := by omega
  have off : (0x10000 * (0x3000 + k) + o) % 0x10000 = o := by omega
  simp only [scanOf, rel, blk, off]
  rw [if_neg (by simp only [Bool.or_eq_true, decide_eq_true_eq]; omega), if_pos (by omega), Nat.add_sub_cancel_left, if_pos hk]

namespace State

variable {s : State} {tower : Nat} {v : Word}

theorem exec_scanWrite (ht : tower < 4) {off : Nat} (aligned : off % 8 = 0) :
    exec (.scanWrite tower off v) s = .next (s.scanPut tower off v) := by
  change execScanWrite tower off v s = _
  rw [execScanWrite, if_pos aligned, Nat.mod_eq_of_lt ht]

theorem exec_scanWrite_misaligned {off : Nat} (odd : off % 8 ≠ 0) : exec (.scanWrite tower off v) s = .next s := by
  change execScanWrite tower off v s = _
  rw [execScanWrite, if_neg odd]

/-- A write that the window discards, aligned or not. -/
theorem exec_scanWrite_discarded (ht : tower < 4) {off : Nat} (h : s.scanPut tower off v = s) :
    exec (.scanWrite tower off v) s = .next s := by
  by_cases aligned : off % 8 = 0
  · rw [exec_scanWrite ht aligned, h]
  · exact exec_scanWrite_misaligned aligned

theorem scanPut_core {k o : Nat} (hk : k < 48) (ho : o < 0x10000) : s.scanPut tower (0x20070000000 + 0x10000 * k + o) v =
    if (s.core (48 * tower + k)).halted then
      (s.setCore (48 * tower + k) ((s.core (48 * tower + k)).scanWrite o v)).noteClock
        ((s.core (48 * tower + k)).scanWrite o v).pts
    else s := by
  simp only [scanPut, scanOf_core tower hk ho]

theorem scanPut_cluster {k o : Nat} (hk : k < 768) (ho : o < 0x10000) : s.scanPut tower (0x20040000000 + 0x10000 * k + o) v =
    if s.scanOpen (768 * tower + k) then s.onCluster (768 * tower + k) fun c => c.scanWrite o v.toNat else s := by
  simp only [scanPut, scanOf_cluster tower hk ho]

theorem core_noteClock (s : State) (t n : Nat) : (s.noteClock t).core n = s.core n := by rw [noteClock_eq]; rfl

end State

/-- A general register of a halted core (R350). -/
theorem Core.scanWrite_reg (c : Core) (r : Reg) (v : Word) : c.scanWrite (8 * r.toNat) v = c.put r v := by
  unfold Core.scanWrite
  rw [if_pos (by omega), Nat.mul_div_cancel_left _ (by decide), Core.putNat, BitVec.ofNat_toNat,
    BitVec.setWidth_eq]

/-- No queue stands below the token entries of a block. -/
theorem Cluster.scanWrite_low (c : Cluster) {o : Nat} (h : o < 0x1000) (v : Nat) : c.scanWrite o v = c := by
  have none_there : scanQueue o = none := by
    rw [scanQueue, if_neg (by simp; omega), if_neg (by simp; omega)]
  simp only [Cluster.scanWrite, none_there]

/-- The entry of a slot's queue at an offset (R349). -/
theorem scanQueue_slot {n q e : Nat} (hn : n < 4) (hq : q < 4) (he : e < 4) :
    scanQueue (0x1000 + 0x800 * n + 0x200 * q + 0x80 * e + 0) = some (.inl (4 * n + q), e, 0) := by
  rw [scanQueue, if_pos (by simp; omega)]
  have slot : (0x1000 + 0x800 * n + 0x200 * q + 0x80 * e + 0 - 0x1000) / 0x800 = n := by omega
  have queue : (0x1000 + 0x800 * n + 0x200 * q + 0x80 * e + 0 - 0x1000) % 0x800 / 0x200 = q := by omega
  have entry : (0x1000 + 0x800 * n + 0x200 * q + 0x80 * e + 0 - 0x1000) % 0x200 / 0x80 = e := by omega
  have byte : (0x1000 + 0x800 * n + 0x200 * q + 0x80 * e + 0 - 0x1000) % 0x80 = 0 := by omega
  simp only [slot, queue, entry, byte]

/-- What stands above the lanes of a token's entry (R349). -/
def tokenHead (x : Token) : Nat := x.valid.toNat + x.kind * 2 ^ 16 + x.seq * 2 ^ 32 + 2 ^ 48

theorem tokenNum_some {x : Token} (kind : x.kind < 256) (seq : x.seq < 2 ^ 16) :
    tokenNum (some x) = 2 ^ 512 * tokenHead x + x.lanes.toNat := by
  rw [tokenNum, Nat.mod_eq_of_lt kind, Nat.mod_eq_of_lt seq, tokenHead, Nat.add_comm]

/-- The first 8 bytes of an entry replaced leave what stands above them. -/
theorem putBytes_zero (n : Nat) {v : Nat} (hv : v < 2 ^ 64) (j : Nat) :
    (putBytes n 0 v).testBit j = if j < 64 then v.testBit j else n.testBit j := by
  have whole : putBytes n 0 v = 2 ^ 64 * (n / 2 ^ 64) + v := by
    simp only [putBytes, Nat.mul_zero, Nat.pow_zero, Nat.mod_one, Nat.mul_one, Nat.one_mul, Nat.zero_add]
    rw [Nat.add_comm, Nat.mul_comm]
  rw [whole, Nat.testBit_two_pow_mul_add _ hv]
  refine if_ctx_congr Iff.rfl (fun _ => rfl) fun high => ?_
  rw [Nat.testBit_div_two_pow, Nat.sub_add_cancel (Nat.le_of_not_lt high)]

/-- An entry that holds a token gives its parts back (R349). -/
theorem tokenAt_head {n : Nat} {x : Token} (kind : x.kind < 256) (seq : x.seq < 2 ^ 16) (h : n / 2 ^ 512 = tokenHead x) :
    tokenAt n = some { x with lanes := BitVec.ofNat 512 n } := by
  have hv := x.valid.isLt
  have occupied : (tokenHead x).testBit 48 = true := by
    rw [Nat.testBit_eq_decide_div_mod_eq, decide_eq_true_eq, tokenHead]
    omega
  have kind_at : tokenHead x / 2 ^ 16 % 256 = x.kind := by
    rw [tokenHead]
    omega
  have seq_at : tokenHead x / 2 ^ 32 % 2 ^ 16 = x.seq := by
    rw [tokenHead]
    omega
  have valid_at : BitVec.ofNat 16 (tokenHead x) = x.valid := BitVec.eq_of_toNat_eq (by
    rw [BitVec.toNat_ofNat, tokenHead]
    omega)
  simp only [tokenAt, h, occupied, if_true, kind_at, seq_at, valid_at]

/-- The first 8 bytes of a token's entry are those of its lanes (R349). -/
theorem tokenAt_putBytes {x : Token} (kind : x.kind < 256) (seq : x.seq < 2 ^ 16) (v : Word) :
    tokenAt (putBytes (tokenNum (some x)) 0 v.toNat) = some { x with
      lanes := (x.lanes &&& ~~~(BitVec.ofNat 512 (2 ^ 64 - 1))) ||| BitVec.setWidth 512 v } := by
  have bit (j : Nat) := putBytes_zero (tokenNum (some x)) v.isLt j
  rw [tokenNum_some kind seq] at bit ⊢
  have head : putBytes (2 ^ 512 * tokenHead x + x.lanes.toNat) 0 v.toNat / 2 ^ 512 = tokenHead x := by
    refine Nat.eq_of_testBit_eq fun j => ?_
    rw [Nat.testBit_div_two_pow, bit, if_neg (by omega), Nat.testBit_two_pow_mul_add _ x.lanes.isLt, if_neg (by omega),
      Nat.add_sub_cancel]
  rw [tokenAt_head kind seq head]
  refine congrArg (fun lanes => some { x with lanes := lanes }) (BitVec.eq_of_getLsbD_eq fun j hj => ?_)
  rw [BitVec.getLsbD_ofNat, bit, Nat.testBit_two_pow_mul_add _ x.lanes.isLt, if_pos hj, BitVec.getLsbD_or, BitVec.getLsbD_and,
    BitVec.getLsbD_not, BitVec.getLsbD_ofNat, Nat.testBit_two_pow_sub_one, BitVec.getLsbD_setWidth]
  by_cases low : j < 64
  · simp [hj, low, BitVec.getLsbD]
  · have above : v.toNat.testBit j = false := BitVec.getLsbD_of_ge v j (by omega)
    simp [hj, low, BitVec.getLsbD, above]

/-- A write of an entry of a slot's queue reaches that queue only (R349). -/
theorem Cluster.scanWrite_queue (c : Cluster) {o k e x v : Nat} (at_o : scanQueue o = some (.inl k, e, x)) {ts : List Token}
    {raw : Table Nat} (new : rewrite (8 * k) (c.queue k) c.scan e x v = (ts, raw)) :
    c.scanWrite o v = { c.setQueue k ts with scan := raw } := by
  unfold Cluster.scanWrite
  rw [at_o]
  dsimp only
  rw [new]

theorem rewrite_eq (key e o v : Nat) (q : List Token) (raw : Table Nat) : rewrite key q raw e o v = match q[e]? with
    | some x =>
      match tokenAt (putBytes (tokenNum (some x)) o v) with
      | some t => (q.set e t, raw)
      | none => (q.eraseIdx e, raw)
    | none => joinEntries key 8 (q, raw.set (key + e) (putBytes (raw.getD (key + e) 0) o v)) := rfl

/-- An entry that holds a token and goes on to hold one. The entry's token stands behind a variable F, since Lean's kernel would
evaluate it, on numbers like 2 ^ 512, to reduce the match. -/
theorem rewrite_of_some {key e o v : Nat} {q : List Token} {raw : Table Nat} {x t : Token} (at_e : q[e]? = some x)
    (new : tokenAt (putBytes (tokenNum (some x)) o v) = some t) : rewrite key q raw e o v = (q.set e t, raw) := by
  obtain ⟨F, same⟩ : ∃ F : Token → Option Token, ∀ x, F x = tokenAt (putBytes (tokenNum (some x)) o v) := ⟨_, fun _ => rfl⟩
  rw [← same] at new
  rw [rewrite_eq]
  simp only [← same]
  rw [at_e]
  dsimp only
  rw [new]

namespace State

/-! ## The clauses of the scan window -/

section
variable {s : State} {tower : Nat} {v : Word} (ht : tower < 4)
include ht

theorem scan_core_running {k o : Nat} (hk : k < 48) (ho : o < 0x10000) (runs : (s.core (48 * tower + k)).halted = false) :
    exec (.scanWrite tower (0x20070000000 + 0x10000 * k + o) v) s = .next s :=
  exec_scanWrite_discarded ht (by rw [scanPut_core hk ho, if_neg (by simp [runs])])

theorem scan_cluster_closed {k o : Nat} (hk : k < 768) (ho : o < 0x10000) (shut : s.scanOpen (768 * tower + k) = false) :
    exec (.scanWrite tower (0x20040000000 + 0x10000 * k + o) v) s = .next s :=
  exec_scanWrite_discarded ht (by rw [scanPut_cluster hk ho, if_neg (by simp [shut])])

theorem scan_core_halted {k o : Nat} (hk : k < 48) (ho : o < 0x10000) (aligned : o % 8 = 0)
    (halted : (s.core (48 * tower + k)).halted = true) :
    exec (.scanWrite tower (0x20070000000 + 0x10000 * k + o) v) s =
      .next ((s.setCore (48 * tower + k) ((s.core (48 * tower + k)).scanWrite o v)).noteClock
        ((s.core (48 * tower + k)).scanWrite o v).pts) := by
  rw [exec_scanWrite ht (by omega), scanPut_core hk ho, if_pos halted]

/-- The causes and other words of a core that are read-only (R3, R350). -/
theorem scan_core_readonly {k o : Nat} (hk : k < 48) (ho : o < 0x10000) (aligned : o % 8 = 0)
    (kept : (s.core (48 * tower + k)).scanWrite o v = s.core (48 * tower + k)) :
    ∃ u, exec (.scanWrite tower (0x20070000000 + 0x10000 * k + o) v) s = .next u ∧
      u.core (48 * tower + k) = s.core (48 * tower + k) := by
  cases halted : (s.core (48 * tower + k)).halted with
  | false => exact ⟨s, scan_core_running ht hk ho halted, rfl⟩
  | true => exact ⟨_, scan_core_halted ht hk ho aligned halted, by rw [core_noteClock, core_setCore, kept]⟩

theorem scan_cluster_open {k o : Nat} (hk : k < 768) (ho : o < 0x10000) (aligned : o % 8 = 0)
    (opened : s.scanOpen (768 * tower + k) = true) :
    exec (.scanWrite tower (0x20040000000 + 0x10000 * k + o) v) s =
      .next (s.onCluster (768 * tower + k) fun c => c.scanWrite o v.toNat) := by
  rw [exec_scanWrite ht (by omega), scanPut_cluster hk ho, if_pos opened]

/-- The stall records and the flag word are read-only (R3, R110, R132). -/
theorem scan_cluster_readonly {k o : Nat} (hk : k < 768) (low : o < 0x1000) (aligned : o % 8 = 0) :
    ∃ u, exec (.scanWrite tower (0x20040000000 + 0x10000 * k + o) v) s = .next u ∧ { u with clusters := s.clusters } = s ∧
      ∀ m, u.cluster m = s.cluster m := by
  cases opened : s.scanOpen (768 * tower + k) with
  | false => exact ⟨s, scan_cluster_closed ht hk (by omega) opened, rfl, fun _ => rfl⟩
  | true =>
    refine ⟨_, scan_cluster_open ht hk (by omega) aligned opened, rfl, fun m => ?_⟩
    by_cases hm : m = 768 * tower + k
    · rw [hm, cluster_onCluster, Cluster.scanWrite_low _ low]
    · rw [cluster_onCluster_ne _ _ _ _ hm]

/-- A token of a slot's queue (R349). -/
theorem scan_entry {k n q e : Nat} (hk : k < 768) (hn : n < 4) (hq : q < 4) (he : e < 4)
    (opened : s.scanOpen (768 * tower + k) = true) :
    ∃ u, exec (.scanWrite tower (0x20040000000 + 0x10000 * k + (0x1000 + 0x800 * n + 0x200 * q + 0x80 * e + 0)) v) s = .next u ∧
      (∀ x, ((s.cluster (768 * tower + k)).queue (4 * n + q))[e]? = some x → x.kind < 256 → x.seq < 2 ^ 16 →
        (u.cluster (768 * tower + k)).queue (4 * n + q) = ((s.cluster (768 * tower + k)).queue (4 * n + q)).set e
          { x with lanes := (x.lanes &&& ~~~(BitVec.ofNat 512 (2 ^ 64 - 1))) ||| BitVec.setWidth 512 v }) ∧
      (∀ p, p ≠ 4 * n + q → (u.cluster (768 * tower + k)).queue p = (s.cluster (768 * tower + k)).queue p) ∧
      (u.cluster (768 * tower + k)).slots = (s.cluster (768 * tower + k)).slots ∧
      ∀ m, m ≠ 768 * tower + k → u.cluster m = s.cluster m := by
  refine ⟨_, scan_cluster_open ht hk (by omega) (by omega) opened, ?_⟩
  rw [cluster_onCluster]
  generalize new : rewrite (8 * (4 * n + q)) ((s.cluster (768 * tower + k)).queue (4 * n + q))
    (s.cluster (768 * tower + k)).scan e 0 v.toNat = r
  obtain ⟨ts, raw⟩ := r
  rw [Cluster.scanWrite_queue _ (scanQueue_slot hn hq he) new]
  refine ⟨fun x at_e kind seq => ?_, fun p hp => Table.getD_set_ne _ _ _ _ _ hp, rfl,
    fun m hm => cluster_onCluster_ne _ _ _ _ hm⟩
  rw [rewrite_of_some at_e (tokenAt_putBytes kind seq v)] at new
  obtain ⟨rfl, rfl⟩ := Prod.mk.inj new
  exact Table.getD_set_self ..

end

end State

end Sys2Proof.Machine

end

/-! # O56: pre-empting and resuming a job -/

section
open Sys2Proof Sys2Proof.Machine Sys2Proof.Claims
namespace Sys2Proof.Machine

namespace State

/-! ## The keys of the launches -/

theorem keys_setLaunch (s : State) (l : Launch) :
    ((s.setLaunch l).launches.map fun l => (l.job, l.id)) = s.launches.map fun l => (l.job, l.id) := by
  rw [setLaunch, List.map_map]
  refine List.map_congr_left fun x _ => ?_
  simp only [Function.comp]
  split
  · rename_i same
    simp only [Bool.and_eq_true, decide_eq_true_eq] at same
    rw [same.1, same.2]
  · rfl

theorem keys_ofJob {s : State} (nd : (s.launches.map fun l => (l.job, l.id)).Nodup) (job : Nat) :
    ((s.ofJob job).map fun l => (l.job, l.id)).Nodup := nd.sublist (List.filter_sublist.map _)

theorem mem_ofJob {s : State} {job : Nat} {l : Launch} : l ∈ s.ofJob job ↔ l ∈ s.launches ∧ l.job = job := by
  simp [ofJob]

/-! ## The copy jobs of a job -/

theorem copyJob_setCopyJob (s : State) (e k : Nat) (j : CopyJob) : (s.setCopyJob e k j).copyJob e k = j := by
  rw [copyJob, engine, setCopyJob, setEngine, Table.getD_set_self, Table.getD_set_self]

theorem copyJob_setCopyJob_ne (s : State) {e k e' k' : Nat} (h : (e', k') ≠ (e, k)) (j : CopyJob) :
    (s.setCopyJob e k j).copyJob e' k' = s.copyJob e' k' := by
  by_cases he : e' = e
  · subst he
    have hk : k' ≠ k := fun hk => h (by rw [hk])
    rw [copyJob, engine, setCopyJob, setEngine, Table.getD_set_self, Table.getD_set_ne _ _ _ _ _ hk, copyJob]
  · rw [copyJob, engine, setCopyJob, setEngine, Table.getD_set_ne _ _ _ _ _ he, copyJob, engine]

/-- A change of the copy jobs of a list, which changes nothing a second time. -/
theorem copyJob_foldl {F : State → Nat × Nat → State} {f : CopyJob → CopyJob} (once : ∀ j, f (f j) = f j)
    {ls : List (Nat × Nat)} {s : State}
    (change : ∀ t p, t.launches = s.launches → F t p = t.setCopyJob p.1 p.2 (f (t.copyJob p.1 p.2))) (e k : Nat) :
    (ls.foldl F s).copyJob e k = if (e, k) ∈ ls then f (s.copyJob e k) else s.copyJob e k := by
  induction ls generalizing s with
  | nil => rfl
  | cons p ps ih =>
    have now := change s p rfl
    have same : (F s p).launches = s.launches := by rw [now]; rfl
    rw [List.foldl_cons, ih fun t q h => change t q (h.trans same), now]
    by_cases h : (e, k) = p
    · subst h
      rw [copyJob_setCopyJob, once, ite_self, if_pos List.mem_cons_self]
    · rw [copyJob_setCopyJob_ne _ h]
      exact if_congr (by simp [h]) rfl rfl

/-- A copy job in hand is one of its job's. -/
theorem mem_copyJobsOf {s : State} {e k : Nat} (taken : (s.copyJob e k).st ≠ .free) :
    (e, k) ∈ s.copyJobsOf (s.copyJob e k).job := by
  obtain ⟨x, hx⟩ : ∃ x, s.engines.get e = some x := by
    refine Option.ne_none_iff_exists'.1 fun none => taken ?_
    have unlisted : s.engine e = Engine.reset := by rw [engine, Table.getD, none]; rfl
    rw [copyJob, unlisted]
    rfl
  have engine : s.engine e = x := by rw [engine, Table.getD, hx]; rfl
  obtain ⟨j, hj⟩ : ∃ j, x.slots.get k = some j := by
    refine Option.ne_none_iff_exists'.1 fun none => taken ?_
    rw [copyJob, engine, Table.getD, none]
    rfl
  have job : s.copyJob e k = j := by rw [copyJob, engine, Table.getD, hj]; rfl
  rw [copyJobsOf, List.mem_flatten, job]
  refine ⟨_, List.mem_map.2 ⟨(e, x), Table.mem_of_get hx, rfl⟩,
    List.mem_map.2 ⟨(k, j), List.mem_filter.2 ⟨Table.mem_of_get hj, ?_⟩, rfl⟩⟩
  rw [job] at taken
  simpa using taken

/-! ## PREEMPT_JOB (R346) -/

theorem onClusters_unload (s : State) (b : Band) (r : Nat) : s.OnClusters (s.unload b r) :=
  .foldl (fun s cl => .onCluster s cl _) _ s

theorem onClusters_stopLoads (s : State) (b : Band) : s.OnClusters (s.stopLoads b).1 := by
  refine List.foldlRecOn (motive := fun p : State × Band => s.OnClusters p.1) _ _ (OnClusters.refl s) fun p h r _ => ?_
  obtain ⟨t, c⟩ := p
  dsimp only
  split
  · exact h.trans (onClusters_unload ..)
  · exact h

/-- A band as the request reaches it, its loads stopped (R338, R356). -/
def loadsStopped (s : State) (b : Band) : State × Band := if b.scroll then s.stopLoads b else (s, b)

theorem onClusters_loadsStopped (s : State) (b : Band) : s.OnClusters (s.loadsStopped b).1 := by
  unfold loadsStopped
  split
  · exact onClusters_stopLoads s b
  · exact .refl s

/-- The request reaches the band of a running launch (R346). -/
theorem closeBand_running (s : State) {l : Launch} {b : Band} (hb : l.placed = some b) (run : l.st = .running)
    (good : l.status = 0) : s.closeBand l =
      (s.loadsStopped b).1.setLaunch { l with band := some { (s.loadsStopped b).2 with closing := true } } := by
  simp only [closeBand, hb]
  rw [if_pos (by simp [run, good])]
  rfl

/-- The request reaches no other launch (R346). -/
theorem closeBand_other (s : State) {l : Launch} (h : ¬ ∃ b, l.placed = some b ∧ l.st = .running ∧ l.status = 0) :
    s.closeBand l = s := by
  cases hb : l.placed with
  | none => simp only [closeBand, hb]
  | some b =>
    simp only [closeBand, hb]
    rw [if_neg]
    simp only [Bool.and_eq_true, decide_eq_true_eq]
    exact fun run => h ⟨b, hb, run⟩

/-- What the request changes: the launch, and clusters of its band. -/
theorem closeBand_spec (s : State) (l : Launch) : s.closeBand l = s ∨ ∃ t, ∃ b' : Band, s.OnClusters t ∧
    s.closeBand l = t.setLaunch { l with band := some b' } := by
  by_cases h : ∃ b, l.placed = some b ∧ l.st = .running ∧ l.status = 0
  · obtain ⟨b, hb, run, good⟩ := h
    exact .inr ⟨_, _, onClusters_loadsStopped s b, s.closeBand_running hb run good⟩
  · exact .inl (s.closeBand_other h)

theorem onBands_closeBand (s : State) (l : Launch) : s.OnBands (s.closeBand l) := by
  obtain same | ⟨t, b', h, same⟩ := s.closeBand_spec l
  · rw [same]
    exact .refl s
  · rw [same]
    exact (OnBands.of_clusters h).trans (.setLaunch _ _)

theorem launch?_closeBand_ne (s : State) (l : Launch) {job lid : Nat} (other : (job, lid) ≠ (l.job, l.id)) :
    (s.closeBand l).launch? job lid = s.launch? job lid := by
  obtain same | ⟨t, b', h, same⟩ := s.closeBand_spec l
  · rw [same]
  · rw [same, launch?_setLaunch_ne _ _ (by exact other), h.launch?]

/-- The bands of a job once PREEMPT_JOB has told them (R346). -/
def closeBands (s : State) (job : Nat) : State := (s.ofJob job).foldl closeBand s

theorem onBands_closeBands (s : State) (job : Nat) : s.OnBands (s.closeBands job) := .foldl onBands_closeBand _ s

theorem closing_closeBands {s : State} (nd : (s.launches.map fun l => (l.job, l.id)).Nodup) {l : Launch} {b : Band}
    (hl : l ∈ s.launches) (run : l.st = .running) (good : l.status = 0) (hb : l.placed = some b) :
    ∃ x, (s.closeBands l.job).launch? l.job l.id = some x ∧ ∃ y, x.band = some y ∧ y.closing = true := by
  refine launch?_foldl (fun s y _ _ other => s.launch?_closeBand_ne y other) (fun t there => ?_) (keys_ofJob nd _)
    (mem_ofJob.2 ⟨hl, rfl⟩) (isSome_launch? hl)
  refine ⟨{ l with band := some { (t.loadsStopped b).2 with closing := true } }, ?_, _, rfl, rfl⟩
  rw [t.closeBand_running hb run good]
  exact launch?_setLaunch_of_some (by rwa [(onClusters_loadsStopped t b).launch?])

end State

/-- A copy job that PREEMPT_JOB tells to stop, if it runs (R346). -/
def CopyJob.halted (j : CopyJob) : CopyJob := { j with halt := j.fail = 0 && j.st ≠ .stopped, going := false }

/-- A stopped copy job that RESUME_JOB asks to go on; due says that a pre-empted launch of its job is still to be placed
(R347). -/
def CopyJob.resumed (due : Nat → Bool) (j : CopyJob) : CopyJob :=
  if j.st = .stopped then
    if due j.job then { j with going := true }
    else { j with st := if j.limit = 0 then .waiting else .running, going := false }
  else { j with going := false }

theorem CopyJob.resumed_resumed (due : Nat → Bool) (j : CopyJob) : (j.resumed due).resumed due = j.resumed due := by
  unfold CopyJob.resumed
  by_cases stopped : j.st = .stopped
  · by_cases d : due j.job = true
    · simp [stopped, d]
    · simp only [stopped, d]
      by_cases lim : j.limit = 0 <;> simp [lim]
  · simp [stopped]

namespace State

/-- t is s but for its copy engines. -/
def OnEngines (s t : State) : Prop := ∃ engines, t = { s with engines := engines }

theorem OnEngines.refl (s : State) : s.OnEngines s := ⟨_, rfl⟩

theorem OnEngines.trans {s t u : State} (h : s.OnEngines t) (k : t.OnEngines u) : s.OnEngines u := by
  obtain ⟨_, rfl⟩ := h
  obtain ⟨_, rfl⟩ := k
  exact ⟨_, rfl⟩

theorem OnEngines.foldl {α : Type} {F : State → α → State} (hF : ∀ (s : State) x, s.OnEngines (F s x)) (l : List α)
    (s : State) : s.OnEngines (l.foldl F s) :=
  List.foldlRecOn (motive := s.OnEngines) l F (refl s) fun t h x _ => h.trans (hF t x)

/-- One copy job told to stop (R346). -/
def haltCopy (s : State) (p : Nat × Nat) : State := s.setCopyJob p.1 p.2 (s.copyJob p.1 p.2).halted

/-- The copy jobs of a job told to stop (R346). -/
def haltCopies (s : State) (job : Nat) : State := (s.copyJobsOf job).foldl haltCopy s

theorem onEngines_haltCopies (s : State) (job : Nat) : s.OnEngines (s.haltCopies job) :=
  .foldl (fun _ _ => ⟨_, rfl⟩) (s.copyJobsOf job) s

theorem copyJob_haltCopies {s : State} {e k : Nat} (taken : (s.copyJob e k).st ≠ .free) :
    (s.haltCopies (s.copyJob e k).job).copyJob e k = (s.copyJob e k).halted := by
  rw [haltCopies, copyJob_foldl (F := haltCopy) (f := CopyJob.halted) (fun _ => rfl) (fun _ _ _ => rfl),
    if_pos (mem_copyJobsOf taken)]

theorem exec_preemptJob {s : State} {job : Nat} (asked : s.request 1 = true ∧ s.requestJob = job)
    (free : s.regs.preempting = none) : exec (.preemptJob job) s = .next { (s.closeBands job).haltCopies job with
      regs := { ((s.closeBands job).haltCopies job).regs with preempting := some job } } := by
  change execPreemptJob job s = _
  rw [execPreemptJob, if_pos (by simp [asked, free])]
  rfl

theorem exec_preemptJob_not {s : State} {job : Nat} (no : ¬ (s.request 1 = true ∧ s.requestJob = job)) :
    exec (.preemptJob job) s = .next s := by
  change execPreemptJob job s = _
  rw [execPreemptJob, if_neg]
  simp only [Bool.and_eq_true, decide_eq_true_eq]
  exact fun h => no h.1

theorem preempt_job {s : State} {job : Nat} (asked : s.request 1 = true ∧ s.requestJob = job)
    (free : s.regs.preempting = none) (nd : (s.launches.map fun l => (l.job, l.id)).Nodup) :
    ∃ u, exec (.preemptJob job) s = .next u ∧ u.regs.preempting = some job ∧ bitAt u.regs.preempt 63 = true ∧ u.mem = s.mem ∧
      (∀ l ∈ s.launches, ∀ b, l.job = job → l.st = .running → l.status = 0 → l.placed = some b →
        ∃ x y, u.launch? job l.id = some x ∧ x.band = some y ∧ y.closing = true) ∧
      ∀ e k, (s.copyJob e k).st ≠ .free → (s.copyJob e k).job = job →
        ((u.copyJob e k).halt = true ↔ (s.copyJob e k).fail = 0 ∧ (s.copyJob e k).st ≠ .stopped) := by
  obtain ⟨_, _, closed⟩ := s.onBands_closeBands job
  obtain ⟨_, halted⟩ := (s.closeBands job).onEngines_haltCopies job
  have busy : bitAt s.regs.preempt 63 = true := (Bool.and_eq_true_iff.1 asked.1).1
  refine ⟨_, exec_preemptJob asked free, rfl, ?_, ?_, ?_, ?_⟩
  · rw [halted, closed]
    exact busy
  · rw [halted, closed]
  · rintro l hl b rfl run good hb
    obtain ⟨x, found, y, band, closing⟩ := closing_closeBands nd hl run good hb
    refine ⟨x, y, ?_, band, closing⟩
    rw [halted]
    exact found
  · rintro e k taken rfl
    have same : (s.closeBands (s.copyJob e k).job).copyJob e k = s.copyJob e k := by
      rw [closed]
      rfl
    have now := copyJob_haltCopies (s := s.closeBands (s.copyJob e k).job) (e := e) (k := k) (by rwa [same])
    rw [same] at now
    show (((s.closeBands (s.copyJob e k).job).haltCopies (s.copyJob e k).job).copyJob e k).halt = true ↔ _
    rw [now]
    simp [CopyJob.halted]

/-! ## RESUME_JOB (R347) -/

/-- A pre-empted launch of a job waits to be placed again. -/
def resumeDue (s : State) (job : Nat) : Bool := (s.ofJob job).any fun l =>
  match l.band with
  | some b => b.resume
  | none => false

theorem resumeDue_iff {s : State} {job : Nat} :
    s.resumeDue job = true ↔ ∃ l ∈ s.launches, l.job = job ∧ ∃ b, l.band = some b ∧ b.resume = true := by
  rw [resumeDue, List.any_eq_true]
  refine exists_congr fun l => ?_
  rw [mem_ofJob, and_assoc]
  refine and_congr_right fun _ => and_congr_right fun _ => ?_
  cases l.band <;> simp

theorem setCopyJob_setCopyJob (s : State) (e k : Nat) (i j : CopyJob) :
    (s.setCopyJob e k i).setCopyJob e k j = s.setCopyJob e k j := by
  have now : (s.setCopyJob e k i).engine e = { s.engine e with slots := (s.engine e).slots.set k i } := Table.getD_set_self ..
  rw [setCopyJob, now, Table.set_set]
  exact congrArg (fun engines => { s with engines := engines }) (Table.set_set ..)

/-- One copy job asked to go on (R347). -/
def resumeCopy (s : State) (p : Nat × Nat) : State :=
  (s.setCopyJob p.1 p.2 { s.copyJob p.1 p.2 with going := (s.copyJob p.1 p.2).st = .stopped }).copyGoOn p.1 p.2

theorem copyGoOn_eq (s : State) (e k : Nat) : s.copyGoOn e k =
    if (s.copyJob e k).going && !s.resumeDue (s.copyJob e k).job then
      s.setCopyJob e k { s.copyJob e k with
        st := if (s.copyJob e k).limit = 0 then .waiting else .running
        going := false }
    else s := rfl

theorem resumeCopy_eq (s : State) (p : Nat × Nat) :
    s.resumeCopy p = s.setCopyJob p.1 p.2 ((s.copyJob p.1 p.2).resumed s.resumeDue) := by
  have same (j : CopyJob) : (s.setCopyJob p.1 p.2 j).resumeDue = s.resumeDue := rfl
  rw [resumeCopy, copyGoOn_eq, copyJob_setCopyJob, same, CopyJob.resumed]
  by_cases stopped : (s.copyJob p.1 p.2).st = .stopped
  · by_cases due : s.resumeDue (s.copyJob p.1 p.2).job = true
    · simp [stopped, due]
    · simp [stopped, due, setCopyJob_setCopyJob]
  · simp [stopped]

/-- One launch of a resumed job: its band waits to be placed, if it is pre-empted (R347). -/
def resumeBand (s : State) (l : Launch) : State := s.onBand l fun b => { b with resume := b.context.isSome }

/-- The launches of a job once RESUME_JOB has told them. -/
def resumeBands (s : State) (job : Nat) : State := (s.ofJob job).foldl resumeBand s

theorem resumeBands_frame (s : State) (job : Nat) : ∃ launches, s.resumeBands job = { s with launches := launches } :=
  List.foldlRecOn (motive := fun t => ∃ launches, t = { s with launches := launches }) (s.ofJob job) resumeBand ⟨_, rfl⟩
    fun t h l _ => by
      obtain ⟨_, rfl⟩ := h
      exact ⟨_, rfl⟩

theorem keys_resumeBands (s : State) (job : Nat) :
    ((s.resumeBands job).launches.map fun l => (l.job, l.id)) = s.launches.map fun l => (l.job, l.id) :=
  List.foldlRecOn (motive := fun t : State => (t.launches.map fun l => (l.job, l.id)) = s.launches.map fun l => (l.job, l.id))
    (s.ofJob job) resumeBand rfl fun _ h _ _ => (keys_setLaunch ..).trans h

theorem launch?_resumeBands {s : State} (nd : (s.launches.map fun l => (l.job, l.id)).Nodup) {l : Launch}
    (hl : l ∈ s.launches) : (s.resumeBands l.job).launch? l.job l.id =
      some { l with band := l.band.map fun b => { b with resume := b.context.isSome } } := by
  have told : ∃ x, (s.resumeBands l.job).launch? l.job l.id = some x ∧
      x = { l with band := l.band.map fun b => { b with resume := b.context.isSome } } := by
    refine launch?_foldl (P := (· = { l with band := l.band.map fun b => { b with resume := b.context.isSome } }))
      (fun s y job lid other => launch?_setLaunch_ne _ _ (by exact other)) (fun t there => ⟨_, ?_, rfl⟩) (keys_ofJob nd _)
      (mem_ofJob.2 ⟨hl, rfl⟩) (isSome_launch? hl)
    exact launch?_setLaunch_of_some (l := { l with band := l.band.map fun b => { b with resume := b.context.isSome } }) there
  obtain ⟨_, found, rfl⟩ := told
  exact found

/-- Resumed bands are due exactly if a launch of the job has a band in its context (R347). -/
theorem resumeDue_resumeBands {s : State} (nd : (s.launches.map fun l => (l.job, l.id)).Nodup) (job : Nat) :
    (s.resumeBands job).resumeDue job = true ↔
      ∃ l ∈ s.launches, l.job = job ∧ ∃ b, l.band = some b ∧ b.context ≠ none := by
  have keys := s.keys_resumeBands job
  rw [resumeDue_iff]
  constructor
  · rintro ⟨x, hx, rfl, b, hb, due⟩
    obtain ⟨l, hl, key⟩ := List.mem_map.1 (keys ▸ List.mem_map.2 ⟨x, hx, rfl⟩)
    obtain ⟨job, id⟩ := Prod.mk.inj key
    have found := launch?_of_mem (keys ▸ nd) hx
    rw [← job, ← id] at found
    rw [launch?_resumeBands nd hl] at found
    have band : l.band.map (fun b => { b with resume := b.context.isSome }) = some b := by
      rw [← hb, ← Option.some.inj found]
    obtain ⟨c, hc, rfl⟩ := Option.map_eq_some_iff.1 band
    exact ⟨l, hl, job, c, hc, Option.isSome_iff_ne_none.1 due⟩
  · rintro ⟨l, hl, rfl, b, hb, ctx⟩
    refine ⟨_, (launch?_spec (launch?_resumeBands nd hl)).1, rfl, { b with resume := b.context.isSome }, ?_,
      Option.isSome_iff_ne_none.2 ctx⟩
    rw [hb]
    rfl

/-- The stopped copy jobs of a job asked to go on (R347). -/
def resumeCopies (s : State) (job : Nat) : State := (s.copyJobsOf job).foldl resumeCopy s

theorem onEngines_resumeCopies (s : State) (job : Nat) : s.OnEngines (s.resumeCopies job) :=
  .foldl (fun s p => by rw [resumeCopy_eq]; exact ⟨_, rfl⟩) (s.copyJobsOf job) s

theorem copyJob_resumeCopies {s : State} {e k : Nat} (taken : (s.copyJob e k).st ≠ .free) :
    (s.resumeCopies (s.copyJob e k).job).copyJob e k = (s.copyJob e k).resumed s.resumeDue := by
  have change (t : State) (p : Nat × Nat) (same : t.launches = s.launches) :
      t.resumeCopy p = t.setCopyJob p.1 p.2 ((t.copyJob p.1 p.2).resumed s.resumeDue) := by
    have due : t.resumeDue = s.resumeDue := by
      funext n
      rw [resumeDue, ofJob, same, resumeDue, ofJob]
    rw [resumeCopy_eq, due]
  rw [resumeCopies, copyJob_foldl (CopyJob.resumed_resumed s.resumeDue) change, if_pos (mem_copyJobsOf taken)]

theorem exec_resumeJob {s : State} {job : Nat} (asked : s.request 2 = true ∧ s.requestJob = job) :
    exec (.resumeJob job) s = .next ((s.resumeBands job).resumeCopies job).requestDone := by
  change execResumeJob job s = _
  rw [execResumeJob, if_pos (by simp [asked])]
  rfl

theorem exec_resumeJob_not {s : State} {job : Nat} (no : ¬ (s.request 2 = true ∧ s.requestJob = job)) :
    exec (.resumeJob job) s = .next s := by
  change execResumeJob job s = _
  rw [execResumeJob, if_neg]
  simpa only [Bool.and_eq_true, decide_eq_true_eq] using no

theorem resume_job {s : State} {job : Nat} (asked : s.request 2 = true ∧ s.requestJob = job)
    (nd : (s.launches.map fun l => (l.job, l.id)).Nodup) :
    ∃ u, exec (.resumeJob job) s = .next u ∧ bitAt u.regs.preempt 63 = false ∧ u.clusters = s.clusters ∧
      (∀ l ∈ s.launches, ∀ b, l.job = job → l.band = some b →
        u.launch? job l.id = some { l with band := some { b with resume := b.context.isSome } }) ∧
      ∀ e k, (s.copyJob e k).job = job → (s.copyJob e k).st = .stopped →
        let due : Prop := ∃ l ∈ s.launches, l.job = job ∧ ∃ b, l.band = some b ∧ b.context ≠ none
        (due → (u.copyJob e k).st = .stopped ∧ (u.copyJob e k).going = true) ∧
        (¬ due → (u.copyJob e k).st = if (s.copyJob e k).limit = 0 then .waiting else .running) := by
  obtain ⟨_, told⟩ := s.resumeBands_frame job
  obtain ⟨_, gone⟩ := (s.resumeBands job).onEngines_resumeCopies job
  refine ⟨_, exec_resumeJob asked, requestDone_spec _, ?_, ?_, ?_⟩
  · rw [gone, told]
    rfl
  · rintro l hl b rfl hb
    have found := launch?_resumeBands nd hl
    rw [hb] at found
    rw [gone]
    exact found
  · rintro e k rfl stopped due
    have same : (s.resumeBands (s.copyJob e k).job).copyJob e k = s.copyJob e k := by
      rw [told]
      rfl
    have now := copyJob_resumeCopies (s := s.resumeBands (s.copyJob e k).job) (e := e) (k := k) (by rw [same, stopped]; decide)
    rw [same, CopyJob.resumed, if_pos stopped] at now
    refine ⟨fun h => ?_, fun h => ?_⟩
    · rw [if_pos ((resumeDue_resumeBands nd _).2 h)] at now
      exact ⟨(congrArg CopyJob.st now).trans stopped, congrArg CopyJob.going now⟩
    · rw [if_neg (mt (resumeDue_resumeBands nd _).1 h)] at now
      exact congrArg CopyJob.st now

end State

end Sys2Proof.Machine

end

/-! # O56: the drain window -/

section
open Sys2Proof Sys2Proof.Machine Sys2Proof.Claims
namespace Sys2Proof.Machine

namespace State

variable {s : State}

/-! ## Writes that are performed (R60, R77) -/

/-- The lists of writes on their way hold none of an agent once its writes are performed. -/
theorem ways_performAll (s : State) (agent : Nat) : (s.performAll agent).posted = s.posted.filter (fun p => p.agent ≠ agent) ∧
    (s.performAll agent).twig = s.twig.filter fun w => !decide (w.agent = agent) := by
  obtain ⟨_, drained, _⟩ := s.drainPosted_spec agent
  have leaf (t : State) (ws : List TwigWrite) : t.OnClusters (ws.foldl State.twigArrive t) :=
    OnClusters.foldl (F := State.twigArrive) (fun _ _ => ⟨_, rfl⟩) ws t
  obtain ⟨_, written⟩ := leaf
    { s.drainPosted agent with twig := (s.drainPosted agent).twig.filter fun w => !decide (w.agent = agent) }
    ((s.drainPosted agent).twig.filter fun w => w.agent = agent)
  rw [performAll, twigPerform, written, drained]
  exact ⟨rfl, rfl⟩

/-- A write performed at a leaf store moves no token. -/
theorem q_performAll (s : State) (agent cl : Nat) : ((s.performAll agent).cluster cl).q = (s.cluster cl).q := by
  obtain ⟨_, drained, _⟩ := s.drainPosted_spec agent
  have arrive (t : State) (w : TwigWrite) : ((t.twigArrive w).cluster cl).q = (t.cluster cl).q := by
    by_cases h : cl = w.cl
    · subst h
      rw [twigArrive, cluster_onCluster]
      rfl
    · rw [twigArrive, cluster_onCluster_ne _ _ _ _ h]
  rw [performAll, twigPerform, foldl_look (look := fun u => (u.cluster cl).q) fun w _ t => arrive t w, drained]
  rfl

/-- No write of these agents is on its way. -/
def Quiet (s : State) (agents : List Nat) : Prop :=
  (∀ p ∈ s.posted, p.agent ∉ agents) ∧ ∀ w ∈ s.twig, w.agent ∉ agents

/-- The writes of a list of agents performed. -/
def performs (s : State) (agents : List Nat) : State := agents.foldl performAll s

theorem quiet_performs (agents : List Nat) (s : State) : (s.performs agents).Quiet agents ∧
    (∀ p ∈ (s.performs agents).posted, p ∈ s.posted) ∧ ∀ w ∈ (s.performs agents).twig, w ∈ s.twig := by
  induction agents generalizing s with
  | nil => exact ⟨⟨fun _ _ => List.not_mem_nil, fun _ _ => List.not_mem_nil⟩, fun _ => id, fun _ => id⟩
  | cons a as ih =>
    obtain ⟨⟨noPosted, noTwig⟩, posted, twig⟩ := ih (s.performAll a)
    obtain ⟨ps, ws⟩ := s.ways_performAll a
    have mine_posted : ∀ p ∈ (s.performs (a :: as)).posted, p ∈ s.posted ∧ p.agent ≠ a := fun p hp => by
      have old := posted p hp
      rw [ps, List.mem_filter] at old
      exact ⟨old.1, of_decide_eq_true old.2⟩
    have mine_twig : ∀ w ∈ (s.performs (a :: as)).twig, w ∈ s.twig ∧ w.agent ≠ a := fun w hw => by
      have old := twig w hw
      rw [ws, List.mem_filter] at old
      exact ⟨old.1, by simpa using old.2⟩
    refine ⟨⟨fun p hp => ?_, fun w hw => ?_⟩, fun p hp => (mine_posted p hp).1, fun w hw => (mine_twig w hw).1⟩
    · exact List.not_mem_cons_of_ne_of_not_mem (mine_posted p hp).2 (noPosted p hp)
    · exact List.not_mem_cons_of_ne_of_not_mem (mine_twig w hw).2 (noTwig w hw)

theorem releases_performs (s : State) (agents : List Nat) : s.Releases (s.performs agents) :=
  releases_foldl releases_performAll agents s

theorem Releases.launches {t : State} (h : s.Releases t) : t.launches = s.launches := by
  obtain ⟨_, _, _, _, _, _, rfl⟩ := h
  rfl

theorem q_performs (s : State) (agents : List Nat) (cl : Nat) : ((s.performs agents).cluster cl).q = (s.cluster cl).q :=
  foldl_look (look := fun u => (u.cluster cl).q) (fun a _ t => t.q_performAll a cl) s

/-- The agents of a band's clusters. -/
def bandAgents (s : State) (b : Band) : List Nat := (b.clusters.map s.agentsOf).flatten

/-- With no write of a band's agents on its way there is none of each of its clusters'. -/
theorem Quiet.of_band {t : State} {b : Band} (h : t.Quiet (s.bandAgents b)) : ∀ cl ∈ b.clusters,
    (∀ p ∈ t.posted, p.agent ∉ s.agentsOf cl) ∧ ∀ w ∈ t.twig, w.agent ∉ s.agentsOf cl := fun cl hcl =>
  have inside {a : Nat} (ha : a ∈ s.agentsOf cl) : a ∈ s.bandAgents b := List.mem_flatten.2 ⟨_, List.mem_map.2 ⟨cl, hcl, rfl⟩, ha⟩
  ⟨fun p hp ha => h.1 p hp (inside ha), fun w hw ha => h.2 w hw (inside ha)⟩

/-! ## The event -/

theorem exec_drain_not {job lid : Nat} {l : Launch} {b : Band} (live : s.live job lid = some l) (hb : l.band = some b)
    (no : b.closing = false ∨ b.context ≠ none) : exec (.drainWindowExpiry job lid) s = .next s := by
  change execDrainWindowExpiry job lid s = _
  simp only [execDrainWindowExpiry, live, hb]
  rw [if_pos]
  rcases no with opened | off
  · simp [opened]
  · simp [Option.isSome_iff_ne_none.2 off]

section
variable {job lid : Nat} {l : Launch} {b : Band} (live : s.live job lid = some l) (hb : l.band = some b)
  (closing : b.closing = true) (on : b.context = none) (good : l.status = 0) (goes : l.cancelled = false)
  (stays : l.ending = none)
include live hb closing on good goes stays

/-- A band that still has its tokens: done, or scanned out from now on (R346). -/
theorem exec_drain_window (stands : b.leaving = false) : exec (.drainWindowExpiry job lid) s =
    .next (if (s.performs (s.bandAgents b)).bandDone b then s.performs (s.bandAgents b)
      else (s.performs (s.bandAgents b)).leaveBand l b) := by
  change execDrainWindowExpiry job lid s = _
  simp only [execDrainWindowExpiry, live, hb]
  rw [if_neg (by simp [closing, on, good, goes, stays]), if_neg (by simp [stands])]
  rfl

/-- The next row of a scrolling band that is scanned out (R356). -/
theorem exec_drain_row (leaving : b.leaving = true) (scroll : b.scroll = true) {r : Nat}
    (next : b.byPosition.find? b.unkept = some r) : exec (.drainWindowExpiry job lid) s = s.keepOne l b r := by
  change execDrainWindowExpiry job lid s = _
  simp only [execDrainWindowExpiry, live, hb]
  rw [if_neg (by simp [closing, on, good, goes, stays]), if_pos leaving]
  simp only [scroll, if_true, next]

/-- A band that is scanned out with its rows saved: the lines of its context, then its end (R346). -/
theorem exec_drain_context (leaving : b.leaving = true) (rows : b.scroll = true → b.byPosition.find? b.unkept = none) :
    exec (.drainWindowExpiry job lid) s =
      if b.ctxDone < b.ctxLines then s.moveContext l b true else .next (s.suspend l b) := by
  have none_left : (if b.scroll then b.byPosition.find? b.unkept else none) = none := by
    split
    · exact rows ‹_›
    · rfl
  change execDrainWindowExpiry job lid s = _
  simp only [execDrainWindowExpiry, live, hb]
  rw [if_neg (by simp [closing, on, good, goes, stays]), if_pos leaving]
  simp only [none_left]

end

/-! ## A band that begins to be scanned out (R47, R346) -/

/-- A band and the state as its RELATCH token counts as out (R47). -/
def relatchOut (s : State) (b : Band) : State × Band := if b.relatch.isSome then (s.dropBases b, b.dropLatches) else (s, b)

theorem onClusters_relatchOut (s : State) (b : Band) : s.OnClusters (s.relatchOut b).1 := by
  unfold relatchOut
  split
  · exact onClusters_dropBases s b
  · exact .refl s

theorem relatchOut_band (s : State) (b : Band) : (s.relatchOut b).2.rows = b.rows ∧ (s.relatchOut b).2.closing = b.closing := by
  unfold relatchOut
  split <;> exact ⟨rfl, rfl⟩

theorem q_dropBases (s : State) (b : Band) (cl : Nat) : ((s.dropBases b).cluster cl).q = (s.cluster cl).q := by
  have e := cluster_foldl_dropBases b.clusters s cl
  change (s.dropBases b).cluster cl = _ at e
  rw [e]
  split <;> rfl

theorem q_relatchOut (s : State) (b : Band) (cl : Nat) : ((s.relatchOut b).1.cluster cl).q = (s.cluster cl).q := by
  unfold relatchOut
  split
  · exact s.q_dropBases b cl
  · rfl

/-- The band that leaveBand leaves. -/
def leftBand (s : State) (b : Band) : Band :=
  { (s.relatchOut b).2 with
    leaving := true, relatch := none, ctxNo := (s.relatchOut b).1.fresh
    ctxLines := contextLines (s.relatchOut b).1 (s.relatchOut b).2, ctxDone := 0 }

theorem leaveBand_eq (s : State) (l : Launch) (b : Band) : s.leaveBand l b =
    State.setLaunch { (s.relatchOut b).1 with fresh := (s.relatchOut b).1.fresh + 1 }
      { l with band := some (s.leftBand b) } := rfl

end State

/-- No generator of a cluster without latched bases holds one, listed or not. -/
theorem Cluster.Unlatched.ag {c : Cluster} (h : c.Unlatched) (u : Nat) : (c.ag u).bases = [] := by
  rw [Cluster.ag, Table.getD]
  cases hu : c.ags.get u with
  | none => rfl
  | some a => exact h _ (Table.mem_of_get hu)

/-- The rows of a band by ascending position are rows of it. -/
theorem Band.mem_byPosition {b : Band} {r : Nat} (h : r ∈ b.byPosition) : r < b.height := by
  have inside : ∀ r ∈ b.byPosition, r ∈ List.range b.height := by
    refine List.foldlRecOn (motive := fun l : List Nat => ∀ r ∈ l, r ∈ List.range b.height) _ _ (by simp) fun l hl r hr q hq => ?_
    rcases List.mem_append.1 hq with before | rest
    · exact hl q (List.takeWhile_sublist _ |>.mem before)
    · rcases List.mem_cons.1 rest with rfl | after
      · exact hr
      · exact hl q (List.dropWhile_sublist _ |>.mem after)
  exact List.mem_range.1 (inside r h)

theorem Band.find_unkept_none {b : Band} (saved : ∀ r, r < b.height → b.scroll = true → b.unkept r = false)
    (scroll : b.scroll = true) : b.byPosition.find? b.unkept = none :=
  List.find?_eq_none.2 fun r hr => by simp [saved r (b.mem_byPosition hr) scroll]

theorem Band.row_onRow {b : Band} {r : Nat} (h : r < b.rows.length) (f : Row → Row) : (b.onRow r f).row r = f (b.row r) := by
  simp [Band.onRow, Band.row, Band.setRow, nth, h]

theorem Band.savedOf_keep (b : Band) (v : SavedStage) : (b.keep v).savedOf v.stage = some v := by
  simp [Band.keep, Band.savedOf]

namespace State

variable {s : State}

/-! ## A row saved (R335, R356) -/

/-- The lines of a stage-state area found by walks. -/
theorem lineSteps_areaLines {ctx : Ctx} {need : Need} {n : Nat} {va : Nat} {pas : List Nat} {s t : State}
    (h : s.areaLines ctx need va n = .ok pas t) : s.LineSteps t := by
  induction n generalizing s va pas with
  | zero =>
    cases h
    exact .refl _
  | succ n ih =>
    rw [areaLines] at h
    split at h
    · cases h
    · cases h
    · rename_i found
      have walked := ((LineSteps.refl s).translate ..).1 _ _ _ _ found
      split at h
      · cases h
      · split at h
        · cases h
        · split at h
          · rename_i rest
            cases h
            exact walked.trans (ih rest)
          · rename_i other
            exact (other _ _ h).elim

/-- A save leaves the launches as they are. -/
theorem launches_saveRow {l : Launch} {b : Band} {r : Nat} {image : List Byte} {s t : State}
    (h : s.saveRow l b r = .ok image t) : t.launches = s.launches := by
  simp only [saveRow] at h
  split at h
  · cases h
  · split at h
    · cases h
    · split at h
      · cases h
      · cases h
      · cases h
      · rename_i found
        cases h
        show (List.foldl _ _ _ : State).launches = s.launches
        refine (foldl_look (look := State.launches) ?_ _).trans (lineSteps_areaLines found).launches
        exact fun _ _ _ => rfl

theorem launches_performAll (s : State) (agent : Nat) : (s.performAll agent).launches = s.launches :=
  (releases_performAll s agent).launches

/-- What the scanning out of a band keeps of a row whose save succeeds. -/
def keptRow (s : State) (b : Band) (r : Nat) (image : List Byte) : SavedStage :=
  ⟨(b.stageAt r).1, (b.stageAt r).2, (b.rowClusters r).map s.cluster, image, true⟩

/-- The band once a row of it has been saved: a RESIDENT one is to be loaded again, another one is EMPTY (R356). -/
def keptBand (b : Band) (r : Nat) (v : SavedStage) : Band :=
  if (b.row r).st = .resident then (b.keep v).onRow r fun x => { x with st := .empty, resumed := true } else (b.keep v).vacate r

theorem keepOne_saved {l : Launch} {b : Band} {r : Nat} {image : List Byte} {t : State} (fresh : (b.row r).st ≠ .saving)
    (save : s.saveRow l b r = .ok image t) : s.keepOne l b r = .next ((t.performAll (saveAgent (b.cluster r 0))).setLaunch
      { l with band := some (keptBand b r (s.keptRow b r image)) }) := by
  simp only [keepOne, keepRow, save]
  rw [if_neg fresh]
  rfl

/-- A row whose save had been posted (R335, R356). -/
theorem keepOne_saving {l : Launch} {b : Band} {r : Nat} (saving : (b.row r).st = .saving) (wrote : (b.row r).wrote = true) :
    s.keepOne l b r = .next ((s.performAll (saveAgent (b.cluster r 0))).setLaunch { l with band := some (b.vacate r) }) := by
  simp only [keepOne]
  rw [if_pos saving, if_pos wrote]

theorem savedOf_keptBand (b : Band) (r : Nat) (v : SavedStage) : (keptBand b r v).savedOf v.stage = some v := by
  unfold keptBand
  split
  · exact b.savedOf_keep v
  · exact b.savedOf_keep v

theorem row_vacate {b : Band} {r : Nat} (h : r < b.rows.length) :
    (b.vacate r).row r = ⟨.empty, (b.row r).p + b.height, 0, false, false, false, []⟩ := Band.row_onRow h _

theorem row_keptBand_resident {b : Band} {r : Nat} (h : r < b.rows.length) (resident : (b.row r).st = .resident)
    (v : SavedStage) : (keptBand b r v).row r = { b.row r with st := .empty, resumed := true } := by
  rw [keptBand, if_pos resident]
  exact Band.row_onRow (b := b.keep v) h _

theorem row_keptBand_drained {b : Band} {r : Nat} (h : r < b.rows.length) (drained : (b.row r).st = .drained)
    (v : SavedStage) : (keptBand b r v).row r = ⟨.empty, (b.row r).p + b.height, 0, false, false, false, []⟩ := by
  rw [keptBand, if_neg (by rw [drained]; decide)]
  exact row_vacate (b := b.keep v) h

/-! ## A line of a context (R66, R321, R346) -/

/-- The lines of a context that have been moved, one more. -/
def movedOn (l : Launch) (b : Band) : Launch := { l with band := some { b with ctxDone := b.ctxDone + 1 } }

theorem moveContext_eq {l : Launch} {b : Band} {j : Job} {e : Nat} (hj : s.job l.job = some j) (he : l.entry = some e)
    (write : Bool) : s.moveContext l b write =
      (if write then s.jobWrite j ((j.ctxbase + j.ctxper * e + 128 * b.ctxDone) % 2 ^ 64)
          ((List.range 128).map fun k => Config.contextByte b.ctxNo (128 * b.ctxDone + k))
        else s.jobRead j s.jobCheck ((j.ctxbase + j.ctxper * e + 128 * b.ctxDone) % 2 ^ 64) 128).after s
        fun t => .next (t.setLaunch (movedOn l b)) := by
  unfold moveContext
  split
  · rename_i j' e' hj' he'
    cases hj.symm.trans hj'
    cases he.symm.trans he'
    rfl
  · rename_i no
    exact (no j e hj he).elim

theorem moveContext_write {l : Launch} {b : Band} {j : Job} {e pa : Nat} {x : Xlate} {tlb : List Xlate} {s' : State}
    (hj : s.job l.job = some j) (he : l.entry = some e)
    (found : s.translate (s.jobCtx j) [] 0 needStore s.jobCheck ((j.ctxbase + j.ctxper * e + 128 * b.ctxDone) % 2 ^ 64) =
      .ok pa x tlb s')
    (hbm : windowOf pa = .hbm) (room : max (s'.homeClock (pkgOf pa)) ((s'.line (lineOf pa)).rts + 1) ≤ 0xFFFFFF) :
    ∃ t : State, s.moveContext l b true = .next (t.setLaunch (movedOn l b)) ∧ t.launches = s.launches ∧
      ∀ a, a < pa ∨ pa + 128 ≤ a → t.mem.read a = s'.mem.read a := by
  obtain ⟨t, stored, stores⟩ := s'.homeStore_stores
    ((List.range 128).map fun k => Config.contextByte b.ctxNo (128 * b.ctxDone + k)) room
  have walked := ((LineSteps.refl s).translate ..).1 _ _ _ _ found
  have coherent : windowOf pa ≠ .unbacked := by rw [hbm]; decide
  refine ⟨t, ?_, stores.steps.launches.trans walked.launches, fun a ha => ?_⟩
  · rw [moveContext_eq hj he, if_pos rfl]
    simp only [jobWrite, found, coherent, if_false, stored, Acc.after]
  · rw [stores.mem]
    exact Memory.read_writeN_outside _ _ _ _ (by simpa using ha)

/-! ## A band that is given up (R346) -/

theorem reserve_frame (s : State) (ds : List Demand) (release : Bool) :
    ∃ banks, s.reserve ds release = { s with banks := banks } := by
  unfold reserve
  refine List.foldlRecOn (motive := fun t => ∃ banks, t = { s with banks := banks }) ds _ ?_ fun t h d _ => ?_
  · exact ⟨_, rfl⟩
  · obtain ⟨_, rfl⟩ := h
    exact ⟨_, rfl⟩

/-- The clusters of a band as no launch holds them any more. -/
def freeClusters (s : State) (b : Band) : State := b.clusters.foldl (fun s cl => s.onCluster cl Cluster.freed) s

theorem launch_freeClusters (s : State) {b : Band} {cl : Nat} (h : cl ∈ b.clusters) :
    ((s.freeClusters b).cluster cl).launch = none := by
  rw [freeClusters, cluster_foldl_onCluster (f := Cluster.freed) (fun _ => rfl), if_pos h]
  rfl

theorem onClusters_freeClusters (s : State) (b : Band) : s.OnClusters (s.freeClusters b) :=
  .foldl (fun s cl => .onCluster s cl _) _ s

theorem releaseBand_spec (s : State) {b : Band} (on : b.context = none) : ∃ banks, s.releaseBand b =
    { (s.performs (s.bandAgents b)).freeClusters b with banks := banks } := by
  obtain ⟨banks, e⟩ := ((s.performs (s.bandAgents b)).freeClusters b).reserve_frame b.asked true
  refine ⟨banks, ?_⟩
  rw [← e, releaseBand, if_neg (by simp [on])]
  rfl

/-! ## The clauses of DRAIN_WINDOW_EXPIRY -/

/-- A launch with another band, in a state whose launches are those of s. -/
theorem launchNow_band {t : State} {job lid : Nat} {l : Launch} (live : s.live job lid = some l) (same : t.launches = s.launches)
    (y : Band) : launchNow s (t.setLaunch { l with band := some y }) job lid { l with band := some y } := by
  obtain ⟨found, rfl, rfl, _⟩ := live_spec live
  exact launchNow_setLaunch (l := { l with band := some y }) same (by simp [found])

section
variable {job lid : Nat} {l : Launch} {b : Band} (live : s.live job lid = some l) (hb : l.band = some b)
  (closing : b.closing = true) (on : b.context = none) (good : l.status = 0) (goes : l.cancelled = false)
  (stays : l.ending = none)
include live hb closing on good goes stays

/-- The band's tokens stop (R47, R346). -/
theorem drain_leaves (stands : b.leaving = false) (waits : (s.performs (s.bandAgents b)).bandDone b = false) :
    ∃ u y, exec (.drainWindowExpiry job lid) s = .next u ∧ launchNow s u job lid { l with band := some y } ∧
      u.Quiet (s.bandAgents b) ∧ y.leaving = true ∧ y.relatch = none ∧ y.ctxDone = 0 ∧ y.rows = b.rows ∧ y.closing = true ∧
      (∀ cl, (u.cluster cl).q = (s.cluster cl).q) ∧
      (b.relatch ≠ none → (∀ cl ∈ b.clusters, ∀ a, ((u.cluster cl).ag a).bases = []) ∧
        ∀ v ∈ y.saved, ∀ c ∈ v.row, ∀ a, (c.ag a).bases = []) := by
  have event := exec_drain_window live hb closing on good goes stays stands
  rw [waits, if_neg Bool.false_ne_true, leaveBand_eq] at event
  have quiet := (quiet_performs (s.bandAgents b) s).1
  have queues := s.q_performs (s.bandAgents b)
  have launches := (s.releases_performs (s.bandAgents b)).launches
  generalize s.performs (s.bandAgents b) = t at event quiet queues launches
  obtain ⟨rows, clos⟩ := t.relatchOut_band b
  obtain ⟨_, out⟩ := t.onClusters_relatchOut b
  refine ⟨_, _, event, launchNow_band live ?_ _, ?_, rfl, rfl, rfl, rows, clos.trans closing, fun cl => ?_,
    fun inside => ⟨?_, ?_⟩⟩
  · rw [out]
    exact launches
  · rw [out]
    exact quiet
  · exact (t.q_relatchOut b cl).trans (queues cl)
  · intro cl hcl
    have dropped : t.relatchOut b = (t.dropBases b, b.dropLatches) := if_pos (Option.isSome_iff_ne_none.2 inside)
    show ∀ a, (((t.relatchOut b).1.cluster cl).ag a).bases = []
    rw [dropped]
    exact (unlatched_foldl_dropBases (.inl hcl)).ag
  · intro v hv c hc
    have dropped : (t.relatchOut b).2 = b.dropLatches := by rw [relatchOut, if_pos (Option.isSome_iff_ne_none.2 inside)]
    rw [leftBand, dropped] at hv
    exact (b.dropLatches_spec.2.1 v hv c hc).ag

/-- A RESIDENT or DRAINED row is saved (R356). -/
theorem drain_saves (leaving : b.leaving = true) (scroll : b.scroll = true) {r : Nat}
    (next : b.byPosition.find? b.unkept = some r) {image : List Byte} {s' : State} (fresh : (b.row r).st ≠ .saving)
    (save : s.saveRow l b r = .ok image s') :
    ∃ u y v, exec (.drainWindowExpiry job lid) s = .next u ∧ launchNow s u job lid { l with band := some y } ∧
      y.savedOf (b.stageAt r).1 = some v ∧ v.image = image ∧ v.wave = (b.stageAt r).2 ∧ v.check = true ∧
      v.row = (b.rowClusters r).map s.cluster ∧
      (r < b.rows.length → (b.row r).st = .resident → y.row r = { b.row r with st := .empty, resumed := true }) ∧
      (r < b.rows.length → (b.row r).st = .drained → y.row r = ⟨.empty, (b.row r).p + b.height, 0, false, false, false, []⟩) := by
  have event := exec_drain_row live hb closing on good goes stays leaving scroll next
  exact ⟨_, _, s.keptRow b r image, event.trans (keepOne_saved fresh save),
    launchNow_band live ((launches_performAll _ _).trans (launches_saveRow save)) _,
    savedOf_keptBand b r (s.keptRow b r image), rfl, rfl, rfl, rfl,
    fun h resident => row_keptBand_resident h resident _, fun h drained => row_keptBand_drained h drained _⟩

/-- A SAVING row completes its save (R356). -/
theorem drain_vacates (leaving : b.leaving = true) (scroll : b.scroll = true) {r : Nat}
    (next : b.byPosition.find? b.unkept = some r) (saving : (b.row r).st = .saving) (wrote : (b.row r).wrote = true)
    (h : r < b.rows.length) :
    ∃ u y, exec (.drainWindowExpiry job lid) s = .next u ∧ launchNow s u job lid { l with band := some y } ∧
      y.row r = ⟨.empty, (b.row r).p + b.height, 0, false, false, false, []⟩ :=
  ⟨_, _, (exec_drain_row live hb closing on good goes stays leaving scroll next).trans (keepOne_saving saving wrote),
    launchNow_band live (launches_performAll _ _) _, row_vacate h⟩

/-- A line of the context is written (R66, R321, R346). -/
theorem drain_writes {j : Job} {e pa : Nat} {x : Xlate} {tlb : List Xlate} {s' : State} (leaving : b.leaving = true)
    (saved : ∀ r, r < b.height → b.scroll = true → b.unkept r = false) (more : b.ctxDone < b.ctxLines)
    (hj : s.job job = some j) (mine : l.job = job) (he : l.entry = some e)
    (found : s.translate (s.jobCtx j) [] 0 needStore s.jobCheck ((j.ctxbase + j.ctxper * e + 128 * b.ctxDone) % 2 ^ 64) =
      .ok pa x tlb s')
    (hbm : windowOf pa = .hbm) (room : max (s'.homeClock (pkgOf pa)) ((s'.line (lineOf pa)).rts + 1) ≤ 0xFFFFFF) :
    ∃ u, exec (.drainWindowExpiry job lid) s = .next u ∧
      launchNow s u job lid { l with band := some { b with ctxDone := b.ctxDone + 1 } } ∧
      ∀ a, a < pa ∨ pa + 128 ≤ a → u.mem.read a = s'.mem.read a := by
  have event := exec_drain_context live hb closing on good goes stays leaving (Band.find_unkept_none saved)
  obtain ⟨t, move, launches, mem⟩ := moveContext_write (mine ▸ hj) he found hbm room
  rw [if_pos more, move] at event
  exact ⟨_, event, launchNow_band live launches _, mem⟩

/-- The band is given up (R346). -/
theorem drain_suspends (leaving : b.leaving = true) (saved : ∀ r, r < b.height → b.scroll = true → b.unkept r = false)
    (all : b.ctxLines ≤ b.ctxDone) :
    ∃ u y ctx, exec (.drainWindowExpiry job lid) s = .next u ∧ launchNow s u job lid { l with band := some y } ∧
      y.context = some ctx ∧ y.closing = false ∧ y.leaving = false ∧ y.resume = false ∧ ctx.length = b.height ∧
      (∀ (r : Nat) (row : List Cluster), ctx[r]? = some row → row = (b.rowClusters r).map s.cluster) ∧
      u.Quiet (s.bandAgents b) ∧ ∀ cl ∈ b.clusters, (u.cluster cl).launch = none := by
  have event := exec_drain_context live hb closing on good goes stays leaving (Band.find_unkept_none saved)
  rw [if_neg (Nat.not_lt.2 all)] at event
  obtain ⟨banks, released⟩ := s.releaseBand_spec on
  obtain ⟨_, freed⟩ := (s.performs (s.bandAgents b)).onClusters_freeClusters b
  refine ⟨_, _, (List.range b.height).map (s.rowState b), event, launchNow_band live ?_ _, rfl, rfl, rfl, rfl, by simp,
    fun r row at_r => ?_, ?_, fun cl hcl => ?_⟩
  · rw [released, freed]
    exact (s.releases_performs (s.bandAgents b)).launches
  · rw [List.getElem?_map, Option.map_eq_some_iff] at at_r
    obtain ⟨q, hq, rfl⟩ := at_r
    obtain ⟨_, rfl⟩ := List.getElem?_eq_some_iff.1 hq
    rw [List.getElem_range]
    rfl
  · show (s.releaseBand b).Quiet _
    rw [released, freed]
    exact (quiet_performs (s.bandAgents b) s).1
  · show ((s.releaseBand b).cluster cl).launch = none
    rw [released]
    exact launch_freeClusters _ hcl

end

end State

end Sys2Proof.Machine

end

/-! # O56: a suspended launch that takes a band -/

section
open Sys2Proof Sys2Proof.Machine Sys2Proof.Claims
namespace Sys2Proof.Machine

namespace State

/-! ## Clusters of a list changed, in what a look does not see -/

section
variable {β : Type}

/-- t is s but for clusters of a list, of which it leaves what look sees. -/
def OnlyIn (cls : List Nat) (look : Cluster → β) (s t : State) : Prop :=
  s.OnClusters t ∧ (∀ cl, cl ∉ cls → t.cluster cl = s.cluster cl) ∧ ∀ cl, look (t.cluster cl) = look (s.cluster cl)

namespace OnlyIn

variable {cls : List Nat} {look : Cluster → β} {s t u : State}

theorem refl (cls : List Nat) (look : Cluster → β) (s : State) : OnlyIn cls look s s := ⟨.refl s, fun _ _ => rfl, fun _ => rfl⟩

theorem trans (h : OnlyIn cls look s t) (k : OnlyIn cls look t u) : OnlyIn cls look s u :=
  ⟨h.1.trans k.1, fun cl out => (k.2.1 cl out).trans (h.2.1 cl out), fun cl => (k.2.2 cl).trans (h.2.2 cl)⟩

theorem foldl {α : Type} {F : State → α → State} {l : List α} (hF : ∀ x ∈ l, ∀ s, OnlyIn cls look s (F s x)) (s : State) :
    OnlyIn cls look s (l.foldl F s) :=
  List.foldlRecOn (motive := OnlyIn cls look s) l F (refl cls look s) fun t h x hx => h.trans (hF x hx t)

theorem onCluster {cl : Nat} (hcl : cl ∈ cls) {f : Cluster → Cluster} (hf : ∀ c, look (f c) = look c) (s : State) :
    OnlyIn cls look s (s.onCluster cl f) := by
  refine ⟨.onCluster s cl f, fun e he => cluster_onCluster_ne _ _ _ _ fun h => he (h ▸ hcl), fun e => ?_⟩
  by_cases h : e = cl
  · rw [h, cluster_onCluster, hf]
  · rw [cluster_onCluster_ne _ _ _ _ h]

end OnlyIn

end

end State

/-- What of a cluster is not its leaf store. -/
def Cluster.aside (c : Cluster) : Cluster := { c with leaf := [], lines := [] }

theorem Cluster.aside_copyLine (c old : Cluster) (l : Nat) : (c.copyLine old l).aside = c.aside := rfl

theorem Cluster.launch_scanIn (c old : Cluster) : (c.scanIn old).launch = c.launch := by
  have lines (d o : Cluster) (ls : List Nat) : (ls.foldl (fun c l => c.copyLine o l) d).launch = d.launch :=
    List.foldlRecOn (motive := fun c : Cluster => c.launch = d.launch) ls _ rfl fun _ h _ _ => h
  have slots (d o : Cluster) (ks : List Nat) : (ks.foldl (fun c k =>
      let t := o.tile k
      ((upFrom t.base t.lcount).foldl (fun c l => c.copyLine o l) c).setTile k t) d).launch = d.launch :=
    List.foldlRecOn (motive := fun c : Cluster => c.launch = d.launch) ks _ rfl fun c h k _ => (lines c o _).trans h
  exact (lines _ _ _).trans (slots _ _ _)

/-- A cluster with the ports of another (R347). -/
def Cluster.withPorts (c old : Cluster) : Cluster := { c with ports := old.ports }

/-- A cluster that a launch takes (R273). -/
def Cluster.taken (l : Launch) (c : Cluster) : Cluster := { c.freed with launch := some (l.job, l.id) }

namespace Band

variable {b : Band}

theorem mem_rowClusters {r c : Nat} (h : c < b.width) : (b.rowClusters r)[c]? = some (b.cluster r c) := by
  simp [rowClusters, h]

theorem rowClusters_subset {r : Nat} (h : r < b.height) {cl : Nat} (hcl : cl ∈ b.rowClusters r) : cl ∈ b.clusters :=
  List.mem_flatten.2 ⟨_, List.mem_map.2 ⟨r, List.mem_range.2 h, rfl⟩, hcl⟩

theorem nodup_rowClusters (nd : b.clusters.Nodup) {r : Nat} (h : r < b.height) : (b.rowClusters r).Nodup :=
  (List.nodup_flatten.1 nd).1 _ (List.mem_map.2 ⟨r, List.mem_range.2 h, rfl⟩)

theorem rowClusters_disjoint (nd : b.clusters.Nodup) {r q : Nat} (hr : r < b.height) (hq : q < b.height) (other : q ≠ r)
    {cl : Nat} (hcl : cl ∈ b.rowClusters r) : cl ∉ b.rowClusters q := by
  have apart := List.pairwise_map.1 (List.nodup_flatten.1 nd).2
  have symmetric : Std.Symm fun q r => (b.rowClusters q).Disjoint (b.rowClusters r) := ⟨fun _ _ h => h.symm⟩
  have two := apart.forall (List.mem_range.2 hr) (List.mem_range.2 hq) (Ne.symm other)
  exact fun h => two hcl h

/-- A cluster that a band places is one of it. -/
theorem mem_of_place {cl : Nat} {p : Nat × Nat} (h : b.place cl = some p) : cl ∈ b.clusters := by
  obtain ⟨r, hr, at_r⟩ := List.exists_of_findSome?_eq_some h
  obtain ⟨c, hc, _⟩ := Option.map_eq_some_iff.1 at_r
  refine rowClusters_subset (List.mem_range.1 hr) (r := r) ?_
  exact List.isSome_idxOf?.1 (by rw [hc]; rfl)

end Band

namespace State

variable {s : State}

/-! ## Rows laid over those of a band -/

theorem cluster_zip_ne {f : Cluster → Cluster → Cluster} {cls : List Nat} {olds : List Cluster} {cl : Nat} (h : cl ∉ cls)
    (s : State) : ((cls.zip olds).foldl (fun s (cl, o) => s.onCluster cl fun c => f c o) s).cluster cl = s.cluster cl :=
  foldl_look (look := fun u => u.cluster cl) (fun p hp _ => cluster_onCluster_ne _ _ _ _
    fun (e : cl = p.1) => h (e ▸ (List.of_mem_zip hp).1)) s

theorem cluster_zip {f : Cluster → Cluster → Cluster} {cls : List Nat} {olds : List Cluster} (nd : cls.Nodup) {c cl : Nat}
    {x : Cluster} (hcl : cls[c]? = some cl) (hx : olds[c]? = some x) (s : State) :
    ((cls.zip olds).foldl (fun s (cl, o) => s.onCluster cl fun c => f c o) s).cluster cl = f (s.cluster cl) x := by
  induction cls generalizing c olds s with
  | nil => cases hcl
  | cons d ds ih =>
    obtain ⟨fresh, nd⟩ := List.nodup_cons.1 nd
    cases olds with
    | nil => cases hx
    | cons y ys =>
      rw [List.zip_cons_cons, List.foldl_cons]
      cases c with
      | zero =>
        cases hcl
        cases hx
        rw [cluster_zip_ne fresh]
        exact s.cluster_onCluster ..
      | succ c =>
        rw [List.getElem?_cons_succ] at hcl hx
        have other : cl ≠ d := fun e => fresh (e ▸ List.mem_of_getElem? hcl)
        rw [ih nd hcl hx, cluster_onCluster_ne _ _ _ _ other]

theorem cluster_overlay {b : Band} {f : Cluster → Cluster → Cluster} {r c : Nat} {row : List Cluster} {x : Cluster}
    (nd : (b.rowClusters r).Nodup) (hc : c < b.width) (hx : row[c]? = some x) (s : State) :
    (s.overlay b r row f).cluster (b.cluster r c) = f (s.cluster (b.cluster r c)) x :=
  cluster_zip nd (Band.mem_rowClusters hc) hx s

theorem cluster_overlay_ne {b : Band} {f : Cluster → Cluster → Cluster} {r cl : Nat} {row : List Cluster}
    (h : cl ∉ b.rowClusters r) (s : State) : (s.overlay b r row f).cluster cl = s.cluster cl := cluster_zip_ne h s

theorem onlyIn_overlay {β : Type} {look : Cluster → β} {b : Band} {f : Cluster → Cluster → Cluster} {r : Nat} {row : List Cluster}
    (hr : r < b.height) (hf : ∀ c o, look (f c o) = look c) (s : State) :
    OnlyIn b.clusters look s (s.overlay b r row f) :=
  .foldl (fun p hp t => .onCluster (Band.rowClusters_subset hr (List.of_mem_zip hp).1) (fun c => hf c p.2) t) s

/-- One row of a context scanned in; the ports as they were (R347). -/
def scanRow (old new : Band) (s : State) (p : List Cluster × Nat) : State :=
  (if old.scroll && (old.row p.2).st ≠ .saving then s else s.overlay new p.2 p.1 Cluster.scanIn).overlay new p.2 p.1
    Cluster.withPorts

theorem onlyIn_scanRow (old : Band) {new : Band} {p : List Cluster × Nat} (h : p.2 < new.height) (s : State) :
    OnlyIn new.clusters Cluster.launch s (scanRow old new s p) := by
  refine .trans (t := if old.scroll && (old.row p.2).st ≠ .saving then s else s.overlay new p.2 p.1 Cluster.scanIn) ?_
    (onlyIn_overlay (f := Cluster.withPorts) h (fun _ _ => rfl) _)
  split
  · exact .refl ..
  · exact onlyIn_overlay h Cluster.launch_scanIn s

/-- A context scanned in row by row. -/
def scanRows (s : State) (old new : Band) (ctx : List (List Cluster)) : State := ctx.zipIdx.foldl (scanRow old new) s

theorem index_lt {ctx : List (List Cluster)} {p : List Cluster × Nat} (h : p ∈ ctx.zipIdx) : p.2 < ctx.length := by
  obtain ⟨row, r⟩ := p
  exact (List.getElem?_eq_some_iff.1 (List.mem_zipIdx_iff_getElem?.1 h)).1

theorem onlyIn_scanRows (s : State) (old : Band) {new : Band} {ctx : List (List Cluster)} (h : ctx.length ≤ new.height) :
    OnlyIn new.clusters Cluster.launch s (s.scanRows old new ctx) :=
  .foldl (fun _ hp t => onlyIn_scanRow old (Nat.lt_of_lt_of_le (index_lt hp) h) t) s

/-- A cluster of a pinned band with its context (R347). -/
theorem cluster_scanRows {old new : Band} {ctx : List (List Cluster)} (h : ctx.length ≤ new.height) (pinned : old.scroll = false)
    (nd : new.clusters.Nodup) {r c : Nat} {row : List Cluster} {x : Cluster} (hrow : ctx[r]? = some row) (hx : row[c]? = some x)
    (hc : c < new.width) (s : State) : (s.scanRows old new ctx).cluster (new.cluster r c) =
      ((s.cluster (new.cluster r c)).scanIn x).withPorts x := by
  have hr : r < new.height := Nat.lt_of_lt_of_le (List.getElem?_eq_some_iff.1 hrow).1 h
  have rows := Band.nodup_rowClusters nd hr
  have keys : ctx.zipIdx.Nodup := List.Nodup.of_map Prod.snd (List.nodup_zipIdx_map_snd ctx)
  have mine : new.cluster r c ∈ new.rowClusters r := List.mem_of_getElem? (Band.mem_rowClusters hc)
  refine foldl_look_once (look := fun u : State => u.cluster (new.cluster r c)) (f := fun c => (c.scanIn x).withPorts x)
    (x := (row, r)) (List.mem_zipIdx_iff_getElem?.2 hrow) keys (fun t => ?_) (fun p hp ne t => ?_) s
  · rw [scanRow, if_neg (by simp [pinned]), cluster_overlay rows hc hx, cluster_overlay rows hc hx]
  · have other : p.2 ≠ r := fun e => ne (by
      obtain ⟨q, r'⟩ := p
      cases e
      exact Prod.ext (Option.some.inj ((List.mem_zipIdx_iff_getElem?.1 hp).symm.trans hrow)) rfl)
    have out := Band.rowClusters_disjoint nd hr (Nat.lt_of_lt_of_le (index_lt hp) h) other mine
    rw [scanRow, cluster_overlay_ne out]
    split
    · rfl
    · rw [cluster_overlay_ne out]

theorem onlyIn_carryLeaf (s : State) (old new : Band) (ctx : List (List Cluster)) :
    OnlyIn new.clusters Cluster.aside s (s.carryLeaf old new ctx) := by
  unfold carryLeaf
  refine .foldl (fun p _ t => .foldl (fun q _ t => .foldl (fun l _ t => ?_) t) t) s
  dsimp only
  split
  · exact .onCluster (Band.mem_of_place ‹_›) (fun c => c.aside_copyLine _ _) t
  · exact .refl ..

/-! ## The launch on its new band (R49, R265, R347) -/

/-- Runs of lines that are looked up by walks. -/
theorem lineSteps_streamLine {ctx : Ctx} {need : Need} {ok : Xlate → Nat → Option (Code × Nat)} {line : Nat} {s t : State} :
    (∀ pa, s.streamLine ctx need ok line = .ok pa t → s.LineSteps t) ∧
      (s.streamLine ctx need ok line = .bad t → s.LineSteps t) := by
  have walked := (LineSteps.refl s).translate ctx [] 0 need ok (line % 2 ^ 57 * 128 % 2 ^ 64)
  constructor
  · intro pa h
    rw [streamLine] at h
    split at h
    · split at h
      · cases h
        exact walked.1 _ _ _ _ ‹_›
      · cases h
    · cases h
    · cases h
  · intro h
    rw [streamLine] at h
    split at h
    · split at h
      · cases h
      · cases h
        exact walked.1 _ _ _ _ ‹_›
    · cases h
    · cases h
      exact .refl _

theorem lineSteps_lineRuns {ctx : Ctx} {fuel line k : Nat} {s t : State} :
    (∀ runs, s.lineRuns ctx line k fuel = .ok runs t → s.LineSteps t) ∧
      (s.lineRuns ctx line k fuel = .bad t → s.LineSteps t) := by
  induction fuel generalizing s line k with
  | zero => exact ⟨fun runs h => by cases h; exact .refl _, nofun⟩
  | succ fuel ih =>
    rw [lineRuns]
    split
    · exact ⟨fun runs h => by cases h; exact .refl _, nofun⟩
    · dsimp only
      split
      · exact ⟨nofun, nofun⟩
      · rename_i gone
        have first := lineSteps_streamLine.2 gone
        exact ⟨fun runs h => first.trans (ih.1 runs h), fun h => first.trans (ih.2 h)⟩
      · rename_i found
        have first := lineSteps_streamLine.1 _ found
        constructor
        · intro runs h
          split at h
          · rename_i rest
            split at h
            · cases h
              exact first.trans (ih.1 _ rest)
            · cases h
              exact first.trans (ih.1 _ rest)
          · rename_i rest
            cases h
            exact first.trans (ih.1 _ rest)
          · exact first.trans (ih.1 _ h)
        · intro h
          split at h
          · split at h <;> cases h
          · cases h
          · exact first.trans (ih.2 h)

/-- The ranges of a launch entered in a region table change no launch and no cluster. -/
theorem enterRegions_frame {j : Job} {l : Launch} {bank : Nat} {rs : List (Nat × Nat × Nat)} {s t : State} :
    (s.enterRegions j l bank rs = .ok () t → t.launches = s.launches ∧ t.clusters = s.clusters) := by
  induction rs generalizing s with
  | nil =>
    intro h
    cases h
    exact ⟨rfl, rfl⟩
  | cons r rs ih =>
    intro h
    rw [enterRegions] at h
    split at h
    · cases h
    · rename_i gone
      have runs := lineSteps_lineRuns.2 gone
      obtain ⟨launches, clusters⟩ := ih h
      exact ⟨launches.trans runs.launches, clusters.trans runs.clusters⟩
    · rename_i found
      have runs := lineSteps_lineRuns.1 _ found
      obtain ⟨launches, clusters⟩ := ih h
      exact ⟨launches.trans runs.launches, clusters.trans runs.clusters⟩

theorem reenter_frame {j : Job} {l : Launch} {b : Band} {s t : State} (h : s.reenter j l b = .ok () t) :
    t.launches = s.launches ∧ t.clusters = s.clusters := by
  rw [reenter] at h
  split at h
  · cases h
    exact ⟨rfl, rfl⟩
  · exact enterRegions_frame h

/-- A band of a pre-empted launch put where another one lies (R347). -/
def movedBand (old at' : Band) : Band :=
  let new := { old with
    tower := at'.tower, layer := at'.layer, x := at'.x, y := at'.y, context := none, resume := false, ctxLines := 0, ctxDone := 0 }
  { new with asked := new.demands }

/-- The launch on its new band before its context is scanned in (R265, R273). -/
def takeNew (s : State) (l : Launch) (new : Band) : State := (s.reserve new.asked false).takeBand l new

theorem cluster_takeNew (s : State) (l : Launch) (new : Band) (cl : Nat) :
    (s.takeNew l new).cluster cl = if cl ∈ new.clusters then (s.cluster cl).taken l else s.cluster cl := by
  obtain ⟨banks, e⟩ := s.reserve_frame new.asked false
  rw [takeNew, e]
  exact cluster_foldl_onCluster (f := Cluster.taken l) (fun _ => rfl) new.clusters { s with banks := banks } cl

theorem launches_takeNew (s : State) (l : Launch) (new : Band) : (s.takeNew l new).launches = s.launches := by
  obtain ⟨banks, e⟩ := s.reserve_frame new.asked false
  rw [takeNew, e]
  exact (OnClusters.foldl (F := fun s cl => s.onCluster cl (Cluster.taken l)) (fun s cl => .onCluster s cl _) new.clusters
    { s with banks := banks }).launches

/-- The state as a pre-empted launch stands on its new band, but for its record (R347). -/
def scannedIn (s : State) (l : Launch) (old new : Band) (ctx : List (List Cluster)) : State :=
  (((s.takeNew l new).scanRows old new ctx).carryLeaf old new ctx).moveFaults l old new

theorem reinstate_eq {s s2 : State} {j : Job} {l : Launch} {old at' : Band} {ctx : List (List Cluster)}
    (hctx : old.context = some ctx) (entered : (s.dropRegions l.job l.id).reenter j l (movedBand old at') = .ok () s2) :
    s.reinstate j l old at' =
      (s2.scannedIn l old (movedBand old at') ctx).setLaunch { l with band := some (movedBand old at') } := by
  unfold reinstate
  dsimp only
  split
  · rename_i other
    cases entered.symm.trans other
  · rename_i other
    cases entered.symm.trans other
  · rename_i found
    cases entered.symm.trans found
    rw [hctx]
    rfl

/-- What of the clusters is changed as a context is scanned in. -/
theorem scannedIn_spec {s : State} {l : Launch} {old new : Band} {ctx : List (List Cluster)} (h : ctx.length ≤ new.height) :
    (s.scannedIn l old new ctx).launches = s.launches ∧
      (∀ cl ∈ new.clusters, ((s.scannedIn l old new ctx).cluster cl).launch = some (l.job, l.id)) ∧
      ∀ cl, cl ∉ new.clusters → (s.scannedIn l old new ctx).cluster cl = s.cluster cl := by
  have rows := onlyIn_scanRows (s.takeNew l new) old h
  have leaf := onlyIn_carryLeaf ((s.takeNew l new).scanRows old new ctx) old new ctx
  refine ⟨?_, fun cl hcl => ?_, fun cl out => ?_⟩
  · exact (leaf.1.launches.trans rows.1.launches).trans (s.launches_takeNew l new)
  · show ((((s.takeNew l new).scanRows old new ctx).carryLeaf old new ctx).cluster cl).launch = _
    have kept := congrArg Cluster.launch (leaf.2.2 cl)
    refine (show _ = _ from kept).trans ((rows.2.2 cl).trans ?_)
    rw [cluster_takeNew, if_pos hcl]
    rfl
  · show (((s.takeNew l new).scanRows old new ctx).carryLeaf old new ctx).cluster cl = _
    rw [leaf.2.1 cl out, rows.2.1 cl out, cluster_takeNew, if_neg out]

/-- A cluster of a pinned band as its context is scanned in (R347). -/
theorem scannedIn_pinned {s : State} {l : Launch} {old new : Band} {ctx : List (List Cluster)} (h : ctx.length ≤ new.height)
    (pinned : old.scroll = false) (nd : new.clusters.Nodup) {r c : Nat} {row : List Cluster} {x : Cluster}
    (hrow : ctx[r]? = some row) (hx : row[c]? = some x) (hc : c < new.width) :
    let y := (s.scannedIn l old new ctx).cluster (new.cluster r c)
    y.q = x.q.mapVals (fun ts => ts.filter fun t => t.kind ≠ 7) ∧ y.cfg = x.cfg ∧ y.flags = x.flags ∧ y.ports = x.ports := by
  have leaf := (onlyIn_carryLeaf ((s.takeNew l new).scanRows old new ctx) old new ctx).2.2 (new.cluster r c)
  rw [cluster_scanRows h pinned nd hrow hx hc] at leaf
  have q := congrArg Cluster.q leaf
  have cfg := congrArg Cluster.cfg leaf
  have flags := congrArg Cluster.flags leaf
  have ports := congrArg Cluster.ports leaf
  exact ⟨q, cfg, flags, ports⟩

section
variable {job lid : Nat} {l : Launch} {j : Job} {old b : Band} {ctx : List (List Cluster)} {s : State}
  (live : s.live job lid = some l) (hj : s.job job = some j) (hold : l.band = some old) (hctx : old.context = some ctx)
  (seeks : l.seeks = true) (turn : s.turnOf l = true) (place : s.findBand l = some b)
  (legal : s.demandFault b.demands = none) (fits : s.demandFits b.demands = true)
include live hj hold hctx seeks turn place legal fits

theorem exec_resumePlace : exec (.launchResumePlace job lid) s =
    if old.ctxDone < old.ctxLines then s.moveContext l old false else .next (s.reinstate j l old b) := by
  change execLaunchResumePlace job lid s = _
  simp only [execLaunchResumePlace, live, hj, hold]
  rw [if_neg (by simp [hctx, seeks, turn])]
  simp only [place, legal]
  rw [if_neg (by simp [fits])]

/-- The launch takes the band (R347). -/
theorem resume_places {s2 : State} (h : ctx.length ≤ old.height) (all : old.ctxLines ≤ old.ctxDone)
    (entered : (s.dropRegions job lid).reenter j l (movedBand old b) = .ok () s2) :
    ∃ u, exec (.launchResumePlace job lid) s = .next u ∧ launchNow s u job lid { l with band := some (movedBand old b) } ∧
      (∀ cl ∈ (movedBand old b).clusters, (u.cluster cl).launch = some (job, lid)) ∧
      (∀ cl, cl ∉ (movedBand old b).clusters → u.cluster cl = s.cluster cl) ∧
      (old.scroll = false → (movedBand old b).clusters.Nodup → ∀ (r c : Nat) row x, ctx[r]? = some row → row[c]? = some x →
        c < (movedBand old b).width →
        let y := u.cluster ((movedBand old b).cluster r c)
        y.q = x.q.mapVals (fun ts => ts.filter fun t => t.kind ≠ 7) ∧ y.cfg = x.cfg ∧ y.flags = x.flags ∧ y.ports = x.ports) := by
  have event := exec_resumePlace live hj hold hctx seeks turn place legal fits
  obtain ⟨_, rfl, rfl, _⟩ := live_spec live
  obtain ⟨launches, clusters⟩ := reenter_frame entered
  have before (cl : Nat) : s2.cluster cl = s.cluster cl := by rw [cluster, clusters]; rfl
  have tall : ctx.length ≤ (movedBand old b).height := h
  obtain ⟨same, mine, others⟩ := scannedIn_spec (s := s2) (l := l) (old := old) tall
  rw [if_neg (Nat.not_lt.2 all), reinstate_eq hctx entered] at event
  exact ⟨_, event, launchNow_band live (same.trans launches) _, mine, fun cl out => (others cl out).trans (before cl),
    fun pinned nd r c row x hrow hx hc => scannedIn_pinned tall pinned nd hrow hx hc⟩

/-- A line of the context is read (R66, R321, R347). -/
theorem resume_reads {e pa : Nat} {x : Xlate} {tlb : List Xlate} {s' : State} (more : old.ctxDone < old.ctxLines)
    (he : l.entry = some e)
    (found : s.translate (s.jobCtx j) [] 0 needLoad s.jobCheck ((j.ctxbase + j.ctxper * e + 128 * old.ctxDone) % 2 ^ 64) =
      .ok pa x tlb s') :
    ∃ u, exec (.launchResumePlace job lid) s = .next u ∧ u.mem = s'.mem ∧
      launchNow s u job lid { l with band := some { old with ctxDone := old.ctxDone + 1 } } := by
  have event := exec_resumePlace live hj hold hctx seeks turn place legal fits
  have mine : s.job l.job = some j := by rwa [(live_spec live).2.1]
  have walked := ((LineSteps.refl s).translate ..).1 _ _ _ _ found
  rw [if_pos more, moveContext_eq mine he, if_neg Bool.false_ne_true] at event
  simp only [jobRead, found] at event
  split at event
  · refine ⟨_, event, (Moves.logPa s' 4 pa).mem, launchNow_band live ?_ _⟩
    exact (((LineSteps.refl s').logPa 4 pa).launches).trans walked.launches
  · refine ⟨_, event, (Keeps.homeLoad s' pa 128).mem, launchNow_band live ?_ _⟩
    exact (((LineSteps.refl s').homeLoad pa 128).launches).trans walked.launches

end

end State

end Sys2Proof.Machine

end

/-! # O56: pre-emption and control -/

section
open Sys2Proof Sys2Proof.Machine Sys2Proof.Claims
namespace Sys2Proof.Machine
namespace State

variable {s : State}

/-- A core that leaves its halt, as it is released (R238, R345). -/
theorem release_core {n : Nat} (asked : s.coreRequest 4 n = true) : ∃ u, exec (.releaseCore n) s = .next u ∧
    ((∀ m, m ≠ n → u.core m = s.core m) ∧ bitAt u.regs.preempt 63 = false ∧ u.mem = s.mem) ∧
    { u.core n with chans := (s.core n).chans } =
      { s.core n with halted := false, relatch := (s.core n).relatch.map fun _ => s.relatching (s.core n).asid } ∧
    ∀ k, (u.core n).chan k = ((s.core n).chan k).released := by
  obtain ⟨mine, others, done, mem⟩ := s.core_request n { (s.core n).released with
    relatch := (s.core n).relatch.map fun _ => s.relatching (s.core n).asid }
  refine ⟨_, exec_releaseCore asked, ⟨others, done, mem⟩, ?_, fun k => ?_⟩
  · rw [mine]
    rfl
  · rw [mine]
    exact (s.core n).chan_released k

/-- A start task begins on a halted core (R242). -/
theorem start_core {n : Nat} (asked : s.coreRequest 7 n = true) (halted : (s.core n).halted = true)
    (free : (s.core n).task = .none) : ∃ u, exec (.startCore n) s = .next u ∧
    ((∀ m, m ≠ n → u.core m = s.core m) ∧ bitAt u.regs.preempt 63 = false ∧ u.mem = s.mem) ∧
    (u.core n).task = .start ∧ (u.core n).halted = false ∧ (u.core n).pc = (s.core n).pc ∧ (u.core n).priv = (s.core n).priv ∧
    (∀ k, (u.core n).chan k = ((s.core n).chan k).released) ∧
    ∀ r : Reg, (u.core n).get r = if r = 1 ∨ r = 2 then 0 else (s.core n).get r := by
  obtain ⟨mine, others, done, mem⟩ := s.core_request n ({ (s.core n).released with task := .start }.putList 1 [0, 0])
  obtain ⟨g, kept, regs⟩ := Core.putList_zeros { (s.core n).released with task := .start }
  refine ⟨_, exec_startCore asked halted free, ⟨others, done, mem⟩, ?_⟩
  rw [mine]
  refine ⟨?_, ?_, ?_, ?_, fun k => ?_, regs⟩
  all_goals rw [kept]
  any_goals rfl
  exact (s.core n).chan_released k

end State
end Sys2Proof.Machine

/-- Settles O56: each event's next state is written out above; the clauses are read off it. -/
theorem preemptionAndControl : Obligations.PreemptionAndControl := by
  unfold Obligations.PreemptionAndControl
  intro s job lid ids asks done
  refine ⟨fun asked free nd => State.preempt_job asked free nd, State.exec_preemptJob_not, ?_,
    fun asked nd => State.resume_job asked nd, State.exec_resumeJob_not, ?_, ?_, ?_, fun no => ?_, fun no => ?_, ?_⟩
  · intro l b live hb
    refine ⟨State.exec_drain_not live hb, fun closing on good goes stays => ?_⟩
    intro s1 quiet saved bandNow
    refine ⟨fun stands => ⟨?_, fun all => ?_, fun waits => ?_⟩, fun r leaving scroll next => ?_, ?_, fun leaving kept all => ?_⟩
    · exact (State.quiet_performs (s.bandAgents b) s).1.of_band
    · rw [State.exec_drain_window live hb closing on good goes stays stands]
      exact congrArg Host.Outcome.next (if_pos all)
    · obtain ⟨u, y, event, now, still, rest⟩ := State.drain_leaves live hb closing on good goes stays stands waits
      exact ⟨u, y, event, now, still.of_band, rest⟩
    · exact ⟨fun image s' fresh save => State.drain_saves live hb closing on good goes stays leaving scroll next fresh save,
        fun saving wrote h => State.drain_vacates live hb closing on good goes stays leaving scroll next saving wrote h⟩
    · intro j e pa x tlb s' leaving kept more hj mine he found hbm room
      exact State.drain_writes live hb closing on good goes stays leaving kept more hj mine he found hbm room
    · obtain ⟨u, y, ctx, event, now, context, clos, left, resume, tall, rows, still, free⟩ :=
        State.drain_suspends live hb closing on good goes stays leaving kept all
      exact ⟨u, y, ctx, event, now, context, clos, left, resume, tall, rows, still.of_band, free⟩
  · intro l j old ctx b s2 live hj hold hctx tall seeks turn place legal fits new
    exact ⟨fun all entered => State.resume_places live hj hold hctx seeks turn place legal fits tall all entered,
      fun e pa x tlb s' more mine he found => State.resume_reads live hj hold hctx seeks turn place legal fits more he found⟩
  · intro n c only begun
    refine ⟨fun asked idle => ?_, fun h => State.exec_haltCore_not (.inr h), fun asked => ?_, fun asked halted free => ?_,
      fun h => State.exec_haltCore_not (.inl h), State.exec_releaseCore_not, State.exec_startCore_not⟩
    · obtain ⟨mine, others, clear, mem⟩ := s.core_request n { s.core n with halted := true, burst := none }
      exact ⟨_, State.exec_haltCore asked idle, mine, others, clear, mem⟩
    · obtain ⟨u, event, frame, core, chans⟩ := State.release_core asked
      exact ⟨u, event, frame, core, fun k => by rw [chans]; exact ⟨rfl, rfl⟩⟩
    · obtain ⟨u, event, frame, task, halted, pc, priv, chans, regs⟩ := State.start_core asked halted free
      exact ⟨u, event, frame, task, halted, pc, priv, fun k => by rw [chans]; exact ⟨rfl, rfl⟩, regs⟩
  · intro l b live hb target
    refine ⟨fun asked => ?_, fun asked => ?_⟩
    · refine ⟨_, congrArg Host.Outcome.next (State.freeze_asked asked target live), State.requestDone_spec _, rfl, ?_⟩
      exact State.launchNow_onBand live hb rfl fun b => { b with frozen := true }
    · refine ⟨_, congrArg Host.Outcome.next (State.freeze_asked asked target live), State.requestDone_spec _, fun cl => ?_, ?_⟩
      · exact State.cluster_dropScan _ s cl
      · exact State.launchNow_onBand live hb (State.OnClusters.foldl (fun s cl => .onCluster s cl _) _ s).launches
          fun b => { b with frozen := false }
  · exact congrArg Host.Outcome.next (State.freeze_not no)
  · exact congrArg Host.Outcome.next (State.freeze_not no)
  · intro tower v ht cluster core
    refine ⟨fun off odd => State.exec_scanWrite_misaligned odd, fun k o hk ho runs => State.scan_core_running ht hk ho runs,
      fun k o hk ho shut => State.scan_cluster_closed ht hk ho shut, fun k r hk halted => ⟨?_, ?_⟩, fun k n hk hn => ?_,
      fun k hk => ?_, fun k n q e hk hn hq he opened => ?_⟩
    · have event := State.scan_core_halted (v := v) ht hk (show 8 * r.toNat < 0x10000 by omega) (by omega) halted
      rw [Core.scanWrite_reg, Core.put_pts] at event
      exact event
    · have event := State.scan_core_halted (v := v) ht hk (show 0x100 < 0x10000 by omega) rfl halted
      refine ⟨_, event, ?_⟩
      rw [State.core_noteClock, State.core_setCore]
      rfl
    · exact State.scan_cluster_readonly ht hk (by omega) (by omega)
    · exact State.scan_core_readonly ht hk (by omega) rfl rfl
    · exact State.scan_entry ht hk hn hq he opened

end

/-! # O10: the partition of a crown bank -/

section
open Sys2Proof Sys2Proof.Machine Sys2Proof.Claims
namespace Sys2Proof.Machine

theorem bits_eq (v : Word) (hi lo : Nat) : bits v hi lo = v.toNat / 2 ^ lo % 2 ^ (hi + 1 - lo) := by
  rw [bits, Nat.shiftRight_eq_div_pow]

/-- The counts of a written value are all zero when their sum is. -/
theorem waypartCounts_eq_zero_iff (v : Word) : waypartCounts v = (0, 0, 0, 0) ↔
    (waypartCounts v).1 + (waypartCounts v).2.1 + (waypartCounts v).2.2.1 + (waypartCounts v).2.2.2 = 0 := by
  simp [waypartCounts]
  omega

/-- A refusal by its three grounds (R57). -/
theorem Bank.rejects_iff (b : Bank) (h r sp sc : Nat) : b.rejects (h, r, sp, sc) = true ↔
    h + r + sp + sc ≠ 16 ∨ b.next.isSome ∨ (sp < b.spill ∧ b.reserved ≠ 0) := by
  simp [Bank.rejects, or_assoc]

namespace State

variable {s t : State} {v : Word}

/-- A write of SYS_WAYPART with privilege and zero ZERO fields completes (R56, R57, R291). -/
theorem waypartExec_of_ok {write : State → Word → State} (hp : s.me.priv = true) (hz : waypartZeroOk v = true) :
    s.waypartExec v write = .next (moved (write s v)) := by
  simp [waypartExec, hp, hz, moved]

/-- What every write of SYS_WAYPART leaves of the acting core: the bank selected, ERR when refused, the PC still at the word (R57). -/
theorem waypartWrite_me (s : State) (v : Word) : (s.waypartWrite v).me = s.me.select v
    (waypartCounts v ≠ (0, 0, 0, 0) && (s.bank (bits v 49 48) (bits v 47 42)).rejects (waypartCounts v)) := by
  by_cases h : waypartCounts v = (0, 0, 0, 0)
  · simp [waypartWrite, h]
  · cases no : (s.bank (bits v 49 48) (bits v 47 42)).rejects (waypartCounts v)
    · simp only [waypartWrite, h, no, if_false, Bool.false_eq_true, Bool.and_false]
      exact s.me_setMe _
    · simp [waypartWrite, h, no]

/-- A write that repartitions nothing: with no counts, or refused (R57). -/
theorem waypartWrite_banks (h : waypartCounts v = (0, 0, 0, 0) ∨
    (s.bank (bits v 49 48) (bits v 47 42)).rejects (waypartCounts v) = true) : (s.waypartWrite v).banks = s.banks := by
  rcases h with h | h
  · simp [waypartWrite, h]
  · simp only [waypartWrite, h, if_true]
    split <;> rfl

theorem waypartWrite_accepted (h : waypartCounts v ≠ (0, 0, 0, 0))
    (yes : (s.bank (bits v 49 48) (bits v 47 42)).rejects (waypartCounts v) = false) :
    (s.waypartWrite v).bank (bits v 49 48) (bits v 47 42) =
      { s.bank (bits v 49 48) (bits v 47 42) with next := some (waypartCounts v) } := by
  simp [waypartWrite, h, yes]

/-- While a repartition is in progress SYS_WAYPART reads BUSY and the accepted counts (R56, R57). -/
theorem waypartWord_busy (hz : waypartZeroOk v = true) {c : Core} (ht : c.wayTower = bits v 49 48) (hk : c.wayBank = bits v 47 42)
    (he : c.wayErr = false) (hn : (s.bank c.wayTower c.wayBank).next = some (waypartCounts v)) :
    s.waypartWord c = BitVec.ofNat 64 (2 ^ 63 + v.toNat % 2 ^ 50) := by
  have zero : v.toNat / 2 ^ 20 % 2 ^ 22 = 0 := ((sysZeroOk_waypart v).1 hz).2
  simp only [waypartWord, hn, he, Option.isSome_some, Option.getD_some, if_true, Bool.false_eq_true, if_false]
  simp only [ht, hk, waypartCounts, bits_eq]
  congr 1
  omega

/-! ## The end of a repartition (R57) -/

theorem LineSteps.foldl {α : Type} {F : State → α → State} (hF : ∀ {t : State} (x : α), s.LineSteps t → s.LineSteps (F t x))
    (h : s.LineSteps t) (l : List α) : s.LineSteps (l.foldl F t) := by
  induction l generalizing t with
  | nil => exact h
  | cons x r ih => exact ih (hF x h)

theorem repartitionDone_spec {t k h r sp sc : Nat} (hn : (s.bank t k).next = some (h, r, sp, sc)) :
    ∃ u, s.LineSteps u ∧ s.repartitionDone t k = State.setBank
      { u with scratch :=
          s.scratch.clear (s.towerId t * 2 ^ 42 + 0x10000000000 + 0x1000000 * k) (0x100000 * (16 - min sc (s.bank t k).scratch)) } t k
        { s.bank t k with home := h, remote := r, spill := sp, scratch := sc, next := none } := by
  let u := ((s.bankLines t k false).filter fun l => h ≤ (s.line l).way).foldl leaveHome s
  let w := ((u.bankLines t k true).filter fun l => !(h ≤ (u.line l).rway && (u.line l).rway < h + r)).foldl leaveRemote u
  have su : s.LineSteps u := (LineSteps.refl s).foldl (fun x h => h.leaveHome x) _
  have uw : s.LineSteps w := su.foldl (fun x h => h.leaveRemote x) _
  refine ⟨w, uw, ?_⟩
  have tower : w.towerId t = s.towerId t := by rw [towerId, towerId, uw.pkg]
  rw [← tower, ← uw.scratch]
  simp only [repartitionDone, hn]
  rfl

end State

end Sys2Proof.Machine

/-- Settles O10: a write of counts by the three outcomes it can have, and a completion from the lines that leave the ways. -/
theorem crownBankPartition : Obligations.CrownBankPartition := by
  unfold Obligations.CrownBankPartition
  intro s a hp v zhi zmid tower bank n b
  have zero : waypartZeroOk (s.me.get a) = true := (sysZeroOk_waypart _).2 ⟨zhi, zmid⟩
  have ht : bits (s.me.get a) 49 48 = tower := bits_eq ..
  have hk : bits (s.me.get a) 47 42 = bank := bits_eq ..
  have counts : waypartCounts (s.me.get a) = (n 0, n 1, n 2, n 3) := by
    simp [waypartCounts, bits_eq, n, v]
  have none_iff := waypartCounts_eq_zero_iff (s.me.get a)
  have banks := State.waypartWrite_banks (s := s) (v := s.me.get a)
  have accepted := State.waypartWrite_accepted (s := s) (v := s.me.get a)
  have me : (moved (s.waypartWrite (s.me.get a))).me = (s.me.select (s.me.get a)
      (waypartCounts (s.me.get a) ≠ (0, 0, 0, 0) && b.rejects (waypartCounts (s.me.get a)))).advance := by
    rw [moved, State.me_setMe, State.waypartWrite_me, ht, hk]
  have refuses := b.rejects_iff (n 0) (n 1) (n 2) (n 3)
  rw [counts] at none_iff banks accepted me
  dsimp only at none_iff
  rw [ht, hk] at banks accepted
  refine ⟨?_, ⟨_, State.waypartExec_of_ok hp zero, ?_⟩, fun q hq h r sp sc hn => ?_⟩
  · have e : exec (.waypartSelect a) s = .next (moved (s.setMe (s.me.select (s.me.get a) false))) :=
      State.waypartExec_of_ok (write := fun s v => s.setMe (s.me.select v false)) hp zero
    rw [e, Core.select, ht, hk]
  · rw [me]
    refine ⟨ht, hk, rfl, fun h0 => ⟨?_, banks (.inl (none_iff.2 h0))⟩, fun h0 no => ⟨?_, banks (.inr (refuses.2 no))⟩,
      fun h16 free room => ?_⟩
    · simp [Core.select, none_iff.2 h0]
    · simp [Core.select, mt none_iff.1 h0, refuses.2 no]
    · have some_counts : (n 0, n 1, n 2, n 3) ≠ (0, 0, 0, 0) := mt none_iff.1 (by omega)
      have yes : b.rejects (n 0, n 1, n 2, n 3) = false := by
        rw [← Bool.not_eq_true, refuses, free]
        simp [h16]
        exact room
      refine ⟨by simp [Core.select, yes], accepted some_counts yes, fun d => State.sysrd_of_ok ?_ ?_⟩
      · intro _
        rw [me]
        exact hp
      · refine congrArg (·, _) (State.waypartWord_busy zero ?_ ?_ ?_ ?_)
        all_goals rw [me]
        · rfl
        · rfl
        · simp [Core.select, yes]
        · refine (congrArg Bank.next (?_ : _ = { b with next := some (n 0, n 1, n 2, n 3) })).trans (congrArg some counts.symm)
          rw [← accepted some_counts yes, ← ht, ← hk]
          rfl
  · obtain ⟨u, steps, done⟩ := State.repartitionDone_spec hn
    have e : exec (.repartitionComplete q) s = .next (s.repartitionDone (q / 64) (q % 64)) := by
      show Host.Outcome.next (s.repartitionDone (q / 64 % 4) (q % 64)) = _
      rw [Nat.mod_eq_of_lt (by omega : q / 64 < 4)]
    refine ⟨_, e, ?_, fun off ho => ?_⟩
    · rw [done, State.bank_setBank]
    · rw [done]
      refine (Memory.read_clear _ _ _ _).trans (if_pos ?_)
      omega

end

/-! # O18: leaf accesses, FENCE.LEAF and LFENCE -/

section
open Sys2Proof Sys2Proof.Machine Sys2Proof.Claims
namespace Sys2Proof.Machine

/-! ## The checks of a leaf address (R257) -/

theorem leafFault_range {la n : Nat} (h : 2 ^ 22 ≤ la) : leafFault la n = some .coordRange := by
  rw [leafFault, if_pos (by omega)]

theorem leafFault_misaligned {la n : Nat} (h : la < 2 ^ 22) (odd : la % n ≠ 0) : leafFault la n = some .misaligned := by
  rw [leafFault, if_neg (by omega), if_pos odd]

theorem leafFault_none {la n : Nat} (h : la < 2 ^ 22) (aligned : la % n = 0) : leafFault la n = none := by
  rw [leafFault, if_neg (by omega), if_neg (by omega)]

namespace State

/-! ## Writes that are performed at their stores (R77) -/

theorem onClusters_twigArrive (s : State) (w : TwigWrite) : s.OnClusters (s.twigArrive w) := .onCluster s _ _

/-- A store takes those of the writes that are for it, in order. -/
theorem cluster_foldl_twigArrive (ws : List TwigWrite) (s : State) (k : Nat) :
    (ws.foldl twigArrive s).cluster k = performedOn (ws.filter fun w => w.cl = k) (s.cluster k) := by
  induction ws generalizing s with
  | nil => rfl
  | cons w r ih =>
    rw [List.foldl_cons, ih]
    by_cases h : w.cl = k
    · subst h
      rw [List.filter_cons_of_pos (by simp)]
      simp [performedOn, twigArrive, onCluster]
    · rw [List.filter_cons_of_neg (by simpa using h), twigArrive, onCluster, cluster_setCluster_ne _ _ _ _ (Ne.symm h)]

theorem twigPerform_frame (s : State) (p : TwigWrite → Bool) :
    ∃ clusters, s.twigPerform p = { s with clusters := clusters, twig := s.twig.filter fun w => !p w } := by
  obtain ⟨clusters, h⟩ := OnClusters.foldl onClusters_twigArrive (s.twig.filter p)
    { s with twig := s.twig.filter fun w => !p w }
  exact ⟨clusters, h⟩

theorem cluster_twigPerform (s : State) (p : TwigWrite → Bool) (k : Nat) : (s.twigPerform p).cluster k =
    performedOn (s.twig.filter fun w => p w && w.cl = k) (s.cluster k) := by
  rw [twigPerform, cluster_foldl_twigArrive, List.filter_filter]
  simp only [Bool.and_comm]
  rfl

/-- The core's own writes to a store are performed, and nothing else is (R77). -/
theorem myDrain_spec (s : State) (cl : Nat) : (∃ clusters, s.myDrain cl = { s with
      clusters := clusters, twig := s.twig.filter fun w => !(w.agent = s.coreAgent s.actor && w.cl = cl) }) ∧
    (s.myDrain cl).cluster cl =
      performedOn (s.twig.filter fun w => w.agent = s.coreAgent s.actor && w.cl = cl) (s.cluster cl) := by
  refine ⟨s.twigPerform_frame _, (s.cluster_twigPerform _ cl).trans ?_⟩
  congr 1
  exact List.filter_congr fun w _ => by simp +contextual

/-! ## A task that defers (R238, R242) -/

theorem low15_eq (c : Core) : c.low15 = (List.range 15).map fun i => c.get (BitVec.ofNat 5 (i + 1)) := by
  simp [Core.low15, upFrom, Core.getNat, Nat.add_comm]

theorem chan_defer (c : Core) {k : Nat} (w : Wait) (h : c.task = .chan k) :
    (c.defer w).chan k = { c.chan k with deferred := some ⟨c.pc, c.low15, w, false, false, c.ahead⟩ } := by
  simp only [Core.defer, h]
  exact Core.chan_setChan c k _

theorem deferredAt_defer (s : State) (w : Wait) : deferredAt s (s.setMe (s.me.defer w)) w := by
  rw [deferredAt, me_setMe]
  refine ⟨rfl, fun n hn => s.core_setMe_ne _ _ hn, ?_⟩
  by_cases h : ∃ k, s.me.task = .chan k
  · obtain ⟨k, hk⟩ := h
    obtain ⟨ends, _, _, others, _, _, frame⟩ := s.me.defer_chan k w hk
    refine ⟨ends, frame, fun j hj => ?_, fun no => absurd hk (no k)⟩
    obtain rfl : k = j := Task.chan.inj (hk.symm.trans hj)
    rw [chan_defer s.me w hk, low15_eq]
    exact ⟨rfl, rfl, others⟩
  · have no : ∀ k, s.me.task ≠ .chan k := fun k hk => h ⟨k, hk⟩
    rw [s.me.defer_start w no]
    exact ⟨rfl, rfl, fun k hk => absurd hk (no k), fun _ => rfl⟩

/-! ## The oldest posted write (R60) -/

theorem scratchArrival_first {s : State} {p : Posted} {r : List Posted} (h : s.posted = p :: r)
    (backed : s.scratchBacked p.pa = true) : exec (.scratchWriteArrival 0) s =
      .next { s with posted := r, scratch := s.scratch.writeN p.pa p.data } := by
  have here : State.scratchBacked { s with posted := r } p.pa = true := backed
  show execScratchWriteArrival 0 s = _
  simp [execScratchWriteArrival, h, firstOf, arrive, here]

/-! ## The leaf instructions (R257) -/

section
variable {s : State} {sz : Size} {d a b : Reg} {imm : BitVec 32}

theorem ea_eq (s : State) (a : Reg) (imm : BitVec 32) : s.me.ea a imm = eaOf s a imm := rfl

theorem exec_lld_fault {code : Code} (h : leafFault (eaOf s a imm).toNat sz.bytes = some code) : exec (.lld sz d a imm) s =
    .next (s.trap code 0 (if code = .coordRange then eaOf s a imm else 0)) := by
  show execLld sz d a imm s = _
  simp only [execLld, ea_eq, h]

theorem exec_lst_fault {code : Code} (h : leafFault (eaOf s a imm).toNat sz.bytes = some code) : exec (.lst sz a b imm) s =
    .next (s.trap code 0 (if code = .coordRange then eaOf s a imm else 0)) := by
  show execLst sz a b imm s = _
  simp only [execLst, ea_eq, h]

/-- A write that passes the checks waits in the twig switch (R77, R257, log 10). -/
theorem exec_lst (h : leafFault (eaOf s a imm).toNat sz.bytes = none) : exec (.lst sz a b imm) s =
    .next { moved s with twig := s.twig ++ [⟨s.coreAgent s.actor, clusterAt s.actor ((eaOf s a imm).toNat / 2 ^ 18),
      (eaOf s a imm).toNat % 2 ^ 18, leBytes sz.bytes (s.me.get b).toNat, none, s.me.pts⟩] } := by
  show execLst sz a b imm s = _
  simp only [execLst, ea_eq, h]
  rfl

variable {u : State} {pos off : Nat}

/-- A consuming read finds its line full, or defers the task (R238, R257). -/
theorem exec_lld (h : leafFault (eaOf s a imm).toNat sz.bytes = none) (hpos : (eaOf s a imm).toNat / 2 ^ 18 = pos)
    (hoff : (eaOf s a imm).toNat % 2 ^ 18 = off) (hu : s.myDrain (clusterAt s.actor pos) = u)
    (same : u.actor = s.actor ∧ u.cores = s.cores) : exec (.lld sz d a imm) s =
      if ((u.cluster (clusterAt s.actor pos)).line (off / 128)).full then
        .next (u.setMe (((u.me.raise ((u.cluster (clusterAt s.actor pos)).line (off / 128)).clk).put d
          (BitVec.ofNat 64 ((u.cluster (clusterAt s.actor pos)).leaf.readLe off sz.bytes))).advance))
      else .next (u.setMe (u.me.defer (.leaf pos (off / 128)))) := by
  have me : u.me = s.me := by rw [State.me, State.me, core, core, same.1, same.2]
  show execLld sz d a imm s = _
  simp only [execLld, ea_eq, h, hpos, hoff, hu, same.1]
  rw [← me]
  rfl

end

end State

end Sys2Proof.Machine

/-- Settles O18: the core's own writes are performed first, by one lemma on the writes of the twig switch; then the access. -/
theorem leafAccessAndFence : Obligations.LeafAccessAndFence := by
  unfold Obligations.LeafAccessAndFence
  refine ⟨?_, fun s => ⟨?_, fun p r first backed => ?_⟩⟩
  · intro s sz d a b imm la n pos off cl u c
    obtain ⟨⟨clusters, (hu : u = _)⟩, own⟩ := s.myDrain_spec cl
    refine ⟨fun far => ?_, fun near odd => ?_, fun near aligned => ?_, ?_⟩
    · have range := leafFault_range (n := n) far
      exact ⟨⟨_, State.exec_lld_fault range, trapped_trap ..⟩, _, State.exec_lst_fault range, trapped_trap ..⟩
    · have misaligned := leafFault_misaligned near odd
      exact ⟨⟨_, State.exec_lld_fault misaligned, trapped_trap ..⟩, _, State.exec_lst_fault misaligned, trapped_trap ..⟩
    · have passes := leafFault_none near aligned
      have same : u.actor = s.actor ∧ u.cores = s.cores := by
        rw [hu]
        exact ⟨rfl, rfl⟩
      have me : u.me = s.me := by rw [State.me, State.me, State.core, State.core, same.1, same.2]
      have lld := State.exec_lld (d := d) passes rfl rfl rfl same
      refine ⟨State.exec_lst passes, same.2, (congrArg State.mem hu).trans rfl, (congrArg State.twig hu).trans rfl,
        own, fun full => ?_, fun empty => ?_⟩
      · rw [if_pos full] at lld
        refine ⟨_, lld, ?_⟩
        rw [State.me_setMe, me]
        refine ⟨⟨?_, ?_, ?_, fun r hr => ?_⟩, ?_, fun hd => ?_, ?_⟩
        · unfold Core.put; split <;> rfl
        · rw [Core.advance_tlb, Core.put_tlb]; rfl
        · rw [Core.advance_pc, Core.put_pc]; rfl
        · rw [Core.get_advance, Core.get_put_ne _ _ _ _ hr]; rfl
        · rw [Core.advance_pts, Core.put_pts]; rfl
        · rw [Core.get_advance, Core.get_put_self _ _ _ hd]
        · show { u.setMe _ with cores := s.cores } = u
          rw [← same.2]
          rfl
      · rw [if_neg (by rw [empty]; decide)] at lld
        exact ⟨_, lld, u.deferredAt_defer _⟩
    · obtain ⟨clusters, h⟩ := s.twigPerform_frame fun w => w.agent = s.coreAgent s.actor
      have stores := s.cluster_twigPerform fun w => w.agent = s.coreAgent s.actor
      refine ⟨_, show exec .fenceLeaf s = .next (moved (s.twigPerform fun w => w.agent = s.coreAgent s.actor)) from rfl, ?_,
        ?_, ?_, stores⟩
      · rw [h, moved, State.me_setMe]; rfl
      · rw [h]; rfl
      · rw [h]; rfl
  · obtain ⟨scratch, h, _⟩ := s.drainPosted_spec (s.coreAgent s.actor)
    refine ⟨_, show exec .lfence s = .next (moved (s.drainPosted (s.coreAgent s.actor))) from rfl, ?_⟩
    rw [h, moved, State.me_setMe]
    exact ⟨rfl, rfl, rfl, rfl⟩
  · refine ⟨_, State.scratchArrival_first first backed, rfl, fun q => Memory.read_writeN _ _ _ q, rfl⟩

end

/-! # O48: the life of a launch -/

section
open Sys2Proof Sys2Proof.Machine Sys2Proof.Claims
namespace Sys2Proof.Machine

/-!
An end increments its counters with the launch's clock as the clock of the increment, and keeps that clock: endStep goes on with
the launch's own clock after SIGNAL_COUNTER and after ENDED. The statement has the launch go on with the clock that the increment
took, which is past the RTS of the counter's line. On a line with RTS 0 that is 1, where the launch keeps its clock 0.
-/

/-- A job whose counter ENDED lies at virtual address 0. -/
def countedJob : Job where
  asid := 0
  vf := 0
  ceiling := 0
  drainwin := 0
  tbase := 0
  tmplBase := 0
  tcount := 0
  pooln := 0
  reserve := 0
  pqbase := 0
  pqcap := 0
  fqbase := 0
  ctlcore := 0
  fqn := 1
  ended := 0
  ctxbase := 0
  ctxper := 0
  templates := []
  nextId := 1
  faults := 0
  barrier := 0

/-- A cancelled launch with clock 0 whose end has come to the increment of ENDED. -/
def endingLaunch : Launch where
  id := 0
  job := 0
  words := []
  st := .running
  core := none
  res := false
  entry := none
  pq := none
  check := .made
  images := []
  start := 0
  order := 0
  eligible := 0
  band := none
  clock := 0
  status := 0
  cancelled := true
  ending := some (.cancelled, .count)
  watch := none
  reached := none
  ranges := []

/-- The job and its launch; the leaf entry of the counter's page, at 0x1000, is 0x218F: V, LEAF, RD and WR, with ACC and DIRTY
set. -/
def endingState : State :=
  { State.reset with
    mem := [(0x1000, 0x8F), (0x1001, 0x21)]
    walks := [(0, [⟨0, 2, 0, 0x1000⟩])]
    jobs := [(0, countedJob)]
    launches := [endingLaunch] }

/-- The counter is found at 0x2000, on a line with RTS 0. -/
theorem counterPa_endingState :
    ∃ x tlb t, endingState.counterPa (endingState.endCtx countedJob endingLaunch 0) needBoth 0 = .ok 0x2000 x tlb t ∧
      (t.line (lineOf 0x2000)).rts = 0 :=
  ⟨_, _, _, rfl, rfl⟩

/-- After the increment the launch's clock is 0. -/
theorem launchComplete_endingState :
    ∃ u x, exec (.launchComplete 0 0) endingState = .next u ∧ u.launch? 0 0 = some x ∧ x.clock = 0 :=
  ⟨_, _, rfl, rfl, rfl⟩

end Sys2Proof.Machine

/-- Refutes O48: the increment of ENDED takes the clock 1 on a line with RTS 0, and leaves the clock of a launch that ends with
  clock 0 at 0. -/
theorem not_launchLifecycle : ¬ Obligations.LaunchLifecycle := by
  unfold Obligations.LaunchLifecycle
  intro h
  obtain ⟨_, _, _, _, _, _, _, ends, _⟩ := h.1 endingState 0 0 endingLaunch rfl
  obtain ⟨_, _, _, _, _, _, count, _⟩ := ends .cancelled .count countedJob rfl rfl
  obtain ⟨x, tlb, t, found, rts⟩ := counterPa_endingState
  obtain ⟨u, e, now, _⟩ := count rfl 0x2000 x tlb t found rfl (by rw [rts]; decide)
  obtain ⟨v, y, e', after, clock⟩ := launchComplete_endingState
  obtain rfl : u = v := Host.Outcome.next.inj (e.symm.trans e')
  have raised : y.clock = max 0 ((t.line (lineOf 0x2000)).rts + 1) :=
    congrArg Launch.clock (Option.some.inj (after.symm.trans now.1))
  rw [clock, rts] at raised
  exact absurd raised (by decide)

end

/-! # Discards and atomic steps -/

section
open Sys2Proof Sys2Proof.Machine Sys2Proof.Claims
namespace Sys2Proof.Machine
namespace State

variable {s t u : State} {pa pts : Nat}

/-! ## A discard (R53) -/

/-- u is s after a discard of line l at t: the line reads as its backing value, with no copy left. -/
structure Discards (s u : State) (l t : Nat) : Prop where
  steps : s.LineSteps u
  hbm : u.hbm = s.hbm
  mem : ∀ b, u.mem.read b = if lineOf b = l then s.hbm.read b else s.mem.read b
  gone : (u.line l).st = .i ∧ (u.line l).owner = 0x3FF ∧ (u.line l).place = .none ∧ (u.line l).copy = .held
  wts : (u.line l).wts = t
  rts : (u.line l).rts = t
  rest : RestOf l s u
  clocks : u.clocks = s.clocks

/-- A read of HBM corrects symbols of the line it reads, and changes no data (R20). -/
theorem readHbm_spec (s : State) (pa : Nat) : (s.readHbm pa).mem = s.mem ∧ (s.readHbm pa).hbm = s.hbm ∧
    (s.readHbm pa).clocks = s.clocks ∧ RestOf (lineOf pa) s (s.readHbm pa) := by
  unfold readHbm
  dsimp only
  split
  · exact ⟨rfl, rfl, rfl, fun x hx => (line_logPa ..).trans (s.line_setLine_ne _ x _ hx)⟩
  · exact ⟨rfl, rfl, rfl, fun _ _ => rfl⟩

/-- A line's bytes taken from another memory (R2). -/
theorem read_copyLine (m src : Memory) (l b : Nat) :
    (m.copyFrom src (128 * l) 128).read b = if lineOf b = l then src.read b else m.read b := by
  rw [Memory.read_copyFrom]
  have inside : 128 * l ≤ b ∧ b < 128 * l + 128 ↔ lineOf b = l := by
    rw [lineOf]
    omega
  simp only [inside]

/-- A discard that its clock leaves room for takes place (R53). -/
theorem discardStep_of_clock (h : max pts ((s.line (lineOf pa)).rts + 1) ≤ Config.maxClock) :
    ∃ u, s.discardStep pts pa = some (max pts ((s.line (lineOf pa)).rts + 1), u) ∧
      s.Discards u (lineOf pa) (max pts ((s.line (lineOf pa)).rts + 1)) := by
  have e : s.discardStep pts pa = _ := if_neg (Nat.not_lt.2 h)
  refine ⟨_, e, ?_⟩
  have steps := (LineSteps.refl s).discardStep e
  generalize max pts ((s.line (lineOf pa)).rts + 1) = t at steps ⊢
  obtain ⟨mem, hbm, clocks, rest⟩ := s.readHbm_spec pa
  rw [noteClock_eq] at steps ⊢
  have line : ∀ li, ((s.readHbm pa).setLine (lineOf pa) li).line (lineOf pa) = li := line_setLine _ _
  refine ⟨steps, hbm, fun b => ?_, ?_, ?_, ?_, fun x hx => ?_, clocks⟩
  · rw [← hbm, ← mem]
    exact read_copyLine _ _ _ b
  · exact (congrArg (fun li : LineInfo => li.st = .i ∧ li.owner = 0x3FF ∧ li.place = .none ∧ li.copy = .held) (line _)).mpr
      ⟨rfl, rfl, rfl, rfl⟩
  · exact congrArg LineInfo.wts (line _)
  · exact congrArg LineInfo.rts (line _)
  · exact (line_setLine_ne _ _ x _ hx).trans (rest x hx)

/-! ## HBM under a record that changes (R25, R58) -/

section
variable {l : Nat} {b : Nat}

theorem hbm_writeBackLine_outside (h : lineOf b ≠ l) : (s.writeBackLine l).hbm.read b = s.hbm.read b := by
  simp only [writeBackLine]
  split
  · exact (read_copyLine _ _ l b).trans (if_neg h)
  · rfl

theorem hbm_leaveRemote_outside (h : lineOf b ≠ l) : (s.leaveRemote l).hbm.read b = s.hbm.read b := by
  simp only [leaveRemote]
  split
  · rfl
  · exact hbm_writeBackLine_outside h

theorem hbm_pickWay (s : State) (l lo n : Nat) (ls : List Nat) (way : Nat → Nat) :
    (s.pickWay l lo n ls way).2.2.hbm = s.hbm := by
  simp only [pickWay, choose]
  split
  · rfl
  · split <;> rfl

/-- The line that makes room for another in its remote ways is another line (R58). -/
theorem hbm_enterRemote {T : Nat} (h : lineOf b = l) : (s.enterRemote T l).hbm.read b = s.hbm.read b := by
  by_cases remote : s.Remote T l
  · rw [enterRemote_eq remote]
    have kept : (s.remoteWay T l).2.2.hbm = s.hbm := hbm_pickWay ..
    dsimp only
    split
    · next x out =>
      refine (hbm_leaveRemote_outside ?_).trans (congrArg (·.read b) kept)
      rw [h]
      exact (pickWay_out_ne _ _ _ _ _ _ out).symm
    · exact congrArg (·.read b) kept
  · rw [enterRemote_of_not remote]

theorem hbm_setRecord {T : Nat} {new : LineInfo} (h : lineOf b = l) : (s.setRecord T l new).hbm.read b = s.hbm.read b := by
  simp only [setRecord]
  split
  · exact hbm_enterRemote h
  · rfl

end

/-! ## A load of the latest version (R67) -/

theorem recLoad_stamps (s : State) (li : LineInfo) (T pa : Nat) :
    (s.recLoad li T pa).wts = li.wts ∧ (s.recLoad li T pa).rts = li.rts := by
  unfold recLoad
  repeat' split
  all_goals exact ⟨rfl, rfl⟩

/-- The line with the lease that a load of its latest version takes (R25, R67). -/
def leased (s : State) (T pts pa : Nat) : LineInfo :=
  let li := (s.correct T pa).line (lineOf pa)
  { li with rts := leaseEnd li.rts (max pts li.wts) }

/-- A load of the latest version is a change of the line's record, and notes of clocks. -/
theorem loadLatest_moves (s : State) (T pts pa n : Nat) :
    let t := (s.correct T pa).setRecord T (lineOf pa) ((s.correct T pa).recLoad (s.leased T pts pa) T pa)
    t.Moves (s.loadLatest T pts pa n).2.2 ∧ (s.loadLatest T pts pa n).2.2.hbm = t.hbm :=
  ⟨(Moves.noteClock _ _).trans (Moves.noteClock _ _), (noteClock_data _ _).2.trans (noteClock_data _ _).2⟩

theorem loadLatest_rts (s : State) (T pts pa n : Nat) : ((s.loadLatest T pts pa n).2.2.line (lineOf pa)).rts =
    leaseEnd (s.line (lineOf pa)).rts (max pts (s.line (lineOf pa)).wts) := by
  obtain ⟨cw, cr⟩ := (Moves.correct s T pa).stamps (lineOf pa)
  have record := ((Moves.setRecord (s.correct T pa) T (lineOf pa)
    ((s.correct T pa).recLoad (s.leased T pts pa) T pa)).stamps (lineOf pa)).2
  rw [line_setLine, (recLoad_stamps _ _ _ _).2] at record
  rw [((s.loadLatest_moves T pts pa n).1.stamps _).2, record, leased, cw, cr]

/-- The line keeps the bytes it has in HBM. -/
theorem loadLatest_hbm {b : Nat} (h : lineOf b = lineOf pa) (s : State) (T pts n : Nat) :
    (s.loadLatest T pts pa n).2.2.hbm.read b = s.hbm.read b := by
  rw [(s.loadLatest_moves T pts pa n).2, hbm_setRecord h, (correct_data s T pa).2]

/-! ## Atomic steps (R69) -/

/-- u is s after an atomic step at t: the new bytes are stored, or a comparison has failed and no version is new. -/
structure AtomicStep (s u : State) (pa t : Nat) (new : Option (List Byte)) : Prop where
  rts : (u.line (lineOf pa)).rts = t
  stored : ∀ data, new = some data → u.mem = s.mem.writeN pa data
  kept : new = none → u.mem = s.mem ∧ (u.line (lineOf pa)).wts = (s.line (lineOf pa)).wts

theorem AtomicStep.trans {t : Nat} {new : Option (List Byte)} {v : State} (h : s.AtomicStep u pa t new) (k : u.Moves v) :
    s.AtomicStep v pa t new where
  rts := (k.stamps _).2.trans h.rts
  stored data e := k.mem.trans (h.stored data e)
  kept e := ⟨k.mem.trans (h.kept e).1, (k.stamps _).1.trans (h.kept e).2⟩

/-- The record after a comparison that fails at t: the version stays, with its lease to t (R69). -/
def compared (s : State) (T pa t : Nat) : LineInfo :=
  let li := { (s.correct T pa).line (lineOf pa) with rts := t }
  let new := ((s.correct T pa).recStore li T pa t).1
  if li.st = .m && li.owner = T then new else { new with recWts := li.wts }

theorem compared_stamps (s : State) (T pa t : Nat) :
    (s.compared T pa t).wts = (s.line (lineOf pa)).wts ∧ (s.compared T pa t).rts = t := by
  obtain ⟨hw, hr⟩ := recStore_stamps (s.correct T pa) { (s.correct T pa).line (lineOf pa) with rts := t } T pa t
  have cw := ((Moves.correct s T pa).stamps (lineOf pa)).1
  simp only [compared]
  split
  · exact ⟨hw.trans cw, hr⟩
  · exact ⟨hw.trans cw, hr⟩

/-- An atomic step that its clock leaves room for takes place (R69). -/
theorem amoStep_of_clock (T n : Nat) (f : List Byte → Option (List Byte))
    (h : max pts ((s.line (lineOf pa)).rts + 1) ≤ Config.maxClock) :
    ∃ u, s.amoStep T pts pa n f = some (s.mem.readN pa n, max pts ((s.line (lineOf pa)).rts + 1), u) ∧
      s.LineSteps u ∧ s.AtomicStep u pa (max pts ((s.line (lineOf pa)).rts + 1)) (f (s.mem.readN pa n)) := by
  cases new : f (s.mem.readN pa n) with
  | some data =>
    have done := storeDone_stores (T := T) data h
    refine ⟨_, by rw [amoStep, new]; simp only [storeStep_of_clock (T := T) data h]; rfl, done.steps, done.rts, ?_, nofun⟩
    rintro _ ⟨⟩
    exact done.mem
  | none =>
    have e : s.amoStep T pts pa n f = some (s.mem.readN pa n, max pts ((s.line (lineOf pa)).rts + 1),
        ((s.correct T pa).setRecord T (lineOf pa) (s.compared T pa (max pts ((s.line (lineOf pa)).rts + 1)))).noteClock
          (max pts ((s.line (lineOf pa)).rts + 1))) := by
      rw [amoStep, new]
      exact if_neg (Nat.not_lt.2 h)
    generalize max pts ((s.line (lineOf pa)).rts + 1) = t at *
    obtain ⟨hw, hr⟩ := s.compared_stamps T pa t
    have record := (Moves.setRecord (s.correct T pa) T (lineOf pa) (s.compared T pa t)).trans (Moves.noteClock _ t)
    obtain ⟨kw, kr⟩ := record.stamps (lineOf pa)
    rw [line_setLine] at kw kr
    exact ⟨_, e, (LineSteps.refl s).amoStep e, kr.trans hr, nofun,
      fun _ => ⟨record.mem.trans (Moves.correct s T pa).mem, kw.trans hw⟩⟩

/-- The same of the home agent (R70). -/
theorem homeAmo_of_clock (n : Nat) (f : List Byte → Option (List Byte))
    (h : max (s.homeClock (pkgOf pa)) ((s.line (lineOf pa)).rts + 1) ≤ Config.maxClock) :
    ∃ u, s.homeAmo pa n f = some (s.mem.readN pa n, max (s.homeClock (pkgOf pa)) ((s.line (lineOf pa)).rts + 1), u) ∧
      s.LineSteps u ∧ s.AtomicStep u pa (max (s.homeClock (pkgOf pa)) ((s.line (lineOf pa)).rts + 1)) (f (s.mem.readN pa n)) := by
  obtain ⟨u, e, steps, step⟩ := amoStep_of_clock (homeOf pa) n f h
  have moves := (Moves.noSram u (lineOf pa)).trans
    (Moves.setHomeClock _ (pkgOf pa) (max (s.homeClock (pkgOf pa)) ((s.line (lineOf pa)).rts + 1)))
  exact ⟨_, by rw [homeAmo, e]; rfl, steps.trans moves.steps, step.trans moves⟩

end State

end Sys2Proof.Machine

end

/-! # O16: AMO, CAS and LDL -/

section
open Sys2Proof Sys2Proof.Machine Sys2Proof.Claims
namespace Sys2Proof.Machine

/-! ## Combinations (R258) -/

/-- The combinations of two values of a width, as arithmetic of bit vectors of that width. -/
theorem amoCombine_bitVec {w x y : Nat} (hw : 0 < w) (hx : x < 2 ^ w) (hy : y < 2 ^ w) :
    let o : BitVec w := BitVec.ofNat w x
    let z : BitVec w := BitVec.ofNat w y
    amoCombine .add w x y = (o + z).toNat ∧ amoCombine .and w x y = (o &&& z).toNat ∧
    amoCombine .or w x y = (o ||| z).toNat ∧ amoCombine .xor w x y = (o ^^^ z).toNat ∧
    amoCombine .minS w x y = (if o.sle z then o else z).toNat ∧ amoCombine .maxS w x y = (if o.sle z then z else o).toNat ∧
    amoCombine .minN w x y = (if o.ule z then o else z).toNat ∧ amoCombine .maxN w x y = (if o.ule z then z else o).toNat ∧
    amoCombine .swap w x y = z.toNat := by
  intro o z
  have ho : o.toNat = x := (BitVec.toNat_ofNat x w).trans (Nat.mod_eq_of_lt hx)
  have hz : z.toNat = y := (BitVec.toNat_ofNat y w).trans (Nat.mod_eq_of_lt hy)
  have so : sextNat w x = o.toInt := sextNat_eq_toInt hw x
  have sz : sextNat w y = z.toInt := sextNat_eq_toInt hw y
  have sle : o.sle z = true ↔ o.toInt ≤ z.toInt := BitVec.sle_iff_toInt_le
  have ule : o.ule z = true ↔ x ≤ y := by rw [BitVec.ule_iff_le, BitVec.le_def, ho, hz]
  refine ⟨?_, ?_, ?_, ?_, ?_, ?_, ?_, ?_, ?_⟩ <;> simp only [amoCombine, so, sz]
  · rw [BitVec.toNat_add, ho, hz]
  · rw [BitVec.toNat_and, ho, hz]; rfl
  · rw [BitVec.toNat_or, ho, hz]; rfl
  · rw [BitVec.toNat_xor, ho, hz]; rfl
  · by_cases h : o.toInt ≤ z.toInt
    · rw [if_neg (by omega), if_pos (sle.2 h), ho]
    · rw [if_pos (by omega), if_neg (mt sle.1 h), hz]
  · by_cases h : o.toInt < z.toInt
    · rw [if_pos h, if_pos (sle.2 h.le), hz]
    · by_cases eq : o.toInt ≤ z.toInt
      · have same : o = z := BitVec.eq_of_toInt_eq (by omega)
        rw [if_neg h, if_pos (sle.2 eq), ← same, ho]
      · rw [if_neg h, if_neg (mt sle.1 eq), ho]
  · by_cases h : x ≤ y
    · rw [if_pos (ule.2 h), ho, Nat.min_eq_left h]
    · rw [if_neg (mt ule.1 h), hz, Nat.min_eq_right (by omega)]
  · by_cases h : x ≤ y
    · rw [if_pos (ule.2 h), hz, Nat.max_eq_right h]
    · rw [if_neg (mt ule.1 h), ho, Nat.max_eq_left (by omega)]
  · rw [hz]

namespace State

variable {s s' : State} {d a b : Reg} {imm : BitVec 32} {pa n : Nat} {ea : Word} {x : Xlate} {tlb : List Xlate}

/-! ## Atomics (R258, R259) -/

/-- An atomic that reaches its target and finds room is an atomic step of the core, or on an uncached page of the home agent; gD
takes the old value. -/
theorem atomic_of_reaches (f : List Byte → Option (List Byte)) (h : reaches s needBoth .atomic n ea pa x tlb s')
    (hbm : windowOf pa = .hbm) {clk : Nat} (hclk : clk = if x.mtype = 0 then s.me.pts else s'.homeClock (pkgOf pa))
    (room : max clk ((s'.line (lineOf pa)).rts + 1) ≤ Config.maxClock) :
    ∃ u, s.atomic d n ea f = .next (u.setMe ((u.me.put d (BitVec.ofNat 64 (s'.mem.readLe pa n))).advance)) ∧
      (s'.keepTlb tlb).AtomicStep u pa (max clk ((s'.line (lineOf pa)).rts + 1)) (f (s'.mem.readN pa n)) ∧
      u.me = { (s'.keepTlb tlb).me with
        pts := if x.mtype = 0 then max s.me.pts ((s'.line (lineOf pa)).rts + 1) else s.me.pts } := by
  have me : s'.me = s.me := (steps_of_reaches h).me
  have window : windowOf pa ≠ .unbacked := by rw [hbm]; decide
  rw [atomic, sized_of_reaches h, if_neg window]
  subst hclk
  by_cases hx : x.mtype = 0
  · simp only [if_pos hx] at room ⊢
    have room' : max (s'.keepTlb tlb).me.pts (((s'.keepTlb tlb).line (lineOf pa)).rts + 1) ≤ Config.maxClock := by
      rw [me_keepTlb, me]
      exact room
    obtain ⟨u, e, steps, step⟩ := amoStep_of_clock (s'.keepTlb tlb).myTower n f room'
    have clock : max (s'.keepTlb tlb).me.pts (((s'.keepTlb tlb).line (lineOf pa)).rts + 1) =
        max s.me.pts ((s'.line (lineOf pa)).rts + 1) := by
      rw [me_keepTlb, me]
      rfl
    rw [clock] at e step
    simp only [e]
    have raised : (s'.keepTlb tlb).AtomicStep (u.setMe (u.me.raise (max s.me.pts ((s'.line (lineOf pa)).rts + 1)))) pa
        (max s.me.pts ((s'.line (lineOf pa)).rts + 1)) (f (s'.mem.readN pa n)) := ⟨step.rts, step.stored, step.kept⟩
    have moves := Moves.placeLine (u.setMe (u.me.raise (max s.me.pts ((s'.line (lineOf pa)).rts + 1)))) u.myCluster false pa
    refine ⟨_, rfl, raised.trans moves, ?_⟩
    rw [moves.steps.me, me_setMe, steps.me, Core.raise, me_keepTlb, me]
    simp
  · simp only [if_neg hx] at room ⊢
    obtain ⟨u, e, steps, step⟩ := homeAmo_of_clock (s := s'.keepTlb tlb) n f room
    simp only [e]
    refine ⟨u, rfl, step, ?_⟩
    rw [steps.me, me_keepTlb, me]


/-- What the core and the line show after an atomic, and what memory holds. -/
def AtomicDone (s s' t : State) (d : Reg) (x : Xlate) (tlb : List Xlate) (pa n clk : Nat) (new : Option Nat) : Prop :=
  (coreStep s.me t.me d tlb ∧ (d ≠ 0 → t.me.get d = BitVec.ofNat 64 (s'.mem.readLe pa n)) ∧
    t.me.pts = (if x.mtype = 0 then max s.me.pts ((s'.line (lineOf pa)).rts + 1) else s.me.pts) ∧
    (t.line (lineOf pa)).rts = max clk ((s'.line (lineOf pa)).rts + 1)) ∧
  (∀ y, new = some y → stored s'.mem t.mem pa n y) ∧
  (new = none → t.mem = s'.mem ∧ (t.line (lineOf pa)).wts = (s'.line (lineOf pa)).wts)

theorem atomicDone_of_reaches (f : List Byte → Option (List Byte)) (h : reaches s needBoth .atomic n ea pa x tlb s')
    (hbm : windowOf pa = .hbm) {clk : Nat} (hclk : clk = if x.mtype = 0 then s.me.pts else s'.homeClock (pkgOf pa))
    (room : max clk ((s'.line (lineOf pa)).rts + 1) ≤ Config.maxClock) {new : Option Nat}
    (hnew : f (s'.mem.readN pa n) = new.map (leBytes n)) :
    ∃ t, s.atomic d n ea f = .next t ∧ AtomicDone s s' t d x tlb pa n clk new := by
  obtain ⟨u, e, step, me⟩ := atomic_of_reaches (d := d) f h hbm hclk room
  refine ⟨_, e, ⟨?_, fun hd => ?_, ?_, step.rts⟩, fun y hy => ?_, fun no => ?_⟩
  · rw [me_setMe]
    exact coreStep_put (steps_of_reaches h).me me _ _
  · rw [me_setMe, Core.get_advance, Core.get_put_self _ _ _ hd]
  · rw [me_setMe, Core.advance_pts, Core.put_pts, me]
  · subst hy
    show stored s'.mem u.mem pa n y
    rw [step.stored _ hnew]
    exact stored_writeN _ _ _ _
  · subst no
    exact step.kept hnew

/-! ## LDL (R252) -/

/-- What the core shows once the instruction has also raised its clock to c. -/
theorem coreStep_raise_put {u : State} (hs : s'.me = s.me) (hu : u.me = (s'.keepTlb tlb).me) (c : Nat) (d : Reg) (v : Word) :
    coreStep s.me (((u.me.raise c).put d v).advance) d tlb := by
  have raised : (u.setMe (u.me.raise c)).me = { (s'.keepTlb tlb).me with pts := max u.me.pts c } := by
    rw [me_setMe, hu]
    rfl
  have step := coreStep_put hs raised d v
  rwa [me_setMe] at step

/-- An LDL that reaches its target, loads the latest version and finds room for its discard (R54, R252). -/
theorem ldl_of_reaches {sz : Size} (h : reaches s needBoth .coherent sz.bytes (eaOf s a imm) pa x tlb s')
    (hbm : windowOf pa = .hbm) (hl : latest s' s.me.pts pa) {t0 lease : Nat}
    (ht : t0 = max s.me.pts (s'.line (lineOf pa)).wts) (hlease : lease = leaseEnd (s'.line (lineOf pa)).rts t0)
    (room : max t0 (lease + 1) ≤ Config.maxClock) : ∃ v u, (s'.keepTlb tlb).Keeps v ∧
      (∀ q, lineOf q = lineOf pa → v.hbm.read q = s'.hbm.read q) ∧ v.Discards u (lineOf pa) (max t0 (lease + 1)) ∧
      exec (.ldl sz d a imm) s = .next (u.setMe (((u.me.raise (max t0 (lease + 1))).put d
        (BitVec.ofNat 64 (s'.mem.readLe pa sz.bytes))).advance)) := by
  have me : s'.me = s.me := (steps_of_reaches h).me
  have window : windowOf pa ≠ .unbacked := by rw [hbm]; decide
  have atPts : (s'.keepTlb tlb).me.pts = s.me.pts := by rw [me_keepTlb, me]
  have load : (s'.keepTlb tlb).loadStep (s'.keepTlb tlb).myTower (s'.keepTlb tlb).me.pts pa sz.bytes = _ :=
    loadStep_of_latest sz.bytes (by rw [atPts]; exact hl)
  have bytes := (s'.keepTlb tlb).loadLatest_bytes (s'.keepTlb tlb).myTower (s'.keepTlb tlb).me.pts pa sz.bytes
  have clock : ((s'.keepTlb tlb).loadLatest (s'.keepTlb tlb).myTower (s'.keepTlb tlb).me.pts pa sz.bytes).2.1 = t0 :=
    (loadLatest_clock ..).trans (by rw [atPts, ht]; rfl)
  have rts : (((s'.keepTlb tlb).loadLatest (s'.keepTlb tlb).myTower (s'.keepTlb tlb).me.pts pa sz.bytes).2.2.line
      (lineOf pa)).rts = lease := (loadLatest_rts ..).trans (by rw [atPts, hlease, ht]; rfl)
  obtain ⟨u, e, done⟩ := discardStep_of_clock (pts := t0) (rts ▸ room)
  rw [rts] at e done
  refine ⟨_, u, Keeps.loadLatest .., fun q hq => loadLatest_hbm hq .., done, ?_⟩
  rw [exec, execLdl]
  refine (sized_of_reaches h _).trans ?_
  rw [if_neg window, load]
  simp only [bytes, clock, e]
  simp only [result, me_setMe, setMe_setMe]
  rfl

end State

theorem leNat_lt (bs : List Byte) : leNat bs < 256 ^ bs.length := by
  induction bs with
  | nil => exact Nat.one_pos
  | cons b bs ih => rw [leNat, List.length_cons, Nat.pow_succ']; omega

theorem leBytes_mod (n v : Nat) : leBytes n (v % 256 ^ n) = leBytes n v := by
  induction n generalizing v with
  | zero => rfl
  | succ n ih =>
    rw [leBytes, leBytes, Nat.pow_succ', Nat.mod_mul_right_div_self, ih]
    congr 1
    exact BitVec.eq_of_toNat_eq (by rw [BitVec.toNat_ofNat, BitVec.toNat_ofNat, Nat.mod_mul_right_mod])

end Sys2Proof.Machine

/-- Settles O16: an atomic step or, of an LDL, a load step and a discard, once the access has reached its target. -/
theorem atomicsAndLastUse : Obligations.AtomicsAndLastUse := by
  unfold Obligations.AtomicsAndLastUse
  refine ⟨?_, ?_⟩
  · intro s s' dbl d a b c imm fn pa x tlb n h hbm l clk room old y after
    have pos : 0 < n := by cases dbl <;> decide
    have width : 256 ^ n = 2 ^ (8 * n) := by rw [show 256 = 2 ^ 8 from rfl, ← Nat.pow_mul]
    have oldFits : old < 2 ^ (8 * n) := by
      rw [← width]
      exact (leNat_lt _).trans_eq (by rw [Memory.length_readN])
    have amo := State.atomicDone_of_reaches (d := d)
      (fun o => some (leBytes n (amoCombine fn (8 * n) (leNat o) y))) h hbm rfl room
      (new := some (amoCombine fn (8 * n) old y)) rfl
    have cas := State.atomicDone_of_reaches (d := d)
      (fun o => if leNat o = (s.me.get c).toNat % 2 ^ (8 * n) then some (s.me.bytes b n) else none) h hbm rfl room
      (new := if old = (s.me.get c).toNat % 2 ^ (8 * n) then some y else none) (by
        have value : leBytes n y = s.me.bytes b n := by
          rw [Core.bytes, ← leBytes_mod n (s.me.get b).toNat, width]
        change (if old = _ then _ else _) = _
        split
        · rw [Option.map_some, value]
        · rfl)
    refine ⟨?_, ?_, amoCombine_bitVec (by omega) oldFits (Nat.mod_lt _ (Nat.two_pow_pos _))⟩
    · obtain ⟨t, e, done, store, -⟩ := amo
      exact ⟨t, e, done, store _ rfl⟩
    · obtain ⟨t, e, done, store, kept⟩ := cas
      exact ⟨t, e, done, fun eq => store _ (if_pos eq), fun ne => kept (if_neg ne)⟩
  · intro s s' sz d a imm pa x tlb h hbm hl l room
    obtain ⟨v, u, keeps, hbmKept, done, e⟩ := State.ldl_of_reaches (d := d) h hbm hl rfl rfl room
    have me : s'.me = s.me := (State.steps_of_reaches h).me
    have core : u.me = (s'.keepTlb tlb).me := done.steps.me.trans keeps.steps.me
    refine ⟨_, e, ?_, fun hd => ?_, fun q => ?_, fun q => ?_, fun q hq => ?_, done.gone.1, done.gone.2.1, ?_, ?_⟩
    · rw [State.me_setMe]
      exact State.coreStep_raise_put me core _ _ _
    · rw [State.me_setMe, Core.get_advance, Core.get_put_self _ _ _ hd]
    · refine (done.mem q).trans ?_
      rw [keeps.mem]
      split
      · next hq => exact hbmKept q hq
      · rfl
    · show u.hbm.read q = _ ∨ u.hbm.read q = _
      rw [done.hbm]
      exact keeps.backed q
    · show u.hbm.read q = _
      rw [done.hbm]
      exact hbmKept q hq
    · rw [State.me_setMe, Core.advance_pts, Core.put_pts, Core.raise, core, State.me_keepTlb, me]
      refine done.rts.trans ?_
      dsimp only
      omega
    · rw [State.me_setMe, Core.advance_pts, Core.put_pts]
      show (s'.line l).rts < max u.me.pts (max _ (min (max (s'.line l).rts (max s.me.pts (s'.line l).wts + 256)) 0xFFFFFF + 1))
      omega

end

/-! # O17: PREF, DISCARD and CRWB -/

section
open Sys2Proof Sys2Proof.Machine Sys2Proof.Claims
namespace Sys2Proof.Machine

/-! ## The lines of a range (R253) -/

theorem mem_upFrom {a n l : Nat} : l ∈ upFrom a n ↔ a ≤ l ∧ l < a + n := by
  simp only [upFrom, List.mem_map, List.mem_range]
  constructor
  · rintro ⟨i, hi, rfl⟩
    omega
  · exact fun h => ⟨l - a, by omega, by omega⟩

theorem nodup_upFrom (a n : Nat) : (upFrom a n).Nodup := List.nodup_range.map fun _ _ h => Nat.add_left_cancel h

theorem mem_rangeLines_whole {pa n l : Nat} (hn : 0 < n) : l ∈ rangeLines true pa n ↔ pa ≤ 128 * l ∧ 128 * l + 128 ≤ pa + n := by
  rw [rangeLines, if_neg (by omega), if_pos rfl, mem_upFrom]
  omega

theorem mem_rangeLines_touched {pa n l : Nat} (hn : 0 < n) :
    l ∈ rangeLines false pa n ↔ pa / 128 ≤ l ∧ l * 128 < pa + n := by
  rw [rangeLines, if_neg (by omega), if_neg (by decide), mem_upFrom]
  omega

theorem nodup_rangeLines (whole : Bool) (pa n : Nat) : (rangeLines whole pa n).Nodup := by
  unfold rangeLines
  split
  · exact List.nodup_nil
  · split
    · exact nodup_upFrom _ _
    · exact nodup_upFrom _ _

/-- The bytes of a range up to the end of its block (R253). -/
theorem rangeEnd_sub (ea len : Nat) : rangeEnd ea len - ea = min len (4096 - ea % 4096) := by
  rw [rangeEnd]
  omega

namespace State

variable {s s' t u : State} {a b : Reg} {imm : BitVec 32} {need : Need} {whole : Bool} {act : List Nat → State → Out}
  {pa : Nat} {x : Xlate} {tlb : List Xlate}

/-! ## PREF (R254) -/

/-- u is s with events logged at most. -/
def Logged (s u : State) : Prop := { u with celog := s.celog, regs := s.regs } = s

theorem Logged.logPa (h : s.Logged u) (kind pa : Nat) : s.Logged (u.logPa kind pa) := h

theorem Logged.me (h : s.Logged u) : u.me = s.me :=
  calc u.me = State.me { u with celog := s.celog, regs := s.regs } := rfl
    _ = s.me := by rw [h]

theorem logged_bad (ls : List Nat) (h : s.Logged u) :
    s.Logged (ls.foldl (fun s l => if (s.line l).bad then s.logPa 5 (128 * l) else s) u) := by
  induction ls generalizing u with
  | nil => exact h
  | cons l ls ih =>
    refine ih ?_
    dsimp only
    split
    · exact h.logPa 5 (128 * l)
    · exact h

/-- PREF answers the next word, and logs at most. -/
theorem pref_logged (s : State) (a b : Reg) (imm : BitVec 32) : ∃ u, s.Logged u ∧ exec (.pref a b imm) s = u.skip := by
  rw [exec, execPref]
  dsimp only
  split
  · exact ⟨s, rfl, rfl⟩
  · split
    · split
      · exact ⟨_, logged_bad _ rfl, rfl⟩
      · exact ⟨s, rfl, rfl⟩
    · exact ⟨s, rfl, rfl⟩

/-! ## What a range instruction acts on (R253, R255) -/

/-- What DISCARD does with the lines inside its range (R255). -/
def discardAll (ls : List Nat) (s : State) : Out :=
  match s.discardLines ls with
  | some s => s.skip
  | none => s.waitTurn

theorem exec_discard_eq (s : State) (a b : Reg) (imm : BitVec 32) :
    exec (.discard a b imm) s = s.rangeOp needStore true a b imm discardAll := rfl

theorem exec_crwb_eq (s : State) (a b : Reg) (imm : BitVec 32) :
    exec (.crwb a b imm) s = s.rangeOp needLoad false a b imm fun ls s => (ls.foldl writeBackLine s).skip := rfl

theorem rangeOp_of_empty (h : (s.me.get b).toNat = 0) : s.rangeOp need whole a b imm act = .next (moved s) := if_pos h

theorem rangeOp_of_not_canonical (h : (s.me.get b).toNat ≠ 0) (hc : canonical (eaOf s a imm).toNat = false) :
    s.rangeOp need whole a b imm act = .next (s.trap .pageNotPresent 5 (eaOf s a imm)) := by
  have hc' : canonical (s.me.ea a imm).toNat = false := hc
  rw [rangeOp, if_neg h, hc']
  rfl

theorem touchLines_held (ls : List Nat) (h : ∀ l ∈ ls, (s.line l).copy = .held) : s.touchLines ls = some s := by
  induction ls with
  | nil => rfl
  | cons l ls ih =>
    have touched : s.touch (128 * l) = some s := s.touch_held _ (by rw [lineOf_mul]; exact h l List.mem_cons_self)
    rw [touchLines, touched]
    exact ih fun x hx => h x (List.mem_cons_of_mem _ hx)

/-- A range in HBM none of whose lines has first to revert. -/
theorem rangeOp_of_held {n : Nat} (hn : n = min (s.me.get b).toNat (4096 - (eaOf s a imm).toNat % 4096))
    (h : (s.me.get b).toNat ≠ 0) (hc : canonical (eaOf s a imm).toNat = true)
    (ht : s.translate s.coreCtx s.me.tlb 256 need (s.rangeCheck whole n) (eaOf s a imm).toNat = .ok pa x tlb s')
    (hbm : windowOf pa = .hbm) (held : ∀ l ∈ rangeLines whole pa n, (s'.line l).copy = .held) :
    s.rangeOp need whole a b imm act = act (rangeLines whole pa n) (s'.keepTlb tlb) := by
  have bytes : rangeEnd (s.me.ea a imm).toNat (s.me.get b).toNat - (s.me.ea a imm).toNat = n := (rangeEnd_sub _ _).trans hn.symm
  have hc' : canonical (s.me.ea a imm).toNat = true := hc
  have ht' : s.translate s.coreCtx s.me.tlb 256 need (s.rangeCheck whole n) (s.me.ea a imm).toNat = .ok pa x tlb s' := ht
  have window : windowOf pa ≠ .unbacked := by rw [hbm]; decide
  have touched : (s'.setMe { s'.me with tlb := tlb }).touchLines (rangeLines whole pa n) = some (s'.keepTlb tlb) :=
    touchLines_held _ held
  rw [rangeOp]
  simp only [if_neg h, hc', bytes, ht', if_neg window, touched, Bool.not_true, Bool.false_eq_true, if_false]

/-! ## CRWB (R256) -/

theorem writeBackLine_hbm {l : Nat} (held : (s.line l).copy = .held) (q : Nat) :
    (s.writeBackLine l).hbm.read q =
      if lineOf q = l ∧ ((s.line l).st = .m ∨ (s.line l).st = .o) then s.mem.read q else s.hbm.read q := by
  by_cases dirty : (s.line l).st = .m ∨ (s.line l).st = .o
  · obtain ⟨⟨-, takes⟩, -⟩ := writeBackLine_eq s l dirty (by rw [held]; decide)
    have inside : 128 * l ≤ q ∧ q < 128 * l + 128 ↔ lineOf q = l := by
      rw [lineOf]
      omega
    simp only [takes q, inside, dirty, and_true]
  · rw [writeBackLine_of_clean s l (fun h => dirty (.inl h)) (fun h => dirty (.inr h)), if_neg fun h => dirty h.2]

/-- HBM takes the latest versions of the lines, and nothing else changes that a load reads. -/
theorem foldl_writeBackLine (ls : List Nat) (nodup : ls.Nodup) (held : ∀ l ∈ ls, (s.line l).copy = .held) :
    s.Moves (ls.foldl writeBackLine s) ∧ ∀ q, (ls.foldl writeBackLine s).hbm.read q =
      if lineOf q ∈ ls ∧ ((s.line (lineOf q)).st = .m ∨ (s.line (lineOf q)).st = .o) then s.mem.read q else s.hbm.read q := by
  induction ls generalizing s with
  | nil => exact ⟨.refl s, fun q => (if_neg fun h => List.not_mem_nil h.1).symm⟩
  | cons l ls ih =>
    obtain ⟨fresh, nodup⟩ := List.nodup_cons.1 nodup
    have first := Moves.writeBackLine s l
    have rest := RestOf.writeBackLine s l
    obtain ⟨moves, hbm⟩ := ih nodup fun x hx => by
      rw [rest x (ne_of_mem_of_not_mem hx fresh)]
      exact held x (List.mem_cons_of_mem _ hx)
    refine ⟨first.trans moves, fun q => (hbm q).trans ?_⟩
    rw [first.mem, writeBackLine_hbm (held l List.mem_cons_self)]
    by_cases hq : lineOf q = l
    · simp only [hq, fresh, List.mem_cons_self, false_and, true_and, if_false]
    · simp only [rest _ hq, hq, List.mem_cons, false_or, false_and, if_false]

/-! ## DISCARD (R255) -/

/-- Every line of a list in turn is discarded, at clocks past its leases. -/
theorem discardLines_of_clocks (ls : List Nat) (nodup : ls.Nodup) (pts : s.me.pts ≤ Config.maxClock)
    (room : ∀ l ∈ ls, (s.line l).rts < Config.maxClock) : ∃ u p, s.discardLines ls = some u ∧ u.hbm = s.hbm ∧
      u.me = { s.me with pts := p } ∧ s.me.pts ≤ p ∧ (∀ l ∈ ls, (s.line l).rts < p) ∧
      ∀ q, u.mem.read q = if lineOf q ∈ ls then s.hbm.read q else s.mem.read q := by
  induction ls generalizing s with
  | nil => exact ⟨s, _, rfl, rfl, rfl, le_rfl, fun _ h => absurd h List.not_mem_nil, fun q => (if_neg List.not_mem_nil).symm⟩
  | cons l ls ih =>
    obtain ⟨fresh, nodup⟩ := List.nodup_cons.1 nodup
    have here := room l List.mem_cons_self
    have clock : max s.me.pts ((s.line (lineOf (128 * l))).rts + 1) ≤ Config.maxClock := by rw [lineOf_mul]; omega
    obtain ⟨u, e, done⟩ := discardStep_of_clock clock
    rw [lineOf_mul] at clock e done
    generalize ht : max s.me.pts ((s.line l).rts + 1) = t at clock e done
    have me : (u.setMe (u.me.raise t)).me = { s.me with pts := t } := by
      rw [me_setMe, done.steps.me, Core.raise, show max s.me.pts t = t by omega]
    have others : ∀ x ∈ ls, (u.setMe (u.me.raise t)).line x = s.line x := fun x hx => done.rest x (ne_of_mem_of_not_mem hx fresh)
    obtain ⟨v, p, e', hbm, me', le, past, mem⟩ := ih (s := u.setMe (u.me.raise t)) nodup (by rw [me]; exact clock)
      fun x hx => by rw [others x hx]; exact room x (List.mem_cons_of_mem _ hx)
    rw [me] at me' le
    refine ⟨v, p, by rw [discardLines, e]; exact e', hbm.trans done.hbm, me', by dsimp only at le; omega, ?_, fun q => ?_⟩
    · intro x hx
      obtain rfl | hx := List.mem_cons.1 hx
      · dsimp only at le
        omega
      · rw [← others x hx]
        exact past x hx
    · refine (mem q).trans ?_
      have hbmQ : (u.setMe (u.me.raise t)).hbm.read q = s.hbm.read q := congrArg (·.read q) done.hbm
      have memQ : (u.setMe (u.me.raise t)).mem.read q = _ := done.mem q
      rw [hbmQ, memQ]
      by_cases hq : lineOf q = l
      · simp only [hq, fresh, List.mem_cons_self, if_true, if_false]
      · simp only [hq, List.mem_cons, false_or, if_false]

end State

end Sys2Proof.Machine

/-- Settles O17: the checks of the range, then one step after another on its lines. -/
theorem rangeInstructions : Obligations.RangeInstructions := by
  unfold Obligations.RangeInstructions
  intro s a b imm ea len
  rw [State.exec_discard_eq, State.exec_crwb_eq]
  refine ⟨fun h => ⟨if_pos h, State.rangeOp_of_empty h, State.rangeOp_of_empty h⟩, ?_, fun h hc => ?_, fun h hc => ?_⟩
  · obtain ⟨u, logged, e⟩ := State.pref_logged s a b imm
    refine ⟨_, e, (u.me_setMe _).trans (congrArg _ logged.me), ?_⟩
    exact congrArg (fun v : State => { v with cores := s.cores }) (show { u with celog := s.celog, regs := s.regs } = s from logged)
  · exact ⟨⟨_, State.rangeOp_of_not_canonical h hc, trapped_trap s .pageNotPresent 5 ea⟩,
      _, State.rangeOp_of_not_canonical h hc, trapped_trap s .pageNotPresent 5 ea⟩
  · intro pa x tlb s' hbm n
    have pos : 0 < n := by omega
    refine ⟨?_, ?_⟩
    · intro ht held
      have me : s'.me = s.me := (((State.LineSteps.refl s).translate _ _ _ _ _ _).1 _ _ _ _ ht).me
      obtain ⟨moves, hbmq⟩ := State.foldl_writeBackLine (s := s'.keepTlb tlb) (rangeLines false pa n) (nodup_rangeLines ..)
        fun l _ => held l
      have me' := moves.steps.me
      refine ⟨_, State.rangeOp_of_held rfl h hc ht hbm fun l _ => held l, State.coreStep_advance me me', ?_, moves.mem,
        moves.stamps, fun q => (hbmq q).trans ?_⟩
      · rw [State.me_setMe, Core.advance_pts, me', State.me_keepTlb, me]
      · simp only [mem_rangeLines_touched pos, and_assoc]
        rfl
    · intro ht inside held pts room
      have me : s'.me = s.me := (((State.LineSteps.refl s).translate _ _ _ _ _ _).1 _ _ _ _ ht).me
      obtain ⟨u, p, e, hbmq, me', le, past, mem⟩ := State.discardLines_of_clocks (s := s'.keepTlb tlb) (rangeLines true pa n)
        (nodup_rangeLines ..) (by rw [State.me_keepTlb, me]; exact pts) fun l hl => room l ((mem_rangeLines_whole pos).1 hl)
      have clock : (u.setMe u.me.advance).me.pts = p := by rw [State.me_setMe, Core.advance_pts, me']
      rw [State.me_keepTlb, me] at le
      have lines := State.rangeOp_of_held (act := State.discardAll) rfl h hc ht hbm
        fun l hl => held l ((mem_rangeLines_whole pos).1 hl)
      refine ⟨u.setMe u.me.advance, lines.trans (by rw [State.discardAll, e]; rfl), State.coreStep_advance me me', hbmq, ?_,
        fun l hl => ?_, fun q hq => ?_, fun q hq => ?_⟩
      · rw [clock]
        exact le
      · rw [clock]
        exact past l ((mem_rangeLines_whole pos).2 hl)
      · exact (mem q).trans (if_pos ((mem_rangeLines_whole pos).2 hq))
      · exact (mem q).trans (if_neg fun hl => hq ((mem_rangeLines_whole pos).1 hl))

end

/-! # O58: fences, graft ports, tower links and banks off line -/

section
open Sys2Proof Sys2Proof.Machine Sys2Proof.Claims
namespace Sys2Proof.Machine

/-! ## GPORT (R367) -/

theorem bits31_lt (v : Word) : bits v 31 0 < 2 ^ 32 := Nat.mod_lt _ (Nat.two_pow_pos _)

theorem gportWord_down {retries : Nat} (h : retries < 2 ^ 32) : bitAt (gportWord false 0 0 retries) 63 = false ∧
    bits (gportWord false 0 0 retries) 62 53 = 0x3FF ∧ bits (gportWord false 0 0 retries) 31 0 = retries := by
  have small : 0x3FF * 2 ^ 53 + retries < 2 ^ 64 := by omega
  simp only [gportWord, Bool.false_eq_true, if_false]
  rw [bitAt_ofNat small, bits_ofNat _ _ small, bits_ofNat _ _ small]
  exact ⟨decide_eq_false (by omega), by omega, by omega⟩

theorem gportWord_up {peer lanes retries : Nat} (hp : peer < 1024) (hl : lanes < 16) (h : retries < 2 ^ 32) :
    bitAt (gportWord true peer lanes retries) 63 = true ∧ bits (gportWord true peer lanes retries) 62 53 = peer ∧
      bits (gportWord true peer lanes retries) 52 49 = lanes ∧ bits (gportWord true peer lanes retries) 31 0 = retries := by
  have small : 2 ^ 63 + peer * 2 ^ 53 + lanes * 2 ^ 49 + retries < 2 ^ 64 := by omega
  simp only [gportWord, if_true, Nat.mod_eq_of_lt hp, Nat.mod_eq_of_lt hl]
  rw [bitAt_ofNat small, bits_ofNat _ _ small, bits_ofNat _ _ small, bits_ofNat _ _ small]
  exact ⟨decide_eq_true (by omega), by omega, by omega, by omega⟩

namespace State

variable {s t u v : State} {k l p : Nat}

/-! ## Logged events (R381) -/

theorem logTower_getLast (s : State) {tower : Nat} (kind : Nat) {detail : Nat} (ht : tower < 4) (hd : detail < 2 ^ 40) :
    (s.logTower tower kind detail).celog.getLast? = some ⟨s.towerId tower, 0, 0, 0, kind, detail⟩ := by
  simp only [logTower, logEvent, Nat.mod_eq_of_lt ht, Nat.mod_eq_of_lt hd]
  split
  · exact List.getLast?_concat
  · next h =>
    rw [List.getLast?_tail, if_neg (by omega), List.getLast?_concat]

theorem gport_setGport (s : State) (p : Nat) (v : Word) (q : Nat) : (s.setGport p v).gport q = if q = p then v else s.gport q :=
  Table.getD_set _ _ _ _ _

/-! ## Banks off line (R63) -/

/-- The lines that lie in home ways of t lie in home ways of s. -/
def HomeStays (s t : State) : Prop := ∀ l, (t.line l).place = .home → (s.line l).place = .home

theorem HomeStays.trans (h : s.HomeStays t) (k : t.HomeStays u) : s.HomeStays u := fun l hl => h l (k l hl)

theorem homeStays_leaveHome (s : State) (l : Nat) : s.HomeStays (s.leaveHome l) := by
  intro x hx
  by_cases here : x = l
  · subst here
    rw [leaveHome_place] at hx
    nomatch hx
  · rwa [RestOf.leaveHome s l x here] at hx

theorem place_writeBackLine (s : State) (l : Nat) : ((s.writeBackLine l).line l).place = (s.line l).place := by
  simp only [writeBackLine]
  split
  · rw [line_toHbm, line_setLine]
    rfl
  · rfl

theorem place_leaveRemote (s : State) (l : Nat) : ((s.leaveRemote l).line l).place = (s.line l).place := by
  simp only [leaveRemote]
  split
  · rw [line_setLine]
    rfl
  · exact s.place_writeBackLine l

theorem homeStays_leaveRemote (s : State) (l : Nat) : s.HomeStays (s.leaveRemote l) := by
  intro x hx
  by_cases here : x = l
  · subst here
    rwa [place_leaveRemote] at hx
  · rwa [RestOf.leaveRemote s l x here] at hx

/-- Lines that leave their home ways one after another. -/
theorem foldl_leaveHome (s : State) (ls : List Nat) : s.Moves (ls.foldl leaveHome s) ∧ s.HomeStays (ls.foldl leaveHome s) ∧
    ∀ l ∈ ls, ((ls.foldl leaveHome s).line l).place ≠ .home := by
  induction ls generalizing s with
  | nil => exact ⟨.refl s, fun _ h => h, nofun⟩
  | cons l ls ih =>
    obtain ⟨moves, stays, out⟩ := ih (s.leaveHome l)
    refine ⟨(Moves.leaveHome s l).trans moves, (s.homeStays_leaveHome l).trans stays, fun x hx => ?_⟩
    obtain rfl | hx := List.mem_cons.1 hx
    · intro home
      have := stays x home
      rw [leaveHome_place] at this
      nomatch this
    · exact out x hx

/-- Lines that leave their remote ways one after another. -/
theorem foldl_leaveRemote (s : State) (ls : List Nat) :
    s.Moves (ls.foldl leaveRemote s) ∧ s.HomeStays (ls.foldl leaveRemote s) := by
  induction ls generalizing s with
  | nil => exact ⟨.refl s, fun _ h => h⟩
  | cons l ls ih =>
    obtain ⟨moves, stays⟩ := ih (s.leaveRemote l)
    exact ⟨(Moves.leaveRemote s l).trans moves, (s.homeStays_leaveRemote l).trans stays⟩

theorem mem_bankLines_home {t k l : Nat} (hk : crownBankOf (128 * l) = k) (ht : homeOf (128 * l) = s.towerId t)
    (h : (s.line l).place = .home) : l ∈ s.bankLines t k false := by
  have listed : l ∈ s.lines.keys := by
    by_contra no
    rw [line, Table.getD, Table.get_eq_none_iff.2 no] at h
    nomatch h
  exact List.mem_filter.2 ⟨listed, by simp [inHomeWay, hk, ht, h]⟩

/-- The state in which a bank is off line, its lines out of their ways (R57, R63). -/
def offlined (s : State) (t k : Nat) : State :=
  let u := (s.bankLines t k false).foldl leaveHome s
  let v := (u.bankLines t k true).foldl leaveRemote u
  v.setBank t k { s.bank t k with offline := true }

theorem offlined_spec (s : State) (t k : Nat) : (s.offlined t k).mem = s.mem ∧ (s.offlined t k).pkg = s.pkg ∧
    (∀ l, crownBankOf (128 * l) = k → homeOf (128 * l) = s.towerId t → ((s.offlined t k).line l).place ≠ .home) ∧
    ∀ m, (s.offlined t k).bank t m = if m = k then { s.bank t k with offline := true } else s.bank t m := by
  obtain ⟨moves, stays, out⟩ := s.foldl_leaveHome (s.bankLines t k false)
  obtain ⟨moves', stays'⟩ := foldl_leaveRemote _ (bankLines ((s.bankLines t k false).foldl leaveHome s) t k true)
  have steps := moves.steps.trans moves'.steps
  refine ⟨moves'.mem.trans moves.mem, steps.pkg, fun l hk ht home => ?_, fun m => ?_⟩
  · have before := stays' l home
    exact out l (mem_bankLines_home hk ht (stays l before)) before
  · rw [offlined, bank, setBank, Table.getD_set]
    simp only [Nat.add_left_cancel_iff, steps.banks]
    rfl

theorem exec_bankOffline_eq {t k : Nat} (ht : t < 4) (hk : k < 64) : exec (.bankOffline (64 * t + k)) s =
    .next (if (s.bank t k).offline then s else (s.offlined t k).logTower t 1 k) := by
  rw [exec, execBankOffline]
  have tower : (64 * t + k) / 64 % 4 = t := by omega
  have number : (64 * t + k) % 64 = k := by omega
  rw [tower, number]
  dsimp only
  split
  · rfl
  · rfl

/-! ## The first access to a line whose copy may be lost (R352, R370) -/

/-- u is s once the line of pa has reverted, as a discard of the home agent. -/
structure Reverts (s u : State) (pa t : Nat) : Prop where
  rest : ∀ l, l ≠ lineOf pa → u.line l = s.line l
  mem : ∀ b, u.mem.read b = if lineOf b = lineOf pa then s.hbm.read b else s.mem.read b
  line : (u.line (lineOf pa)).st = .i ∧ (u.line (lineOf pa)).owner = 0x3FF ∧ (u.line (lineOf pa)).place = .none ∧
    (u.line (lineOf pa)).copy = .held ∧ (u.line (lineOf pa)).wts = t ∧ (u.line (lineOf pa)).rts = t
  clock : u.homeClock (pkgOf pa) = t

theorem revertLine_reverts {pa : Nat} (h : max (s.homeClock (pkgOf pa)) ((s.line (lineOf pa)).rts + 1) ≤ Config.maxClock) :
    ∃ u, s.revertLine pa = some u ∧ s.Reverts u pa (max (s.homeClock (pkgOf pa)) ((s.line (lineOf pa)).rts + 1)) := by
  obtain ⟨u, e, done⟩ := discardStep_of_clock h
  have clocks : u.homeClock (pkgOf pa) = s.homeClock (pkgOf pa) := by rw [homeClock, done.clocks, homeClock]
  obtain ⟨st, owner, place, copy⟩ := done.gone
  have e' : s.revertLine pa = some (u.setHomeClock (pkgOf pa) (max (max (s.homeClock (pkgOf pa)) ((s.line (lineOf pa)).rts + 1))
      (u.homeClock (pkgOf pa)))) := by
    rw [revertLine, e]
    rfl
  refine ⟨_, e', done.rest, done.mem, ⟨st, owner, place, copy, done.wts, done.rts⟩, ?_⟩
  refine (Table.getD_set_self ..).trans ?_
  rw [clocks]
  omega

theorem touch_asked {pa : Nat} (h : (s.line (lineOf pa)).copy = .asked) : s.touch pa =
    if (s.choose 2).1 = 0 then
      some ((s.choose 2).2.setLine (lineOf pa) { (s.choose 2).2.line (lineOf pa) with copy := .held })
    else (s.choose 2).2.revertLine pa := by
  rw [touch, h]

/-- A line asked for is held, or reverts (R370). -/
theorem touch_of_asked {pa : Nat} (h : (s.line (lineOf pa)).copy = .asked)
    (room : max (s.homeClock (pkgOf pa)) ((s.line (lineOf pa)).rts + 1) ≤ Config.maxClock) : ∃ u, s.touch pa = some u ∧
      (s.Reverts u pa (max (s.homeClock (pkgOf pa)) ((s.line (lineOf pa)).rts + 1)) ∨
        u = (s.choose 2).2.setLine (lineOf pa) { s.line (lineOf pa) with copy := .held }) := by
  have same : (s.choose 2).2 = { s with fresh := s.fresh + 1 } := rfl
  rw [touch_asked h]
  split
  · exact ⟨_, rfl, .inr (by rw [same]; rfl)⟩
  · rw [same]
    obtain ⟨u, e, rest, mem, line, clock⟩ := revertLine_reverts (s := { s with fresh := s.fresh + 1 }) room
    exact ⟨u, e, .inl ⟨rest, mem, line, clock⟩⟩

/-! ## Fencing (R368 to R370) -/

/-- u is s once a message about package k has been applied: the bits of the other packages, memory and the registers stay. -/
structure FencingOf (s u : State) (k : Nat) : Prop where
  others : ∀ m, m ≠ k → u.isFenced m = s.isFenced m
  mem : u.mem = s.mem
  hbm : u.hbm = s.hbm
  pkg : u.pkg = s.pkg
  regs : u.regs = s.regs

/-- What a line of package k is once k is fenced (R368). -/
def dropped (s : State) (li : LineInfo) : LineInfo :=
  { li with old := [], copy := if li.owned = true ∧ li.owner / 4 = s.pkg then .lost else li.copy }

/-- What a line is once package k is unfenced (R370). -/
def askedFor (k : Nat) (li : LineInfo) : LineInfo :=
  { li with copy := if li.owned = true ∧ li.owner / 4 = k ∧ li.copy = .held then .asked else li.copy }

theorem askedFor_eq (k : Nat) : askedFor k = fun li : LineInfo =>
    if li.owned && li.owner / 4 = k && li.copy = .held then { li with copy := .asked } else li := by
  funext li
  simp only [askedFor, Bool.and_eq_true, decide_eq_true_eq, and_assoc]
  split
  · rfl
  · rfl

theorem applyFence_spec (hk : k ≠ s.pkg) : (s.applyFence k).isFenced k = true ∧ s.FencingOf (s.applyFence k) k ∧
    (∀ l, pkgOf (128 * l) ≠ k → (s.applyFence k).line l = s.line l) ∧
    ∀ l, pkgOf (128 * l) = k → s.isFenced k = false → (s.applyFence k).line l = s.dropped (s.line l) := by
  by_cases already : s.isFenced k = true
  · rw [applyFence, if_pos (by simp [already])]
    exact ⟨already, ⟨fun _ _ => rfl, rfl, rfl, rfl, rfl⟩, fun _ _ => rfl, fun _ _ h => by simp [already] at h⟩
  · have line (l : Nat) : (s.applyFence k).line l = if pkgOf (128 * l) ≠ k then s.line l else s.dropped (s.line l) := by
      have lines : (s.applyFence k).lines =
          s.lines.map fun (l, li) => (l, if pkgOf (128 * l) ≠ k then li else s.dropped li) := by
        rw [applyFence, if_neg (by simp [hk, already])]
        simp [dropped]
      rw [State.line, State.line, Table.getD, Table.getD, lines,
        Table.get_mapKeyed s.lines fun l li => if pkgOf (128 * l) ≠ k then li else s.dropped li]
      cases s.lines.get l with
      | none => simp [dropped, LineInfo.reset, LineInfo.owned]
      | some li => rfl
    refine ⟨?_, ⟨fun m hm => ?_, ?_, ?_, ?_, ?_⟩, fun l h => (line l).trans (if_pos h),
      fun l h _ => (line l).trans (if_neg (not_not.2 h))⟩
    all_goals rw [applyFence, if_neg (by simp [hk, already])]
    · simp [isFenced]
    · simp [isFenced, hm]

theorem applyUnfence_spec (s : State) (k : Nat) : (s.applyUnfence k).isFenced k = false ∧ s.FencingOf (s.applyUnfence k) k ∧
    ∀ l, (s.applyUnfence k).line l = if s.isFenced k = true then askedFor k (s.line l) else s.line l := by
  by_cases fenced : s.isFenced k = true
  · have line (l : Nat) : (s.applyUnfence k).line l = askedFor k (s.line l) := by
      have lines : (s.applyUnfence k).lines = s.lines.mapVals (askedFor k) := by
        rw [askedFor_eq, applyUnfence, if_neg (by simp [fenced])]
      rw [State.line, lines]
      exact Table.getD_mapVals s.lines (askedFor k) l LineInfo.reset
    refine ⟨?_, ⟨fun m hm => ?_, ?_, ?_, ?_, ?_⟩, fun l => (line l).trans (if_pos fenced).symm⟩
    all_goals rw [applyUnfence, if_neg (by simp [fenced])]
    · simp [isFenced]
    · simp [isFenced, hm]
  · rw [applyUnfence, if_pos (by simp [fenced])]
    exact ⟨Bool.eq_false_iff.2 fenced, ⟨fun _ _ => rfl, rfl, rfl, rfl, rfl⟩, fun l => (if_neg fenced).symm⟩

/-- The messages about package k that go out from s (R368, R370). -/
def told (s : State) (k : Nat) (fence own : Bool) : List FenceMsg :=
  ((List.range 256).filter fun d => d ≠ s.pkg && d ≠ k && !s.isFenced d && s.routed d).map fun d => ⟨d, k, fence, own⟩

theorem sendFences_fences (h : s.FencingOf u k) (fence own : Bool) :
    (u.sendFences k fence own).regs.fences = s.regs.fences ++ s.told k fence own := by
  rw [sendFences, h.regs, told, reached, List.filter_filter]
  have same (d : Nat) : (decide (d ≠ k) && (decide (d ≠ u.pkg) && !u.isFenced d && u.routed d)) =
      (decide (d ≠ s.pkg) && decide (d ≠ k) && !s.isFenced d && s.routed d) := by
    by_cases hd : d = k
    · simp [hd]
    · rw [routed, routed, h.pkg, h.regs, h.others d hd]
      simp [hd]
  simp only [same]

/-- FENCECTL once the state's messages have been seen to: only BUSY may differ (R368). -/
theorem fenceDone_spec (s : State) : ∃ v, s.fenceDone = { s with regs := { s.regs with fencectl := v } } ∧
    (bitAt s.regs.fencectl 63 = true → bitAt v 63 = s.regs.fences.any (·.own)) := by
  rw [fenceDone]
  split
  · next own => exact ⟨_, rfl, fun busy => busy.trans own.symm⟩
  · next none =>
    refine ⟨_, rfl, fun _ => ?_⟩
    rw [Bool.eq_false_iff.2 none]
    show (s.regs.fencectl &&& ~~~(BitVec.ofNat 64 (2 ^ 63))).getLsbD 63 = false
    rw [BitVec.getLsbD_and, show (~~~(BitVec.ofNat 64 (2 ^ 63))).getLsbD 63 = false by decide, Bool.and_false]

theorem exec_packageFence_eq (h : s.fenceMove k true = u) : exec (.packageFence k) s = .next u := congrArg Host.Outcome.next h

theorem exec_packageUnfence_eq (h : s.fenceMove k false = u) : exec (.packageUnfence k) s = .next u :=
  congrArg Host.Outcome.next h

/-- FENCECTL's request is applied, its messages go out, and BUSY stays while there are any (R368, R370). -/
theorem fenceMove_of_request {fence : Bool} (asked : s.fenceRequest (if fence then 1 else 2) k = true)
    (quiet : ∀ m ∈ s.regs.fences, m.own = false) (h : s.FencingOf (s.applyFencing k fence) k) :
    ∃ v, s.fenceMove k fence = { s.applyFencing k fence with
        regs := { s.regs with fences := s.regs.fences ++ s.told k fence true, fencectl := v } } ∧
      bitAt v 63 = !(s.told k fence true).isEmpty := by
  have none : s.regs.fences.any (·.own) = false := List.any_eq_false.2 fun m hm => by simp [quiet m hm]
  have busy : bitAt s.regs.fencectl 63 = true := by
    simp only [fenceRequest, Bool.and_eq_true] at asked
    exact asked.1.1
  have sent := sendFences_fences h fence true
  obtain ⟨v, e, bit⟩ := ((s.applyFencing k fence).sendFences k fence true).fenceDone_spec
  refine ⟨v, ?_, (bit ?_).trans ?_⟩
  · simp only [fenceMove, asked, none, if_true, Bool.false_eq_true, if_false, e, sent]
    rw [sendFences, h.regs]
  · rw [sendFences, h.regs]
    exact busy
  · rw [sent, List.any_append, none, Bool.false_or, told, List.any_map]
    cases (List.range 256).filter _ with
    | nil => rfl
    | cons d ds => rfl

/-- The request's messages that are still out once a move has given up those that cannot arrive and acknowledged one (R368). -/
def awaited (s : State) : List FenceMsg := (s.regs.fences.filter fun m => !m.own || s.routed m.dest).eraseP (·.own)

theorem fenceMove_of_waiting {fence : Bool} (asked : s.fenceRequest (if fence then 1 else 2) k = true)
    (out : s.regs.fences.any (·.own) = true) :
    ∃ v, s.fenceMove k fence = { s with regs := { s.regs with fences := s.awaited, fencectl := v } } ∧
      bitAt v 63 = s.awaited.any (·.own) := by
  have busy : bitAt s.regs.fencectl 63 = true := by
    simp only [fenceRequest, Bool.and_eq_true] at asked
    exact asked.1.1
  obtain ⟨v, e, bit⟩ := State.fenceDone_spec { s with regs := { s.regs with fences := s.awaited } }
  refine ⟨v, ?_, bit busy⟩
  have erased := List.eraseP_eq_eraseIdx (xs := s.regs.fences.filter fun m => !m.own || s.routed m.dest) (p := (·.own))
  rw [fenceMove, if_pos asked, if_pos out, ← e, awaited, erased]
  dsimp only
  cases (s.regs.fences.filter fun m => !m.own || s.routed m.dest).findIdx? (·.own) with
  | none => rfl
  | some i => rfl

theorem filter_eraseP {α : Type} {p q : α → Bool} (h : ∀ x, p x = true → q x = false) (l : List α) :
    (l.eraseP p).filter q = l.filter q := by
  induction l with
  | nil => rfl
  | cons x l ih =>
    by_cases hp : p x = true
    · rw [List.eraseP_cons_of_pos hp, List.filter_cons_of_neg (by simp [h x hp])]
    · rw [List.eraseP_cons_of_neg hp, List.filter_cons, List.filter_cons, ih]

/-- The messages of others stay, and one of the request's at least is gone. -/
theorem awaited_spec (out : s.regs.fences.any (·.own) = true) : s.awaited.length < s.regs.fences.length ∧
    s.awaited.filter (!·.own) = s.regs.fences.filter (!·.own) := by
  refine ⟨?_, ?_⟩
  · rw [awaited, List.length_eraseP]
    have le := List.length_filter_le (fun m : FenceMsg => !m.own || s.routed m.dest) s.regs.fences
    obtain ⟨m, hm, own⟩ := List.any_eq_true.1 out
    split
    · have pos := List.length_pos_of_mem hm
      omega
    · next none =>
      refine List.length_filter_lt_length_iff_exists.2 ⟨m, hm, fun kept => none ?_⟩
      exact List.any_eq_true.2 ⟨m, List.mem_filter.2 ⟨hm, kept⟩, own⟩
  · rw [awaited, filter_eraseP (by simp), List.filter_filter]
    congr 1
    funext m
    cases m.own <;> simp

/-- Without a request the first message of this kind about the package that was passed on is delivered (R368). -/
theorem fenceMove_of_no_request {fence : Bool} (no : s.fenceRequest (if fence then 1 else 2) k = false) : s.fenceMove k fence =
    { s with regs := { s.regs with
      fences := s.regs.fences.eraseP fun m => !m.own && m.pkg = k && m.fence = fence } } := by
  rw [fenceMove, if_neg (by simp [no]), List.eraseP_eq_eraseIdx]
  cases s.regs.fences.findIdx? fun m => !m.own && m.pkg = k && m.fence = fence with
  | none => rfl
  | some i => rfl

theorem exec_fenceMessage_fence (hk : k < 256) (ne : k ≠ s.pkg) (free : s.isFenced k = false) :
    exec (.fenceMessage k) s = .next ((s.applyFence k).sendFences k true false) := by
  rw [exec, execFenceMessage]
  simp only [Nat.mod_eq_of_lt hk, hk, free, ne]
  rw [if_neg (by simp; omega)]
  rfl

theorem exec_fenceMessage_unfence (hk : k < 256) (ne : k ≠ s.pkg) (fenced : s.isFenced k = true) :
    exec (.fenceMessage (k + 256)) s = .next ((s.applyUnfence k).sendFences k false false) := by
  rw [exec, execFenceMessage]
  simp only [Nat.add_mod_right, Nat.mod_eq_of_lt hk, fenced, ne]
  rw [if_neg (by simp; omega), show decide (k + 256 < 256) = false by simp]
  rfl

theorem exec_fenceMessage_ignored {n : Nat} (h : 512 ≤ n ∨ n % 256 = s.pkg ∨ s.isFenced (n % 256) = decide (n < 256)) :
    exec (.fenceMessage n) s = .next s := by
  rw [exec, execFenceMessage, if_pos]
  simpa [or_assoc] using h

end State

end Sys2Proof.Machine

/-- Settles O58: fencing by what a message applies and sends, the first access by the discard of its line, ports and links by
their registers, and a bank by the lines that leave it. -/
theorem packageEvents : Obligations.PackageEvents := by
  unfold Obligations.PackageEvents
  intro s logged
  refine ⟨fun k hk ne => ?_, fun k h small => ?_, fun pa => ?_, fun p hp => ?_, fun t u' ht hu ne => ?_, fun t k ht hk => ?_⟩
  · intro told others fence unfence quiet
    obtain ⟨bit, frame, elsewhere, here⟩ := State.applyFence_spec ne
    obtain ⟨bit', frame', line'⟩ := s.applyUnfence_spec k
    have fences (r own) (h : r.fences = s.regs.fences ++ s.told k true own) : fence { s.applyFence k with regs := r } own :=
      ⟨bit, ⟨frame.others, frame.mem, frame.hbm⟩, elsewhere, here, h⟩
    have unfences (r own) (h : r.fences = s.regs.fences ++ s.told k false own) :
        unfence { s.applyUnfence k with regs := r } own := by
      refine ⟨bit', ⟨frame'.others, frame'.mem, frame'.hbm⟩, fun l => (line' l).trans ?_, h⟩
      by_cases fenced : s.isFenced k = true
      · simp only [fenced, if_true, State.askedFor, and_true]
      · rw [if_neg fenced]
        simp only [fenced, Bool.false_eq_true, and_false, if_false]
    refine ⟨?_, ?_, ?_, ?_, ?_, ?_, ?_⟩
    · intro asked none
      obtain ⟨v, e, busy⟩ := State.fenceMove_of_request (fence := true) asked none frame
      exact ⟨_, State.exec_packageFence_eq e, fences _ _ rfl, busy⟩
    · intro asked none
      obtain ⟨v, e, busy⟩ := State.fenceMove_of_request (fence := false) asked none frame'
      exact ⟨_, State.exec_packageUnfence_eq e, unfences _ _ rfl, busy⟩
    · intro i asked out
      have out' : s.regs.fences.any (·.own) = true := by
        by_contra no
        exact out fun m hm => by simpa using List.any_eq_false.1 (Bool.eq_false_iff.2 no) m hm
      obtain ⟨shorter, rest⟩ := State.awaited_spec out'
      rcases asked with ⟨rfl, asked⟩ | ⟨rfl, asked⟩
      · obtain ⟨v, e, busy⟩ := State.fenceMove_of_waiting (fence := true) asked out'
        exact ⟨_, State.exec_packageFence_eq e, rfl, rfl, shorter, rest, by rw [busy, List.any_eq_true]⟩
      · obtain ⟨v, e, busy⟩ := State.fenceMove_of_waiting (fence := false) asked out'
        exact ⟨_, State.exec_packageUnfence_eq e, rfl, rfl, shorter, rest, by rw [busy, List.any_eq_true]⟩
    · intro a m b list own pkg isFence first no
      have erased : s.regs.fences.eraseP (fun m => !m.own && m.pkg = k && m.fence = true) = a ++ b := by
        rw [list, List.eraseP_append_right _ fun x hx => by simpa [and_assoc] using first x hx,
          List.eraseP_cons_of_pos (by simp [own, pkg, isFence])]
      exact State.exec_packageFence_eq ((State.fenceMove_of_no_request (fence := true) no).trans (by rw [erased]))
    · intro none
      have kept (fence : Bool) : s.regs.fences.eraseP (fun m => !m.own && m.pkg = k && m.fence = fence) = s.regs.fences :=
        List.eraseP_of_forall_not fun x hx => by
          have := none x hx
          simp only [Bool.and_eq_true, Bool.not_eq_true', decide_eq_true_eq]
          exact fun h => this h.1
      exact ⟨fun no => State.exec_packageFence_eq ((State.fenceMove_of_no_request (fence := true) no).trans (by rw [kept])),
        fun no => State.exec_packageUnfence_eq ((State.fenceMove_of_no_request (fence := false) no).trans (by rw [kept]))⟩
    · intro free
      refine ⟨State.exec_fenceMessage_ignored (.inr (.inr ?_)), _, State.exec_fenceMessage_fence hk ne free,
        fences _ _ (State.sendFences_fences frame true false)⟩
      rw [Nat.add_mod_right, Nat.mod_eq_of_lt hk, free]
      simp
    · intro fenced
      refine ⟨State.exec_fenceMessage_ignored (.inr (.inr ?_)), _, State.exec_fenceMessage_unfence hk ne fenced,
        unfences _ _ (State.sendFences_fences frame' false false)⟩
      rw [Nat.mod_eq_of_lt hk, fenced]
      simp [hk]
  · refine State.exec_fenceMessage_ignored ?_
    rcases h with rfl | h
    · exact .inr (.inl (Nat.mod_eq_of_lt small))
    · exact .inl h
  · intro li t reverts
    have reverted (u : State) (h : s.Reverts u pa t) : reverts u := ⟨h.rest, h.mem, h.line, h.clock⟩
    refine ⟨s.touch_held pa, fun lost room => ?_, fun asked room => ?_⟩
    · obtain ⟨u, e, h⟩ := State.revertLine_reverts room
      exact ⟨u, by rw [State.touch, show (s.line (lineOf pa)).copy = .lost from lost]; exact e, reverted u h⟩
    · obtain ⟨u, e, h | rfl⟩ := State.touch_of_asked asked room
      · exact ⟨u, e, .inl (reverted u h)⟩
      · exact ⟨_, e, .inr ⟨rfl, State.line_setLine .., fun l hl => State.line_setLine_ne _ _ _ _ hl⟩⟩
  · refine ⟨fun up => ?_, fun down => ?_, fun peer lanes small lo hi => ?_⟩
    · refine ⟨_, if_pos (by simp [hp, up]), ⟨_, State.logTower_getLast _ 6 (by omega) (by omega), rfl, rfl, rfl⟩,
        fun q hq => (s.gport_setGport p _ q).trans (if_neg hq), ?_⟩
      exact ((s.gport_setGport p _ p).trans (if_pos rfl)).symm ▸ gportWord_down (bits31_lt _)
    · exact if_neg (by simp [down])
    · refine ⟨_, if_pos (by simp [hp, lo, hi]), fun q hq => (s.gport_setGport p _ q).trans (if_neg hq), ?_⟩
      exact ((s.gport_setGport p _ p).trans (if_pos rfl)).symm ▸ gportWord_up small (by omega) (bits31_lt _)
  · intro link
    refine ⟨fun no => ?_, fun there => ?_, fun lane small => ?_⟩
    · have fresh : s.regs.bypass.contains (linkOf t u') = false := Bool.eq_false_iff.2 (mt List.contains_iff_mem.1 no)
      exact ⟨_, if_neg (by simp [ne, fresh, ht, hu, -List.contains_eq_mem]), List.mem_cons_self,
        ⟨_, State.logTower_getLast _ 3 ht (by omega), rfl, rfl, rfl⟩, rfl⟩
    · have bypassed : s.regs.bypass.contains (linkOf t u') = true := List.contains_iff_mem.2 there
      exact if_pos (by rw [bypassed, Bool.or_true])
    · exact ⟨_, if_neg (by simp [ne, ht, hu]), Table.get_set_self .., ⟨_, State.logTower_getLast _ 3 ht small, rfl, rfl, rfl⟩, rfl⟩
  · rw [State.exec_bankOffline_eq ht hk]
    obtain ⟨mem, pkg, out, bank⟩ := s.offlined_spec t k
    refine ⟨fun on => ?_, fun off => by rw [if_pos off]⟩
    rw [if_neg (by simp [on])]
    refine ⟨_, rfl, ?_, ⟨_, State.logTower_getLast _ 1 ht (by omega), ?_, rfl, rfl⟩, mem, out,
      fun m hm _ => (bank m).trans (if_neg hm)⟩
    · exact congrArg Bank.offline ((bank k).trans (if_pos rfl))
    · rw [State.towerId, pkg]
      rfl

end

/-! # O43: the memory unit's source and sink, SW.VERT, and the ends of fills and drains -/

section
open Sys2Proof Sys2Proof.Machine Sys2Proof.Claims
namespace Sys2Proof.Machine

/-- A part of the bytes read. -/
theorem Memory.take_drop_readN (m : Memory) (a : Nat) {n k j : Nat} (h : k + j ≤ n) :
    ((m.readN a n).drop k).take j = m.readN (a + k) j := by
  apply List.ext_getElem (by rw [List.length_take, List.length_drop, length_readN, length_readN]; omega)
  intro i _ hi
  rw [length_readN] at hi
  have left := getD_readN m a n (k + i) (by omega)
  have right := getD_readN m (a + k) j i hi
  rw [List.getD_eq_getElem _ _ (by rw [length_readN]; omega)] at left right
  rw [List.getElem_take, List.getElem_drop, left, right, Nat.add_assoc]

namespace Cluster

variable (c : Cluster)

/-! ## What a token taken or sent leaves (R104) -/

theorem popQ_frame (n : Nat) : ∃ q marked ended, c.popQ n = { c with q := q, marked := marked, ended := ended } := by
  unfold popQ
  split
  · exact ⟨_, _, _, rfl⟩
  · obtain ⟨_, _, e⟩ := (c.setQueue n _).note_spec n _
    exact ⟨_, _, _, e⟩

@[simp] theorem mu_popQ (n : Nat) : (c.popQ n).mu = c.mu := by
  obtain ⟨_, _, _, e⟩ := c.popQ_frame n
  rw [e]

@[simp] theorem leaf_popQ (n : Nat) : (c.popQ n).leaf = c.leaf := by
  obtain ⟨_, _, _, e⟩ := c.popQ_frame n
  rw [e]

@[simp] theorem tile_popQ (n k : Nat) : (c.popQ n).tile k = c.tile k := by
  obtain ⟨_, _, _, e⟩ := c.popQ_frame n
  rw [e]
  rfl

@[simp] theorem buf_popQ (n b : Nat) : (c.popQ n).buf b = c.buf b := by
  obtain ⟨_, _, _, e⟩ := c.popQ_frame n
  rw [e]
  rfl

@[simp] theorem mu_note (n kind : Nat) : (c.note n kind).mu = c.mu := by
  obtain ⟨_, _, e⟩ := c.note_spec n kind
  rw [e]

@[simp] theorem mu_send (d : Dest) (t : Token) : (c.send d t).mu = c.mu := by cases d <;> rfl

/-! ## Slots (R96) -/

theorem advanceP_ready (b : Nat) : ((c.advanceP b).tile ((c.buf b).pSlot 0)).st = .ready :=
  congrArg Tile.st (c.tiles.getD_set_self ..)

theorem tile_setTile (k j : Nat) (t : Tile) : (c.setTile k t).tile j = if j = k then t else c.tile j :=
  Table.getD_set ..

/-- Lines that a drain has emptied (R76). -/
theorem line_drainLines (t : Tile) (l : Nat) : (c.drainLines t).line l =
    if t.base ≤ l ∧ l < t.base + t.lcount then { c.line l with full := false, clk := 0 } else c.line l := by
  have lines : (c.drainLines t).lines = c.lines.map fun (a, x) =>
      (a, if t.base ≤ a ∧ a < t.base + t.lcount then { x with full := false, clk := 0 } else x) := by
    refine List.map_congr_left fun p _ => ?_
    dsimp only
    split
    · rfl
    · rfl
  rw [line, line, Table.getD, Table.getD, lines, Table.get_mapKeyed c.lines fun a x =>
    if t.base ≤ a ∧ a < t.base + t.lcount then { x with full := false, clk := 0 } else x]
  cases c.lines.get l with
  | none =>
    show _ = if _ then (⟨false, 0, false⟩ : LeafLine) else ⟨false, 0, false⟩
    rw [ite_self]
    rfl
  | some x => rfl

/-- A line of the lines read. -/
theorem take_drop_read {n i : Nat} (base : Nat) (hi : i < n) :
    ((c.read (128 * base) (128 * n)).drop (128 * i)).take 128 = c.read (128 * (base + i)) 128 := by
  rw [read, read, Memory.take_drop_readN _ _ (by omega), Nat.mul_add]

/-! ## Lines written one after another (R227) -/

/-- Bytes written line by line lie in the store as they stand, and only the store and its lines change. -/
theorem foldl_write_lines (bs : List Byte) (base pts n : Nat) (h : 128 * n ≤ bs.length) : ∃ leaf lines,
    (List.range n).foldl (fun c i => c.write (128 * (base + i)) ((bs.drop (128 * i)).take 128) pts) c =
      { c with leaf := leaf, lines := lines } ∧
    ∀ p, leaf.read p = if 128 * base ≤ p ∧ p < 128 * (base + n) then bs.getD (p - 128 * base) 0 else c.leaf.read p := by
  induction n with
  | zero => exact ⟨_, _, rfl, fun p => (if_neg (by omega)).symm⟩
  | succ n ih =>
    obtain ⟨leaf, lines, e, read⟩ := ih (by omega)
    have step : (List.range (n + 1)).foldl (fun c i => c.write (128 * (base + i)) ((bs.drop (128 * i)).take 128) pts) c =
        ({ c with leaf := leaf, lines := lines } : Cluster).write (128 * (base + n)) ((bs.drop (128 * n)).take 128) pts := by
      rw [List.range_succ, List.foldl_append, e]
      rfl
    refine ⟨_, _, step, fun p => ?_⟩
    have size : ((bs.drop (128 * n)).take 128).length = 128 := by
      rw [List.length_take, List.length_drop]
      omega
    rw [Memory.read_writeN, size, read p]
    by_cases last : 128 * (base + n) ≤ p ∧ p < 128 * (base + n) + 128
    · rw [if_pos last, if_pos (by omega), List.getD_eq_getElem?_getD, List.getD_eq_getElem?_getD,
        List.getElem?_take_of_lt (by omega), List.getElem?_drop]
      congr 2
      omega
    · rw [if_neg last]
      exact if_congr (by omega) rfl rfl

end Cluster

namespace State

variable {s : State} {cl b : Nat} {m : MuBuf} {t : Token}

/-- Scratch writes of an agent posted one after another (R60). -/
theorem foldl_postScratch (s : State) (agent pa : Nat) {n : Nat} {data line : Nat → List Byte} (h : ∀ i, i < n → data i = line i) :
    (List.range n).foldl (fun s i => s.postScratch agent (pa + 128 * i) (data i)) s =
      { s with posted := s.posted ++ (List.range n).map fun i => ⟨agent, pa + 128 * i, line i⟩ } := by
  induction n with
  | zero => simp
  | succ n ih =>
    rw [List.range_succ, List.foldl_append, ih fun i hi => h i (Nat.lt_succ_of_lt hi), List.map_append, ← List.append_assoc]
    simp only [List.foldl_cons, List.foldl_nil, postScratch, List.map_cons, List.map_nil, h n (Nat.lt_succ_self n)]

/-- The cluster runs a program of its own or works for a launch that is set up, and its memory unit is not blocked. -/
def MuRuns (s : State) (cl : Nat) : Prop :=
  (s.cluster cl).mu.blocked = false ∧ s.mayAct cl = true ∧ ((s.cluster cl).done = true ∨ (s.cluster cl).launch = none)

theorem MuRuns.free (h : s.MuRuns cl) :
    ((s.cluster cl).mu.blocked || !s.mayAct cl || !((s.cluster cl).done || (s.cluster cl).launch.isNone)) = false := by
  obtain ⟨blocked, act, on⟩ := h
  rcases on with on | on <;> simp [blocked, act, on]

/-! ## The source (R211, R219) -/

/-- A token that waits goes to its destination. -/
theorem exec_muSourceRecord_sends (source : (s.cluster cl).sourceBuf = some (b, m)) (runs : s.MuRuns cl) {r : List Token}
    (waits : (s.cluster cl).mu.outq = t :: r) (room : (s.cluster cl).room ((s.cluster cl).codeDest 14 m.muout m.muoq) 1 = true) :
    exec (.muSourceRecord cl) s = .next ((s.setCluster cl
      (({ s.cluster cl with mu := { (s.cluster cl).mu with outq := r } } : Cluster).send
        ((s.cluster cl).codeDest 14 m.muout m.muoq) t)).noteSource cl 36 t.kind) := by
  rw [exec, execMuSourceRecord]
  simp only [source, runs.free, waits, room, if_true, Bool.false_eq_true, if_false]

/-- The cluster once the source has made the READY slot at CIDX its record (R96, R219). -/
def slotRead (s : State) (cl b : Nat) : Cluster :=
  let c := s.cluster cl
  let r := waveTokens (s.waveLen cl) c.mu.sinceMark (c.slotTokens (c.tile ((c.buf b).cSlot 0)) c.mu.seq)
  { c.beginDrain b with
    mu := { c.mu with
      outq := r.1, reading := true, seq := (c.mu.seq + 1) % 2 ^ 16, slots := c.mu.slots + 1, sinceMark := r.2 } }

theorem exec_muSourceRecord_reads (source : (s.cluster cl).sourceBuf = some (b, m)) (runs : s.MuRuns cl)
    (idle : (s.cluster cl).mu.outq = []) (room : (s.cluster cl).room ((s.cluster cl).codeDest 14 m.muout m.muoq) 1 = true)
    (awake : s.wavePause cl 36 = false) (going : (s.cluster cl).mu.ended = false) (uncut : (s.cluster cl).mu.cuts = [])
    (left : m.nrec = 0 ∨ (s.cluster cl).mu.slots < m.nrec) (slots : ((s.cluster cl).buf b).slots ≠ 0)
    (st : ((s.cluster cl).tile (((s.cluster cl).buf b).cSlot 0)).st = .ready)
    (good : ((s.cluster cl).tile (((s.cluster cl).buf b).cSlot 0)).badLayout = false) :
    exec (.muSourceRecord cl) s = .next (s.setCluster cl (s.slotRead cl b)) := by
  have more : ¬ (decide (m.nrec ≠ 0) && decide (m.nrec ≤ (s.cluster cl).mu.slots)) = true := by
    rcases left with h | h
    · simp [h]
    · simp only [Bool.and_eq_true, decide_eq_true_eq]
      omega
  have next : (s.cluster cl).sourceNext (s.waveLen cl) b m = s.slotRead cl b := by
    rw [Cluster.sourceNext]
    simp only [uncut]
    rw [if_neg (by simp [going]), Cluster.sourceNext.read, if_neg more, if_pos (by simp [st, slots])]
    rfl
  rw [exec, execMuSourceRecord]
  simp only [source, runs.free, idle, room, awake, next, good, Bool.and_false, Bool.not_true, Bool.false_eq_true, if_false]

/-! ## The sink (R212, R219) -/

/-- The cluster once the sink has written a data token into the slot at PIDX (R96, R212). -/
def tokenWritten (s : State) (cl b : Nat) (t : Token) : Cluster :=
  let c := ((s.cluster cl).popQ 24).writeToken b (s.cluster cl).mu.wtok (s.startClock cl) t
  { c with mu := { c.mu with wtok := if t.isLast then 0 else (s.cluster cl).mu.wtok + 1 } }

section
variable (sink : (s.cluster cl).sinkBuf = some (b, m)) (head : (s.cluster cl).head? 24 = some t) (runs : s.MuRuns cl)
  (stall : (s.cluster cl).mu.stall = false) (skip : (s.cluster cl).mu.skip = false)
include sink head runs stall skip

theorem exec_muSinkRecord_eq : exec (.muSinkRecord cl) s =
    if t.isSwitch || t.isReserved then .next (s.blockMu cl)
    else if t.kind = 5 || t.isBoundary then .next (s.setCluster cl ((s.cluster cl).popQ 24))
    else if t.isEnd then
      if (s.cluster cl).mu.wtok ≠ 0 then .next (s.sinkStall cl)
      else .next (s.setCluster cl { (s.cluster cl).popQ 24 with
        mu := { (s.cluster cl).mu with eos := (s.cluster cl).mu.eos || t.kind = 2 } })
    else if ((s.cluster cl).tile (((s.cluster cl).buf b).pSlot 0)).st ≠ .empty then .next s
    else if 128 * ((s.cluster cl).tile (((s.cluster cl).buf b).pSlot 0)).lcount < 64 * ((s.cluster cl).mu.wtok + 1) then
      .next (s.sinkStall cl)
    else .next (s.setCluster cl (s.tokenWritten cl b t)) := by
  have free : ((s.cluster cl).mu.blocked || (s.cluster cl).mu.stall || !s.mayAct cl ||
      !((s.cluster cl).done || (s.cluster cl).launch.isNone)) = false := by
    rw [stall, Bool.or_false]
    exact runs.free
  rw [exec, execMuSinkRecord]
  simp only [sink, head]
  rw [if_neg (Bool.eq_false_iff.1 free), if_neg (Bool.eq_false_iff.1 skip)]
  rfl

/-- MARK and EOS between records, CLOSE and RESCALE are consumed. -/
theorem exec_muSinkRecord_consumes (h : t.kind = 5 ∨ t.isBoundary = true ∨ (t.isEnd = true ∧ (s.cluster cl).mu.wtok = 0)) :
    exec (.muSinkRecord cl) s = .next (s.setCluster cl { (s.cluster cl).popQ 24 with
      mu := { (s.cluster cl).mu with eos := (s.cluster cl).mu.eos || t.kind = 2 } }) := by
  simp only [Token.isBoundary, Token.isEnd, Bool.or_eq_true, decide_eq_true_eq] at h
  rw [exec_muSinkRecord_eq sink head runs stall skip, if_neg (by simp [Token.isSwitch, Token.isReserved]; omega)]
  by_cases between : t.kind = 5 ∨ t.kind = 6 ∨ t.kind = 7
  · have data : (decide (t.kind = 2)) = false := decide_eq_false (by omega)
    have same := (s.cluster cl).mu_popQ 24
    rw [if_pos (by simpa [Token.isBoundary] using between), data, Bool.or_false, ← same]
  · obtain ⟨isEnd, whole⟩ : (t.kind = 2 ∨ t.kind = 3) ∧ (s.cluster cl).mu.wtok = 0 := by omega
    rw [if_neg (by simpa [Token.isBoundary] using between), if_pos (by simpa [Token.isEnd] using isEnd), if_neg (not_not.2 whole)]

/-- A data token goes to its place in the slot at PIDX. -/
theorem exec_muSinkRecord_writes (valued : t.valued = true) (data : t.kind ≠ 5)
    (st : ((s.cluster cl).tile (((s.cluster cl).buf b).pSlot 0)).st = .empty)
    (fits : 64 * ((s.cluster cl).mu.wtok + 1) ≤ 128 * ((s.cluster cl).tile (((s.cluster cl).buf b).pSlot 0)).lcount) :
    exec (.muSinkRecord cl) s = .next (s.setCluster cl (s.tokenWritten cl b t)) := by
  simp only [Token.valued, Bool.or_eq_true, decide_eq_true_eq] at valued
  rw [exec_muSinkRecord_eq sink head runs stall skip, if_neg (by simp [Token.isSwitch, Token.isReserved]; omega),
    if_neg (by simp [Token.isBoundary]; omega), if_neg (by simp [Token.isEnd]; omega), if_neg (not_not.2 st), if_neg (by omega)]

end

theorem queue_tokenWritten (s : State) (cl b : Nat) (t : Token) : (s.tokenWritten cl b t).queue 24 = ((s.cluster cl).queue 24).tail := by
  rw [← Cluster.queue_popQ]
  simp only [tokenWritten, Cluster.writeToken]
  split
  · rfl
  · rfl

/-- The token's 64 bytes lie at their place, and every other byte is as before. -/
theorem leaf_tokenWritten (s : State) (cl b : Nat) (t : Token) (n : Nat) : (s.tokenWritten cl b t).leaf.read n =
    let off := 128 * ((s.cluster cl).tile (((s.cluster cl).buf b).pSlot 0)).base + 64 * (s.cluster cl).mu.wtok
    if off ≤ n ∧ n < off + 64 then BitVec.ofNat 8 (t.lanes.toNat / 256 ^ (n - off)) else (s.cluster cl).leaf.read n := by
  have leaf : (s.tokenWritten cl b t).leaf = (s.cluster cl).leaf.writeN
      (128 * ((s.cluster cl).tile (((s.cluster cl).buf b).pSlot 0)).base + 64 * (s.cluster cl).mu.wtok)
      (leBytes 64 t.lanes.toNat) := by
    rw [← (s.cluster cl).leaf_popQ 24, ← (s.cluster cl).buf_popQ 24, ← (s.cluster cl).tile_popQ 24]
    simp only [tokenWritten, Cluster.writeToken]
    split
    · rfl
    · rfl
  rw [leaf, Memory.read_writeN, length_leBytes]
  dsimp only
  split
  · exact getD_leBytes _ (by omega)
  · rfl

/-- The slot is READY once the record's last token is there (R96). -/
theorem tile_tokenWritten (st : ((s.cluster cl).tile (((s.cluster cl).buf b).pSlot 0)).st = .empty) :
    ((s.tokenWritten cl b t).tile (((s.cluster cl).buf b).pSlot 0)).st = if t.kind = 1 then .ready else .empty := by
  rw [← (s.cluster cl).buf_popQ 24, ← (s.cluster cl).tile_popQ 24] at st
  rw [← (s.cluster cl).buf_popQ 24]
  simp only [tokenWritten, Cluster.writeToken, Token.isLast, decide_eq_true_eq]
  by_cases last : t.kind = 1
  · simp only [if_pos last]
    exact Cluster.advanceP_ready ..
  · simp only [if_neg last]
    exact st

/-! ## SW.VERT (R227) -/

/-- The scratch address of the tile that SW.VERT moves next (R227). -/
def vertAddr (s : State) (cl : Nat) (v : SwVert) : Nat :=
  s.towerId (clTower cl) * 2 ^ 42 + 0x10000000000 + v.coff + (s.cluster cl).mu.vert * v.tstride

/-- The cluster once SW.VERT has brought a tile down into the slot at PIDX (R227). -/
def broughtDown (s : State) (cl : Nat) (v : SwVert) : Cluster :=
  let c := s.cluster cl
  let t := c.tile ((c.buf v.bufn).pSlot 0)
  let bs := s.scratch.readN (s.vertAddr cl v) (128 * t.lcount)
  let c := (List.range t.lcount).foldl (fun c i => c.write (128 * (t.base + i)) ((bs.drop (128 * i)).take 128) (s.startClock cl)) c
  { (c.setSwz t.base t.lcount t.swz).advanceP v.bufn with mu := { (s.cluster cl).mu with vert := (s.cluster cl).mu.vert + 1 } }

/-- The state once SW.VERT has posted the tile of the slot at CIDX line by line (R60, R227). -/
def sentUp (s : State) (cl : Nat) (v : SwVert) : State :=
  let c := s.cluster cl
  let t := c.tile ((c.buf v.bufn).cSlot 0)
  State.onCluster { s with posted := s.posted ++ (List.range t.lcount).map fun i =>
      ⟨vertAgent cl, s.vertAddr cl v + 128 * i, c.read (128 * (t.base + i)) 128⟩ } cl fun c =>
    { c.beginDrain v.bufn with mu := { (s.cluster cl).mu with vert := (s.cluster cl).mu.vert + 1 } }

/-- SW.VERT has a tile to move, and nothing holds it. -/
def VertRuns (s : State) (cl : Nat) (v : SwVert) : Prop :=
  (s.cluster cl).swVert = some v ∧ (decide (v.tcount ≤ (s.cluster cl).mu.vert) || (s.cluster cl).mu.vstall ||
    decide (((s.cluster cl).buf v.bufn).slots = 0) || (s.cluster cl).rblocked || !s.mayAct cl ||
      !((s.cluster cl).done || (s.cluster cl).launch.isNone)) = false

theorem exec_swVertTile_down {v : SwVert} (runs : s.VertRuns cl v) (down : v.down = true)
    (st : ((s.cluster cl).tile (((s.cluster cl).buf v.bufn).pSlot 0)).st = .empty)
    (backed : ∀ i, i < ((s.cluster cl).tile (((s.cluster cl).buf v.bufn).pSlot 0)).lcount →
      s.scratchBacked (s.vertAddr cl v + 128 * i) = true) :
    exec (.swVertTile cl) s = .next (s.setCluster cl (s.broughtDown cl v)) := by
  obtain ⟨entry, free⟩ := runs
  have all := List.all_eq_true.2 fun i hi => backed i (List.mem_range.1 hi)
  rw [vertAddr] at all
  rw [exec, execSwVertTile]
  simp only [entry, down, if_true]
  rw [if_neg (Bool.eq_false_iff.1 free), if_neg (not_not.2 st), all]
  rfl

theorem exec_swVertTile_up {v : SwVert} (runs : s.VertRuns cl v) (up : v.down = false)
    (st : ((s.cluster cl).tile (((s.cluster cl).buf v.bufn).cSlot 0)).st = .ready)
    (backed : ∀ i, i < ((s.cluster cl).tile (((s.cluster cl).buf v.bufn).cSlot 0)).lcount →
      s.scratchBacked (s.vertAddr cl v + 128 * i) = true) :
    exec (.swVertTile cl) s = .next (s.sentUp cl v) := by
  obtain ⟨entry, free⟩ := runs
  have all := List.all_eq_true.2 fun i hi => backed i (List.mem_range.1 hi)
  rw [vertAddr] at all
  rw [exec, execSwVertTile]
  simp only [entry, up, Bool.false_eq_true, if_false]
  rw [if_neg (Bool.eq_false_iff.1 free), if_neg (not_not.2 st), all,
    foldl_postScratch s (vertAgent cl) _ fun i hi => (s.cluster cl).take_drop_read _ hi]
  rfl

theorem broughtDown_spec (s : State) (cl : Nat) (v : SwVert) : let t := (s.cluster cl).tile (((s.cluster cl).buf v.bufn).pSlot 0)
    ((s.broughtDown cl v).tile (((s.cluster cl).buf v.bufn).pSlot 0)).st = .ready ∧
    ∀ n, (s.broughtDown cl v).leaf.read n = if 128 * t.base ≤ n ∧ n < 128 * (t.base + t.lcount) then
      s.scratch.read (s.vertAddr cl v + (n - 128 * t.base)) else (s.cluster cl).leaf.read n := by
  intro t
  obtain ⟨leaf, lines, e, read⟩ := (s.cluster cl).foldl_write_lines (s.scratch.readN (s.vertAddr cl v) (128 * t.lcount)) t.base
    (s.startClock cl) t.lcount (by rw [Memory.length_readN])
  rw [broughtDown]
  dsimp only
  rw [e]
  refine ⟨Cluster.advanceP_ready _ v.bufn, fun n => (read n).trans ?_⟩
  split
  · exact Memory.getD_readN _ _ _ _ (by omega)
  · rfl

end State

/-! ## The ends of fills and drains (R79, R96) -/

/-- The cluster once the FILLING slot k of buffer b is READY (R79). -/
def Cluster.filled (c : Cluster) (b k : Nat) : Cluster :=
  ((c.setTile k { c.tile k with st := .ready, tclk := c.tileClock (c.tile k) }).setBuf b { c.buf b with moved := true }).countReady b 1

theorem Cluster.filled_spec (c : Cluster) (b k : Nat) :
    (∀ j, (c.filled b k).tile j = if j = k then { c.tile k with st := .ready, tclk := c.tileClock (c.tile k) } else c.tile j) ∧
    (c.filled b k).leaf = c.leaf ∧ (c.filled b k).lines = c.lines := by
  unfold filled countReady
  split
  · exact ⟨fun j => c.tile_setTile k j _, rfl, rfl⟩
  · exact ⟨fun j => c.tile_setTile k j _, rfl, rfl⟩

theorem State.exec_slotFillComplete_eq {s : State} {cl b k : Nat} {r : List Nat} (h : (s.cluster cl).fillingSlots b = k :: r) :
    exec (.slotFillComplete cl b) s = .next (s.setCluster cl ((s.cluster cl).filled b k)) := by
  rw [exec, execSlotFillComplete]
  simp only [h]
  rfl

/-- The slot at CIDX turns EMPTY, whether or not the source was reading it (R96). -/
theorem State.exec_slotDrainComplete_eq {s : State} {cl b : Nat} (slots : ((s.cluster cl).buf b).slots ≠ 0)
    (st : ((s.cluster cl).tile (((s.cluster cl).buf b).cSlot 0)).st = .draining) :
    ∃ mu, exec (.slotDrainComplete cl b) s = .next (s.setCluster cl { (s.cluster cl).advanceC b with mu := mu }) := by
  rw [exec, execSlotDrainComplete]
  dsimp only
  rw [if_pos (by simp [slots, st])]
  split
  · exact ⟨_, rfl⟩
  · exact ⟨_, rfl⟩

end Sys2Proof.Machine

/-- Settles O43: each move's next state, and what its cluster shows. -/
theorem memoryUnitMoves : Obligations.MemoryUnitMoves := by
  unfold Obligations.MemoryUnitMoves
  intro s cl c runs cSlot pSlot
  refine ⟨fun b m source on => ⟨?_, ?_⟩, ?_, ?_, ?_, ?_⟩
  · intro t r waits data room
    refine ⟨_, State.exec_muSourceRecord_sends source on waits room, ?_, fun q => ?_⟩
    · rw [State.noteSource_of_ne _ _ _ data, State.cluster_onCluster, State.cluster_setCluster, Cluster.mu_note, Cluster.mu_send]
    · rw [State.noteSource_of_ne _ _ _ data, State.cluster_onCluster, State.cluster_setCluster, Cluster.queue_note,
        Cluster.queue_send]
      rfl
  · intro idle room awake going uncut left slots st good
    obtain ⟨drains, leaf⟩ := c.beginDrain_spec b
    refine ⟨_, if s.waveLen cl ≠ 0 ∧ c.mu.sinceMark + 1 = s.waveLen cl then [⟨3, 0, 0, 0⟩] else [],
      State.exec_muSourceRecord_reads source on idle room awake going uncut left slots st good, ?_, ?_, ?_, ?_, ?_, ?_⟩
    · rw [State.cluster_setCluster, State.slotRead, State.waveTokens_eq]
      rfl
    · split
      · exact .inr rfl
      · exact .inl rfl
    · rw [State.cluster_setCluster]
      rfl
    · rw [State.cluster_setCluster]
      rfl
    · rw [State.cluster_setCluster]
      exact drains
    · rw [State.cluster_setCluster]
      exact leaf
  · intro b m t sink head on stall skip x off
    refine ⟨fun valued data st fits => ?_, fun h => ?_⟩
    · refine ⟨_, State.exec_muSinkRecord_writes sink head on stall skip valued data st fits, ?_, fun n => ?_, ?_, ?_⟩
      all_goals rw [State.cluster_setCluster]
      · exact s.queue_tokenWritten cl b t
      · exact s.leaf_tokenWritten cl b t n
      · exact State.tile_tokenWritten st
      · exact if_congr (by simp [Token.isLast]) rfl rfl
    · refine ⟨_, State.exec_muSinkRecord_consumes sink head on stall skip h, ?_, ?_, ?_⟩
      all_goals rw [State.cluster_setCluster]
      · exact c.queue_popQ 24
      · exact c.leaf_popQ 24
  · intro v entry left stall unblocked act on slots pa
    have moves : s.VertRuns cl v := by
      refine ⟨entry, ?_⟩
      have later : decide (v.tcount ≤ (s.cluster cl).mu.vert) = false := decide_eq_false (Nat.not_le.2 left)
      have occupied : decide (((s.cluster cl).buf v.bufn).slots = 0) = false := decide_eq_false slots
      have mine : ((s.cluster cl).done || (s.cluster cl).launch.isNone) = true := by
        rcases on with on | on
        · rw [on, Bool.true_or]
        · rw [on, Option.isNone_none, Bool.or_true]
      rw [later, stall, occupied, unblocked, act, mine]
      rfl
    refine ⟨?_, ?_⟩
    · intro down t st backed
      obtain ⟨ready, read⟩ := s.broughtDown_spec cl v
      refine ⟨_, State.exec_swVertTile_down moves down st backed, ?_, ?_, rfl, fun n => ?_⟩
      all_goals rw [State.cluster_setCluster]
      · rfl
      · exact ready
      · exact read n
    · intro up t st backed
      obtain ⟨drains, leaf⟩ := c.beginDrain_spec v.bufn
      refine ⟨_, State.exec_swVertTile_up moves up st backed, ?_, ?_, ?_, rfl⟩
      all_goals rw [State.sentUp, State.cluster_onCluster]
      · exact congrArg Tile.st drains
      · exact leaf
  · intro b k r filling
    obtain ⟨tile, leaf, lines⟩ := c.filled_spec b k
    refine ⟨_, State.exec_slotFillComplete_eq filling, ?_, fun j hj => ?_, ?_, ?_⟩
    all_goals rw [State.cluster_setCluster]
    · exact (tile k).trans (if_pos rfl)
    · exact (tile j).trans (if_neg hj)
    · exact leaf
    · exact lines
  · intro b slots st t
    obtain ⟨mu, e⟩ := State.exec_slotDrainComplete_eq slots st
    refine ⟨_, e, ?_, ?_, fun l lo hi => ?_, ?_⟩
    all_goals rw [State.cluster_setCluster]
    · exact Table.getD_set_self ..
    · rfl
    · have line : (c.drainLines t).line l = _ := (c.line_drainLines t l).trans (if_pos ⟨lo, hi⟩)
      exact ⟨congrArg LeafLine.full line, congrArg LeafLine.clk line⟩
    · exact congrArg Buf.cidx (Table.getD_set_self ..)

end
